-- ==== Sys2Proof/Word.lean ====
section
/-! DEFINITION. The words of the TX288 (00.5, R7): 64-bit general registers, 512-bit vector registers,
bytes, and the numbers that name registers. -/

namespace Sys2Proof

/-- A general register, control register or memory-mapped register (R7). -/
abbrev Word := BitVec 64

/-- A vector register, and also the data of one 64-byte line (R7, R157). -/
abbrev Vec := BitVec 512

/-- One byte of memory (R8). -/
abbrev Byte := BitVec 8

/-- Bytes in ascending address order (R8). -/
abbrev Bytes := List Byte

/-- The five bits that name a general or vector register (R38). -/
abbrev Reg := BitVec 5

end Sys2Proof
end

