-- ==== Sys2Proof/Syntax.lean ====
section
/-! DEFINITION. The commands of the block: one constructor of `Instr` per row of spec/opcode_table.json, with the
row's operands. A thread is named by its number (R6). What the device only measures (a temperature, an ECC
outcome, what a partner or device sends) is an operand of the command that reports it. -/

namespace Sys2Proof

/-- Privilege levels, U < S < H < M (R152). -/
inductive Level where
  | u | s | h | m
deriving DecidableEq, Repr

/-- A Gallery message as R359 lays it out; the command names its OP. `exp` is the expected value of a CAS, which FAR carries beside its
operand (log 46). -/
structure GMsg where
  lane : Nat
  spos : Nat
  dpos : Nat
  tag : Nat
  line : BitVec 42
  poison : Bool
  state : Nat
  arg : BitVec 17
  data : Vec
  exp : Vec
deriving DecidableEq, Repr

/-- A Passage packet as R367 lays it out; the command names its TYPE. `exp` is the expected value of a CAS, which ATOMIC carries beside its
operand (log 47). -/
structure PPkt where
  dnode : BitVec 16
  snode : BitVec 16
  aop : BitVec 4
  ret : Bool
  poison : Bool
  len : Nat
  tag : Nat
  err : Nat
  addr : Word
  data : Vec
  exp : Vec
deriving DecidableEq, Repr

/-- Who presents a message to the interrupt router (R375). -/
inductive Origin where
  | device (port : Nat) (rid : BitVec 16)
  | churn (inst : Nat)
  | doorbell
deriving DecidableEq, Repr

/-- A DIMM as its SPD describes it (R312, R314): whether the SPD can be read and its CRC is right, whether the module is an 80-bit DDR5 RDIMM; the
device width, the density in Gb, the ranks, the capacity in GiB, the highest rate; and the temperature its sensor gives, if there is one (R315). -/
structure Dimm where
  readable : Bool
  crcOk : Bool
  rdimm : Bool
  width : Nat
  density : Nat
  ranks : Nat
  capacity : Nat
  rate : Nat
  temp : Option Nat
deriving DecidableEq, Repr

/-- Who answers as a link trains (R346, R348): `kind` is 0 absent, 1 there, 2 of another protocol, 4 equalisation failed, 6 too few lanes; a
Gallery partner sends its node, its position and the number of its link. -/
structure Partner where
  kind : Nat
  node : Nat
  pos : Nat
  link : Nat
deriving DecidableEq, Repr

/-- What training meets on one DDR channel at a cold reset (R314, R315): the DIMMs in slots 0 and 1, the rates at which training passes, tRP +
tRCD + CL in ps, the read and write eye margins of each rank in ps, whether the DRAM supports DRFM (R331), and whether the retraining
of step 6 passes. -/
structure TrainResult where
  slot0 : Option Dimm
  slot1 : Option Dimm
  passes : List Nat
  missPs : Nat
  eyes : List (Nat × Nat)
  drfm : Bool
  retrainOk : Bool
deriving DecidableEq, Repr

/-- What interface training meets on one Pool stack (R315): whether it passes, the read access time in ns, the temperature, and whether the
stack takes a refresh that names a row (R331). -/
structure StackResult where
  passed : Bool
  tra : Nat
  temp : Nat
  drfm : Bool
deriving DecidableEq, Repr

/-- The errors that a line read from a medium comes with (R322, R323, R326). On DDR `syms` are the wrong symbols, by codeword and symbol, and
`mis` the values of the summary under which the line decodes although it should not: the value, how many symbols that corrects,
and the one device they lie in (31 when in several). On Pool `syms` are wrong bits, by codeword 0 or 1 and bit; (2, 0) and (2, 1) are the stack's
own reports of a corrected and of an uncorrected error. -/
structure ReadErr where
  syms : List (Nat × Nat)
  mis : List (Nat × Nat × Nat)
deriving DecidableEq, Repr

/-- What the device finds outside itself while it boots (R448): the checks of the clocks, fuses and rails, the
training results, and what the boot configuration says (its payload's layout is not given by the spec): mirrored granules, hard PPR, the
board's limit of the DDR rate (R314). `wprot` lists the DIMMs (channel, DIMM) whose repair log cannot be written or read; `testOk`, `pprOk`,
`pprFree` and `pprStuck` the repair-log entries (channel, entry) whose row passes the re-test of R337, passes after hard PPR, has a free
hard-PPR resource, and whose STATE does not read back as written (R336); `cut` the entry during whose repair or re-test power is lost (R337). -/
structure Boot where
  xtalOk : Bool
  refEdges : Nat
  fusesOk : Bool
  railsOk : Bool
  channels : List TrainResult
  pools : List StackResult
  ddrLimit : Nat
  mirror : Nat
  hardPpr : Bool
  wprot : List (Nat × Nat)
  testOk : List (Nat × Nat)
  pprOk : List (Nat × Nat)
  pprFree : List (Nat × Nat)
  pprStuck : List (Nat × Nat)
  cut : Option (Nat × Nat)
  node : BitVec 16
  group : List (BitVec 16)
  cfgAddr : Word
deriving DecidableEq, Repr

/-- A Basette request frame (R461). The flag `session` says that it came as application data of an SPDM secure
session on the Basette path (R463). -/
structure Frame where
  ver : Nat
  cmd : Nat
  len : Nat
  seq : BitVec 16
  flags : BitVec 8
  payload : Bytes
  counter : Word
  tag : BitVec 128
  crc : BitVec 32
  session : Bool
deriving DecidableEq, Repr

/-- A 32-byte record of an error bank (R479). -/
structure Record where
  w0 : Word
  w1 : Word
  w2 : Word
  w3 : Word
deriving DecidableEq, Repr


/-- The commands: one constructor per row of spec/opcode_table.json, in the table's order.
Each docstring gives the row's rule and what the row does. -/
inductive Instr where
  /-- ADD (R40): Writes g[ra] + g[rb] to g[rd], wrapping modulo 2^64. -/
  | add (t : Nat) (rd ra rb : Reg)
  /-- SUB (R40): Writes g[ra] - g[rb] to g[rd]. -/
  | sub (t : Nat) (rd ra rb : Reg)
  /-- AND (R40): Writes the bitwise and of g[ra] and g[rb] to g[rd]. -/
  | and (t : Nat) (rd ra rb : Reg)
  /-- OR (R40): Writes the bitwise or of g[ra] and g[rb] to g[rd]. -/
  | or (t : Nat) (rd ra rb : Reg)
  /-- XOR (R40): Writes the bitwise xor of g[ra] and g[rb] to g[rd]. -/
  | xor (t : Nat) (rd ra rb : Reg)
  /-- ANDN (R40): Writes g[ra] and not g[rb] to g[rd]. -/
  | andn (t : Nat) (rd ra rb : Reg)
  /-- ORN (R40): Writes g[ra] or not g[rb] to g[rd]. -/
  | orn (t : Nat) (rd ra rb : Reg)
  /-- SHL (R40): Shifts g[ra] left by g[rb][5:0]. -/
  | shl (t : Nat) (rd ra rb : Reg)
  /-- SHR (R40): Shifts g[ra] logically right by g[rb][5:0]. -/
  | shr (t : Nat) (rd ra rb : Reg)
  /-- SRA (R40): Shifts g[ra] arithmetically right by g[rb][5:0]. -/
  | sra (t : Nat) (rd ra rb : Reg)
  /-- ROL (R40): Rotates g[ra] left by g[rb][5:0]. -/
  | rol (t : Nat) (rd ra rb : Reg)
  /-- ROR (R40): Rotates g[ra] right by g[rb][5:0]. -/
  | ror (t : Nat) (rd ra rb : Reg)
  /-- SLT (R40): Writes 1 if g[ra] < g[rb] as signed values, else 0. -/
  | slt (t : Nat) (rd ra rb : Reg)
  /-- SLTU (R40): Writes 1 if g[ra] < g[rb] as unsigned values, else 0. -/
  | sltu (t : Nat) (rd ra rb : Reg)
  /-- MIN (R40): Writes the signed minimum of g[ra] and g[rb]. -/
  | min (t : Nat) (rd ra rb : Reg)
  /-- MAX (R40): Writes the signed maximum of g[ra] and g[rb]. -/
  | max (t : Nat) (rd ra rb : Reg)
  /-- MINU (R40): Writes the unsigned minimum of g[ra] and g[rb]. -/
  | minu (t : Nat) (rd ra rb : Reg)
  /-- MAXU (R40): Writes the unsigned maximum of g[ra] and g[rb]. -/
  | maxu (t : Nat) (rd ra rb : Reg)
  /-- CLZ (R40): Writes the count of leading zero bits of g[ra], 64 for zero. -/
  | clz (t : Nat) (rd ra : Reg)
  /-- CTZ (R40): Writes the count of trailing zero bits of g[ra], 64 for zero. -/
  | ctz (t : Nat) (rd ra : Reg)
  /-- POPC (R40): Writes the count of one bits of g[ra]. -/
  | popc (t : Nat) (rd ra : Reg)
  /-- REV8 (R40): Writes the bytes of g[ra] in reverse order. -/
  | rev8 (t : Nat) (rd ra : Reg)
  /-- SEXT_B (R40): Writes g[ra][7:0] sign-extended. -/
  | sextB (t : Nat) (rd ra : Reg)
  /-- SEXT_H (R40): Writes g[ra][15:0] sign-extended. -/
  | sextH (t : Nat) (rd ra : Reg)
  /-- SEXT_W (R40): Writes g[ra][31:0] sign-extended. -/
  | sextW (t : Nat) (rd ra : Reg)
  /-- ZEXT_B (R40): Writes g[ra][7:0] zero-extended. -/
  | zextB (t : Nat) (rd ra : Reg)
  /-- ZEXT_H (R40): Writes g[ra][15:0] zero-extended. -/
  | zextH (t : Nat) (rd ra : Reg)
  /-- ZEXT_W (R40): Writes g[ra][31:0] zero-extended. -/
  | zextW (t : Nat) (rd ra : Reg)
  /-- ADDW (R37): Adds on 32 bits and writes the result sign-extended. -/
  | addw (t : Nat) (rd ra rb : Reg)
  /-- SUBW (R37): Subtracts on 32 bits and writes the result sign-extended. -/
  | subw (t : Nat) (rd ra rb : Reg)
  /-- SHLW (R40): Shifts g[ra][31:0] left by g[rb][4:0], with the result sign-extended. -/
  | shlw (t : Nat) (rd ra rb : Reg)
  /-- SHRW (R40): Shifts g[ra][31:0] logically right by g[rb][4:0], with the result sign-extended. -/
  | shrw (t : Nat) (rd ra rb : Reg)
  /-- SRAW (R40): Shifts g[ra][31:0] arithmetically right by g[rb][4:0], with the result sign-extended. -/
  | sraw (t : Nat) (rd ra rb : Reg)
  /-- ROLW (R40): Rotates g[ra][31:0] left by g[rb][4:0], with the result sign-extended. -/
  | rolw (t : Nat) (rd ra rb : Reg)
  /-- RORW (R40): Rotates g[ra][31:0] right by g[rb][4:0], with the result sign-extended. -/
  | rorw (t : Nat) (rd ra rb : Reg)
  /-- MUL (R40): Writes the low 64 bits of g[ra] × g[rb]. -/
  | mul (t : Nat) (rd ra rb : Reg)
  /-- MULH (R40): Writes the high 64 bits of the signed 128-bit product. -/
  | mulh (t : Nat) (rd ra rb : Reg)
  /-- MULHU (R40): Writes the high 64 bits of the unsigned product. -/
  | mulhu (t : Nat) (rd ra rb : Reg)
  /-- MULHSU (R40): Writes the high 64 bits of signed g[ra] × unsigned g[rb]. -/
  | mulhsu (t : Nat) (rd ra rb : Reg)
  /-- MULW (R40): Writes the low 32 bits of the product, sign-extended. -/
  | mulw (t : Nat) (rd ra rb : Reg)
  /-- DIV (R42): Issues a signed 64-bit division as a long operation on the divider. -/
  | div (t : Nat) (rd ra rb : Reg)
  /-- DIVU (R42): Issues an unsigned 64-bit division as a long operation. -/
  | divu (t : Nat) (rd ra rb : Reg)
  /-- REM (R42): Issues a signed 64-bit remainder as a long operation. -/
  | rem (t : Nat) (rd ra rb : Reg)
  /-- REMU (R42): Issues an unsigned 64-bit remainder as a long operation. -/
  | remu (t : Nat) (rd ra rb : Reg)
  /-- DIVW (R42): Issues a signed 32-bit division, with the result sign-extended. -/
  | divw (t : Nat) (rd ra rb : Reg)
  /-- DIVUW (R42): Issues an unsigned 32-bit division, with the result sign-extended. -/
  | divuw (t : Nat) (rd ra rb : Reg)
  /-- REMW (R42): Issues a signed 32-bit remainder, with the result sign-extended. -/
  | remw (t : Nat) (rd ra rb : Reg)
  /-- REMUW (R42): Issues an unsigned 32-bit remainder, with the result sign-extended. -/
  | remuw (t : Nat) (rd ra rb : Reg)
  /-- ADDI (R41): Writes g[ra] plus the sign-extended imm16. -/
  | addi (t : Nat) (rd ra : Reg) (imm : BitVec 16)
  /-- ADDIW (R41): Performs ADDW with the sign-extended immediate. -/
  | addiw (t : Nat) (rd ra : Reg) (imm : BitVec 16)
  /-- ANDI (R41): Writes g[ra] and the zero-extended imm16. -/
  | andi (t : Nat) (rd ra : Reg) (imm : BitVec 16)
  /-- ORI (R41): Writes g[ra] or the zero-extended imm16. -/
  | ori (t : Nat) (rd ra : Reg) (imm : BitVec 16)
  /-- XORI (R41): Writes g[ra] xor the zero-extended imm16. -/
  | xori (t : Nat) (rd ra : Reg) (imm : BitVec 16)
  /-- SLTI (R41): Writes 1 if g[ra] is less than the sign-extended immediate as signed values, else 0. -/
  | slti (t : Nat) (rd ra : Reg) (imm : BitVec 16)
  /-- SLTIU (R41): Writes 1 if g[ra] is less than the sign-extended immediate as unsigned values, else 0. -/
  | sltiu (t : Nat) (rd ra : Reg) (imm : BitVec 16)
  /-- SHLI (R41): Shifts g[ra] left by the immediate amount. -/
  | shli (t : Nat) (rd ra : Reg) (sh : BitVec 6)
  /-- SHRI (R41): Shifts g[ra] logically right by the immediate amount. -/
  | shri (t : Nat) (rd ra : Reg) (sh : BitVec 6)
  /-- SRAI (R41): Shifts g[ra] arithmetically right by the immediate amount. -/
  | srai (t : Nat) (rd ra : Reg) (sh : BitVec 6)
  /-- RORI (R41): Rotates g[ra] right by the immediate amount. -/
  | rori (t : Nat) (rd ra : Reg) (sh : BitVec 6)
  /-- SHLIW (R41): Shifts g[ra][31:0] left by the immediate amount, with the result sign-extended. -/
  | shliw (t : Nat) (rd ra : Reg) (sh : BitVec 5)
  /-- SHRIW (R41): Shifts g[ra][31:0] logically right by the immediate amount, with the result sign-extended. -/
  | shriw (t : Nat) (rd ra : Reg) (sh : BitVec 5)
  /-- SRAIW (R41): Shifts g[ra][31:0] arithmetically right by the immediate amount, with the result sign-extended. -/
  | sraiw (t : Nat) (rd ra : Reg) (sh : BitVec 5)
  /-- RORIW (R41): Rotates g[ra][31:0] right by the immediate amount, with the result sign-extended. -/
  | roriw (t : Nat) (rd ra : Reg) (sh : BitVec 5)
  /-- LUI (R41): Writes sext64(imm21) shifted left by 16. -/
  | lui (t : Nat) (rd : Reg) (imm : BitVec 21)
  /-- AUIPC (R41): Writes pc plus sext64(imm21) shifted left by 16. -/
  | auipc (t : Nat) (rd : Reg) (imm : BitVec 21)
  /-- LB (R43): Loads one byte, sign-extended. -/
  | lb (t : Nat) (rd ra : Reg) (imm : BitVec 16)
  /-- LH (R43): Loads two bytes, sign-extended. -/
  | lh (t : Nat) (rd ra : Reg) (imm : BitVec 16)
  /-- LW (R43): Loads four bytes, sign-extended. -/
  | lw (t : Nat) (rd ra : Reg) (imm : BitVec 16)
  /-- LD (R43): Loads eight bytes, with translation, decode, fault checks and store-buffer lookup. -/
  | ld (t : Nat) (rd ra : Reg) (imm : BitVec 16)
  /-- LBU (R43): Loads one byte, zero-extended. -/
  | lbu (t : Nat) (rd ra : Reg) (imm : BitVec 16)
  /-- LHU (R43): Loads two bytes, zero-extended. -/
  | lhu (t : Nat) (rd ra : Reg) (imm : BitVec 16)
  /-- LWU (R43): Loads four bytes, zero-extended. -/
  | lwu (t : Nat) (rd ra : Reg) (imm : BitVec 16)
  /-- SB (R43): Stores g[rs][7:0] into a store-buffer entry. -/
  | sb (t : Nat) (rs ra : Reg) (imm : BitVec 16)
  /-- SH (R43): Stores g[rs][15:0] into a store-buffer entry. -/
  | sh (t : Nat) (rs ra : Reg) (imm : BitVec 16)
  /-- SW (R43): Stores g[rs][31:0] into a store-buffer entry. -/
  | sw (t : Nat) (rs ra : Reg) (imm : BitVec 16)
  /-- SD (R43): Stores g[rs] into a store-buffer entry, merging or allocating at M1. -/
  | sd (t : Nat) (rs ra : Reg) (imm : BitVec 16)
  /-- LD_AQ (R44): Loads with acquire order, zero-extended. -/
  | ldAq (t : Nat) (rd ra : Reg) (size : BitVec 2)
  /-- ST_RL (R44): Stores the low bytes of g[rb] as a release entry. -/
  | stRl (t : Nat) (ra rb : Reg) (size : BitVec 2)
  /-- AMO (R51): Performs an indivisible local read-modify-write selected by op and returns the old value. -/
  | amo (t : Nat) (rd ra rb : Reg) (op : BitVec 4) (size ord : BitVec 2)
  /-- CAS (R51): Performs a local compare-and-swap and returns the old value. -/
  | cas (t : Nat) (rd ra rb : Reg) (size ord : BitVec 2)
  /-- AMO_FAR (R53): Sends one far atomic to the Churn engine of the home slice as a long operation. -/
  | amoFar (t : Nat) (rd ra rb : Reg) (op : BitVec 4) (size ord : BitVec 2) (ret : Bool)
  /-- BEQ (R48): Branches if a = b; it resolves at X2 and updates the predictor. -/
  | beq (t : Nat) (ra rb : Reg) (h : Bool) (disp : BitVec 15)
  /-- BNE (R48): Branches if a ≠ b. -/
  | bne (t : Nat) (ra rb : Reg) (h : Bool) (disp : BitVec 15)
  /-- BLT (R48): Branches if a < b as signed values. -/
  | blt (t : Nat) (ra rb : Reg) (h : Bool) (disp : BitVec 15)
  /-- BGE (R48): Branches if a ≥ b as signed values. -/
  | bge (t : Nat) (ra rb : Reg) (h : Bool) (disp : BitVec 15)
  /-- BLTU (R48): Branches if a < b as unsigned values. -/
  | bltu (t : Nat) (ra rb : Reg) (h : Bool) (disp : BitVec 15)
  /-- BGEU (R48): Branches if a ≥ b as unsigned values. -/
  | bgeu (t : Nat) (ra rb : Reg) (h : Bool) (disp : BitVec 15)
  /-- JAL (R50): Links pc + 4 and jumps pc-relative, pushing the return stack when rd ≠ g0. -/
  | jal (t : Nat) (rd : Reg) (disp : BitVec 21)
  /-- JALR (R50): Jumps to g[ra] + imm14 and links, with a return-stack action chosen by kind. -/
  | jalr (t : Nat) (rd ra : Reg) (kind : BitVec 2) (imm : BitVec 14)
  /-- LOOP_SET (R56): Sets up the hardware loop, or skips the body when the count is 0. -/
  | loopSet (t : Nat) (ra : Reg) (soff : BitVec 5) (eoff : BitVec 11)
  /-- LOOP_CLR (R56): Clears LOOP_COUNT. -/
  | loopClr (t : Nat)
  /-- FENCE (R62): Orders earlier accesses of the pred kinds before later accesses of the succ kinds. -/
  | fence (t : Nat) (pred succ : BitVec 4)
  /-- FENCE_I (R65): Waits for the thread's stores to be performed and then refetches. -/
  | fenceI (t : Nat)
  /-- VADD (R74): Element-wise add under mask. -/
  | vadd (t : Nat) (vd va vb : Reg) (mk : BitVec 3) (ew : BitVec 2) (sc : Bool)
  /-- VSUB (R74): Element-wise subtract. -/
  | vsub (t : Nat) (vd va vb : Reg) (mk : BitVec 3) (ew : BitVec 2) (sc : Bool)
  /-- VAND (R74): Element-wise and. -/
  | vand (t : Nat) (vd va vb : Reg) (mk : BitVec 3) (ew : BitVec 2) (sc : Bool)
  /-- VOR (R74): Element-wise or. -/
  | vor (t : Nat) (vd va vb : Reg) (mk : BitVec 3) (ew : BitVec 2) (sc : Bool)
  /-- VXOR (R74): Element-wise xor. -/
  | vxor (t : Nat) (vd va vb : Reg) (mk : BitVec 3) (ew : BitVec 2) (sc : Bool)
  /-- VSHL (R74): Element-wise shift left. -/
  | vshl (t : Nat) (vd va vb : Reg) (mk : BitVec 3) (ew : BitVec 2) (sc : Bool)
  /-- VSHR (R74): Element-wise logical shift right. -/
  | vshr (t : Nat) (vd va vb : Reg) (mk : BitVec 3) (ew : BitVec 2) (sc : Bool)
  /-- VSRA (R74): Element-wise arithmetic shift right. -/
  | vsra (t : Nat) (vd va vb : Reg) (mk : BitVec 3) (ew : BitVec 2) (sc : Bool)
  /-- VMIN (R74): Element-wise signed minimum. -/
  | vmin (t : Nat) (vd va vb : Reg) (mk : BitVec 3) (ew : BitVec 2) (sc : Bool)
  /-- VMAX (R74): Element-wise signed maximum. -/
  | vmax (t : Nat) (vd va vb : Reg) (mk : BitVec 3) (ew : BitVec 2) (sc : Bool)
  /-- VMINU (R74): Element-wise unsigned minimum. -/
  | vminu (t : Nat) (vd va vb : Reg) (mk : BitVec 3) (ew : BitVec 2) (sc : Bool)
  /-- VMAXU (R74): Element-wise unsigned maximum. -/
  | vmaxu (t : Nat) (vd va vb : Reg) (mk : BitVec 3) (ew : BitVec 2) (sc : Bool)
  /-- VMUL (R74): Element-wise low product. -/
  | vmul (t : Nat) (vd va vb : Reg) (mk : BitVec 3) (ew : BitVec 2) (sc : Bool)
  /-- VMULH (R74): Element-wise high signed product. -/
  | vmulh (t : Nat) (vd va vb : Reg) (mk : BitVec 3) (ew : BitVec 2) (sc : Bool)
  /-- VMULHU (R74): Element-wise high unsigned product. -/
  | vmulhu (t : Nat) (vd va vb : Reg) (mk : BitVec 3) (ew : BitVec 2) (sc : Bool)
  /-- VSADD (R74): Element-wise signed saturating add. -/
  | vsadd (t : Nat) (vd va vb : Reg) (mk : BitVec 3) (ew : BitVec 2) (sc : Bool)
  /-- VSSUB (R74): Element-wise signed saturating subtract. -/
  | vssub (t : Nat) (vd va vb : Reg) (mk : BitVec 3) (ew : BitVec 2) (sc : Bool)
  /-- VUSADD (R74): Element-wise unsigned saturating add. -/
  | vusadd (t : Nat) (vd va vb : Reg) (mk : BitVec 3) (ew : BitVec 2) (sc : Bool)
  /-- VUSSUB (R74): Element-wise unsigned saturating subtract. -/
  | vussub (t : Nat) (vd va vb : Reg) (mk : BitVec 3) (ew : BitVec 2) (sc : Bool)
  /-- VFADD (R75): Element-wise floating add, rounded once. -/
  | vfadd (t : Nat) (vd va vb : Reg) (mk : BitVec 3) (ew : BitVec 2) (sc : Bool)
  /-- VFSUB (R75): Element-wise floating subtract. -/
  | vfsub (t : Nat) (vd va vb : Reg) (mk : BitVec 3) (ew : BitVec 2) (sc : Bool)
  /-- VFMUL (R75): Element-wise floating multiply. -/
  | vfmul (t : Nat) (vd va vb : Reg) (mk : BitVec 3) (ew : BitVec 2) (sc : Bool)
  /-- VFDIV (R75): Element-wise floating divide on the divide-and-root unit. -/
  | vfdiv (t : Nat) (vd va vb : Reg) (mk : BitVec 3) (ew : BitVec 2) (sc : Bool)
  /-- VFSQRT (R75): Element-wise floating square root. -/
  | vfsqrt (t : Nat) (vd va : Reg) (mk : BitVec 3) (ew : BitVec 2)
  /-- VFMIN (R75): Element-wise minimumNumber. -/
  | vfmin (t : Nat) (vd va vb : Reg) (mk : BitVec 3) (ew : BitVec 2) (sc : Bool)
  /-- VFMAX (R75): Element-wise maximumNumber. -/
  | vfmax (t : Nat) (vd va vb : Reg) (mk : BitVec 3) (ew : BitVec 2) (sc : Bool)
  /-- VFABS (R75): Clears the sign bit of each element. -/
  | vfabs (t : Nat) (vd va : Reg) (mk : BitVec 3) (ew : BitVec 2)
  /-- VFNEG (R75): Inverts the sign bit of each element. -/
  | vfneg (t : Nat) (vd va : Reg) (mk : BitVec 3) (ew : BitVec 2)
  /-- VFSGNJ (R75): Gives each element of a the sign bit of b. -/
  | vfsgnj (t : Nat) (vd va vb : Reg) (mk : BitVec 3) (ew : BitVec 2) (sc : Bool)
  /-- VFMADD (R76): Fused (a × b) + d. -/
  | vfmadd (t : Nat) (vd va vb : Reg) (mk : BitVec 3) (ew : BitVec 2)
  /-- VFMSUB (R76): Fused (a × b) − d. -/
  | vfmsub (t : Nat) (vd va vb : Reg) (mk : BitVec 3) (ew : BitVec 2)
  /-- VFNMADD (R76): Fused −(a × b) − d. -/
  | vfnmadd (t : Nat) (vd va vb : Reg) (mk : BitVec 3) (ew : BitVec 2)
  /-- VFNMSUB (R76): Fused −(a × b) + d. -/
  | vfnmsub (t : Nat) (vd va vb : Reg) (mk : BitVec 3) (ew : BitVec 2)
  /-- VREDADD (R77): Integer sum reduction into element 0. -/
  | vredadd (t : Nat) (vd va : Reg) (mk : BitVec 3) (ew : BitVec 2)
  /-- VREDMIN (R77): Signed minimum reduction. -/
  | vredmin (t : Nat) (vd va : Reg) (mk : BitVec 3) (ew : BitVec 2)
  /-- VREDMAX (R77): Signed maximum reduction. -/
  | vredmax (t : Nat) (vd va : Reg) (mk : BitVec 3) (ew : BitVec 2)
  /-- VREDMINU (R77): Unsigned minimum reduction. -/
  | vredminu (t : Nat) (vd va : Reg) (mk : BitVec 3) (ew : BitVec 2)
  /-- VREDMAXU (R77): Unsigned maximum reduction. -/
  | vredmaxu (t : Nat) (vd va : Reg) (mk : BitVec 3) (ew : BitVec 2)
  /-- VREDAND (R77): Bitwise and reduction. -/
  | vredand (t : Nat) (vd va : Reg) (mk : BitVec 3) (ew : BitVec 2)
  /-- VREDOR (R77): Bitwise or reduction. -/
  | vredor (t : Nat) (vd va : Reg) (mk : BitVec 3) (ew : BitVec 2)
  /-- VREDXOR (R77): Bitwise xor reduction. -/
  | vredxor (t : Nat) (vd va : Reg) (mk : BitVec 3) (ew : BitVec 2)
  /-- VFREDADD (R77): Floating sum reduction in ascending element order. -/
  | vfredadd (t : Nat) (vd va : Reg) (mk : BitVec 3) (ew : BitVec 2)
  /-- VFREDADDT (R77): Floating sum reduction in tree order. -/
  | vfredaddt (t : Nat) (vd va : Reg) (mk : BitVec 3) (ew : BitVec 2)
  /-- VFREDMIN (R77): minimumNumber reduction. -/
  | vfredmin (t : Nat) (vd va : Reg) (mk : BitVec 3) (ew : BitVec 2)
  /-- VFREDMAX (R77): maximumNumber reduction. -/
  | vfredmax (t : Nat) (vd va : Reg) (mk : BitVec 3) (ew : BitVec 2)
  /-- VPERM (R78): Permutes a by the indices in b. -/
  | vperm (t : Nat) (vd va vb : Reg) (mk : BitVec 3) (ew : BitVec 2)
  /-- VSLIDEDN (R78): Slides elements down by k. -/
  | vslidedn (t : Nat) (vd va rb : Reg) (mk : BitVec 3) (ew : BitVec 2)
  /-- VSLIDEUP (R78): Slides elements up by k. -/
  | vslideup (t : Nat) (vd va rb : Reg) (mk : BitVec 3) (ew : BitVec 2)
  /-- VCOMPRESS (R78): Packs the active elements to the low end. -/
  | vcompress (t : Nat) (vd va : Reg) (mk : BitVec 3) (ew : BitVec 2)
  /-- VEXPAND (R78): Spreads the low elements onto the active positions. -/
  | vexpand (t : Nat) (vd va : Reg) (mk : BitVec 3) (ew : BitVec 2)
  /-- VZIPLO (R78): Interleaves the low halves of a and b. -/
  | vziplo (t : Nat) (vd va vb : Reg) (mk : BitVec 3) (ew : BitVec 2)
  /-- VZIPHI (R78): Interleaves the high halves of a and b. -/
  | vziphi (t : Nat) (vd va vb : Reg) (mk : BitVec 3) (ew : BitVec 2)
  /-- VCVT_F_I (R79): Converts signed integers to floating point. -/
  | vcvtFI (t : Nat) (vd va : Reg) (mk : BitVec 3) (ew : BitVec 2)
  /-- VCVT_F_U (R79): Converts unsigned integers to floating point. -/
  | vcvtFU (t : Nat) (vd va : Reg) (mk : BitVec 3) (ew : BitVec 2)
  /-- VCVT_I_F (R79): Converts floating point to signed integers. -/
  | vcvtIF (t : Nat) (vd va : Reg) (mk : BitVec 3) (ew : BitVec 2)
  /-- VCVT_U_F (R79): Converts floating point to unsigned integers. -/
  | vcvtUF (t : Nat) (vd va : Reg) (mk : BitVec 3) (ew : BitVec 2)
  /-- VCVT_F_FW (R79): Widens the low floating-point elements exactly. -/
  | vcvtFFw (t : Nat) (vd va : Reg) (mk : BitVec 3) (ew : BitVec 2)
  /-- VCVT_F_FN (R79): Narrows floating-point elements into the low 256 bits. -/
  | vcvtFFn (t : Nat) (vd va : Reg) (mk : BitVec 3) (ew : BitVec 2)
  /-- VSEXT_W (R79): Sign-extends the low elements to twice their width. -/
  | vsextW (t : Nat) (vd va : Reg) (mk : BitVec 3) (ew : BitVec 2)
  /-- VZEXT_W (R79): Zero-extends the low elements to twice their width. -/
  | vzextW (t : Nat) (vd va : Reg) (mk : BitVec 3) (ew : BitVec 2)
  /-- VNARROW (R79): Truncates each element to half its width and packs the results. -/
  | vnarrow (t : Nat) (vd va : Reg) (mk : BitVec 3) (ew : BitVec 2)
  /-- VMV_VG (R79): Broadcasts g[ra] into the active elements. -/
  | vmvVg (t : Nat) (vd ra : Reg) (mk : BitVec 3) (ew : BitVec 2)
  /-- VMV_GV (R79): Moves one vector element to g[rd]. -/
  | vmvGv (t : Nat) (rd va rb : Reg) (ew : BitVec 2)
  /-- VINS (R79): Inserts g[ra] into one element. -/
  | vins (t : Nat) (vd ra rb : Reg) (ew : BitVec 2)
  /-- VCMPEQ (R80): Integer equality compare into a mask. -/
  | vcmpeq (t : Nat) (md va vb : Reg) (mk : BitVec 3) (ew : BitVec 2)
  /-- VCMPNE (R80): Integer inequality compare into a mask. -/
  | vcmpne (t : Nat) (md va vb : Reg) (mk : BitVec 3) (ew : BitVec 2)
  /-- VCMPLT (R80): Signed less-than compare into a mask. -/
  | vcmplt (t : Nat) (md va vb : Reg) (mk : BitVec 3) (ew : BitVec 2)
  /-- VCMPLE (R80): Signed less-or-equal compare into a mask. -/
  | vcmple (t : Nat) (md va vb : Reg) (mk : BitVec 3) (ew : BitVec 2)
  /-- VCMPLTU (R80): Unsigned less-than compare into a mask. -/
  | vcmpltu (t : Nat) (md va vb : Reg) (mk : BitVec 3) (ew : BitVec 2)
  /-- VCMPLEU (R80): Unsigned less-or-equal compare into a mask. -/
  | vcmpleu (t : Nat) (md va vb : Reg) (mk : BitVec 3) (ew : BitVec 2)
  /-- VFCMPEQ (R80): Quiet floating equality compare. -/
  | vfcmpeq (t : Nat) (md va vb : Reg) (mk : BitVec 3) (ew : BitVec 2)
  /-- VFCMPLT (R80): Signalling floating less-than compare. -/
  | vfcmplt (t : Nat) (md va vb : Reg) (mk : BitVec 3) (ew : BitVec 2)
  /-- VFCMPLE (R80): Signalling floating less-or-equal compare. -/
  | vfcmple (t : Nat) (md va vb : Reg) (mk : BitVec 3) (ew : BitVec 2)
  /-- VFCMPUN (R80): Floating unordered test. -/
  | vfcmpun (t : Nat) (md va vb : Reg) (mk : BitVec 3) (ew : BitVec 2)
  /-- MAND (R80): Mask and. -/
  | mand (t : Nat) (md ma mb : Reg) (ew : BitVec 2)
  /-- MOR (R80): Mask or. -/
  | mor (t : Nat) (md ma mb : Reg) (ew : BitVec 2)
  /-- MXOR (R80): Mask xor. -/
  | mxor (t : Nat) (md ma mb : Reg) (ew : BitVec 2)
  /-- MANDN (R80): Mask and-not. -/
  | mandn (t : Nat) (md ma mb : Reg) (ew : BitVec 2)
  /-- MPOPC (R80): Counts the ones of a mask into g[vd]. -/
  | mpopc (t : Nat) (rd ma : Reg) (ew : BitVec 2)
  /-- MFIRST (R80): Writes the index of the lowest set mask bit to g[vd]. -/
  | mfirst (t : Nat) (rd ma : Reg) (ew : BitVec 2)
  /-- MMV_GM (R80): Moves a mask to a general register. -/
  | mmvGm (t : Nat) (rd ma : Reg) (ew : BitVec 2)
  /-- MMV_MG (R80): Moves a general register to a mask. -/
  | mmvMg (t : Nat) (md ra : Reg) (ew : BitVec 2)
  /-- VLD (R81): Loads a whole vector from consecutive addresses. -/
  | vld (t : Nat) (vd ra : Reg) (mk : BitVec 3) (ew : BitVec 2)
  /-- VST (R81): Stores a whole vector to consecutive addresses. -/
  | vst (t : Nat) (vd ra : Reg) (mk : BitVec 3) (ew : BitVec 2)
  /-- VLDS (R81): Loads a vector with a byte stride. -/
  | vlds (t : Nat) (vd ra rb : Reg) (mk : BitVec 3) (ew : BitVec 2)
  /-- VSTS (R81): Stores a vector with a byte stride. -/
  | vsts (t : Nat) (vd ra rb : Reg) (mk : BitVec 3) (ew : BitVec 2)
  /-- VLDB (R81): Broadcast-loads one element into every active element. -/
  | vldb (t : Nat) (vd ra : Reg) (mk : BitVec 3) (ew : BitVec 2)
  /-- VGATHER (R82): Gathers elements from indexed addresses after checking them all. -/
  | vgather (t : Nat) (vd ra vi : Reg) (mk : BitVec 3) (ew sc : BitVec 2)
  /-- VSCATTER (R82): Scatters elements to indexed addresses in ascending order. -/
  | vscatter (t : Nat) (vd ra vi : Reg) (mk : BitVec 3) (ew sc : BitVec 2)
  /-- CRR (R92): Reads a control register into g[rd]. -/
  | crr (t : Nat) (rd : Reg) (cr : BitVec 12)
  /-- CRW (R92): Swaps a control register with g[ra]. -/
  | crw (t : Nat) (rd ra : Reg) (cr : BitVec 12)
  /-- CRS (R92): Sets bits of a control register. -/
  | crs (t : Nat) (rd ra : Reg) (cr : BitVec 12)
  /-- CRC (R92): Clears bits of a control register. -/
  | crc (t : Nat) (rd ra : Reg) (cr : BitVec 12)
  /-- SCALL (R156): Completes and raises a call exception to S. -/
  | scall (t : Nat)
  /-- HCALL (R156): Completes and raises a call exception to H. -/
  | hcall (t : Nat)
  /-- MCALL (R402): Completes and raises a call exception to M, entering the secure world. -/
  | mcall (t : Nat)
  /-- RETX (R162): Reads and checks the frame, then returns in one indivisible step. -/
  | retx (t : Nat)
  /-- SYNC_CTX (R93): Waits for earlier instructions and control writes, then refetches. -/
  | syncCtx (t : Nat)
  /-- WAIT (R101): Stops issue until an interrupt is pending, or traps to H under WTRAP. -/
  | wait (t : Nat)
  /-- WAIT_RESUME (R101): A waiting thread resumes, or takes the interrupt, when one becomes pending. -/
  | waitResume (t : Nat)
  /-- LTOL (R92): Sets the thread's tolerated wake latency. -/
  | ltol (t : Nat) (ra : Reg)
  /-- GEODE_ENTER (R405): Checks and enters, or resumes, a geode slot. -/
  | geodeEnter (t : Nat) (ra : Reg)
  /-- GEODE_EXIT (R409): Frees the slot and returns to EXITPC at ELVL. -/
  | geodeExit (t : Nat)
  /-- QRESV (R94): Reads a reservation descriptor and sends it to the admission controller. -/
  | qresv (t : Nat) (rd ra : Reg)
  /-- QREL (R309): Releases a reservation handle. -/
  | qrel (t : Nat) (rd ra : Reg)
  /-- QQUERY (R309): Queries the state of a reservation handle. -/
  | qquery (t : Nat) (rd ra : Reg)
  /-- CHURN_POST (R96): Reads a descriptor and submits it to a Churn instance queue. -/
  | churnPost (t : Nat) (rd ra rb : Reg)
  /-- INST_QUIESCE (R97): Asks to drain or abandon an instance's descriptors. -/
  | instQuiesce (t : Nat) (rd ra rb : Reg)
  /-- INST_RESET (R97): Asks to reset an instance. -/
  | instReset (t : Nat) (rd ra rb : Reg)
  /-- INST_CREATE (R97): Asks to create an instance. -/
  | instCreate (t : Nat) (rd ra rb : Reg)
  /-- INST_BIND (R389): Reads a binding descriptor and asks to bind an instance. -/
  | instBind (t : Nat) (rd ra rb : Reg)
  /-- INST_REMOVE (R97): Asks to remove an instance. -/
  | instRemove (t : Nat) (rd ra rb : Reg)
  /-- CMO_CLEAN (R98): Places a clean operation by address or by set and way in the store buffer. -/
  | cmoClean (t : Nat) (ra : Reg) (setWay : Bool) (target : BitVec 2)
  /-- CMO_INVALIDATE (R216): Places an invalidate, performed as clean-and-invalidate in the cases R216 names. -/
  | cmoInvalidate (t : Nat) (ra : Reg) (setWay : Bool) (target : BitVec 2)
  /-- CMO_CLEAN_INVALIDATE (R98): Places a clean-and-invalidate by address or by set and way. -/
  | cmoCleanInvalidate (t : Nat) (ra : Reg) (setWay : Bool) (target : BitVec 2)
  /-- TLBI_VMID_STAGE1 (R196): TLBI fn 0: removes every stage-1 entry of the current world and VMID. -/
  | tlbiVmidStage1 (t : Nat) (ra rb : Reg)
  /-- TLBI_VA_ASID (R196): TLBI fn 1: removes stage-1 entries for one VA and ASID. -/
  | tlbiVaAsid (t : Nat) (ra rb : Reg)
  /-- TLBI_ASID (R196): TLBI fn 2: removes stage-1 entries of one ASID. -/
  | tlbiAsid (t : Nat) (ra rb : Reg)
  /-- TLBI_VA (R196): TLBI fn 3: removes stage-1 entries for one VA, any ASID. -/
  | tlbiVa (t : Nat) (ra rb : Reg)
  /-- TLBI_IA_VMID (R196): TLBI fn 4: removes stage-2 entries for one IA of one VMID. -/
  | tlbiIaVmid (t : Nat) (ra rb : Reg)
  /-- TLBI_VMID (R196): TLBI fn 5: removes every entry of one VMID. -/
  | tlbiVmid (t : Nat) (ra rb : Reg)
  /-- TLBI_ALL (R196): TLBI fn 6: removes every entry of the normal world, or of both worlds at M. -/
  | tlbiAll (t : Nat) (ra rb : Reg)
  /-- TLBI_COMPLETE (R196): A TLBI completes once removal, in-flight walks and earlier accesses are done. -/
  | tlbiComplete (t : Nat)
  /-- SOLO_HOLD_RELEASE (R109): A solo instruction held at RD issues once its waiting condition holds. -/
  | soloHoldRelease (t : Nat)
  /-- FETCH_BLOCK (R104): F1 selects an eligible thread and fetches a 32-byte block, forming guesses at DE. -/
  | fetchBlock (core : Nat)
  /-- PREDICTOR_CLEAR_END (R148): The 96-cycle predictor clear ends and DE passes blocks again. -/
  | predictorClearEnd (core : Nat)
  /-- MICRO_TLB_REFILL (R116): After a micro-TLB miss, a TLB hit refills the entry and the thread replays. -/
  | microTlbRefill (t : Nat) (fetch : Bool)
  /-- WALK_READ_RETURN (R181): A table read returns, is checked, and the walk continues, faults or fills the TLB. -/
  | walkReadReturn (core w : Nat) (bad : Bool)
  /-- LONG_OPERATION_WRITEBACK (R115): A long operation or pending load writes its result over a write-back port. -/
  | longOperationWriteback (t id : Nat)
  /-- PARKED_LOAD_REENTRY (R123): A parked load re-enters M1 three cycles after the last covering entry drains. -/
  | parkedLoadReentry (t : Nat)
  /-- STORE_BUFFER_DRAIN (R121): A thread's oldest eligible entry drains into L1D or toward L2. -/
  | storeBufferDrain (t err : Nat)
  /-- VECTOR_STORE_ENTRY_ALLOCATE (R509): A vector store allocates a further store-buffer entry beside the pipe as an entry frees. -/
  | vectorStoreEntryAllocate (t : Nat)
  /-- EXCEPTION_ENTRY (R158): Takes an exception or interrupt: frame push, handler read and state change at the target level. -/
  | exceptionEntry (t : Nat)
  /-- RESCUE_USED (R167): A W1C write to USED consumes the rescue frame. -/
  | rescueUsed (t : Nat) (lvl : Level) (value : Word)
  /-- ASYNC_STORE_ERROR_RECORD (R171): An error found after an access passed X2 makes a record in the thread's queue. -/
  | asyncStoreErrorRecord (t kind err : Nat) (pa : Word) (secure : Bool)
  /-- CACHECTL_M (R208): A write enables or disables caches, checked field by field. -/
  | cachectlM (t : Nat) (value : Word)
  /-- CACHE_DISABLE_CLEAN_COMPLETE (R209): The hardware clean of a disabled cache ends and the new enable values take effect. -/
  | cacheDisableCleanComplete (chamber : Nat)
  /-- L1D_FILL (R218): A fill reaches an L1D miss register and completes the merged requests. -/
  | l1dFill (core reg : Nat)
  /-- L1I_FILL (R211): A fill reaches an L1I fill register and fetch resumes. -/
  | l1iFill (core reg : Nat)
  /-- L2_FILL (R229): A response fills an L2 miss register, allocating unless marked DNA. -/
  | l2Fill (chamber reg : Nat)
  /-- L1D_SNOOP (R201): L2 snoops another L1D holding the line in M or E. -/
  | l1dSnoop (core : Nat) (line : Word) (unique : Bool)
  /-- L1D_WRITEBACK (R202): An L1D writeback is accepted by L2. -/
  | l1dWriteback (core : Nat)
  /-- CMO_COMPLETE (R215): A CMO becomes performed and leaves the store buffer. -/
  | cmoComplete (t : Nat)
  /-- READ_SHARED (R229): The home slice handles a read shared: lookup, snoops and data. -/
  | readShared (slice : Nat)
  /-- READ_UNIQUE (R229): The home slice handles a read unique, invalidating other holders. -/
  | readUnique (slice : Nat)
  /-- UPGRADE (R229): The home slice invalidates other holders of an S line. -/
  | upgrade (slice : Nat)
  /-- WRITEBACK (R225): A dirty writeback reaches the slice and is allocated. -/
  | writeback (slice : Nat)
  /-- CLEAN_EVICTION (R225): A clean eviction notice updates the snoop filter. -/
  | cleanEviction (slice : Nat)
  /-- CMO_REQUEST (R215): A target-2 CMO reaches the home slice and acts across the domain. -/
  | cmoRequest (slice : Nat)
  /-- LINE_ORDER_RELEASE (R230): A request waiting behind an earlier one for its line proceeds. -/
  | lineOrderRelease (slice : Nat)
  /-- SNOOP (R229): A slice snoop reaches a holder, which downgrades or invalidates. -/
  | snoop (slice holder : Nat)
  /-- BACK_INVALIDATION (R228): A back-invalidation reaches a holder and removes its copies. -/
  | backInvalidation (slice holder : Nat)
  /-- SNOOP_ANSWER (R236): A snoop answer returns to the slice. -/
  | snoopAnswer (slice holder : Nat)
  /-- WRITE_BACK_BUFFER_ISSUE (R234): A write-back buffer entry obtains a credit and issues its write. -/
  | writeBackBufferIssue (slice entry : Nat)
  /-- MEMORY_READ (R321): A memory controller schedules and performs a line read, with correction. -/
  | memoryRead (mc : Nat) (e second : ReadErr)
  /-- MEMORY_WRITE (R321): A memory controller accepts and performs a line write. -/
  | memoryWrite (mc : Nat)
  /-- MEMORY_FILL (R238): A fill from a controller reaches the slice's fill buffer. -/
  | memoryFill (slice : Nat)
  /-- CREDIT_RETURN (R237): A destination frees an entry and returns its credit. -/
  | creditReturn (cls sender dest : Nat)
  /-- FLIT_HOP (R288): An output link arbitrates and one flit moves a hop. -/
  | flitHop (node dir : Nat)
  /-- MESSAGE_AGED (R289): A message's age reaches 512 and it becomes aged. -/
  | messageAged (id : Nat)
  /-- STARVATION_THROTTLE_END (R290): The throttle ends 48 cycles after the mark drops. -/
  | starvationThrottleEnd (vc : Nat)
  /-- CREAM_FRAME_START (R293): A resource starts a new frame and the Cream limiter count restarts. -/
  | creamFrameStart (resource : Nat)
  /-- SKIM_PROMOTION (R294): A Skim request that has waited 4,096 slots is served as Whole. -/
  | skimPromotion (resource index : Nat)
  /-- CHURN_POST_ACCEPT (R248): The queue slice checks a post, queues it and answers PSTAT and SEQ. -/
  | churnPostAccept (slice : Nat)
  /-- DESCRIPTOR_START (R250): A free bulk context takes and checks a queued descriptor. -/
  | descriptorStart (engine : Nat)
  /-- UNIT_START (R271): A context translates a unit and issues its reads within the 16-unit window. -/
  | unitStart (engine ctx : Nat)
  /-- UNIT_READ_RETURN (R271): A unit's read data returns and is folded or made ready to write. -/
  | unitReadReturn (engine ctx err : Nat)
  /-- UNIT_WRITE (R263): A unit write reaches the home slice and is merged and written to memory. -/
  | unitWrite (engine ctx : Nat)
  /-- UNIT_WRITE_PERFORMED (R271): A unit write is accepted and DONE advances. -/
  | unitWritePerformed (engine ctx : Nat)
  /-- MOVE_SOURCE_FILL (R271): After DONE passes a unit, its MOVE source fill is issued. -/
  | moveSourceFill (engine ctx : Nat)
  /-- COMPLETION_RECORD (R273): A descriptor ends and its completion record is written. -/
  | completionRecord (engine ctx : Nat)
  /-- FAR_ATOMIC (R254): The home engine applies a far atomic or histogram increment. -/
  | farAtomic (slice err : Nat)
  /-- FAR_ATOMIC_RESPONSE (R255): The home engine's response or acknowledgement reaches the thread. -/
  | farAtomicResponse (t : Nat)
  /-- ATOMICOP (R253): A PCIe AtomicOp is performed by the home engine. -/
  | atomicop (port : Nat) (rid : BitVec 16) (pa : Word) (size op : Nat) (operand compare : Word)
  /-- INSTANCE_REQUEST (R391): The queue slice applies an INST transition and answers ISTAT. -/
  | instanceRequest (slice : Nat)
  /-- QUIESCE_COMPLETE (R391): An instance reaches QUIESCED and INST.QUIESCE answers its counts. -/
  | quiesceComplete (inst : Nat)
  /-- ADMISSION_REQUEST (R305): The admission controller serves QRESV, QREL or QQUERY in order. -/
  | admissionRequest
  /-- QREL_CHARGE_REMOVAL (R309): One frame after QREL, the charges are removed and the answer is written. -/
  | qrelChargeRemoval
  /-- ADM_CAP (R310): A write of ADM.CAP recomputes the caps and revokes reservations. -/
  | admCap (lvl : Level) (value : Word)
  /-- DIMM_TEMPERATURE_READ (R330): Every 32 ms each DIMM sensor is read and USABLE is halved or restored. -/
  | dimmTemperatureRead (ch temp0 : Nat) (ok0 : Bool) (temp1 : Nat) (ok1 two : Bool)
  /-- ACTIVATION_TRACKER_CLEAR (R331): Every 32 ms the row trackers are cleared. -/
  | activationTrackerClear (mc : Nat)
  /-- PAIRED_CONVERSION_STEP (R325): One column pair is converted to the paired layout and the pointer advances. -/
  | pairedConversionStep (mc rank : Nat) (errs : ReadErr × ReadErr)
  /-- PATROL_SCRUB_READ (R338): Patrol scrub reads a line and writes it back corrected or poisoned. -/
  | patrolScrubRead (mc : Nat) (syms : List (Nat × Nat)) (mis : List (Nat × Nat × Nat)) (second : ReadErr)
  /-- ROW_REPAIR_SWITCH (R333): The row copy ends and the remap switches to the spare. -/
  | rowRepairSwitch (mc : Nat)
  /-- SOFT_PPR (R334): Soft PPR repairs the original row, the data is copied back and the spare freed. -/
  | softPpr (mc : Nat) (free : Bool)
  /-- WRITE_CRC_ALERT (R328): A write-CRC or CA-parity alert retries the command, failing the channel after 8. -/
  | writeCrcAlert (mc : Nat) (failed : Bool)
  /-- LINK_TRAINING (R346): A link starts training after reset, link-down or a retrain request. -/
  | linkTraining (k j : Nat)
  /-- LINK_TRAINING_DONE (R346): Training ends with the link up, degraded or down, and the survey is recorded. -/
  | linkTrainingDone (k j : Nat) (partner : Partner) (rate width loss reach margin : Nat) (lanefail : BitVec 16) (proto : Nat)
  /-- LINK_DOWN (R348): A link goes down and its outstanding traffic is handled. -/
  | linkDown (k j reason : Nat)
  /-- FAILOVER_TIMEOUT (R364): After 20 µs without the exchange, unacknowledged messages are discarded as unrouted. -/
  | failoverTimeout (k : Nat)
  /-- FLIT_RECEIVE (R356): A flit is corrected, checked and accepted, or NAKed and replayed. -/
  | flitReceive (k j : Nat) (fseq ackseq : BitVec 12) (nak : Bool) (ftype : BitVec 3) (good : Bool)
  /-- LINK_STATE_MESSAGE (R358): A link-state message is received and forwarded once. -/
  | linkStateMessage (k pos : Nat) (mask : BitVec 6) (change : Nat)
  /-- ROUTE_RECOMPUTE (R358): GALLERY.ROUTE entries are recomputed by breadth-first search. -/
  | routeRecompute
  /-- GALLERY_FORWARD (R362): A message for another position is forwarded on the next hop lane or discarded. -/
  | galleryForward (k : Nat)
  /-- UNROUTED_RESEND (R362): 4,096 cycles after an unrouted ERR, the source resends once. -/
  | unroutedResend (tag : Nat)
  /-- RDS (R360): Gallery read shared from another node. -/
  | rds (k : Nat) (msg : GMsg)
  /-- RDU (R360): Gallery read unique from another node. -/
  | rdu (k : Nat) (msg : GMsg)
  /-- UPG (R360): Gallery upgrade from another node. -/
  | upg (k : Nat) (msg : GMsg)
  /-- OWN (R360): Gallery ownership without data for a full-line write. -/
  | own (k : Nat) (msg : GMsg)
  /-- FAR (R360): Gallery far atomic to the home engine. -/
  | far (k : Nat) (msg : GMsg)
  /-- SNPS (R360): Gallery snoop keeping S at a proxy slice. -/
  | snps (k : Nat) (msg : GMsg)
  /-- SNPI (R360): Gallery snoop invalidating at a proxy slice. -/
  | snpi (k : Nat) (msg : GMsg)
  /-- WB (R360): Gallery dirty writeback to the home, written to memory. -/
  | wb (k : Nat) (msg : GMsg)
  /-- EVC (R360): Gallery clean eviction notice. -/
  | evc (k : Nat) (msg : GMsg)
  /-- DATA (R360): Gallery fill with state. -/
  | data (k : Nat) (msg : GMsg)
  /-- ACK (R360): Gallery completion, or a no-copy snoop answer. -/
  | ack (k : Nat) (msg : GMsg)
  /-- SDATA (R360): Gallery snoop answer with dirty data. -/
  | sdata (k : Nat) (msg : GMsg)
  /-- WBIF (R360): Gallery snoop answer: writeback in flight. -/
  | wbif (k : Nat) (msg : GMsg)
  /-- FARR (R360): Gallery far-atomic result. -/
  | farr (k : Nat) (msg : GMsg)
  /-- ERR (R360): Gallery error response, possibly unrouted. -/
  | err (k : Nat) (msg : GMsg)
  /-- MDONE (R360): Gallery maintenance complete. -/
  | mdone (k : Nat) (msg : GMsg)
  /-- GALLERY_TLBI (R360): A Gallery TLBI maintenance message is performed at the destination node. -/
  | galleryTlbi (k : Nat) (msg : GMsg)
  /-- CMOP (R360): A Gallery CMO to the point of coherence is performed at the destination node. -/
  | cmop (k : Nat) (msg : GMsg)
  /-- PASSAGE_READ (R370): An arriving Passage READ is handled at the home slice. -/
  | passageRead (k : Nat) (pkt : PPkt)
  /-- PASSAGE_WRITE (R370): An arriving Passage WRITE is performed and acknowledged. -/
  | passageWrite (k : Nat) (pkt : PPkt)
  /-- PASSAGE_ATOMIC (R370): An arriving Passage ATOMIC is applied at the home engine. -/
  | passageAtomic (k : Nat) (pkt : PPkt)
  /-- RDATA (R367): Passage read data returns to the requester. -/
  | rdata (k : Nat) (pkt : PPkt)
  /-- WACK (R367): A Passage write acknowledgement returns. -/
  | wack (k : Nat) (pkt : PPkt)
  /-- ARESULT (R367): A Passage atomic result returns. -/
  | aresult (k : Nat) (pkt : PPkt)
  /-- PASSAGE_ERROR (R367): A Passage ERROR response returns. -/
  | passageError (k : Nat) (pkt : PPkt)
  /-- PASSAGE_TIMEOUT (R369): A request with no response within TMO ends with ERR 3. -/
  | passageTimeout (k j tag : Nat)
  /-- DMA_READ (R349): A PCIe or CXL.io DMA read is judged and served through the home slice. -/
  | dmaRead (port : Nat) (rid : BitVec 16) (pa : Word) (n : Option Nat)
  /-- DMA_WRITE (R225): A PCIe or CXL.io DMA write is performed, within the port's quota. -/
  | dmaWrite (port : Nat) (rid : BitVec 16) (pa : Word) (data : Bytes) (poison : Bool)
  /-- MMIO_COMPLETION (R352): A completion for a core MMIO access arrives. -/
  | mmioCompletion (port id : Nat) (ok : Bool) (data : Vec)
  /-- MMIO_COMPLETION_TIMEOUT (R352): No completion arrives within LINK.CTO, so all ones and an error record result. -/
  | mmioCompletionTimeout (port id : Nat)
  /-- LTR_MESSAGE (R353): An LTR message updates LINK.LTR_j. -/
  | ltrMessage (port j : Nat) (snoop nosnoop : BitVec 32)
  /-- FUNCTION_LEVEL_RESET (R393): A function reset revokes that function's reservations. -/
  | functionLevelReset (port : Nat) (rid : BitVec 16)
  /-- PME_TO_ACK (R436): A PME_TO_Ack reaches the root port during Deep Sump prepare. -/
  | pmeToAck (port j : Nat)
  /-- INTERRUPT_MESSAGE (R375): A message ID is presented to the router and remapped. -/
  | interruptMessage (origin : Origin) (id : BitVec 24)
  /-- REMAP_ENTRY_READ_RETURN (R381): A remap-table read returns and the message is delivered or dropped. -/
  | remapEntryReadReturn (sec : Bool) (idx : Nat)
  /-- PID_ATOMIC_RESULT (R385): The PID far atomic returns and the router notifies, rings the doorbell or stops. -/
  | pidAtomicResult (sec : Bool) (idx : Nat)
  /-- VIRTUAL_NOTIFICATION (R386): A notification reaches a thread and starts a pull, or is discarded. -/
  | virtualNotification (t : Nat) (pid : Word)
  /-- PULL_RESULT (R386): A pull's SWAP result is ORed into VPEND. -/
  | pullResult (t : Nat)
  /-- FOLD_COMPLETE (R386): The VPEND fold into PIR is performed and BUSY clears. -/
  | foldComplete (t : Nat)
  /-- WIRED_LEVEL_CHANGE (R378): A wired source's level changes and may send a record. -/
  | wiredLevelChange (source : Nat)
  /-- INBOX_RECORD (R379): A record enters an inbox, coalesces, spills or is dropped. -/
  | inboxRecord (t box : Nat) (message : Bool) (source vector : Nat)
  /-- SPILL_QUEUE_MOVE (R379): The spill queue moves its oldest record into an inbox that has room. -/
  | spillQueueMove (t box : Nat)
  /-- ICLAIM (R380): A write to a claim register releases the claimed record. -/
  | iclaim (chamber lt box : Nat) (lvl : Level) (secure : Bool)
  /-- ROUTER_WIRE (R378): A write of a wired route entry, which may send a record. -/
  | routerWire (n : Nat) (lvl : Level) (value : Word)
  /-- ROUTER_INVAL (R382): A write removes cached remap entries. -/
  | routerInval (lvl : Level) (value : Word)
  /-- ROUTER_INVAL_COMPLETE (R382): The invalidation completes and BUSY reads 0. -/
  | routerInvalComplete
  /-- VCTL_PULL (R386): Writing PULL = 1 starts a pull of PIR. -/
  | vctlPull (chamber lt : Nat) (lvl : Level)
  /-- VCTL_ACTIVE (R386): Writing ACTIVE; a change from 1 to 0 starts the fold. -/
  | vctlActive (chamber lt : Nat) (lvl : Level) (value : Word)
  /-- TIMECMP_MATCH (R376): TIME reaches TIMECMP_x, making the timer interrupt pending and waking the chamber. -/
  | timecmpMatch (t which : Nat)
  /-- REGION_REGISTER_WRITE (R401): A write to a region register propagates to every copy. -/
  | regionRegisterWrite (n word : Nat) (lvl : Level) (value : Word)
  /-- PACKAGE_DECODE_REGISTER_WRITE (R28): A write to a package decode register propagates to every copy. -/
  | packageDecodeRegisterWrite (addr : Word) (lvl : Level) (value : Word)
  /-- HANDOVER_ROOT_PORT (R412): REGCHK.HANDOVER GO with KIND 0 hands a root port to the other world. -/
  | handoverRootPort (lvl : Level) (toNormal : Bool) (index : Nat) (forced : Bool)
  /-- HANDOVER_CHURN_INSTANCE (R412): GO with KIND 1 hands a Churn instance over. -/
  | handoverChurnInstance (lvl : Level) (toNormal : Bool) (index : Nat)
  /-- HANDOVER_WIRED_SOURCE (R412): GO with KIND 2 hands a wired source over. -/
  | handoverWiredSource (lvl : Level) (toNormal : Bool) (index : Nat)
  /-- HANDOVER_COMPLETE (R412): A hand-over ends, BUSY clears and the incident is recorded. -/
  | handoverComplete
  /-- DEFERRED_REQUEST_PERFORM (R414): When a block stops being secure-held, its deferred request is performed. -/
  | deferredRequestPerform (block : Nat)
  /-- WDKICK_M (R416): A write reloads the secure watchdog. -/
  | wdkickM (t : Nat)
  /-- WATCHDOG_PRE_EXPIRY (R417): The count reaches PRE and source 0x052 is asserted. -/
  | watchdogPreExpiry
  /-- WATCHDOG_EXPIRY (R417): The count reaches 0: the cause is recorded, the BMC notified and a warm reset follows. -/
  | watchdogExpiry
  /-- CORE_RAIL_READ (R420): Every 100 µs each core rail is read over AVSBus. -/
  | coreRailRead (r : Nat) (ok : Bool) (mv da : Nat) (reached : Bool)
  /-- PMBUS_RAIL_READ (R420): Every 1 ms each other rail is read over PMBus. -/
  | pmbusRailRead (r : Nat) (ok : Bool) (mv : Nat) (good : Bool)
  /-- PMB_ALERT (R499): PMB_ALERT# low starts a status read of every rail. -/
  | pmbAlert
  /-- PWR_FREQ (R424): A write of REQ starts a chamber frequency change. -/
  | pwrFreq (c : Nat) (lvl : Level) (req : Nat)
  /-- AVS_SETPOINT_POLL (R424): Every 8 ticks the rail status is polled until V′ is reached, then the glide starts. -/
  | avsSetpointPoll (r : Nat) (reached ok : Bool)
  /-- FREQ_GLIDE_COMPLETE (R424): The DPLL glide ends, GRANT is set and BUSY clears. -/
  | freqGlideComplete (c : Nat)
  /-- PWR_LIMIT (R4): A write of WATTS, refused outside the bin's range. -/
  | pwrLimit (lvl : Level) (watts : Nat)
  /-- PACKAGE_LIMITER_TICK (R426): Every 100 µs power is summed and the package ceiling adjusted. -/
  | packageLimiterTick (watts : Nat)
  /-- THERMAL_READ (R427): Every 100 µs a chamber sensor is read and the thermal ceiling adjusted. -/
  | thermalRead (c temp : Nat)
  /-- DROOP_LEVEL1 (R428): The supply falls below set-point − DTH1 and the chamber clock halves. -/
  | droopLevel1 (c : Nat)
  /-- DROOP_LEVEL2 (R428): The supply falls below set-point − DTH2 and the chamber clock is held. -/
  | droopLevel2 (c : Nat)
  /-- DROOP_RECOVERY (R428): The supply recovers above set-point − DTH1, ending level 2. -/
  | droopRecovery (c : Nat)
  /-- DROOP_LEVEL1_END (R428): 64 undivided cycles after recovery, the clock is undivided. -/
  | droopLevel1End (c : Nat)
  /-- POWER_STATE_ENTRY (R434): A change of input selects a deeper state for a scope and starts its entry. -/
  | powerStateEntry (scope n : Nat)
  /-- POWER_STATE_ENTRY_COMPLETE (R430): A core, chamber or die scope finishes entering its state. -/
  | powerStateEntryComplete (scope n : Nat)
  /-- PREPARE_ANSWER (R438): A participant answers READY or REFUSE, or withdraws READY. -/
  | prepareAnswer (participant answer : Nat)
  /-- PREPARE_TIMEOUT (R438): At 10 µs missing answers count as REFUSE and the attempt ends. -/
  | prepareTimeout
  /-- PREPARE_RETRY (R438): 1 ms after a refusal, prepare is retried. -/
  | prepareRetry
  /-- COMMIT_STEP_DONE (R438): A commit stop step ends and the next begins, or the state is reached. -/
  | commitStepDone
  /-- COMMIT_STEP_TIMEOUT (R439): A stop step times out and the entry aborts. -/
  | commitStepTimeout
  /-- WAKE_EVENT (R441): A wake event starts the exit of a scope from its power state. -/
  | wakeEvent (scope n cause block source : Nat)
  /-- WAKE_STEP_READY (R442): A wake step's ready signal arrives and the next step runs. -/
  | wakeStepReady (scope n : Nat)
  /-- WAKE_STEP_TIMEOUT (R442): A wake step times out, with retry, failure or reset. -/
  | wakeStepTimeout (scope n : Nat)
  /-- BLKREQ_UNPARK (R444): PWR.BLKREQ ACTION 0 on a chamber unparks it. -/
  | blkreqUnpark (lvl : Level) (n : Nat)
  /-- BLKREQ_PARK_DRIP (R444): ACTION 1 parks a chamber in Drip. -/
  | blkreqParkDrip (lvl : Level) (n : Nat)
  /-- BLKREQ_PARK_STILL (R444): ACTION 2 parks a chamber in Still. -/
  | blkreqParkStill (lvl : Level) (n : Nat)
  /-- BLKREQ_PARK_SUMP (R444): ACTION 3 parks a chamber in Sump. -/
  | blkreqParkSump (lvl : Level) (n : Nat)
  /-- BLKREQ_ENGINE_RELEASE (R444): ACTION 0 on a slice releases its Churn engine. -/
  | blkreqEngineRelease (lvl : Level) (n : Nat)
  /-- BLKREQ_ENGINE_GATE (R444): ACTION 1 or 2 on a slice gates the engine clock. -/
  | blkreqEngineGate (lvl : Level) (n action : Nat)
  /-- BLKREQ_SLOT_POWER_ON (R444): ACTION 0 on a root port powers the slot and trains its links. -/
  | blkreqSlotPowerOn (lvl : Level) (n : Nat)
  /-- BLKREQ_SLOT_POWER_OFF (R444): ACTION 3 on a root port takes its links down and powers the slot off. -/
  | blkreqSlotPowerOff (lvl : Level) (n : Nat)
  /-- BLKREQ_DONE (R444): The block reaches the requested state and ANSWER DONE is written. -/
  | blkreqDone
  /-- PWR_PKGCTL (R444): A write of DEEPOK is a package-level request, possibly answered HELD. -/
  | pwrPkgctl (lvl : Level) (value : Word)
  /-- POWER_FAILURE (R447): PWROK falls or a rail fails: clocks stop and cause 2 is held. -/
  | powerFailure (rail : Nat)
  /-- COLD_RESET (R448): A cold trigger runs the Keeper boot sequence. -/
  | coldReset (cause : Nat) (boot : Boot)
  /-- PWROK_ASSERT (R448): PWROK is asserted and the waiting boot continues. -/
  | pwrokAssert
  /-- COLDRST_RELEASE (R492): COLDRST# is released and the device leaves step 1 of R448. -/
  | coldrstRelease
  /-- REFCLK_COUNT (R451): The reference clock is counted against the crystal and checked. -/
  | refclkCount (edges : Nat)
  /-- REFCLK_LOST (R451): No reference edge for 1 µs triggers cause 9. -/
  | refclkLost
  /-- WARM_RESET (R450): A warm trigger stops the threads, flushes, resets and reboots. -/
  | warmReset (cause thread : Nat) (flushed : Bool) (boot : Boot) (lost : List Nat)
  /-- KPR_RELEASE (R448): A write releases a stopped thread at STARTPC. -/
  | kprRelease (lvl : Level) (value : Word)
  /-- KPR_RSTREQ (R471): A write with GO requests a warm reset with cause 5. -/
  | kprRstreq (lvl : Level) (value : Word)
  /-- KPR_SURVEY (R452): A write with GO starts a survey on demand. -/
  | kprSurvey (lvl : Level) (value : Word)
  /-- SURVEY_COMPLETE (R452): A survey on demand ends and SURVGEN advances. -/
  | surveyComplete
  /-- KPR_MEASIDX (R459): A write with GO extends a measurement index with MEASDATA. -/
  | kprMeasidx (lvl : Level) (value : Word)
  /-- GET_STATUS (R466): Basette command returning boot status and reset causes. -/
  | getStatus (frame : Frame)
  /-- GET_SURVEY (R466): Basette command returning survey registers. -/
  | getSurvey (frame : Frame)
  /-- SURVEY_NOW (R452): Basette command starting a survey on demand. -/
  | surveyNow (frame : Frame)
  /-- SPDM (R458): Basette command carrying one SPDM message to Keeper. -/
  | spdm (frame : Frame)
  /-- DOE_SPDM_REQUEST (R458): An SPDM request arrives over a root port's DOE instance. -/
  | doeSpdmRequest (port : Nat) (msg : Bytes)
  /-- GET_INCIDENTS (R466): Basette command returning incident-log entries. -/
  | getIncidents (frame : Frame)
  /-- FLASH_WRITE (R466): Basette command writing a non-preferred flash slot. -/
  | flashWrite (frame : Frame)
  /-- GET_COUNTER (R466): Basette command returning LASTCTR. -/
  | getCounter (frame : Frame)
  /-- RESET (R466): Critical Basette command requesting a cold or warm reset. -/
  | reset (frame : Frame)
  /-- POWER_LIMIT (R466): Critical Basette command setting PWR.LIMIT.WATTS. -/
  | powerLimit (frame : Frame)
  /-- DEBUG_UNLOCK (R467): Critical Basette command storing a pending debug level. -/
  | debugUnlock (frame : Frame)
  /-- FW_ACTIVATE (R467): Critical Basette command checking a slot and making it preferred. -/
  | fwActivate (frame : Frame)
  /-- HANDOVER (R466): Critical Basette command performing a world hand-over without the monitor. -/
  | handover (frame : Frame)
  /-- COMMIT_SVN (R456): FUSE_OP 0 advances a rollback counter by blowing fuse bits. -/
  | commitSvn (frame : Frame)
  /-- KEY_SET (R468): FUSE_OP 1 writes the lowest blank Basette key slot. -/
  | keySet (frame : Frame)
  /-- REVOKE_BASETTE_KEY (R466): FUSE_OP 2 revokes a Basette key slot. -/
  | revokeBasetteKey (frame : Frame)
  /-- REVOKE_IMAGE_KEY (R466): FUSE_OP 3 revokes an ECDSA or LMS image key slot. -/
  | revokeImageKey (frame : Frame)
  /-- BYPASS (R500): Lantern instruction selecting the bypass register. -/
  | bypass
  /-- IDCODE (R500): Lantern instruction reading the identification code. -/
  | idcode
  /-- SAMPLE_PRELOAD (R500): Lantern instruction sampling or preloading the boundary register. -/
  | samplePreload (bits : Bytes)
  /-- EXTEST (R500): Lantern instruction driving contacts, only while COLDRST# is low. -/
  | extest (bits : Bytes)
  /-- LANTERN_EXTENSION (R500): A Holiquin extension instruction, acting according to the debug level. -/
  | lanternExtension (code : Nat) (normal : Bool)
  /-- TAP_RESET (R500): TRST# places the TAP in Test-Logic-Reset. -/
  | tapReset
  /-- PATROL_UNIT_START (R474): Every STEP ms a sequencer starts the next patrol unit. -/
  | patrolUnitStart (b : Nat)
  /-- PATROL_SLICE_COMPLETE (R475): A slice's march ends; the way is repaired or retired and returned. -/
  | patrolSliceComplete (b measured : Nat) (bits : List (Nat × Nat)) (repeatOk : Bool)
  /-- PATROL_SLICE_TIMEOUT (R475): A slice still running 1 ms after start ends untested. -/
  | patrolSliceTimeout (b : Nat)
  /-- ERROR_RECORD (R482): A detecting block places a record in its die's error bank. -/
  | errorRecord (rec : Record) (sourceId : Nat) (sec : Bool) (bank : Nat)
  /-- LOG_RECORD (R484): The collector presents a record to the log, which writes, coalesces or refuses it. -/
  | logRecord (b : Nat)
  /-- LOG_PEEK (R485): A write of LOG.PEEK freezes the entries below it. -/
  | logPeek (lvl : Level) (value : Word)
  /-- LOG_RD (R485): A write of LOG.RD consumes entries and may return to Normal mode. -/
  | logRd (lvl : Level) (value : Word)
  /-- LOG_STAT (R486): A read of LOG.STAT acknowledges changes of LOG.DROP. -/
  | logStat (lvl : Level)
  /-- LOG_FATAL (R487): A W1C write of VALID clears the fatal record. -/
  | logFatal (lvl : Level) (value : Word)
  /-- LIFE_HOUR_TICK (R488): Each hour a die adds to its temperature bin and EQH. -/
  | lifeHourTick (d : Nat)
  /-- LINK_FUNC (R393): A write of a function entry, whose clearing or change revokes reservations. -/
  | linkFunc (port n : Nat) (lvl : Level) (value : Word)
  /-- REGISTER_WRITE (R9): A write to any register without a row of its own, applied under its access codes. -/
  | registerWrite (addr : Word) (lvl : Level) (secure : Bool) (size : Nat) (value : Word)
  /-- ILLEGAL_INSTRUCTION (R107): An encoding that no instruction assigns reaches RD, issues as a solo instruction and raises an illegal-instruction exception. -/
  | illegalInstruction (t : Nat) (word : BitVec 32)
  /-- HOTPLUG_SLOT_EVENT (R374): A native hot-plug slot event, such as presence change, attention button or surprise removal, is latched in the root port's slot status and sets LINK.EVT.HOTPLUG. -/
  | hotplugSlotEvent (port event : Nat)
  /-- REFRESH_CLASS_CHANGE (R329): A rank's refresh class changes among A, B and C as its 24-hour and 7-day correction windows and its temperature change, and this changes a survey figure. -/
  | refreshClassChange (mc rank hours24 unc24 days7 temp : Nat)
  /-- PASSAGE_TAG_REUSE (R369): 2 × TMO after a timed-out request, its Passage tag becomes free again, and a request waiting in slice intake for a tag can proceed. -/
  | passageTagReuse (k j tag : Nat)
  /-- UNKNOWN_COMMAND (R466): A Basette request frame whose CMD is not assigned is answered with STATUS 1. -/
  | unknownCommand (frame : Frame)
  /-- DYNAMIC_ADDRESS_ASSIGNMENT (R465): The board management controller assigns Keeper a dynamic I3C address, which sets KPR.REFCLK.BMC and lets Keeper resume raising notification interrupts. -/
  | dynamicAddressAssignment
  /-- IN_BAND_INTERRUPT (R465): Keeper raises an in-band interrupt with mandatory byte 0xB5, and the controller acknowledges it or not; after three go unacknowledged, Keeper stops raising them and records an incident. -/
  | inBandInterrupt (acked : Bool)
  /-- RESPONSE_READ (R462): The board management controller reads a pending response as one private read, which clears delivered notification bits and lets a RESET command take effect. -/
  | responseRead
deriving DecidableEq, Repr

end Sys2Proof
end

