-- ==== Sys2Proof/Decode.lean ====
section
/-! DEFINITION. `decodeTableWord`: no row of the command table gives bits, so no word spells a command. And the encoding of
Noldaost instructions (R38 to R56, R73 to R82, R92, R98, R100): a 32-bit word as an instruction of a thread, rejected (none)
where the encoding is reserved, and the word of an instruction. -/

namespace Sys2Proof

/-- The command that a word of the table's bits spells: none, since no row of the table gives bits. -/
def decodeTableWord (_nbits _w : Nat) : Option Instr := none

/-! ### Formats (R38, R73, R92), fields from bit 31 down -/

def fmtR (maj : Nat) (rd ra rb : Reg) (fn : BitVec 11) : BitVec 32 := BitVec.ofNat 6 maj ++ rd ++ ra ++ rb ++ fn
def fmtI (maj : Nat) (rd ra : Reg) (imm : BitVec 16) : BitVec 32 := BitVec.ofNat 6 maj ++ rd ++ ra ++ imm
def fmtB (maj : Nat) (ra rb : Reg) (h : Bool) (d : BitVec 15) : BitVec 32 :=
  BitVec.ofNat 6 maj ++ ra ++ rb ++ BitVec.ofBool h ++ d
def fmtJ (maj : Nat) (rd : Reg) (d : BitVec 21) : BitVec 32 := BitVec.ofNat 6 maj ++ rd ++ d
def fmtX (maj : Nat) (rd ra : Reg) (k : BitVec 2) (imm : BitVec 14) : BitVec 32 := BitVec.ofNat 6 maj ++ rd ++ ra ++ k ++ imm
def fmtA (maj : Nat) (rd ra rb : Reg) (op : BitVec 4) (size ord : BitVec 2) (sub : BitVec 3) : BitVec 32 :=
  BitVec.ofNat 6 maj ++ rd ++ ra ++ rb ++ op ++ size ++ ord ++ sub
def fmtL (maj : Nat) (ra soff : BitVec 5) (eoff : BitVec 11) (sub : BitVec 5) : BitVec 32 :=
  BitVec.ofNat 6 maj ++ ra ++ soff ++ eoff ++ sub
def fmtF (maj : Nat) (pred succ : BitVec 4) (z : BitVec 15) (sub : BitVec 3) : BitVec 32 :=
  BitVec.ofNat 6 maj ++ pred ++ succ ++ z ++ sub
/-- VR with fn[5] apart (R73). -/
def fmtV (maj : Nat) (vd va vb : Reg) (mk : BitVec 3) (ew : BitVec 2) (sc : Bool) (fn : BitVec 5) : BitVec 32 :=
  BitVec.ofNat 6 maj ++ vd ++ va ++ vb ++ mk ++ ew ++ BitVec.ofBool sc ++ fn
def fmtVF (maj : Nat) (vd va vb : Reg) (mk : BitVec 3) (ew op : BitVec 2) (z : BitVec 4) : BitVec 32 :=
  BitVec.ofNat 6 maj ++ vd ++ va ++ vb ++ mk ++ ew ++ op ++ z
def fmtVM (maj : Nat) (v ra rb : Reg) (mk : BitVec 3) (ew : BitVec 2) (op z : BitVec 3) : BitVec 32 :=
  BitVec.ofNat 6 maj ++ v ++ ra ++ rb ++ mk ++ ew ++ op ++ z
def fmtVG (maj : Nat) (v ra vi : Reg) (mk : BitVec 3) (ew sc : BitVec 2) (op : Bool) (z : BitVec 3) : BitVec 32 :=
  BitVec.ofNat 6 maj ++ v ++ ra ++ vi ++ mk ++ ew ++ sc ++ BitVec.ofBool op ++ z
def fmtC (maj : Nat) (rd ra : Reg) (cr : BitVec 12) (sub : BitVec 4) : BitVec 32 := BitVec.ofNat 6 maj ++ rd ++ ra ++ cr ++ sub
/-- R with fn divided as R98 divides it. -/
def fmtCmo (maj : Nat) (rd ra rb : Reg) (op : BitVec 2) (form : Bool) (target : BitVec 2) (z : BitVec 6) : BitVec 32 :=
  BitVec.ofNat 6 maj ++ rd ++ ra ++ rb ++ op ++ BitVec.ofBool form ++ target ++ z
/-- I with the immediate divided as R41 divides it for SHIFTI. -/
def fmtS (maj : Nat) (rd ra : Reg) (op : BitVec 4) (z sh : BitVec 6) : BitVec 32 := BitVec.ofNat 6 maj ++ rd ++ ra ++ op ++ z ++ sh

/-- Bits hi to lo of a word as a field. -/
def wf (w : BitVec 32) (lo n : Nat) : BitVec n := w.extractLsb' lo n

/-! ### Decoding, by major opcode; reserved encodings answer none (R39, R93) -/

/-- A check of R39. -/
def unless_ (c : Bool) (i : Instr) : Option Instr := if c then none else some i

/-- OP (R40). -/
def decOp (t : Nat) (rd ra rb : Reg) (fn : Nat) : Option Instr :=
  match fn with
  | 0 => some (.add t rd ra rb)
  | 1 => some (.sub t rd ra rb)
  | 2 => some (.and t rd ra rb)
  | 3 => some (.or t rd ra rb)
  | 4 => some (.xor t rd ra rb)
  | 5 => some (.andn t rd ra rb)
  | 6 => some (.orn t rd ra rb)
  | 7 => some (.shl t rd ra rb)
  | 8 => some (.shr t rd ra rb)
  | 9 => some (.sra t rd ra rb)
  | 10 => some (.rol t rd ra rb)
  | 11 => some (.ror t rd ra rb)
  | 12 => some (.slt t rd ra rb)
  | 13 => some (.sltu t rd ra rb)
  | 14 => some (.min t rd ra rb)
  | 15 => some (.max t rd ra rb)
  | 16 => some (.minu t rd ra rb)
  | 17 => some (.maxu t rd ra rb)
  | 32 => unless_ (rb != 0) (.clz t rd ra)
  | 33 => unless_ (rb != 0) (.ctz t rd ra)
  | 34 => unless_ (rb != 0) (.popc t rd ra)
  | 35 => unless_ (rb != 0) (.rev8 t rd ra)
  | 36 => unless_ (rb != 0) (.sextB t rd ra)
  | 37 => unless_ (rb != 0) (.sextH t rd ra)
  | 38 => unless_ (rb != 0) (.sextW t rd ra)
  | 39 => unless_ (rb != 0) (.zextB t rd ra)
  | 40 => unless_ (rb != 0) (.zextH t rd ra)
  | 41 => unless_ (rb != 0) (.zextW t rd ra)
  | _ => none

/-- OPW (R40). -/
def decOpw (t : Nat) (rd ra rb : Reg) (fn : Nat) : Option Instr :=
  match fn with
  | 0 => some (.addw t rd ra rb)
  | 1 => some (.subw t rd ra rb)
  | 7 => some (.shlw t rd ra rb)
  | 8 => some (.shrw t rd ra rb)
  | 9 => some (.sraw t rd ra rb)
  | 10 => some (.rolw t rd ra rb)
  | 11 => some (.rorw t rd ra rb)
  | _ => none

/-- MULDIV (R40). -/
def decMuldiv (t : Nat) (rd ra rb : Reg) (fn : Nat) : Option Instr :=
  match fn with
  | 0 => some (.mul t rd ra rb)
  | 1 => some (.mulh t rd ra rb)
  | 2 => some (.mulhu t rd ra rb)
  | 3 => some (.mulhsu t rd ra rb)
  | 4 => some (.mulw t rd ra rb)
  | 8 => some (.div t rd ra rb)
  | 9 => some (.divu t rd ra rb)
  | 10 => some (.rem t rd ra rb)
  | 11 => some (.remu t rd ra rb)
  | 12 => some (.divw t rd ra rb)
  | 13 => some (.divuw t rd ra rb)
  | 14 => some (.remw t rd ra rb)
  | 15 => some (.remuw t rd ra rb)
  | _ => none

/-- SHIFTI (R41). -/
def decShift (t : Nat) (rd ra : Reg) (op : Nat) (z sh : BitVec 6) : Option Instr :=
  if z ≠ 0 then none
  else match op with
  | 0 => some (.shli t rd ra sh)
  | 1 => some (.shri t rd ra sh)
  | 2 => some (.srai t rd ra sh)
  | 3 => some (.rori t rd ra sh)
  | 4 => unless_ (sh.getLsbD 5) (.shliw t rd ra (sh.setWidth 5))
  | 5 => unless_ (sh.getLsbD 5) (.shriw t rd ra (sh.setWidth 5))
  | 6 => unless_ (sh.getLsbD 5) (.sraiw t rd ra (sh.setWidth 5))
  | 7 => unless_ (sh.getLsbD 5) (.roriw t rd ra (sh.setWidth 5))
  | _ => none

/-- MEMX (R44). -/
def decMemx (t : Nat) (rd ra rb : Reg) (op : BitVec 4) (size ord : BitVec 2) (sub : Nat) : Option Instr :=
  match sub with
  | 0 => unless_ (rb != 0 || op != 0 || ord != 0) (.ldAq t rd ra size)
  | 1 => unless_ (rd != 0 || op != 0 || ord != 0) (.stRl t ra rb size)
  | 2 => unless_ (decide (8 < op.toNat) || decide (size.toNat < 2)) (.amo t rd ra rb op size ord)
  | 3 => unless_ (op != 0 || decide (size.toNat < 2)) (.cas t rd ra rb size ord)
  | _ => none

/-- AMO.FAR (R53). -/
def decFar (t : Nat) (rd ra rb : Reg) (op : BitVec 4) (size ord : BitVec 2) (sub : BitVec 3) : Option Instr :=
  let ret := sub.getLsbD 0
  unless_ (sub.getLsbD 1 || sub.getLsbD 2 || op.toNat == 6 || op.toNat == 7 || decide (10 < op.toNat) || (op.toNat == 9 && !ret)
    || (!ret && rd != 0)) (.amoFar t rd ra rb op size ord ret)

/-- Hardware loops (R56). -/
def decLoop (t : Nat) (ra soff : BitVec 5) (eoff : BitVec 11) (sub : Nat) : Option Instr :=
  match sub with
  | 0 => unless_ (soff == 0 || decide (eoff.toNat < soff.toNat)) (.loopSet t ra soff eoff)
  | 1 => unless_ (ra != 0 || soff != 0 || eoff != 0) (.loopClr t)
  | _ => none

/-- Fences (R62, R65). -/
def decFence (t : Nat) (pred succ : BitVec 4) (z : BitVec 15) (sub : Nat) : Option Instr :=
  if z ≠ 0 then none
  else match sub with
  | 0 => some (.fence t pred succ)
  | 1 => unless_ (pred != 0 || succ != 0) (.fenceI t)
  | _ => none

/-- VINT (R74). -/
def decVint (t : Nat) (vd va vb : Reg) (mk : BitVec 3) (ew : BitVec 2) (sc : Bool) (fn : Nat) : Option Instr :=
  match fn with
  | 0 => some (.vadd t vd va vb mk ew sc)
  | 1 => some (.vsub t vd va vb mk ew sc)
  | 2 => some (.vand t vd va vb mk ew sc)
  | 3 => some (.vor t vd va vb mk ew sc)
  | 4 => some (.vxor t vd va vb mk ew sc)
  | 5 => some (.vshl t vd va vb mk ew sc)
  | 6 => some (.vshr t vd va vb mk ew sc)
  | 7 => some (.vsra t vd va vb mk ew sc)
  | 8 => some (.vmin t vd va vb mk ew sc)
  | 9 => some (.vmax t vd va vb mk ew sc)
  | 10 => some (.vminu t vd va vb mk ew sc)
  | 11 => some (.vmaxu t vd va vb mk ew sc)
  | 12 => some (.vmul t vd va vb mk ew sc)
  | 13 => some (.vmulh t vd va vb mk ew sc)
  | 14 => some (.vmulhu t vd va vb mk ew sc)
  | 15 => some (.vsadd t vd va vb mk ew sc)
  | 16 => some (.vssub t vd va vb mk ew sc)
  | 17 => some (.vusadd t vd va vb mk ew sc)
  | 18 => some (.vussub t vd va vb mk ew sc)
  | _ => none

/-- VFLT (R75). -/
def decVflt (t : Nat) (vd va vb : Reg) (mk : BitVec 3) (ew : BitVec 2) (sc : Bool) (fn : Nat) : Option Instr :=
  if ew = 0 then none
  else match fn with
  | 0 => some (.vfadd t vd va vb mk ew sc)
  | 1 => some (.vfsub t vd va vb mk ew sc)
  | 2 => some (.vfmul t vd va vb mk ew sc)
  | 3 => some (.vfdiv t vd va vb mk ew sc)
  | 5 => some (.vfmin t vd va vb mk ew sc)
  | 6 => some (.vfmax t vd va vb mk ew sc)
  | 9 => some (.vfsgnj t vd va vb mk ew sc)
  | 4 => unless_ (vb != 0 || sc) (.vfsqrt t vd va mk ew)
  | 7 => unless_ (vb != 0 || sc) (.vfabs t vd va mk ew)
  | 8 => unless_ (vb != 0 || sc) (.vfneg t vd va mk ew)
  | _ => none

/-- VFMA (R76). -/
def decVfma (t : Nat) (vd va vb : Reg) (mk : BitVec 3) (ew : BitVec 2) (op : Nat) (z : BitVec 4) : Option Instr :=
  if ew = 0 ∨ z ≠ 0 then none
  else match op with
  | 0 => some (.vfmadd t vd va vb mk ew)
  | 1 => some (.vfmsub t vd va vb mk ew)
  | 2 => some (.vfnmadd t vd va vb mk ew)
  | 3 => some (.vfnmsub t vd va vb mk ew)
  | _ => none

/-- VMEM (R81). -/
def decVmem (t : Nat) (v ra rb : Reg) (mk : BitVec 3) (ew : BitVec 2) (op : Nat) (z : BitVec 3) : Option Instr :=
  if z ≠ 0 then none
  else match op with
  | 0 => unless_ (rb != 0) (.vld t v ra mk ew)
  | 1 => unless_ (rb != 0) (.vst t v ra mk ew)
  | 2 => some (.vlds t v ra rb mk ew)
  | 3 => some (.vsts t v ra rb mk ew)
  | 4 => unless_ (rb != 0) (.vldb t v ra mk ew)
  | _ => none

/-- VGS (R82). -/
def decVgs (t : Nat) (v ra vi : Reg) (mk : BitVec 3) (ew sc : BitVec 2) (op : Bool) (z : BitVec 3) : Option Instr :=
  if z ≠ 0 ∨ ew.toNat < 2 then none
  else if op then some (.vscatter t v ra vi mk ew sc) else some (.vgather t v ra vi mk ew sc)

/-- VRP (R77, R78): the fn field has six bits here. -/
def decVrp (t : Nat) (vd va vb : Reg) (mk : BitVec 3) (ew : BitVec 2) (fn : Nat) : Option Instr :=
  match fn with
  | 0 => some (.vredadd t vd va mk ew)
  | 1 => some (.vredmin t vd va mk ew)
  | 2 => some (.vredmax t vd va mk ew)
  | 3 => some (.vredminu t vd va mk ew)
  | 4 => some (.vredmaxu t vd va mk ew)
  | 5 => some (.vredand t vd va mk ew)
  | 6 => some (.vredor t vd va mk ew)
  | 7 => some (.vredxor t vd va mk ew)
  | 8 => unless_ (ew == 0) (.vfredadd t vd va mk ew)
  | 9 => unless_ (ew == 0) (.vfredaddt t vd va mk ew)
  | 10 => unless_ (ew == 0) (.vfredmin t vd va mk ew)
  | 11 => unless_ (ew == 0) (.vfredmax t vd va mk ew)
  | 16 => some (.vperm t vd va vb mk ew)
  | 17 => some (.vslidedn t vd va vb mk ew)
  | 18 => some (.vslideup t vd va vb mk ew)
  | 19 => some (.vcompress t vd va mk ew)
  | 20 => some (.vexpand t vd va mk ew)
  | 21 => some (.vziplo t vd va vb mk ew)
  | 22 => some (.vziphi t vd va vb mk ew)
  | _ => none

/-- VCVT (R79). -/
def decVcvt (t : Nat) (vd va vb : Reg) (mk : BitVec 3) (ew : BitVec 2) (fn : Nat) : Option Instr :=
  match fn with
  | 0 => unless_ (decide (ew.toNat < 1) || decide (3 < ew.toNat)) (.vcvtFI t vd va mk ew)
  | 1 => unless_ (decide (ew.toNat < 1) || decide (3 < ew.toNat)) (.vcvtFU t vd va mk ew)
  | 2 => unless_ (decide (ew.toNat < 1) || decide (3 < ew.toNat)) (.vcvtIF t vd va mk ew)
  | 3 => unless_ (decide (ew.toNat < 1) || decide (3 < ew.toNat)) (.vcvtUF t vd va mk ew)
  | 4 => unless_ (decide (ew.toNat < 1) || decide (2 < ew.toNat)) (.vcvtFFw t vd va mk ew)
  | 5 => unless_ (decide (ew.toNat < 2) || decide (3 < ew.toNat)) (.vcvtFFn t vd va mk ew)
  | 6 => unless_ (decide (ew.toNat < 0) || decide (2 < ew.toNat)) (.vsextW t vd va mk ew)
  | 7 => unless_ (decide (ew.toNat < 0) || decide (2 < ew.toNat)) (.vzextW t vd va mk ew)
  | 8 => unless_ (decide (ew.toNat < 1) || decide (3 < ew.toNat)) (.vnarrow t vd va mk ew)
  | 16 => some (.vmvVg t vd va mk ew)
  | 17 => unless_ (mk != 0) (.vmvGv t vd va vb ew)
  | 18 => unless_ (mk != 0) (.vins t vd va vb ew)
  | _ => none

/-- A field that names a mask register (R80). -/
def isM (r : Reg) : Bool := decide (r.toNat < 8)

/-- VMSK (R80). -/
def decVmsk (t : Nat) (vd va vb : Reg) (mk : BitVec 3) (ew : BitVec 2) (fn : Nat) : Option Instr :=
  match fn with
  | 0 => unless_ (!isM vd) (.vcmpeq t vd va vb mk ew)
  | 1 => unless_ (!isM vd) (.vcmpne t vd va vb mk ew)
  | 2 => unless_ (!isM vd) (.vcmplt t vd va vb mk ew)
  | 3 => unless_ (!isM vd) (.vcmple t vd va vb mk ew)
  | 4 => unless_ (!isM vd) (.vcmpltu t vd va vb mk ew)
  | 5 => unless_ (!isM vd) (.vcmpleu t vd va vb mk ew)
  | 8 => unless_ (!isM vd || ew == 0) (.vfcmpeq t vd va vb mk ew)
  | 9 => unless_ (!isM vd || ew == 0) (.vfcmplt t vd va vb mk ew)
  | 10 => unless_ (!isM vd || ew == 0) (.vfcmple t vd va vb mk ew)
  | 11 => unless_ (!isM vd || ew == 0) (.vfcmpun t vd va vb mk ew)
  | 16 => unless_ (!isM vd || !isM va || !isM vb || mk != 0) (.mand t vd va vb ew)
  | 17 => unless_ (!isM vd || !isM va || !isM vb || mk != 0) (.mor t vd va vb ew)
  | 18 => unless_ (!isM vd || !isM va || !isM vb || mk != 0) (.mxor t vd va vb ew)
  | 19 => unless_ (!isM vd || !isM va || !isM vb || mk != 0) (.mandn t vd va vb ew)
  | 20 => unless_ (!isM va || mk != 0) (.mpopc t vd va ew)
  | 21 => unless_ (!isM va || mk != 0) (.mfirst t vd va ew)
  | 22 => unless_ (!isM va || mk != 0) (.mmvGm t vd va ew)
  | 23 => unless_ (!isM vd || mk != 0) (.mmvMg t vd va ew)
  | _ => none

/-- Control registers (R92). -/
def decCr (t : Nat) (rd ra : Reg) (cr : BitVec 12) (sub : Nat) : Option Instr :=
  match sub with
  | 0 => unless_ (ra != 0) (.crr t rd cr)
  | 1 => some (.crw t rd ra cr)
  | 2 => some (.crs t rd ra cr)
  | 3 => some (.crc t rd ra cr)
  | _ => none

/-- Majors 0x39 to 0x3E (R92, R98, R100). -/
def decSys (t : Nat) (rd ra rb : Reg) (maj fn : Nat) : Option Instr :=
  match maj, fn with
  | 0x39, 0 => unless_ (rd != 0 || ra != 0 || rb != 0) (.scall t)
  | 0x39, 1 => unless_ (rd != 0 || ra != 0 || rb != 0) (.hcall t)
  | 0x39, 2 => unless_ (rd != 0 || ra != 0 || rb != 0) (.mcall t)
  | 0x39, 3 => unless_ (rd != 0 || ra != 0 || rb != 0) (.retx t)
  | 0x39, 4 => unless_ (rd != 0 || ra != 0 || rb != 0) (.syncCtx t)
  | 0x39, 5 => unless_ (rd != 0 || ra != 0 || rb != 0) (.wait t)
  | 0x39, 8 => unless_ (rd != 0 || ra != 0 || rb != 0) (.geodeExit t)
  | 0x39, 6 => unless_ (rd != 0 || rb != 0) (.ltol t ra)
  | 0x39, 7 => unless_ (rd != 0 || rb != 0) (.geodeEnter t ra)
  | 0x3A, 0 => unless_ (rb != 0) (.qresv t rd ra)
  | 0x3A, 1 => unless_ (rb != 0) (.qrel t rd ra)
  | 0x3A, 2 => unless_ (rb != 0) (.qquery t rd ra)
  | 0x3B, 0 => some (.churnPost t rd ra rb)
  | 0x3C, 0 => some (.instQuiesce t rd ra rb)
  | 0x3C, 1 => some (.instReset t rd ra rb)
  | 0x3C, 2 => some (.instCreate t rd ra rb)
  | 0x3C, 3 => some (.instBind t rd ra rb)
  | 0x3C, 4 => some (.instRemove t rd ra rb)
  | 0x3E, 0 => unless_ (rd != 0 || ra != 0 || rb != 0) (.tlbiVmidStage1 t ra rb)
  | 0x3E, 1 => unless_ (rd != 0) (.tlbiVaAsid t ra rb)
  | 0x3E, 2 => unless_ (rd != 0 || ra != 0) (.tlbiAsid t ra rb)
  | 0x3E, 3 => unless_ (rd != 0 || rb != 0) (.tlbiVa t ra rb)
  | 0x3E, 4 => unless_ (rd != 0) (.tlbiIaVmid t ra rb)
  | 0x3E, 5 => unless_ (rd != 0 || ra != 0) (.tlbiVmid t ra rb)
  | 0x3E, 6 => unless_ (rd != 0 || ra != 0 || rb != 0) (.tlbiAll t ra rb)
  | _, _ => none

/-- CMO (R98). -/
def decCmo (t : Nat) (rd ra rb : Reg) (op : Nat) (form : Bool) (target : BitVec 2) (z : BitVec 6) : Option Instr :=
  if rd ≠ 0 ∨ rb ≠ 0 ∨ z ≠ 0 ∨ target = 3 then none
  else match op with
  | 0 => some (.cmoClean t ra form target)
  | 1 => some (.cmoInvalidate t ra form target)
  | 2 => some (.cmoCleanInvalidate t ra form target)
  | _ => none

/-- The instruction of thread t that a word encodes; none for a reserved encoding (R39). -/
def insnDecode (t : Nat) (w : BitVec 32) : Option Instr :=
  let a := wf w 21 5
  let b := wf w 16 5
  let c := wf w 11 5
  let fn := (wf w 0 11).toNat
  let imm := wf w 0 16
  let mk := wf w 8 3
  let ew := wf w 6 2
  match (wf w 26 6).toNat with
  | 0x01 => decOp t a b c fn
  | 0x02 => decOpw t a b c fn
  | 0x03 => decMuldiv t a b c fn
  | 4 => some (.addi t a b imm)
  | 5 => some (.addiw t a b imm)
  | 6 => some (.andi t a b imm)
  | 7 => some (.ori t a b imm)
  | 8 => some (.xori t a b imm)
  | 9 => some (.slti t a b imm)
  | 10 => some (.sltiu t a b imm)
  | 0x0B => decShift t a b (wf w 12 4).toNat (wf w 6 6) (wf w 0 6)
  | 0x0C => some (.lui t a (wf w 0 21))
  | 0x0D => some (.auipc t a (wf w 0 21))
  | 16 => some (.lb t a b imm)
  | 17 => some (.lh t a b imm)
  | 18 => some (.lw t a b imm)
  | 19 => some (.ld t a b imm)
  | 20 => some (.lbu t a b imm)
  | 21 => some (.lhu t a b imm)
  | 22 => some (.lwu t a b imm)
  | 24 => some (.sb t a b imm)
  | 25 => some (.sh t a b imm)
  | 26 => some (.sw t a b imm)
  | 27 => some (.sd t a b imm)
  | 0x1C => decMemx t a b c (wf w 7 4) (wf w 5 2) (wf w 3 2) (wf w 0 3).toNat
  | 0x1D => decFar t a b c (wf w 7 4) (wf w 5 2) (wf w 3 2) (wf w 0 3)
  | 32 => some (.beq t a b (w.getLsbD 15) (wf w 0 15))
  | 33 => some (.bne t a b (w.getLsbD 15) (wf w 0 15))
  | 34 => some (.blt t a b (w.getLsbD 15) (wf w 0 15))
  | 35 => some (.bge t a b (w.getLsbD 15) (wf w 0 15))
  | 36 => some (.bltu t a b (w.getLsbD 15) (wf w 0 15))
  | 37 => some (.bgeu t a b (w.getLsbD 15) (wf w 0 15))
  | 0x26 => some (.jal t a (wf w 0 21))
  | 0x27 => some (.jalr t a b (wf w 14 2) (wf w 0 14))
  | 0x28 => decLoop t a b (wf w 5 11) (wf w 0 5).toNat
  | 0x2C => decFence t (wf w 22 4) (wf w 18 4) (wf w 3 15) (wf w 0 3).toNat
  | 0x30 => decVint t a b c mk ew (w.getLsbD 5) (wf w 0 5).toNat
  | 0x31 => decVflt t a b c mk ew (w.getLsbD 5) (wf w 0 5).toNat
  | 0x32 => decVfma t a b c mk ew (wf w 4 2).toNat (wf w 0 4)
  | 0x33 => decVmem t a b c mk ew (wf w 3 3).toNat (wf w 0 3)
  | 0x34 => decVgs t a b c mk ew (wf w 4 2) (w.getLsbD 3) (wf w 0 3)
  | 0x35 => decVrp t a b c mk ew (wf w 0 6).toNat
  | 0x36 => decVcvt t a b c mk ew (wf w 0 6).toNat
  | 0x37 => decVmsk t a b c mk ew (wf w 0 6).toNat
  | 0x38 => decCr t a b (wf w 4 12) (wf w 0 4).toNat
  | 0x39 => decSys t a b c 0x39 fn
  | 0x3A => decSys t a b c 0x3A fn
  | 0x3B => decSys t a b c 0x3B fn
  | 0x3C => decSys t a b c 0x3C fn
  | 0x3D => decCmo t a b c (wf w 9 2).toNat (w.getLsbD 8) (wf w 6 2) (wf w 0 6)
  | 0x3E => decSys t a b c 0x3E fn
  | _ => none

/-! ### Encoding, from the same tables -/

/-- The word of an instruction; none for a command that is no instruction. -/
def insnEncode : Instr → Option (BitVec 32)
  | .add _ rd ra rb => some (fmtR 1 rd ra rb 0)
  | .sub _ rd ra rb => some (fmtR 1 rd ra rb 1)
  | .and _ rd ra rb => some (fmtR 1 rd ra rb 2)
  | .or _ rd ra rb => some (fmtR 1 rd ra rb 3)
  | .xor _ rd ra rb => some (fmtR 1 rd ra rb 4)
  | .andn _ rd ra rb => some (fmtR 1 rd ra rb 5)
  | .orn _ rd ra rb => some (fmtR 1 rd ra rb 6)
  | .shl _ rd ra rb => some (fmtR 1 rd ra rb 7)
  | .shr _ rd ra rb => some (fmtR 1 rd ra rb 8)
  | .sra _ rd ra rb => some (fmtR 1 rd ra rb 9)
  | .rol _ rd ra rb => some (fmtR 1 rd ra rb 10)
  | .ror _ rd ra rb => some (fmtR 1 rd ra rb 11)
  | .slt _ rd ra rb => some (fmtR 1 rd ra rb 12)
  | .sltu _ rd ra rb => some (fmtR 1 rd ra rb 13)
  | .min _ rd ra rb => some (fmtR 1 rd ra rb 14)
  | .max _ rd ra rb => some (fmtR 1 rd ra rb 15)
  | .minu _ rd ra rb => some (fmtR 1 rd ra rb 16)
  | .maxu _ rd ra rb => some (fmtR 1 rd ra rb 17)
  | .clz _ rd ra => some (fmtR 1 rd ra 0 32)
  | .ctz _ rd ra => some (fmtR 1 rd ra 0 33)
  | .popc _ rd ra => some (fmtR 1 rd ra 0 34)
  | .rev8 _ rd ra => some (fmtR 1 rd ra 0 35)
  | .sextB _ rd ra => some (fmtR 1 rd ra 0 36)
  | .sextH _ rd ra => some (fmtR 1 rd ra 0 37)
  | .sextW _ rd ra => some (fmtR 1 rd ra 0 38)
  | .zextB _ rd ra => some (fmtR 1 rd ra 0 39)
  | .zextH _ rd ra => some (fmtR 1 rd ra 0 40)
  | .zextW _ rd ra => some (fmtR 1 rd ra 0 41)
  | .addw _ rd ra rb => some (fmtR 2 rd ra rb 0)
  | .subw _ rd ra rb => some (fmtR 2 rd ra rb 1)
  | .shlw _ rd ra rb => some (fmtR 2 rd ra rb 7)
  | .shrw _ rd ra rb => some (fmtR 2 rd ra rb 8)
  | .sraw _ rd ra rb => some (fmtR 2 rd ra rb 9)
  | .rolw _ rd ra rb => some (fmtR 2 rd ra rb 10)
  | .rorw _ rd ra rb => some (fmtR 2 rd ra rb 11)
  | .mul _ rd ra rb => some (fmtR 3 rd ra rb 0)
  | .mulh _ rd ra rb => some (fmtR 3 rd ra rb 1)
  | .mulhu _ rd ra rb => some (fmtR 3 rd ra rb 2)
  | .mulhsu _ rd ra rb => some (fmtR 3 rd ra rb 3)
  | .mulw _ rd ra rb => some (fmtR 3 rd ra rb 4)
  | .div _ rd ra rb => some (fmtR 3 rd ra rb 8)
  | .divu _ rd ra rb => some (fmtR 3 rd ra rb 9)
  | .rem _ rd ra rb => some (fmtR 3 rd ra rb 10)
  | .remu _ rd ra rb => some (fmtR 3 rd ra rb 11)
  | .divw _ rd ra rb => some (fmtR 3 rd ra rb 12)
  | .divuw _ rd ra rb => some (fmtR 3 rd ra rb 13)
  | .remw _ rd ra rb => some (fmtR 3 rd ra rb 14)
  | .remuw _ rd ra rb => some (fmtR 3 rd ra rb 15)
  | .addi _ rd ra imm => some (fmtI 4 rd ra imm)
  | .addiw _ rd ra imm => some (fmtI 5 rd ra imm)
  | .andi _ rd ra imm => some (fmtI 6 rd ra imm)
  | .ori _ rd ra imm => some (fmtI 7 rd ra imm)
  | .xori _ rd ra imm => some (fmtI 8 rd ra imm)
  | .slti _ rd ra imm => some (fmtI 9 rd ra imm)
  | .sltiu _ rd ra imm => some (fmtI 10 rd ra imm)
  | .lb _ rd ra imm => some (fmtI 16 rd ra imm)
  | .lh _ rd ra imm => some (fmtI 17 rd ra imm)
  | .lw _ rd ra imm => some (fmtI 18 rd ra imm)
  | .ld _ rd ra imm => some (fmtI 19 rd ra imm)
  | .lbu _ rd ra imm => some (fmtI 20 rd ra imm)
  | .lhu _ rd ra imm => some (fmtI 21 rd ra imm)
  | .lwu _ rd ra imm => some (fmtI 22 rd ra imm)
  | .sb _ rs ra imm => some (fmtI 24 rs ra imm)
  | .sh _ rs ra imm => some (fmtI 25 rs ra imm)
  | .sw _ rs ra imm => some (fmtI 26 rs ra imm)
  | .sd _ rs ra imm => some (fmtI 27 rs ra imm)
  | .shli _ rd ra sh => some (fmtS 0x0B rd ra 0 0 sh)
  | .shri _ rd ra sh => some (fmtS 0x0B rd ra 1 0 sh)
  | .srai _ rd ra sh => some (fmtS 0x0B rd ra 2 0 sh)
  | .rori _ rd ra sh => some (fmtS 0x0B rd ra 3 0 sh)
  | .shliw _ rd ra sh => some (fmtS 0x0B rd ra 4 0 (sh.setWidth 6))
  | .shriw _ rd ra sh => some (fmtS 0x0B rd ra 5 0 (sh.setWidth 6))
  | .sraiw _ rd ra sh => some (fmtS 0x0B rd ra 6 0 (sh.setWidth 6))
  | .roriw _ rd ra sh => some (fmtS 0x0B rd ra 7 0 (sh.setWidth 6))
  | .lui _ rd imm => some (fmtJ 0x0C rd imm)
  | .auipc _ rd imm => some (fmtJ 0x0D rd imm)
  | .ldAq _ rd ra size => some (fmtA 0x1C rd ra 0 0 size 0 0)
  | .stRl _ ra rb size => some (fmtA 0x1C 0 ra rb 0 size 0 1)
  | .amo _ rd ra rb op size ord => some (fmtA 0x1C rd ra rb op size ord 2)
  | .cas _ rd ra rb size ord => some (fmtA 0x1C rd ra rb 0 size ord 3)
  | .amoFar _ rd ra rb op size ord ret => some (fmtA 0x1D rd ra rb op size ord ((BitVec.ofBool ret).setWidth 3))
  | .beq _ ra rb h d => some (fmtB 32 ra rb h d)
  | .bne _ ra rb h d => some (fmtB 33 ra rb h d)
  | .blt _ ra rb h d => some (fmtB 34 ra rb h d)
  | .bge _ ra rb h d => some (fmtB 35 ra rb h d)
  | .bltu _ ra rb h d => some (fmtB 36 ra rb h d)
  | .bgeu _ ra rb h d => some (fmtB 37 ra rb h d)
  | .jal _ rd d => some (fmtJ 0x26 rd d)
  | .jalr _ rd ra k imm => some (fmtX 0x27 rd ra k imm)
  | .loopSet _ ra soff eoff => some (fmtL 0x28 ra soff eoff 0)
  | .loopClr _ => some (fmtL 0x28 0 0 0 1)
  | .fence _ p s => some (fmtF 0x2C p s 0 0)
  | .fenceI _ => some (fmtF 0x2C 0 0 0 1)
  | .vadd _ vd va vb mk ew sc => some (fmtV 0x30 vd va vb mk ew sc 0)
  | .vsub _ vd va vb mk ew sc => some (fmtV 0x30 vd va vb mk ew sc 1)
  | .vand _ vd va vb mk ew sc => some (fmtV 0x30 vd va vb mk ew sc 2)
  | .vor _ vd va vb mk ew sc => some (fmtV 0x30 vd va vb mk ew sc 3)
  | .vxor _ vd va vb mk ew sc => some (fmtV 0x30 vd va vb mk ew sc 4)
  | .vshl _ vd va vb mk ew sc => some (fmtV 0x30 vd va vb mk ew sc 5)
  | .vshr _ vd va vb mk ew sc => some (fmtV 0x30 vd va vb mk ew sc 6)
  | .vsra _ vd va vb mk ew sc => some (fmtV 0x30 vd va vb mk ew sc 7)
  | .vmin _ vd va vb mk ew sc => some (fmtV 0x30 vd va vb mk ew sc 8)
  | .vmax _ vd va vb mk ew sc => some (fmtV 0x30 vd va vb mk ew sc 9)
  | .vminu _ vd va vb mk ew sc => some (fmtV 0x30 vd va vb mk ew sc 10)
  | .vmaxu _ vd va vb mk ew sc => some (fmtV 0x30 vd va vb mk ew sc 11)
  | .vmul _ vd va vb mk ew sc => some (fmtV 0x30 vd va vb mk ew sc 12)
  | .vmulh _ vd va vb mk ew sc => some (fmtV 0x30 vd va vb mk ew sc 13)
  | .vmulhu _ vd va vb mk ew sc => some (fmtV 0x30 vd va vb mk ew sc 14)
  | .vsadd _ vd va vb mk ew sc => some (fmtV 0x30 vd va vb mk ew sc 15)
  | .vssub _ vd va vb mk ew sc => some (fmtV 0x30 vd va vb mk ew sc 16)
  | .vusadd _ vd va vb mk ew sc => some (fmtV 0x30 vd va vb mk ew sc 17)
  | .vussub _ vd va vb mk ew sc => some (fmtV 0x30 vd va vb mk ew sc 18)
  | .vfadd _ vd va vb mk ew sc => some (fmtV 0x31 vd va vb mk ew sc 0)
  | .vfsub _ vd va vb mk ew sc => some (fmtV 0x31 vd va vb mk ew sc 1)
  | .vfmul _ vd va vb mk ew sc => some (fmtV 0x31 vd va vb mk ew sc 2)
  | .vfdiv _ vd va vb mk ew sc => some (fmtV 0x31 vd va vb mk ew sc 3)
  | .vfmin _ vd va vb mk ew sc => some (fmtV 0x31 vd va vb mk ew sc 5)
  | .vfmax _ vd va vb mk ew sc => some (fmtV 0x31 vd va vb mk ew sc 6)
  | .vfsgnj _ vd va vb mk ew sc => some (fmtV 0x31 vd va vb mk ew sc 9)
  | .vfsqrt _ vd va mk ew => some (fmtV 0x31 vd va 0 mk ew false 4)
  | .vfabs _ vd va mk ew => some (fmtV 0x31 vd va 0 mk ew false 7)
  | .vfneg _ vd va mk ew => some (fmtV 0x31 vd va 0 mk ew false 8)
  | .vfmadd _ vd va vb mk ew => some (fmtVF 0x32 vd va vb mk ew 0 0)
  | .vfmsub _ vd va vb mk ew => some (fmtVF 0x32 vd va vb mk ew 1 0)
  | .vfnmadd _ vd va vb mk ew => some (fmtVF 0x32 vd va vb mk ew 2 0)
  | .vfnmsub _ vd va vb mk ew => some (fmtVF 0x32 vd va vb mk ew 3 0)
  | .vld _ v ra mk ew => some (fmtVM 0x33 v ra 0 mk ew 0 0)
  | .vst _ v ra mk ew => some (fmtVM 0x33 v ra 0 mk ew 1 0)
  | .vldb _ v ra mk ew => some (fmtVM 0x33 v ra 0 mk ew 4 0)
  | .vlds _ v ra rb mk ew => some (fmtVM 0x33 v ra rb mk ew 2 0)
  | .vsts _ v ra rb mk ew => some (fmtVM 0x33 v ra rb mk ew 3 0)
  | .vgather _ v ra vi mk ew sc => some (fmtVG 0x34 v ra vi mk ew sc false 0)
  | .vscatter _ v ra vi mk ew sc => some (fmtVG 0x34 v ra vi mk ew sc true 0)
  | .vredadd _ vd va mk ew => some (fmtV 0x35 vd va 0 mk ew false 0)
  | .vredmin _ vd va mk ew => some (fmtV 0x35 vd va 0 mk ew false 1)
  | .vredmax _ vd va mk ew => some (fmtV 0x35 vd va 0 mk ew false 2)
  | .vredminu _ vd va mk ew => some (fmtV 0x35 vd va 0 mk ew false 3)
  | .vredmaxu _ vd va mk ew => some (fmtV 0x35 vd va 0 mk ew false 4)
  | .vredand _ vd va mk ew => some (fmtV 0x35 vd va 0 mk ew false 5)
  | .vredor _ vd va mk ew => some (fmtV 0x35 vd va 0 mk ew false 6)
  | .vredxor _ vd va mk ew => some (fmtV 0x35 vd va 0 mk ew false 7)
  | .vfredadd _ vd va mk ew => some (fmtV 0x35 vd va 0 mk ew false 8)
  | .vfredaddt _ vd va mk ew => some (fmtV 0x35 vd va 0 mk ew false 9)
  | .vfredmin _ vd va mk ew => some (fmtV 0x35 vd va 0 mk ew false 10)
  | .vfredmax _ vd va mk ew => some (fmtV 0x35 vd va 0 mk ew false 11)
  | .vperm _ vd va vb mk ew => some (fmtV 0x35 vd va vb mk ew false 16)
  | .vziplo _ vd va vb mk ew => some (fmtV 0x35 vd va vb mk ew false 21)
  | .vziphi _ vd va vb mk ew => some (fmtV 0x35 vd va vb mk ew false 22)
  | .vslidedn _ vd va rb mk ew => some (fmtV 0x35 vd va rb mk ew false 17)
  | .vslideup _ vd va rb mk ew => some (fmtV 0x35 vd va rb mk ew false 18)
  | .vcompress _ vd va mk ew => some (fmtV 0x35 vd va 0 mk ew false 19)
  | .vexpand _ vd va mk ew => some (fmtV 0x35 vd va 0 mk ew false 20)
  | .vcvtFI _ vd va mk ew => some (fmtV 0x36 vd va 0 mk ew false 0)
  | .vcvtFU _ vd va mk ew => some (fmtV 0x36 vd va 0 mk ew false 1)
  | .vcvtIF _ vd va mk ew => some (fmtV 0x36 vd va 0 mk ew false 2)
  | .vcvtUF _ vd va mk ew => some (fmtV 0x36 vd va 0 mk ew false 3)
  | .vcvtFFw _ vd va mk ew => some (fmtV 0x36 vd va 0 mk ew false 4)
  | .vcvtFFn _ vd va mk ew => some (fmtV 0x36 vd va 0 mk ew false 5)
  | .vsextW _ vd va mk ew => some (fmtV 0x36 vd va 0 mk ew false 6)
  | .vzextW _ vd va mk ew => some (fmtV 0x36 vd va 0 mk ew false 7)
  | .vnarrow _ vd va mk ew => some (fmtV 0x36 vd va 0 mk ew false 8)
  | .vmvVg _ vd ra mk ew => some (fmtV 0x36 vd ra 0 mk ew false 16)
  | .vmvGv _ rd va rb ew => some (fmtV 0x36 rd va rb 0 ew false 17)
  | .vins _ vd ra rb ew => some (fmtV 0x36 vd ra rb 0 ew false 18)
  | .vcmpeq _ md va vb mk ew => some (fmtV 0x37 md va vb mk ew false 0)
  | .vcmpne _ md va vb mk ew => some (fmtV 0x37 md va vb mk ew false 1)
  | .vcmplt _ md va vb mk ew => some (fmtV 0x37 md va vb mk ew false 2)
  | .vcmple _ md va vb mk ew => some (fmtV 0x37 md va vb mk ew false 3)
  | .vcmpltu _ md va vb mk ew => some (fmtV 0x37 md va vb mk ew false 4)
  | .vcmpleu _ md va vb mk ew => some (fmtV 0x37 md va vb mk ew false 5)
  | .vfcmpeq _ md va vb mk ew => some (fmtV 0x37 md va vb mk ew false 8)
  | .vfcmplt _ md va vb mk ew => some (fmtV 0x37 md va vb mk ew false 9)
  | .vfcmple _ md va vb mk ew => some (fmtV 0x37 md va vb mk ew false 10)
  | .vfcmpun _ md va vb mk ew => some (fmtV 0x37 md va vb mk ew false 11)
  | .mand _ md ma mb ew => some (fmtV 0x37 md ma mb 0 ew false 16)
  | .mor _ md ma mb ew => some (fmtV 0x37 md ma mb 0 ew false 17)
  | .mxor _ md ma mb ew => some (fmtV 0x37 md ma mb 0 ew false 18)
  | .mandn _ md ma mb ew => some (fmtV 0x37 md ma mb 0 ew false 19)
  | .mpopc _ rd ma ew => some (fmtV 0x37 rd ma 0 0 ew false 20)
  | .mfirst _ rd ma ew => some (fmtV 0x37 rd ma 0 0 ew false 21)
  | .mmvGm _ rd ma ew => some (fmtV 0x37 rd ma 0 0 ew false 22)
  | .mmvMg _ md ra ew => some (fmtV 0x37 md ra 0 0 ew false 23)
  | .crr _ rd cr => some (fmtC 0x38 rd 0 cr 0)
  | .crw _ rd ra cr => some (fmtC 0x38 rd ra cr 1)
  | .crs _ rd ra cr => some (fmtC 0x38 rd ra cr 2)
  | .crc _ rd ra cr => some (fmtC 0x38 rd ra cr 3)
  | .scall _ => some (fmtR 0x39 0 0 0 0)
  | .hcall _ => some (fmtR 0x39 0 0 0 1)
  | .mcall _ => some (fmtR 0x39 0 0 0 2)
  | .retx _ => some (fmtR 0x39 0 0 0 3)
  | .syncCtx _ => some (fmtR 0x39 0 0 0 4)
  | .wait _ => some (fmtR 0x39 0 0 0 5)
  | .geodeExit _ => some (fmtR 0x39 0 0 0 8)
  | .ltol _ ra => some (fmtR 0x39 0 ra 0 6)
  | .geodeEnter _ ra => some (fmtR 0x39 0 ra 0 7)
  | .qresv _ rd ra => some (fmtR 0x3A rd ra 0 0)
  | .qrel _ rd ra => some (fmtR 0x3A rd ra 0 1)
  | .qquery _ rd ra => some (fmtR 0x3A rd ra 0 2)
  | .churnPost _ rd ra rb => some (fmtR 0x3B rd ra rb 0)
  | .instQuiesce _ rd ra rb => some (fmtR 0x3C rd ra rb 0)
  | .instReset _ rd ra rb => some (fmtR 0x3C rd ra rb 1)
  | .instCreate _ rd ra rb => some (fmtR 0x3C rd ra rb 2)
  | .instBind _ rd ra rb => some (fmtR 0x3C rd ra rb 3)
  | .instRemove _ rd ra rb => some (fmtR 0x3C rd ra rb 4)
  | .cmoClean _ ra form target => some (fmtCmo 0x3D 0 ra 0 0 form target 0)
  | .cmoInvalidate _ ra form target => some (fmtCmo 0x3D 0 ra 0 1 form target 0)
  | .cmoCleanInvalidate _ ra form target => some (fmtCmo 0x3D 0 ra 0 2 form target 0)
  | .tlbiVmidStage1 _ ra rb => some (fmtR 0x3E 0 ra rb 0)
  | .tlbiVaAsid _ ra rb => some (fmtR 0x3E 0 ra rb 1)
  | .tlbiAsid _ ra rb => some (fmtR 0x3E 0 ra rb 2)
  | .tlbiVa _ ra rb => some (fmtR 0x3E 0 ra rb 3)
  | .tlbiIaVmid _ ra rb => some (fmtR 0x3E 0 ra rb 4)
  | .tlbiVmid _ ra rb => some (fmtR 0x3E 0 ra rb 5)
  | .tlbiAll _ ra rb => some (fmtR 0x3E 0 ra rb 6)
  | _ => none

end Sys2Proof
end

