-- ==== Sys2Proof/Config.lean ====
section
/-! DEFINITION. Values that the spec leaves open, as constants without a body: nothing can be proved about which value
they have. The last argument of a free value is the step's own counter (`Hw.fresh`), so that each use is a new value. -/

namespace Sys2Proof

/-- A 64-bit value the spec does not state (log 6). -/
opaque Config.freeWord : Nat → Word

/-- A 512-bit value the spec does not state (log 6). -/
opaque Config.freeVec : Nat → Vec

/-- The value of a line that this node neither holds nor keeps current in its memory: a line of another member, or one that another
member owns (log 31). -/
opaque Config.farLine : Nat → Nat → Vec

/-- Whether a fused multiply-add of 0 × infinity with a quiet NaN signals invalid: IEEE 754-2019 leaves it to the implementation,
and R85 and R86 do not say (log 10). -/
opaque Config.fmaInvalid : Bool

/-- The payload rate in MB/s of a trained PCIe or CXL link, by rate code and width: the site survey records one, and the spec does not
state it (log 33). -/
opaque Config.pciePayload : Nat → Nat → Nat

/-- Where a controller's training puts a channel-local line: SUBCH, rank, bank group, bank, row and column as the LOC word of R341 lays
them out. R316 says that training records such a map and not what it is (log 39). -/
opaque Config.dramLoc : Nat → Nat → Nat

/-- The two channel-local lines of a rank's k-th column pair (R325): a part of the same map (log 39). -/
opaque Config.dramPair : Nat → Nat → Nat → Nat × Nat

/-- The column pair that a channel-local line belongs to: a part of the same map (log 39). -/
opaque Config.pairOf : Nat → Nat → Nat

/-- The activation threshold of a Pool stack, which has no register for one (R331, log 42). -/
opaque Config.poolActth : Nat

/-- The fused voltage in mV of a chamber at a clock in MHz, before the bounds of R422 (log 40). -/
opaque Config.fusedMv : Nat → Nat → Nat

/-- The value of the Lantern IDCODE register (R500, log 41). -/
opaque Config.idcode : BitVec 32

/-- SHA-384 of FIPS 180-4, which the spec names and does not restate (R456, R459): 48 bytes. -/
opaque Config.sha384 : Bytes → Bytes

/-- HMAC-SHA-384 truncated to 16 bytes, key first (R463). -/
opaque Config.hmac128 : Bytes → Bytes → BitVec 128

/-- Whether an ECDSA P-384 signature over a digest verifies: key, digest, signature (R455). -/
opaque Config.ecdsaOk : Bytes → Bytes → Bytes → Bool

/-- Whether an LMS signature over a message verifies: key, message, signature (R455). -/
opaque Config.lmsOk : Bytes → Bytes → Bytes → Bool

/-- The SPDM responder's answer to a message, given the measurements (R458, R459); SPDM 1.3 itself is not restated by the spec. -/
opaque Config.spdmAnswer : Nat → Bytes → Bytes → Bytes

end Sys2Proof
end

