-- ==== Sys2Proof/Machine/RegTable.lean ====
section
/-! DEFINITION. The memory-mapped registers of R24: one row per family of registers, with its block, offset, stride, the
lowest levels that may write and read it, and its fields with access code (R9), reset value and legal values (R10). -/

namespace Sys2Proof.Machine

/-- Access codes of R9. `ros` and `w1cs` are RO and W1C fields that survive warm reset. -/
inductive RAcc where
  | ro | rw | w1c | wo | rwo | rws | ros | w1cs
deriving DecidableEq, Repr

/-- Which values of a field are legal (R10); `tagged` values have a rule of their own. -/
inductive Legal where
  | any
  | rng (lo hi : Nat)
  | tagged (n : Nat)
deriving DecidableEq, Repr

/-- A field: bits hi to lo. -/
structure RField where
  hi : Nat
  lo : Nat
  acc : RAcc
  reset : Nat
  legal : Legal
deriving DecidableEq, Repr

/-- The register blocks of R24. -/
inductive Block where
  | chamber | vat | mc | pool | link | router | adm | pwr | regchk | log | kpr
deriving DecidableEq, Repr

/-- A family of registers: offset, two strides with counts, lowest levels that may write and read (0 U, 1 S, 2 H, 3 M,
9 nobody), fields. -/
structure RegDef where
  off : Nat
  s1 : Nat
  n1 : Nat
  s2 : Nat
  n2 : Nat
  wmin : Nat
  rmin : Nat
  fields : List RField
deriving DecidableEq, Repr

/-- The base of a block's first instance (R24). -/
def Block.base : Block → Nat
  | .chamber => 0xFF0000000000
  | .vat => 0xFF1000000000
  | .mc => 0xFF2000000000
  | .pool => 0xFF2800000000
  | .link => 0xFF3000000000
  | .router => 0xFF4000000000
  | .adm => 0xFF4800000000
  | .pwr => 0xFF5000000000
  | .regchk => 0xFF5800000000
  | .log => 0xFF6000000000
  | .kpr => 0xFF7000000000

/-- The window of one instance (R24). -/
def Block.window : Block → Nat
  | .chamber => 0x100000
  | .vat => 0x10000
  | .mc => 0x100000
  | .pool => 0x100000
  | .link => 0x100000
  | .router => 0x4000000
  | .adm => 0x100000
  | .pwr => 0x100000
  | .regchk => 0x100000
  | .log => 0x100000
  | .kpr => 0x10000

/-- How many instances a block has (R24). -/
def Block.count : Block → Nat
  | .chamber => 72
  | .vat => 72
  | .mc => 12
  | .pool => 4
  | .link => 18
  | .router => 1
  | .adm => 1
  | .pwr => 1
  | .regchk => 1
  | .log => 1
  | .kpr => 1

/-- Every block. -/
def Block.all : List Block := [.chamber, .vat, .mc, .pool, .link, .router, .adm, .pwr, .regchk, .log, .kpr]

/-- Registers of the CHAMBER block, part 1 (R167, R311, R374, R380). -/
def regsChamber0 : List RegDef := [
  -- CHAMBER.RESCUE.FRAME
  ⟨0x80000, 0x100, 16, 0x8, 8, 3, 3, [⟨63, 0, .rw, 0, .any⟩]⟩,
  -- CHAMBER.RESCUE.FAILADDR
  ⟨0x80040, 0x100, 16, 0x8, 1, 3, 3, [⟨63, 0, .ro, 0, .any⟩]⟩,
  -- CHAMBER.RESCUE.FAILSUB
  ⟨0x80048, 0x100, 16, 0x8, 1, 3, 3, [⟨15, 0, .ro, 0, .any⟩]⟩,
  -- CHAMBER.RESCUE.USED
  ⟨0x80050, 0x100, 16, 0x8, 1, 3, 3, [⟨0, 0, .w1c, 0, .any⟩]⟩,
  -- CHAMBER.RESCUE.XSPM
  ⟨0x80058, 0x100, 16, 0x8, 1, 3, 3, [⟨63, 0, .ro, 0, .any⟩]⟩,
  -- CHAMBER.RESCUE.SCRATCH
  ⟨0x80060, 0x100, 16, 0x8, 20, 3, 3, [⟨63, 0, .rw, 0, .any⟩]⟩,
  -- CHAMBER.QOSW
  ⟨0x2000, 0x8, 2, 0x8, 1, 2, 0, [⟨63, 0, .rw, 1157442765409226768, .any⟩]⟩,
  -- CHAMBER.EVT
  ⟨0x1000, 0x8, 1, 0x8, 1, 2, 0, [⟨4, 0, .w1c, 0, .any⟩]⟩,
  -- CHAMBER.EVTEN
  ⟨0x1008, 0x8, 1, 0x8, 1, 2, 0, [⟨4, 0, .rw, 31, .any⟩]⟩,
  -- CHAMBER.ICLAIM_N
  ⟨0x90000, 0x80, 16, 0x8, 1, 0, 0, [
      ⟨63, 63, .ro, 0, .any⟩,
      ⟨62, 62, .ro, 0, .any⟩,
      ⟨61, 61, .ro, 0, .any⟩,
      ⟨60, 53, .ro, 0, .any⟩,
      ⟨47, 24, .ro, 0, .any⟩,
      ⟨11, 0, .ro, 0, .any⟩]⟩,
  -- CHAMBER.ICLAIM_SS
  ⟨0x90008, 0x80, 16, 0x8, 1, 0, 0, [
      ⟨63, 63, .ro, 0, .any⟩,
      ⟨62, 62, .ro, 0, .any⟩,
      ⟨61, 61, .ro, 0, .any⟩,
      ⟨60, 53, .ro, 0, .any⟩,
      ⟨47, 24, .ro, 0, .any⟩,
      ⟨11, 0, .ro, 0, .any⟩]⟩,
  -- CHAMBER.ICLAIM_H
  ⟨0x90010, 0x80, 16, 0x8, 1, 0, 0, [
      ⟨63, 63, .ro, 0, .any⟩,
      ⟨62, 62, .ro, 0, .any⟩,
      ⟨61, 61, .ro, 0, .any⟩,
      ⟨60, 53, .ro, 0, .any⟩,
      ⟨47, 24, .ro, 0, .any⟩,
      ⟨11, 0, .ro, 0, .any⟩]⟩]

/-- Registers of the CHAMBER block, part 2 (R380, R386). -/
def regsChamber1 : List RegDef := [
  -- CHAMBER.ICLAIM_M
  ⟨0x90018, 0x80, 16, 0x8, 1, 0, 0, [
      ⟨63, 63, .ro, 0, .any⟩,
      ⟨62, 62, .ro, 0, .any⟩,
      ⟨61, 61, .ro, 0, .any⟩,
      ⟨60, 53, .ro, 0, .any⟩,
      ⟨47, 24, .ro, 0, .any⟩,
      ⟨11, 0, .ro, 0, .any⟩]⟩,
  -- CHAMBER.VCTL
  ⟨0x90020, 0x80, 16, 0x8, 1, 2, 0, [
      ⟨63, 63, .rw, 0, .any⟩,
      ⟨62, 62, .wo, 0, .any⟩,
      ⟨61, 61, .ro, 0, .any⟩,
      ⟨15, 0, .rw, 0, .any⟩]⟩,
  -- CHAMBER.VPID
  ⟨0x90028, 0x80, 16, 0x8, 1, 2, 0, [⟨63, 6, .rw, 0, .any⟩]⟩,
  -- CHAMBER.VPEND
  ⟨0x90040, 0x80, 16, 0x8, 4, 9, 0, [⟨63, 0, .ro, 0, .any⟩]⟩]

/-- Every register of the CHAMBER block. -/
def regsChamber : List RegDef := regsChamber0 ++ regsChamber1

/-- Registers of the VAT block, part 1 (R245, R281). -/
def regsVat0 : List RegDef := [
  -- VAT.IOCAP
  ⟨0x90, 0x8, 1, 0x8, 1, 2, 0, [⟨4, 0, .rw, 12, .rng 0 16⟩]⟩,
  -- VAT.IOQUOTA
  ⟨0x100, 0x8, 8, 0x8, 1, 2, 0, [⟨3, 0, .rw, 2, .rng 0 12⟩]⟩,
  -- VAT.IOQUOTA_14_17
  ⟨0x170, 0x8, 4, 0x8, 1, 2, 0, [⟨3, 0, .rw, 2, .rng 0 12⟩]⟩,
  -- VAT.VHIT
  ⟨0x200, 0x8, 1, 0x8, 1, 9, 0, [⟨63, 0, .ro, 0, .any⟩]⟩,
  -- VAT.SFBI
  ⟨0x208, 0x8, 1, 0x8, 1, 9, 0, [⟨63, 0, .ro, 0, .any⟩]⟩,
  -- VAT.NOALLOC
  ⟨0x210, 0x8, 1, 0x8, 1, 9, 0, [⟨63, 0, .ro, 0, .any⟩]⟩,
  -- VAT.DIRBCAST
  ⟨0x218, 0x8, 1, 0x8, 1, 9, 0, [⟨63, 0, .ro, 0, .any⟩]⟩,
  -- CHURN.ICTL
  ⟨0x8000, 0x800, 8, 0x8, 1, 9, 0, [⟨6, 0, .ro, 0, .any⟩]⟩,
  -- CHURN.QSTAT
  ⟨0x8008, 0x800, 8, 0x8, 1, 9, 0, [⟨63, 32, .ro, 0, .any⟩, ⟨5, 0, .ro, 0, .any⟩]⟩,
  -- CHURN.PROG
  ⟨0x8010, 0x800, 8, 0x8, 1, 9, 0, [⟨63, 63, .ro, 0, .any⟩, ⟨59, 56, .ro, 0, .any⟩, ⟨32, 0, .ro, 0, .any⟩]⟩,
  -- CHURN.PACC
  ⟨0x8018, 0x800, 8, 0x8, 1, 9, 0, [⟨63, 0, .ro, 0, .any⟩]⟩,
  -- CHURN.PSEQ
  ⟨0x8020, 0x800, 8, 0x8, 1, 9, 0, [⟨31, 0, .ro, 0, .any⟩]⟩]

/-- Registers of the VAT block, part 2 (R281, R374). -/
def regsVat1 : List RegDef := [
  -- CHURN.PDESC
  ⟨0x8040, 0x800, 8, 0x8, 8, 9, 0, [⟨63, 0, .ro, 0, .any⟩]⟩,
  -- CHURN.LOSTCMPL
  ⟨0x8080, 0x800, 8, 0x8, 8, 9, 0, [⟨63, 0, .ro, 0, .any⟩]⟩,
  -- CHURN.LOSTCNT
  ⟨0x80c0, 0x800, 8, 0x8, 1, 9, 0, [⟨63, 0, .ro, 0, .any⟩]⟩,
  -- VAT.EVT
  ⟨0x80, 0x8, 1, 0x8, 1, 2, 0, [⟨2, 0, .w1c, 0, .any⟩]⟩,
  -- VAT.EVTEN
  ⟨0x88, 0x8, 1, 0x8, 1, 2, 0, [⟨2, 0, .rw, 7, .any⟩]⟩]

/-- Every register of the VAT block. -/
def regsVat : List RegDef := regsVat0 ++ regsVat1

/-- Registers of the MC block (R343, R374). The class value 3 and the failed-device values 20 to 30 of MC.RANK_r, which the rule neither describes
nor calls reserved, are stored as written (DESIGN CHOICE, log 170). -/
def regsMc : List RegDef := [
  -- MC.SURVEY
  ⟨0x0, 0x8, 1, 0x8, 1, 9, 0, [
      ⟨47, 32, .ro, 0, .any⟩,
      ⟨31, 24, .ro, 0, .any⟩,
      ⟨23, 16, .ro, 0, .any⟩,
      ⟨3, 0, .ro, 0, .any⟩]⟩,
  -- MC.MCARE
  ⟨0x100, 0x8, 1, 0x8, 1, 3, 0, [
      ⟨47, 40, .rw, 24, .rng 4 168⟩,
      ⟨16, 16, .rwo, 0, .any⟩,
      ⟨11, 0, .rw, 2048, .rng 256 4095⟩]⟩,
  -- MC.RANK
  ⟨0x200, 0x8, 8, 0x8, 1, 3, 0, [
      ⟨63, 63, .rws, 0, .any⟩,
      ⟨62, 62, .rws, 0, .any⟩,
      ⟨61, 57, .rws, 0, .any⟩,
      ⟨56, 52, .rws, 0, .any⟩,
      ⟨51, 50, .rws, 0, .any⟩,
      ⟨31, 0, .rws, 0, .any⟩]⟩,
  -- MC.LIFEACT
  ⟨0x300, 0x8, 8, 0x8, 1, 3, 0, [⟨63, 0, .rws, 0, .any⟩]⟩,
  -- MC.LIFEVRR
  ⟨0x340, 0x8, 8, 0x8, 1, 3, 0, [⟨63, 0, .rws, 0, .any⟩]⟩,
  -- MC.LIFECOR
  ⟨0x380, 0x8, 8, 0x8, 1, 3, 0, [⟨63, 32, .rws, 0, .any⟩, ⟨31, 0, .rws, 0, .any⟩]⟩,
  -- MC.LIFEHOT
  ⟨0x3c0, 0x8, 8, 0x8, 1, 3, 0, [⟨63, 0, .rws, 0, .any⟩]⟩,
  -- MC.SPARES
  ⟨0x400, 0x8, 1, 0x8, 1, 3, 0, [⟨6, 0, .rws, 0, .rng 0 64⟩]⟩,
  -- MC.EVT
  ⟨0x10, 0x8, 1, 0x8, 1, 3, 0, [⟨4, 0, .w1c, 0, .any⟩]⟩,
  -- MC.EVTEN
  ⟨0x18, 0x8, 1, 0x8, 1, 3, 0, [⟨4, 0, .rw, 31, .any⟩]⟩]

/-- Registers of the POOL block (R343, R374). -/
def regsPool : List RegDef := [
  -- POOL.MODE
  ⟨0x0, 0x8, 1, 0x8, 1, 3, 0, [⟨0, 0, .rwo, 0, .any⟩]⟩,
  -- POOL.SURVEY
  ⟨0x8, 0x8, 1, 0x8, 1, 9, 0, [
      ⟨47, 32, .ro, 0, .any⟩,
      ⟨31, 24, .ro, 0, .any⟩,
      ⟨23, 16, .ro, 0, .any⟩,
      ⟨3, 0, .ro, 0, .any⟩]⟩,
  -- POOL.LIFEACT
  ⟨0x300, 0x8, 1, 0x8, 1, 3, 0, [⟨63, 0, .rws, 0, .any⟩]⟩,
  -- POOL.LIFEVRR
  ⟨0x340, 0x8, 1, 0x8, 1, 3, 0, [⟨63, 0, .rws, 0, .any⟩]⟩,
  -- POOL.LIFECOR
  ⟨0x380, 0x8, 1, 0x8, 1, 3, 0, [⟨63, 32, .rws, 0, .any⟩, ⟨31, 0, .rws, 0, .any⟩]⟩,
  -- POOL.LIFEHOT
  ⟨0x3c0, 0x8, 1, 0x8, 1, 3, 0, [⟨63, 0, .rws, 0, .any⟩]⟩,
  -- POOL.EVT
  ⟨0x10, 0x8, 1, 0x8, 1, 3, 0, [⟨4, 0, .w1c, 0, .any⟩]⟩,
  -- POOL.EVTEN
  ⟨0x18, 0x8, 1, 0x8, 1, 3, 0, [⟨4, 0, .rw, 31, .any⟩]⟩]

/-- Registers of the LINK block, part 1 (R371, R372). -/
def regsLink0 : List RegDef := [
  -- LINK.CFG
  ⟨0x0, 0x8, 1, 0x8, 1, 3, 0, [
      ⟨14, 0, .rw, 0, .tagged 1⟩,
      ⟨16, 16, .rw, 0, .tagged 2⟩,
      ⟨17, 17, .rw, 0, .any⟩,
      ⟨18, 18, .rw, 0, .any⟩]⟩,
  -- LINK.CTO
  ⟨0x8, 0x8, 1, 0x8, 1, 3, 0, [⟨23, 0, .rw, 16000, .rng 50 64000⟩]⟩,
  -- LINK.STAT
  ⟨0x100, 0x8, 16, 0x8, 1, 9, 0, [
      ⟨63, 61, .ro, 0, .any⟩,
      ⟨60, 57, .ro, 0, .any⟩,
      ⟨56, 52, .ro, 0, .any⟩,
      ⟨51, 48, .ro, 0, .any⟩,
      ⟨47, 40, .ro, 0, .any⟩,
      ⟨39, 28, .ro, 0, .any⟩,
      ⟨27, 24, .ro, 0, .any⟩,
      ⟨23, 16, .ro, 0, .any⟩,
      ⟨15, 0, .ro, 0, .any⟩]⟩,
  -- LINK.LTR
  ⟨0x200, 0x8, 16, 0x8, 1, 9, 0, [⟨31, 0, .ro, 4294967295, .any⟩]⟩,
  -- LINK.WIN_BASE
  ⟨0x300, 0x10, 2, 0x8, 1, 3, 0, [⟨47, 20, .rw, 0, .any⟩]⟩,
  -- LINK.WIN_LIMIT
  ⟨0x308, 0x10, 2, 0x8, 1, 3, 0, [⟨63, 63, .rw, 0, .any⟩, ⟨47, 20, .rw, 0, .any⟩]⟩,
  -- LINK.HDM_BASE
  ⟨0x400, 0x10, 4, 0x8, 1, 3, 0, [⟨47, 28, .rw, 0, .any⟩]⟩,
  -- LINK.HDM_CTL
  ⟨0x408, 0x10, 4, 0x8, 1, 3, 0, [
      ⟨63, 63, .rw, 0, .any⟩,
      ⟨62, 60, .rw, 0, .rng 0 3⟩,
      ⟨59, 57, .rw, 0, .rng 0 6⟩,
      ⟨55, 32, .rw, 0, .any⟩,
      ⟨27, 0, .rw, 0, .any⟩]⟩,
  -- LINK.FUNC
  ⟨0x1000, 0x8, 256, 0x8, 1, 2, 0, [⟨63, 63, .rw, 0, .any⟩, ⟨39, 32, .rw, 0, .any⟩, ⟨15, 0, .rw, 0, .any⟩]⟩,
  -- PASSAGE.CTL
  ⟨0x2000, 0x8, 1, 0x8, 1, 3, 0, [⟨32, 32, .rw, 0, .any⟩, ⟨23, 0, .rw, 2000, .rng 100 10000000⟩]⟩,
  -- GALLERY.SPARE
  ⟨0x3000, 0x8, 1, 0x8, 1, 3, 0, [⟨5, 4, .rw, 0, .rng 0 2⟩, ⟨2, 0, .rw, 0, .rng 0 4⟩]⟩,
  -- GALLERY.ROUTE
  ⟨0x3100, 0x8, 16, 0x8, 1, 9, 0, [⟨7, 7, .ro, 0, .any⟩, ⟨6, 4, .ro, 0, .any⟩, ⟨1, 0, .ro, 0, .any⟩]⟩]

/-- Registers of the LINK block, part 2 (R372, R374). -/
def regsLink1 : List RegDef := [
  -- GALLERY.LSCHG
  ⟨0x3200, 0x8, 1, 0x8, 1, 9, 0, [⟨63, 0, .ro, 0, .any⟩]⟩,
  -- LINK.EVT
  ⟨0x10, 0x8, 1, 0x8, 1, 2, 0, [⟨7, 0, .w1c, 0, .any⟩]⟩,
  -- LINK.EVTEN
  ⟨0x18, 0x8, 1, 0x8, 1, 2, 0, [⟨7, 0, .rw, 255, .any⟩]⟩]

/-- Every register of the LINK block. -/
def regsLink : List RegDef := regsLink0 ++ regsLink1

/-- Registers of the ROUTER block (R377, R394). -/
def regsRouter : List RegDef := [
  -- ROUTER.WIRE
  ⟨0x0, 0x8, 4096, 0x8, 1, 2, 0, [
      ⟨63, 63, .rw, 0, .any⟩,
      ⟨62, 62, .ro, 0, .any⟩,
      ⟨61, 61, .ro, 0, .any⟩,
      ⟨60, 59, .rw, 0, .any⟩,
      ⟨58, 58, .rw, 0, .any⟩,
      ⟨42, 32, .rw, 0, .rng 0 1151⟩,
      ⟨11, 0, .rw, 0, .any⟩]⟩,
  -- ROUTER.MTBASE_N
  ⟨0x100000, 0x8, 1, 0x8, 1, 2, 0, [⟨63, 12, .rw, 0, .any⟩, ⟨4, 0, .rw, 0, .rng 0 24⟩]⟩,
  -- ROUTER.MTBASE_S
  ⟨0x100008, 0x8, 1, 0x8, 1, 3, 0, [⟨63, 12, .rw, 0, .any⟩, ⟨4, 0, .rw, 0, .rng 0 24⟩]⟩,
  -- ROUTER.INVAL
  ⟨0x100010, 0x8, 1, 0x8, 1, 2, 0, [⟨63, 63, .wo, 0, .any⟩, ⟨62, 62, .wo, 0, .any⟩, ⟨23, 0, .wo, 0, .any⟩]⟩,
  -- ROUTER.DROP
  ⟨0x100018, 0x8, 1, 0x8, 1, 9, 0, [⟨63, 0, .ro, 0, .any⟩]⟩,
  -- ROUTER.INST
  ⟨0x200000, 0x8, 512, 0x8, 1, 9, 0, [
      ⟨63, 61, .ro, 0, .any⟩,
      ⟨60, 60, .ro, 0, .any⟩,
      ⟨47, 40, .ro, 0, .any⟩,
      ⟨34, 28, .ro, 0, .any⟩,
      ⟨15, 0, .ro, 0, .any⟩]⟩]

/-- Registers of the ADM block (R311). -/
def regsAdm : List RegDef := [
  -- ADM.CAP
  ⟨0x0, 0x8, 1, 0x8, 1, 2, 0, [⟨7, 0, .rw, 153, .rng 0 153⟩]⟩,
  -- ADM.STAT
  ⟨0x8, 0x8, 1, 0x8, 1, 9, 0, [⟨44, 32, .ro, 0, .any⟩, ⟨12, 0, .ro, 0, .any⟩]⟩,
  -- ADM.REFCNT
  ⟨0x10, 0x8, 1, 0x8, 1, 9, 0, [⟨63, 0, .ro, 0, .any⟩]⟩,
  -- ADM.MARKS
  ⟨0x18, 0x8, 1, 0x8, 1, 9, 0, [⟨63, 0, .ro, 0, .any⟩]⟩,
  -- ADM.LOAD
  ⟨0x80000, 0x8, 65536, 0x8, 1, 9, 0, [⟨23, 16, .ro, 0, .any⟩, ⟨15, 8, .ro, 0, .any⟩, ⟨7, 0, .ro, 0, .any⟩]⟩]

/-- Registers of the PWR block, part 1 (R445). -/
def regsPwr0 : List RegDef := [
  -- PWR.LIMIT
  ⟨0x0, 0x8, 1, 0x8, 1, 3, 0, [⟨31, 24, .rw, 8, .rng 1 64⟩, ⟨15, 0, .rw, 720, .tagged 3⟩]⟩,
  -- PWR.STAT
  ⟨0x8, 0x8, 1, 0x8, 1, 9, 0, [⟨63, 48, .ro, 0, .any⟩, ⟨47, 32, .ro, 0, .any⟩, ⟨31, 28, .ro, 0, .any⟩]⟩,
  -- PWR.EVENT
  ⟨0x20, 0x8, 1, 0x8, 1, 2, 0, [⟨5, 0, .w1c, 0, .any⟩]⟩,
  -- PWR.FREQ
  ⟨0x100, 0x8, 72, 0x8, 1, 1, 0, [⟨63, 63, .ro, 0, .any⟩, ⟨47, 32, .ro, 2600, .any⟩, ⟨15, 0, .rw, 2600, .tagged 4⟩]⟩,
  -- PWR.RAIL
  ⟨0x600, 0x8, 12, 0x8, 1, 9, 0, [
      ⟨63, 48, .ro, 0, .any⟩,
      ⟨47, 32, .ro, 0, .any⟩,
      ⟨31, 16, .ro, 0, .any⟩,
      ⟨0, 0, .ro, 0, .any⟩]⟩,
  -- PWR.BLKREQ
  ⟨0x800, 0x8, 1, 0x8, 1, 2, 0, [
      ⟨63, 63, .wo, 0, .any⟩,
      ⟨62, 62, .ro, 0, .any⟩,
      ⟨61, 60, .ro, 0, .any⟩,
      ⟨57, 56, .rw, 0, .any⟩,
      ⟨15, 0, .rw, 0, .any⟩]⟩,
  -- PWR.PKGCTL
  ⟨0x900, 0x8, 1, 0x8, 1, 2, 0, [
      ⟨63, 63, .rw, 0, .any⟩,
      ⟨62, 61, .ro, 0, .any⟩,
      ⟨2, 2, .rw, 0, .any⟩,
      ⟨1, 1, .rw, 0, .any⟩]⟩,
  -- PWR.GTOL
  ⟨0x908, 0x8, 1, 0x8, 1, 3, 0, [⟨31, 0, .rw, 0, .any⟩]⟩,
  -- PWR.SAVEBASE
  ⟨0x910, 0x8, 1, 0x8, 1, 3, 0, [⟨63, 63, .rws, 0, .any⟩, ⟨47, 12, .rws, 0, .any⟩]⟩,
  -- PWR.PREPREF
  ⟨0x918, 0x8, 1, 0x8, 1, 9, 0, [⟨63, 0, .ro, 0, .any⟩]⟩,
  -- PWR.DROOP
  ⟨0xa00, 0x8, 1, 0x8, 1, 3, 0, [⟨15, 8, .rw, 90, .any⟩, ⟨7, 0, .rw, 40, .any⟩]⟩,
  -- PWR.DROOPCNT
  ⟨0x1000, 0x8, 72, 0x8, 1, 9, 0, [⟨63, 32, .ro, 0, .any⟩, ⟨31, 0, .ro, 0, .any⟩]⟩]

/-- Registers of the PWR block, part 2 (R445). -/
def regsPwr1 : List RegDef := [
  -- PWR.LASTWAKE
  ⟨0x2000, 0x20, 8, 0x8, 4, 9, 0, [⟨63, 0, .ros, 0, .any⟩]⟩,
  -- PWR.LWIDX
  ⟨0x2100, 0x8, 1, 0x8, 1, 9, 0, [⟨63, 32, .ros, 0, .any⟩, ⟨2, 0, .ros, 0, .any⟩]⟩]

/-- Every register of the PWR block. -/
def regsPwr : List RegDef := regsPwr0 ++ regsPwr1

/-- Registers of the REGCHK block (R27, R395, R403, R410, R411, R415, R416). -/
def regsRegchk : List RegDef := [
  -- REGCHK.NODE_ID
  ⟨0x10000, 0x8, 1, 0x8, 1, 3, 0, [⟨15, 0, .rwo, 0, .any⟩]⟩,
  -- REGCHK.DDR_TOP
  ⟨0x10008, 0x8, 1, 0x8, 1, 3, 0, [⟨42, 30, .ro, 0, .any⟩]⟩,
  -- REGCHK.GROUP
  ⟨0x10100, 0x8, 16, 0x8, 1, 3, 0, [⟨63, 63, .rw, 0, .any⟩, ⟨15, 0, .rw, 0, .any⟩]⟩,
  -- REGCHK.RGN.BASE
  ⟨0x0, 0x20, 64, 0x8, 1, 3, 3, [⟨47, 12, .rws, 0, .any⟩]⟩,
  -- REGCHK.RGN.LIMIT
  ⟨0x8, 0x20, 64, 0x8, 1, 3, 3, [⟨47, 12, .rws, 0, .any⟩]⟩,
  -- REGCHK.RGN.ATTR
  ⟨0x10, 0x20, 64, 0x8, 1, 3, 3, [
      ⟨63, 63, .rws, 0, .any⟩,
      ⟨62, 62, .rwo, 0, .any⟩,
      ⟨57, 56, .rws, 0, .rng 0 2⟩,
      ⟨43, 32, .rws, 0, .any⟩,
      ⟨2, 2, .rws, 0, .any⟩,
      ⟨1, 1, .rws, 0, .any⟩,
      ⟨0, 0, .rws, 0, .any⟩]⟩,
  -- REGCHK.GTBL
  ⟨0x20000, 0x8, 1, 0x8, 1, 3, 3, [⟨47, 12, .rws, 0, .any⟩]⟩,
  -- REGCHK.HANDOVER
  ⟨0x20010, 0x8, 1, 0x8, 1, 3, 0, [
      ⟨63, 63, .wo, 0, .any⟩,
      ⟨62, 62, .ro, 0, .any⟩,
      ⟨61, 60, .rw, 0, .rng 0 2⟩,
      ⟨59, 59, .rw, 0, .any⟩,
      ⟨58, 56, .ro, 0, .any⟩,
      ⟨11, 0, .rw, 0, .any⟩]⟩,
  -- REGCHK.PORTSEC
  ⟨0x20018, 0x8, 1, 0x8, 1, 9, 0, [⟨7, 0, .ro, 0, .any⟩]⟩,
  -- REGCHK.SECSLEEP
  ⟨0x20020, 0x8, 1, 0x8, 1, 3, 0, [⟨0, 0, .rw, 0, .any⟩]⟩,
  -- REGCHK.SWDT
  ⟨0x20100, 0x8, 1, 0x8, 1, 3, 0, [⟨47, 32, .rwo, 763, .rng 1 65535⟩, ⟨31, 16, .rwo, 95, .any⟩, ⟨15, 0, .ro, 763, .any⟩]⟩]

/-- Registers of the LOG block, part 1 (R490). -/
def regsLog0 : List RegDef := [
  -- LOG.CTL
  ⟨0x0, 0x8, 1, 0x8, 1, 2, 2, [⟨27, 16, .rw, 1024, .rng 1 4095⟩, ⟨11, 0, .rw, 3584, .rng 256 3840⟩]⟩,
  -- LOG.STAT
  ⟨0x8, 0x8, 1, 0x8, 1, 9, 2, [⟨63, 63, .ro, 0, .any⟩, ⟨44, 32, .ro, 0, .any⟩]⟩,
  -- LOG.WR
  ⟨0x10, 0x8, 1, 0x8, 1, 9, 2, [⟨31, 0, .ro, 0, .any⟩]⟩,
  -- LOG.PEEK
  ⟨0x18, 0x8, 1, 0x8, 1, 2, 2, [⟨31, 0, .rw, 0, .any⟩]⟩,
  -- LOG.RD
  ⟨0x20, 0x8, 1, 0x8, 1, 2, 2, [⟨31, 0, .rw, 0, .any⟩]⟩,
  -- LOG.DROP
  ⟨0x28, 0x8, 1, 0x8, 1, 9, 2, [⟨63, 32, .ro, 0, .any⟩, ⟨31, 0, .ro, 0, .any⟩]⟩,
  -- LOG.COALCNT
  ⟨0x30, 0x8, 1, 0x8, 1, 9, 2, [⟨63, 0, .ro, 0, .any⟩]⟩,
  -- LOG.FATAL
  ⟨0x38, 0x8, 1, 0x8, 1, 2, 2, [⟨63, 63, .w1cs, 0, .any⟩, ⟨47, 32, .ros, 0, .any⟩, ⟨7, 0, .ros, 0, .any⟩]⟩,
  -- LOG.BANK
  ⟨0x100, 0x8, 6, 0x8, 1, 9, 2, [⟨63, 32, .ro, 0, .any⟩, ⟨5, 0, .ro, 0, .any⟩]⟩,
  -- LOG.ENTRY
  ⟨0x40000, 0x8, 32768, 0x8, 1, 9, 2, [⟨63, 0, .ro, 0, .any⟩]⟩,
  -- PATROL.CTL
  ⟨0x1000, 0x8, 1, 0x8, 1, 3, 2, [⟨63, 63, .rw, 1, .any⟩, ⟨31, 0, .rw, 10000, .rng 100 3600000⟩]⟩,
  -- PATROL.STAT
  ⟨0x1100, 0x8, 6, 0x8, 1, 9, 2, [⟨63, 48, .ro, 0, .any⟩, ⟨47, 32, .ro, 0, .any⟩, ⟨15, 0, .ro, 0, .any⟩]⟩]

/-- Registers of the LOG block, part 2 (R490). -/
def regsLog1 : List RegDef := [
  -- PATROL.HQ
  ⟨0x1200, 0x8, 4, 0x8, 1, 9, 2, [⟨23, 16, .ros, 128, .any⟩, ⟨6, 0, .ros, 0, .any⟩]⟩,
  -- LIFE.HRS
  ⟨0x2000, 0x40, 4, 0x8, 5, 3, 2, [⟨63, 0, .rws, 0, .any⟩]⟩,
  -- LIFE.EQH
  ⟨0x2028, 0x40, 4, 0x8, 1, 3, 2, [⟨63, 0, .rws, 0, .any⟩]⟩,
  -- LIFE.RO
  ⟨0x2030, 0x40, 4, 0x8, 1, 9, 2, [⟨31, 0, .ro, 0, .any⟩]⟩]

/-- Every register of the LOG block. -/
def regsLog : List RegDef := regsLog0 ++ regsLog1

/-- Registers of the KPR block, part 1 (R374, R471). -/
def regsKpr0 : List RegDef := [
  -- KPR.EVT
  ⟨0x120, 0x8, 1, 0x8, 1, 3, 2, [⟨1, 0, .w1c, 0, .any⟩]⟩,
  -- KPR.EVTEN
  ⟨0x128, 0x8, 1, 0x8, 1, 3, 2, [⟨1, 0, .rw, 3, .any⟩]⟩,
  -- KPR.RSTCAUSE
  ⟨0x0, 0x8, 1, 0x8, 1, 9, 2, [
      ⟨63, 56, .ro, 0, .any⟩,
      ⟨55, 55, .ro, 0, .any⟩,
      ⟨54, 44, .ro, 0, .any⟩,
      ⟨31, 16, .ro, 0, .any⟩]⟩,
  -- KPR.RSTPREV
  ⟨0x8, 0x8, 1, 0x8, 1, 9, 2, [
      ⟨63, 56, .ro, 0, .any⟩,
      ⟨55, 55, .ro, 0, .any⟩,
      ⟨54, 44, .ro, 0, .any⟩,
      ⟨31, 16, .ro, 0, .any⟩]⟩,
  -- KPR.BOOTSTAT
  ⟨0x10, 0x8, 1, 0x8, 1, 9, 2, [
      ⟨63, 56, .ro, 0, .any⟩,
      ⟨55, 52, .ro, 0, .any⟩,
      ⟨14, 12, .ro, 0, .any⟩,
      ⟨11, 0, .ro, 4095, .any⟩]⟩,
  -- KPR.REFCLK
  ⟨0x18, 0x8, 1, 0x8, 1, 9, 2, [
      ⟨63, 63, .ro, 0, .any⟩,
      ⟨62, 62, .ro, 0, .any⟩,
      ⟨61, 61, .ro, 0, .any⟩,
      ⟨31, 0, .ro, 0, .any⟩]⟩,
  -- KPR.DEBUG
  ⟨0x20, 0x8, 1, 0x8, 1, 9, 2, [⟨3, 2, .ros, 0, .any⟩, ⟨1, 0, .ro, 0, .any⟩]⟩,
  -- KPR.STARTPC
  ⟨0x100, 0x8, 1, 0x8, 1, 3, 2, [⟨63, 2, .rw, 0, .any⟩]⟩,
  -- KPR.RELEASE
  ⟨0x108, 0x8, 1, 0x8, 1, 3, 2, [⟨63, 63, .wo, 0, .any⟩, ⟨10, 0, .wo, 0, .any⟩]⟩,
  -- KPR.RSTREQ
  ⟨0x110, 0x8, 1, 0x8, 1, 3, 2, [⟨63, 63, .wo, 0, .any⟩]⟩,
  -- KPR.SURVEY
  ⟨0x200, 0x8, 1, 0x8, 1, 3, 2, [⟨63, 63, .wo, 0, .any⟩, ⟨62, 62, .ro, 0, .any⟩, ⟨31, 0, .ros, 0, .any⟩]⟩,
  -- KPR.MEASIDX
  ⟨0x300, 0x8, 1, 0x8, 1, 3, 2, [⟨63, 63, .wo, 0, .any⟩, ⟨7, 0, .rw, 0, .rng 16 239⟩]⟩]

/-- Registers of the KPR block, part 2 (R471). -/
def regsKpr1 : List RegDef := [
  -- KPR.MEASDATA
  ⟨0x340, 0x8, 6, 0x8, 1, 3, 2, [⟨63, 0, .rw, 0, .any⟩]⟩,
  -- KPR.BSTCNT
  ⟨0x400, 0x8, 1, 0x8, 1, 9, 2, [⟨63, 48, .ros, 0, .any⟩, ⟨47, 32, .ros, 0, .any⟩, ⟨31, 16, .ros, 0, .any⟩]⟩,
  -- KPR.LASTCTR
  ⟨0x408, 0x8, 1, 0x8, 1, 9, 2, [⟨63, 0, .ro, 0, .any⟩]⟩]

/-- Every register of the KPR block. -/
def regsKpr : List RegDef := regsKpr0 ++ regsKpr1

/-- The registers of a block. -/
def Block.regs : Block → List RegDef
  | .chamber => regsChamber
  | .vat => regsVat
  | .mc => regsMc
  | .pool => regsPool
  | .link => regsLink
  | .router => regsRouter
  | .adm => regsAdm
  | .pwr => regsPwr
  | .regchk => regsRegchk
  | .log => regsLog
  | .kpr => regsKpr

end Sys2Proof.Machine
end

