-- ==== Sys2Proof/Machine/SMap.lean ====
section
/-! DEFINITION. Finite maps from numbers: a list of pairs in ascending order of the number. What a number that is not
listed holds is said by the reader (a default), so that a large array at its reset values is the empty list. -/

namespace Sys2Proof.Machine

/-- A finite map from numbers. -/
abbrev SMap (α : Type) := List (Nat × α)

/-- What number `k` holds; `d` when nothing is listed. -/
def sget {α : Type} (d : α) (k : Nat) : SMap α → α
  | [] => d
  | (j, v) :: r => if k = j then v else sget d k r

/-- What number `k` holds, if anything is listed. -/
def sfind {α : Type} (k : Nat) : SMap α → Option α
  | [] => none
  | (j, v) :: r => if k = j then some v else sfind k r

/-- The map with `v` at `k`, in ascending order. -/
def sset {α : Type} (k : Nat) (v : α) : SMap α → SMap α
  | [] => [(k, v)]
  | (j, w) :: r =>
    if k < j then (k, v) :: (j, w) :: r
    else if k = j then (k, v) :: r
    else (j, w) :: sset k v r

/-- The map with nothing listed at `k`. -/
def sdel {α : Type} (k : Nat) (m : SMap α) : SMap α := m.filter fun p => p.1 != k

/-- The map with `f` applied to what number `k` holds. -/
def supd {α : Type} (d : α) (k : Nat) (f : α → α) (m : SMap α) : SMap α := sset k (f (sget d k m)) m

/-- The first listed number from `lo` up to `lo + n` that is not listed, if any: a free place of a bounded array. -/
def sfree {α : Type} (m : SMap α) (lo : Nat) : Nat → Option Nat
  | 0 => none
  | n + 1 => if (sfind lo m).isNone then some lo else sfree m (lo + 1) n

end Sys2Proof.Machine
end

