-- ==== Sys2Proof/Machine/State.lean ====
section
/-! DEFINITION. The state of the block as plain data: threads, cores, chambers, Vat slices, memory controllers, links,
router, package controllers, the Keeper, memory, and the queue of waiting commands; and the state after reset. -/

namespace Sys2Proof.Machine

/-! ### Threads (02.1, 03.5, chapters 04 to 07) -/

/-- Memory types in order of restriction (R186). -/
inductive MemType where
  | wb | wt | nc | posted | strict
deriving DecidableEq, Repr

/-- Who makes an access, for the region checkers (R396, R397) and the levels of register writes (R9). -/
structure Acc where
  lvl : Level
  secure : Bool
  geode : Nat
deriving DecidableEq, Repr

/-- A register that an instruction writes (R113). -/
inductive Dest where
  | none
  | g (r : Nat)
  | v (r : Nat)
  | m (r : Nat)
deriving DecidableEq, Repr

/-- What a walk or a check is made for (R188, R197): the KIND of the fault syndrome and the permission needed. -/
inductive Access where
  | load | store | fetch | atomic | casLoad | cmo | desc | push | handler | record
deriving DecidableEq, Repr

/-- Whether a thread runs (R448, R101, R487). -/
inductive Run where
  | stopped
  | running
  | waiting (lvl : Level) (secure : Bool)
  | halted
deriving DecidableEq, Repr

/-- What a physical address decodes to (R20, R21): the number of the group entry, Pool window or port concerned. -/
inductive Target where
  | ddr
  | pool (p : Nat)
  | cxl (k : Nat)
  | mmio (k : Nat)
  | reg
  | group (i : Nat)
  | remote
deriving DecidableEq, Repr

/-- What a store-buffer entry is for, with the kind of R171 its error has. -/
inductive SbKind where
  | store | half | push | scatter | save
  | cmo (op : Nat) (setWay : Bool) (target : Nat) (arg : Word)
deriving DecidableEq, Repr

/-- One store-buffer entry (R119): up to 64 bytes of one line, with the target that X2 found (R20; none: no target) and its place in
program order: long operations with a lower number are older. -/
structure SbEntry where
  line : Nat
  pa : Word
  mtype : MemType
  data : Vec
  mask : BitVec 64
  release : Bool
  kind : SbKind
  acc : Acc
  tg : Option Target
  ord : Nat
deriving DecidableEq, Repr

/-- A part of a load that lies in one line: where it is read and where its bytes go in the destination. -/
structure Part where
  pa : Word
  mt : MemType
  len : Nat
  off : Nat
  done : Bool
  tg : Target
deriving DecidableEq, Repr

/-- A local atomic performed when its line is held writable (R51, R125). -/
structure AmoOp where
  isCas : Bool
  op : Nat
  operand : Word
  expected : Word
  release : Bool
deriving DecidableEq, Repr

/-- The unit beside the pipe that holds a long operation (R107, R110, R112). -/
inductive LongKind where
  | div | vec | vroot | load | vload | farAtomic | churn | inst | adm | vstore
deriving DecidableEq, Repr

/-- A long operation or pending load in flight (R110). -/
structure LongOp where
  id : Nat
  kind : LongKind
  dest : Dest
  ready : Bool
  val : Vec
  flags : BitVec 5
  setsFlags : Bool
  size : Nat
  signed : Bool
  parts : List Part
  amo : Option AmoOp
  acquire : Bool
  release : Bool
  acc : Acc
  bad : Bool
deriving DecidableEq, Repr

/-- The parked load of a thread: its long operation, whether it waits under row 3 of R122, and the first of its parts that has not been
looked up; those before it are pending or done (R123, R124). -/
structure Parked where
  id : Nat
  row3 : Bool
  next : Nat
deriving DecidableEq, Repr

/-- A fault found by a walk or a check, as the frame will carry it (R156, R197, R198). -/
structure Flt where
  code : Nat
  sub : Nat
  faddr : Word
  stage2 : Bool
deriving DecidableEq, Repr

/-- The translation values in force (R91). -/
structure Ctx where
  atpS : Word
  atpSS : Word
  atpH : Word
  vmid : Nat
deriving DecidableEq, Repr

/-- A regime of translation: who accesses, and the translation values in force for it (R175, R268). -/
structure Regime where
  acc : Acc
  ctx : Ctx
deriving DecidableEq, Repr

/-- A TLB or micro-TLB entry (R184). Page sizes are leaf levels, 0 for 4 KiB; a stage that is off has level 9. -/
structure TlbEntry where
  secure : Bool
  vmid : Nat
  asid : Nat
  glob : Bool
  vpn : Nat
  size : Nat
  frame : Nat
  s1 : Nat
  s1lvl : Nat
  s2 : Nat
  s2lvl : Nat
  mtype : MemType
deriving DecidableEq, Repr

/-- An access that a micro-TLB miss cancelled, to be made again: its address, its kind, and the regime that translates it (R116). -/
structure Replay where
  va : Word
  access : Access
  reg : Regime
deriving DecidableEq, Repr

/-- What a walk found for the access that waits for it, when no TLB entry tells it: a fault, or the translation of a CMO whose leaves'
accessed marks are clear (R116, R185, R189). -/
structure WalkEnd where
  page : Nat
  access : Access
  lvl : Level
  flt : Option Flt
  entry : Option TlbEntry
deriving DecidableEq, Repr

/-- The source of a guess (R133). -/
inductive GuessSrc where
  | hint | table | ind | ret | direct | none
deriving DecidableEq, Repr

/-- A checkpoint of the return stack and history (R140). -/
structure Checkpoint where
  ptr : Nat
  cnt : Nat
  top : Word
  hist : Nat
deriving DecidableEq, Repr

/-- The guess formed at DE for a branch or jump (R133): its source and direction, the address fetched next, if any, and the checkpoint
that the instruction holds until it passes X2 or is discarded (R140). -/
structure Guess where
  src : GuessSrc
  taken : Bool
  next : Option Word
  cp : Checkpoint
deriving DecidableEq, Repr

/-- An entry of the instruction queue (R102, R133): a fetched word, or a fetch fault carried by it. -/
structure IqEntry where
  pc : Word
  word : BitVec 32
  flt : Option Flt
  guess : Option Guess
deriving DecidableEq, Repr

/-- A record of an asynchronous error (R171, R172). -/
structure ErrRec where
  pa : Word
  kind : Nat
  err : Nat
deriving DecidableEq, Repr

/-- A queue of error records with its count of lost ones (R172). -/
structure ErrQueue where
  recs : List ErrRec
  lost : Nat
deriving DecidableEq, Repr

/-- A record of an interrupt in an inbox (R379). -/
structure IntRec where
  message : Bool
  source : Nat
  vector : Nat
  count : Nat
  lost : Bool
deriving DecidableEq, Repr

/-- An inbox of a thread (R379); its claim register is memory-mapped (R380). -/
structure Inbox where
  queued : List IntRec
  lost : Bool
deriving DecidableEq, Repr

/-- A virtual-interrupt operation in flight (R386): a pull from a posted-interrupt descriptor, or the fold that follows ACTIVE going
to 0; its number, whether its far atomic has been sent, and what came back: the old bytes, and 0 or n + 1 for ERR n. -/
structure VintOp where
  fold : Bool
  pid : Word
  id : Nat
  sent : Bool
  ans : Option (Vec × Nat)
deriving DecidableEq, Repr

/-- A TLBI that has not completed (R196). Once the entries are removed, `wait` holds for each thread what was in flight then: its
loads below a number, and its store-buffer entries up to a count. -/
structure Tlbi where
  fn : Nat
  a : Word
  b : Word
  lvl : Level
  secure : Bool
  vmid : Nat
  removed : Bool
  wait : List (Nat × Nat × Nat)
deriving DecidableEq, Repr

/-- The architectural registers of a thread (R34, R90). `cr` holds every control register that the thread owns, by CR
number; the secure bank of 0x400 to 0x7FF stands at 0x1400 to 0x17FF (R89). -/
structure Arch where
  pc : Word
  g : SMap Word
  v : SMap Vec
  m : SMap Word
  cr : SMap Word
  level : Level
  secure : Bool
  ctx : Ctx
  resume : Option (Nat × Nat)
  slot : Nat
deriving DecidableEq, Repr

/-- The front of the pipeline as one thread sees it (R102 to R105, R133 to R144). `cpWait` says that DE discarded a branch or jump for
want of a checkpoint (R141). -/
structure Front where
  fetchPc : Word
  fetchStop : Bool
  iq : List IqEntry
  fcount : Word
  fstart : Word
  fend : Word
  ras : SMap Word
  rasPtr : Nat
  rasCnt : Nat
  hist : Nat
  cpWait : Bool
deriving DecidableEq, Repr

/-- A block that a thread reads and that its core does not hold, before its instruction can go on: a frame, a handler entry, a descriptor, a
fetch block (R94, R161, R165, R193). `acc` is who reads it; `unique` that the line is to be held writable meanwhile (R190); `err` is 0, or n + 1 for the ERR n of R172. -/
structure ExtRead where
  id : Nat
  pa : Word
  len : Nat
  acc : Acc
  unique : Bool
  done : Bool
  err : Nat
  data : Bytes
deriving DecidableEq, Repr

/-- The back of the pipeline as one thread sees it (R110 to R129, R109, R196). `outs` are the stores that have left the store buffer and are
not performed (R63): line and type of each, and how many entries had left before it. -/
structure Back where
  owed : List (Dest × Nat)
  longs : List LongOp
  nextId : Nat
  sb : List SbEntry
  popped : Nat
  vstWait : List SbEntry
  parked : Option Parked
  replay : Option Replay
  walkEnds : List WalkEnd
  ext : List ExtRead
  fext : List ExtRead
  outs : List (Nat × MemType × Nat)
  acqHold : Option Nat
  solo : Option Instr
  tlbi : Option Tlbi
deriving DecidableEq, Repr

/-- A hardware thread. -/
structure Thread where
  a : Arch
  f : Front
  b : Back
  run : Run
  errN : ErrQueue
  errS : ErrQueue
  inbox : SMap Inbox
  vint : List VintOp
deriving DecidableEq, Repr

/-! ### Cores and chambers (chapters 05, 07, 08, 16) -/

/-- A walk-cache entry: a table pointer of either stage with its tags and level (R183). -/
structure WcEntry where
  stage2 : Bool
  secure : Bool
  vmid : Nat
  asid : Nat
  lvl : Nat
  key : Nat
  table : Nat
deriving DecidableEq, Repr

/-- A walk in flight (R183): what it is for, the regime it walks under, the pointers its walk cache gave it, the values its reads have
returned so far (none: a bad read), whether its next read has been sent, and what that read brought. -/
structure Walker where
  thread : Nat
  va : Word
  access : Access
  reg : Regime
  wc : List WcEntry
  answers : List (Option Word)
  sent : Bool
  data : Option (Option Word)
  discard : Bool
deriving DecidableEq, Repr

/-- Line states (R201, R225). Absence is I. -/
inductive LSt where
  | m | o | e | s
deriving DecidableEq, Repr

/-- Who owns a line of memory (R397, R399). -/
inductive Owner where
  | normal | secure | geode (g : Nat) | nobody
deriving DecidableEq, Repr

/-- A line of L1I, L1D or L2 (R199 to R201, R399). `pres` is the presence vector of an L2 line: bits 0 to 3 the L1Ds of
the four cores, bits 4 to 7 their L1Is. `bad` says that this copy is poisoned (R219). -/
structure CLine where
  line : Nat
  st : LSt
  own : Owner
  pres : Nat
  bad : Bool
deriving DecidableEq, Repr

/-- A miss register or fill register (R211, R212). `ready` says that the line waits to cross to this cache; `atPort` that the request
waits at the core port, `seq` its age there (R130); `err` is 0, or n + 1 for the ERR n the fill ended with; `walk` that a walk's read made it; `home` as in a request. In an L1I register `l1s` names the threads that
wait for it. -/
structure Miss where
  line : Nat
  unique : Bool
  alloc : Bool
  dna : Bool
  reqs : Nat
  ready : Bool
  bad : Bool
  err : Nat
  own : Owner
  fetch : Bool
  idx : Nat
  l1s : Nat
  sent : Bool
  dirty : Bool
  weight : Nat
  acc : Acc
  resv : Option Nat
  walk : Bool
  atPort : Bool
  seq : Nat
  home : Option Nat
deriving DecidableEq, Repr

/-- One cache of tags: lines by set × ways + way, tree bits by set (R203), coverage bitmap (R207), ways held offline by
patrol (R204, R477), enable. -/
structure Cache where
  lines : SMap CLine
  plru : SMap Nat
  cov : Nat
  offline : SMap Bool
  en : Bool
deriving DecidableEq, Repr

/-- An access that won a core's port and that L2 has not accepted: a snoop response, the writeback of a line, the request of an L1D miss
register or of an L1I fill register (R130, R132). -/
inductive PortReq where
  | snoop (line : Nat) (unique : Bool)
  | wb (line : Nat)
  | miss (fetch : Bool) (reg : Nat)
deriving DecidableEq, Repr

/-- What a core shares among its threads; `held` is the winner of its port that L2 refused (R132); `redirect` lists the threads that a misprediction puts ahead at F1 (R143),
`missed` is the chamber cycles that passed while it was in Sump (R431). -/
structure Core where
  l1i : Cache
  l1d : Cache
  dmiss : SMap Miss
  imiss : SMap Miss
  wbuf : List Nat
  refused : Bool
  itlb : List TlbEntry
  dtlb : List TlbEntry
  tlb : SMap TlbEntry
  wcache : SMap WcEntry
  walkers : SMap Walker
  second : SMap Nat
  indirect : SMap Word
  clearing : Bool
  portSeq : Nat
  lossCnt : Nat
  held : Option PortReq
  lastF1 : Nat
  lastDrain : Nat
  redirect : List Nat
  missed : Word
deriving DecidableEq, Repr

/-- A write of CACHECTL_M that waits for its cleaning to end (R209): the thread that wrote, and what it read before, and the enable bits that it sets. -/
structure CleanWait where
  thread : Nat
  old : Word
  core : Nat
  l1i : Bool
  l1d : Bool
  l2 : Bool
  sets : Nat
deriving DecidableEq, Repr

/-- Power states in order of depth (R430). -/
inductive PState where
  | run | drip | still | sump | deep
deriving DecidableEq, Repr

/-- A frequency change in progress in a chamber (R424): its target, whether the clock rises, whether the DPLL glides. -/
structure FreqChange where
  target : Nat
  up : Bool
  gliding : Bool
deriving DecidableEq, Repr

/-- A chamber (chapters 08, 16). `vms` names the VMID, in the normal world at U or S, whose miss brought a line (R297). -/
structure Chamber where
  l2 : Cache
  miss : SMap Miss
  wbuf : List (Nat × Bool × Bool)
  vms : SMap Nat
  snoops : List (Nat × Nat × Nat)
  clean : Option CleanWait
  stopped : Bool
  cycle : Word
  frac : Nat
  freq : Nat
  droop : Nat
  detectOff : BitVec 4
  ceiling : Nat
  change : Option FreqChange
  pstate : PState
  cstate : SMap PState
  park : Option PState
deriving DecidableEq, Repr

/-! ### Vat slices, the mesh and memory controllers (chapters 09, 11, 12) -/

/-- What an engine's line request is for (R246, R271, R275): a read or the write of the unit at a driven offset of a context, a walker's table
read, a completion record. -/
inductive EngFor where
  | read (ctx pos i : Nat)
  | write (ctx pos : Nat)
  | fill (ctx pos i : Nat)
  | walk (k : Nat)
  | record (ctx : Nat)
deriving DecidableEq, Repr

/-- What an outstanding request was made for: a part of a thread's load, a block that a thread reads, a store of a thread with the kind of
R171, a slice's transaction for a line, a maintenance operation, or a virtual-interrupt operation. -/
inductive Waiter where
  | load (t id part : Nat)
  | ext (t : Nat) (fetch : Bool) (id : Nat)
  | store (t kind : Nat) (sec : Bool) (mt : MemType)
  | line (slice line : Nat)
  | cmo (t : Nat)
  | tlbi (t : Nat)
  | vint (t id : Nat)
deriving DecidableEq, Repr

/-- Who made a request that a slice handles (R238): a chamber's L2 miss register, a thread's access that no cache of its chamber keeps, its CMO
or its far atomic, the Gallery link, tag and hop lane of
another node, a far atomic over the Gallery, a root port, a Passage port, an engine, the interrupt router. -/
inductive Requester where
  | chamber (c reg : Nat)
  | core (t : Nat) (who : Waiter)
  | thread (t : Nat)
  | far (t id : Nat) (ret : Bool)
  | gallery (k spos tag lane : Nat)
  | gfar (k : Nat) (msg : GMsg)
  | port (k : Nat)
  | pass (k : Nat) (pkt : PPkt)
  | eng (e : Nat) (why : EngFor)
  | router (n : Nat)
deriving DecidableEq, Repr

/-- What a write or a far atomic does to bytes of one line (R225, R226, R252): its address and size, operand from that address on, poison,
operation, expected value and type; of a write, the bytes of the line that it changes. -/
structure LineOp where
  pa : Word
  len : Nat
  data : Vec
  poison : Bool
  op : Nat
  exp : Vec
  mt : MemType
  mask : BitVec 64
deriving DecidableEq, Repr

/-- The kinds of request at a slice that have rows of their own (R229): `read` takes bytes of the line and adds no holder. -/
inductive ReqKind where
  | readShared | readUnique | upgrade
  | read (off len : Nat)
  | write (o : LineOp)
  | far (o : LineOp)
  | cmo (op : Nat)
deriving DecidableEq, Repr

/-- A request in a slice's intake (R230); `home` is the group position of the line's node, as X2 found it (R20). -/
structure SReq where
  kind : ReqKind
  line : Nat
  src : Requester
  acc : Acc
  fetch : Bool
  weight : Nat
  cream : Bool
  home : Option Nat
deriving DecidableEq, Repr

/-- A request being handled (R228 to R236): the filter victim and its holders still to be back-invalidated; whether its snoops are
decided, those that still want a credit, the holders and group positions whose answers are awaited (position + 200 when its writeback came
before its answer); the holders, and group positions + 100, whose writeback in flight is awaited; whether a dirty copy answered, or a clean one; whether memory or the home has been asked, and has answered; whether other nodes share
the line; whether the Pool missed (R319); the ERR it ends with, plus one; whether every member was snooped because the summary was unreadable;
whether its own write is out to memory; the old value of a far atomic; whether another node's dirty copy answered. -/
structure Txn where
  req : SReq
  victimLine : Nat
  victims : List Nat
  started : Bool
  unsent : List Nat
  snoops : List Nat
  remote : List Nat
  wbWait : List Nat
  dirty : Bool
  got : Bool
  asked : Bool
  came : Bool
  shared : Bool
  poolMiss : Bool
  err : Nat
  unread : Bool
  wr : Bool
  old : Vec
  away : Bool
deriving DecidableEq, Repr

/-- A snoop of a remote home that a proxy slice carries out (R229, R236): its message and port, whether it invalidates, the line, holders
still to be snooped for want of a credit, awaited answers, awaited writebacks in flight, and whether dirty data was found. -/
structure ProxySnoop where
  port : Nat
  msg : GMsg
  inv : Bool
  line : Nat
  unsent : List Nat
  snoops : List Nat
  wbWait : List Nat
  dirty : Bool
deriving DecidableEq, Repr

/-- A line of the Vat's data array (R221, R222); `bad` says that it is poisoned (R244). -/
structure VatWay where
  line : Nat
  st : LSt
  age : Nat
  origin : Nat
  bad : Bool
deriving DecidableEq, Repr

/-- A snoop-filter entry's form (R227). -/
inductive SfForm where
  | one (h : Nat) (own : Bool)
  | two (h1 h2 : Nat) (own : Option Nat)
  | wide (dies : BitVec 4) (ports : Bool)
deriving DecidableEq, Repr

/-- A snoop-filter entry (R227). -/
structure SfEntry where
  line : Nat
  form : SfForm
deriving DecidableEq, Repr

/-- A directory-cache entry (R232). -/
structure DirEntry where
  line : Nat
  summary : Nat
  sharers : BitVec 16
  owner : Nat
deriving DecidableEq, Repr

/-- A write-back buffer entry (R234), with the poison of its data; `direct` that it goes to DDR past a Pool stack in cache mode, which pushed it
out (R319). -/
structure WbbEntry where
  line : Nat
  data : Vec
  issued : Bool
  bad : Bool
  direct : Bool
deriving DecidableEq, Repr

/-- Data that came back from a controller (R238): err is 0, 5 when the line has just been found uncorrectable, 6 so with an unreadable summary
(R323), 99 when a Pool stack does not hold the line; `bad` marks poison. -/
structure Fill where
  mc : Nat
  line : Nat
  bad : Bool
  err : Nat
deriving DecidableEq, Repr

/-- A queued Churn descriptor with what was captured at posting (R248, R268). -/
structure Desc where
  seq : Nat
  words : List Word
  regime : Regime
deriving DecidableEq, Repr

/-- A read of a unit's source (R271): address under the regime, physical address, length, its bytes once they are here, and the ERR it ended
with. While a MOVE fills its source, the bytes stand for a fill that is not yet performed. -/
structure ChRead where
  va : Word
  pa : Word
  len : Nat
  data : Option Bytes
  err : Option Nat
deriving DecidableEq, Repr

/-- A unit of a descriptor that is started and not yet counted (R262, R271): its driven offset and length, its source reads, its
destination, its data once every read has returned, whether its write, or its source's fill, is out, and whether its write is performed, or its
half-made fill is being taken back. -/
structure ChUnit where
  pos : Nat
  len : Nat
  reads : List ChRead
  dva : Word
  dpa : Word
  data : Option Bytes
  issued : Bool
  perf : Bool
deriving DecidableEq, Repr

/-- How a stopped descriptor ends (R274, R277). -/
structure ChStop where
  code : Nat
  addr : Word
  sub : Nat
deriving DecidableEq, Repr

/-- A bulk context of a Churn engine (R246, R271): the driven offset of the next unit to start, the units started, DONE and SDONE, the
accumulator, the end that is known, whether it is abandoned, its record: sent, and answered (0 for success, n + 1 for ERR n), and the
number of its line requests that are out; the faults that its walks ended with; once a source fill has failed, that its fills are over
(R277). -/
structure ChCtx where
  inst : Nat
  desc : Desc
  next : Nat
  units : List ChUnit
  done : Nat
  sdone : Nat
  acc : Word
  result : Word
  abandon : Bool
  stop : Option ChStop
  recd : Option (Option Nat)
  out : Nat
  flts : List (Access × Nat × Flt)
  noFill : Bool
deriving DecidableEq, Repr

/-- A Churn instance's queue, binding and counts (R247, R389, R391); its state and page are memory-mapped. -/
structure Inst where
  queue : List Desc
  weight : Nat
  uok : Bool
  sok : Bool
  geode : Nat
  vmid : Nat
  cmsg : Option Nat
  emsg : Option Nat
  quiesce : Option (Nat × Nat)
  abandonQ : Bool
  ended : Nat
  abandoned : Nat
  promoted : Bool
  deficit : Int
  waited : Nat
deriving DecidableEq, Repr

/-- A request of an instance instruction or a post on its way to the queue slice (R248, R390). -/
structure InstReq where
  thread : Nat
  id : Nat
  op : Nat
  inst : Nat
  opnd : Word
  bytes : Option (List Word)
  acc : Acc
  bank : Bool
  regime : Regime
deriving DecidableEq, Repr

/-- A QRESV, QREL or QQUERY waiting at the admission controller (R305). -/
structure AdmReq where
  thread : Nat
  id : Nat
  op : Nat
  handle : Word
  words : List Word
deriving DecidableEq, Repr

/-- What a flit of a Gallery or Passage link carries (R355, R358 to R360, R367): a Gallery message with its OP, a Passage
packet with its TYPE, or a link-state message. One message stands for one flit (log 20). -/
inductive LMsg where
  | gal (op : Nat) (m : GMsg)
  | pas (ty : Nat) (p : PPkt)
  | ls (pos mask change : Nat)
deriving DecidableEq, Repr

/-- A completion of a root port to a device (R25, R253, R400): status (0 successful,
1 Unsupported Request, 4 Completer Abort), EP, data. -/
structure Cpl where
  status : Nat
  ep : Bool
  data : Bytes
deriving DecidableEq, Repr

/-- What a mesh message carries (R238). A snoop's mode is 0 to share, 1 to invalidate, 2 to share and give up ownership; its answer is 0 no
copy, 1 dirty data, 2 writeback in flight, 3 clean data. -/
inductive Payload where
  | req (slice : Nat) (r : SReq)
  | wback (slice chamber line : Nat) (dirty : Bool)
  | snoop (holder slice line mode : Nat)
  | snpAns (slice holder line ans : Nat)
  | fill (chamber reg : Nat) (unique dirty : Bool) (own : Owner) (bad : Bool) (err : Nat)
  | memRead (mc slice line : Nat) (acc : Acc)
  | memWrite (mc slice entry line : Nat) (data : Vec) (bad : Bool)
  | memData (slice : Nat) (f : Fill)
  | memDone (slice mc : Nat) (freed : List Nat) (victim : Option (Nat × WbbEntry))
  | instReq (slice : Nat) (r : InstReq)
  | farAns (thread id : Nat) (val : Vec) (err : Nat)
  | answer (thread id : Nat) (val : Word)
  | coreAns (who : Waiter) (pa : Word) (val : Vec) (err : Nat)
  | dev (who : Waiter) (tg : Target) (acc : Acc) (bank : Bool) (vmid : Nat) (pa : Word) (len : Nat) (wr : Option (Vec × BitVec 64)) (err : Nat)
  | cmoDone (thread : Nat)
  | engAns (e : Nat) (why : EngFor) (data : Vec) (bad : Bool) (err : Nat)
  | cpl (port : Nat) (c : Cpl)
  | link (k j : Nat) (m : LMsg)
  | galSnoop (slice k : Nat) (inv : Bool) (m : GMsg)
  | galWb (slice k : Nat) (dirty : Bool) (m : GMsg)
  | adm (r : AdmReq)
  | rtrAns (n : Nat) (val : Vec) (err : Nat)
  | irq (o : Origin) (id : Nat)
deriving DecidableEq, Repr

/-- A message that waits at its sender for a credit of its class (R237, R241): class, sender and destination of the credit, channel, the
stops it goes between. -/
structure Post where
  cls : Nat
  snd : Nat
  dest : Nat
  vc : Nat
  src : Nat
  stop : Nat
  payload : Payload
deriving DecidableEq, Repr

/-- A message in the mesh: its virtual channel, the stop that holds it, its destination, its stage and age, and the
input it waits at (R282, R283, R288, R289). -/
structure Flit where
  id : Nat
  vc : Nat
  at_ : Nat
  dst : Nat
  stage : Nat
  input : Nat
  age : Nat
  payload : Payload
deriving DecidableEq, Repr

/-- A Vat slice with its Churn engine (chapters 09, 10). `drr` is where deficit round-robin of its intake stands: the sender served last and
the lines left of its quantum (R294). -/
structure Slice where
  ways : SMap VatWay
  offline : SMap Bool
  sf : SMap SfEntry
  sfPtr : SMap Nat
  dir : SMap DirEntry
  dirPtr : SMap Nat
  wbb : SMap WbbEntry
  intake : List SReq
  txns : List Txn
  wbIn : List (Nat × Nat × Bool)
  rwbIn : List (Nat × Bool × GMsg)
  snps : List ProxySnoop
  answers : List (Nat × Nat × Nat)
  fills : List Fill
  tokens : SMap Nat
  instIn : List InstReq
  ctxs : SMap ChCtx
  opbuf : List Nat
  ttlb : SMap TlbEntry
  walkers : SMap Walker
  engineOff : Bool
  rr : Nat
  stopped : Bool
  drr : Nat × Nat
deriving DecidableEq, Repr

/-- A row being repaired: the row, its spare, and the next column (R333). -/
structure RowCopy where
  row : Nat
  spare : Nat
  back : Bool
deriving DecidableEq, Repr

/-- A correction of the last 24 h (R324, R333): its place, the device, whether it was in every codeword of the line, its TIME. -/
structure Corr where
  loc : Nat
  device : Nat
  whole : Bool
  time : Nat
deriving DecidableEq, Repr

/-- A read that a controller has accepted: the slice, the line, its accessor, the TIME of its arrival (R321). -/
structure MRead where
  slice : Nat
  line : Nat
  acc : Acc
  at_ : Nat
deriving DecidableEq, Repr

/-- A write that a controller has accepted: the slice, the number of its write-back buffer entry, the line, its data and their poison, the
TIME of its arrival. -/
structure MWrite where
  slice : Nat
  code : Nat
  line : Nat
  data : Vec
  bad : Bool
  at_ : Nat
deriving DecidableEq, Repr

/-- A DDR controller or (numbers 12 to 15) a Pool controller (chapter 12): the commands it holds; row trackers and open rows (R331), the last
victim refresh (DRFM of a row, or RFM of a bank), activations not yet counted in LIFEACT; retries (R328); channel-local lines that scrub
corrected on the latest pass, and by rank the TIMEs of retention-type corrections and of uncorrectable errors (R329); corrections; the
halving of USABLE (R330) and its full value; run-time row repair (R333): rows waiting, the copy, the remap table; the repair
logs of a channel's DIMMs by 48 × DIMM + entry (R335); the tags of a stack in cache mode (R319); what training found (R315): the
included channel's capacity, its DIMMs by slot, eye margins, temperatures by DIMM, DRFM, the DIMMs whose log cannot be written; patrol scrub's next
line, the poisoned lines it counted, the poisoned lines of the hidden regions (R338); where deficit round-robin stands, and the lines
of promoted Skim reads (R294). -/
structure Mc where
  reads : List MRead
  writes : List MWrite
  trackers : SMap Nat
  opened : SMap Nat
  refreshed : Option (Bool × Nat)
  acts : SMap Nat
  retries : Nat
  failed : Bool
  retention : List Nat
  retTimes : List (Nat × Nat)
  uncTimes : List (Nat × Nat)
  corrs : List Corr
  hot : Bool
  coolReads : Nat
  usableFull : Nat
  repairs : List Nat
  copy : Option RowCopy
  remap : SMap Nat
  repairLog : SMap Word
  pool : SMap (Nat × Bool)
  capacity : Nat
  dimms : SMap Dimm
  eyes : List (Nat × Nat)
  dimmTemps : SMap Nat
  drfm : Bool
  wprot : List Nat
  scrubAt : Nat
  scrubBad : Nat
  badHidden : List Nat
  drr : Nat × Nat
  promoted : List Nat
deriving DecidableEq, Repr

/-- A live or revoked reservation (R297, R305 to R310): its descriptor words, its generation, the slots and bursts charged
by resource, and its counts. `retire` marks a released handle whose charges are still held (R309). -/
structure Resv where
  words : List Word
  gen : Nat
  live : Bool
  charges : List (Nat × Nat × Nat)
  lat : Nat
  overCnt : Nat
  order : Nat
  tok : SMap Nat
  retire : Bool
deriving DecidableEq, Repr


/-! ### Links (chapter 13) -/

/-- One trained link j of a port (R346, R355, R356): the TIME its training began, the next FSEQ to send and to receive, the retry buffer of 256 payload
flits, what waits for room in it, messages for other positions to be
forwarded (R362), the replays of the oldest flit, whether NAK was sent, the TIMEs of the retrains of the last second, whether a failover runs, the
positions whose routes it changes and the messages held for them (R364), maintenance operations that wait for the node's unit (R361). -/
structure Link where
  training : Bool
  since : Nat
  seq : Nat
  expect : Nat
  retry : List (Nat × LMsg)
  wait : List LMsg
  fwd : List (Nat × GMsg)
  replays : Nat
  nak : Bool
  retrains : List Nat
  failing : Bool
  heldPos : List Nat
  held : List (Nat × GMsg)
  mnt : List (Nat × GMsg)
deriving DecidableEq, Repr

/-- An outstanding Gallery request or snoop of this node (R359): whom it waits for, where it went, and whether it has been sent
again after an unrouted ERR (R362). -/
structure GTag where
  who : Waiter
  op : Nat
  msg : GMsg
  resent : Bool
  delay : Bool
deriving DecidableEq, Repr

/-- An outstanding Passage request (R368, R369): none while its tag is held back after a timeout, its destination node,
and its address. -/
structure PTag where
  who : Option Waiter
  dn : Nat
  pa : Word
deriving DecidableEq, Repr

/-- A read of PCIe MMIO or configuration space that is out at a root port (R352, R193). -/
structure MmioRd where
  port : Nat
  id : Nat
  who : Waiter
  pa : Word
  wr : Bool
deriving DecidableEq, Repr

/-! ### Patrol and the incident log (chapter 18) -/

/-- A record held in an error bank, with what the log entry needs besides it (R482): SOURCE, SEC, the count of further records
coalesced into it, and the TIME of the first and of the latest. -/
structure Held where
  body : Record
  src : Nat
  sec : Bool
  sev : Nat
  cnt : Nat
  first : Word
  last : Word
deriving DecidableEq, Repr

/-- An error bank (R482): 32 records, and the record of overflow with the number of records to be taken before it. -/
structure Bank where
  recs : List Held
  ovf : Option Held
  ahead : Nat
deriving DecidableEq, Repr

/-- A patrol sequencer (R474 to R476): units moved to the front, the unit whose slice runs, consecutive passes each unit was
skipped in. -/
structure Patrol where
  front : List Nat
  cur : Option Nat
  skipped : SMap Nat
  marks : List (Nat × Word)
deriving DecidableEq, Repr

/-- A repair of a patrol unit (R477): the spare rows and columns it takes, or the retirement of its way. -/
structure Repair where
  unit : Nat
  rows : Nat
  cols : Nat
  retired : Bool
deriving DecidableEq, Repr

/-- The repairs of one die (R477, R478): spare rows and columns taken and retirement by unit, the queue for fusing, fuse entries blown, and
those that are of no use because only some of their bits are blown. -/
structure Repairs where
  rows : SMap Nat
  cols : SMap Nat
  retired : SMap Bool
  queue : List Repair
  fuses : List Repair
  spoiled : Nat
deriving DecidableEq, Repr

/-! ### The interrupt router (chapter 14) -/

/-- A message whose remap entry is being read (R381): its number, origin and ID, and what came back: the entry, and 0 or n + 1 for ERR n. -/
structure RtrLook where
  n : Nat
  origin : Origin
  id : Nat
  ans : Option (Vec × Nat)
deriving DecidableEq, Repr

/-- A far atomic of the router on a posted-interrupt descriptor (R385): its number, its message's ID, address, vector and world, and the descriptor's old value
with 0 or n + 1 for ERR n. -/
structure RtrPost where
  n : Nat
  id : Nat
  pid : Word
  vec : Nat
  sec : Bool
  ans : Option (Vec × Nat)
deriving DecidableEq, Repr

/-- The interrupt router: the spill queue (R379), remap entries cached by message ID, those of the secure table at 2^24 and above
(R381), messages whose entry is being read, far atomics on posted-interrupt descriptors in flight (R385), the next number of either,
notifications, doorbells and instance signals on their way (R375, R385), and the number of the first of these that an invalidation does not await
(R382). -/
structure Router where
  spill : List (Nat × Nat × IntRec)
  cache : SMap (Word × Word)
  looking : List RtrLook
  posting : List RtrPost
  nextPost : Nat
  notifs : List (Nat × Word)
  doorbells : List Nat
  signals : List (Nat × Nat)
  inval : Option Nat
deriving DecidableEq, Repr

/-! ### Power (chapter 16) -/

/-- A rail (R418 to R424): failed transactions in a row, the set-point commanded and not yet reported as reached, and the last
reading of a PMBus rail in mV. -/
structure Rail where
  fails : Nat
  want : Option Nat
  mv : Nat
deriving DecidableEq, Repr

/-- An entry into, or an exit from, a power state of a core, chamber or die: the state it goes to; for an exit the step of R442 under
way (0 for an entry), its timeouts, and whether a wake event has ended the entry (R435). -/
structure Trans where
  target : PState
  step : Nat
  tries : Nat
  woken : Bool
deriving DecidableEq, Repr

/-- What the last-wake record of R443 says of a package exit or abort. -/
structure WakeRec where
  cause : Nat
  block : Nat
  source : Nat
  state : Nat
  step : Nat
  time : Word
  held : Nat
deriving DecidableEq, Repr

/-- Package power (R436 to R443): the state, the attempt in progress, its step (1 prepare, 2 to 5 the stops C1 to C4), the participants
that are READY, the links that acknowledged PME_Turn_Off, whether a refused attempt waits, when the state was reached; of an exit, the
step of R442, its last step, its timeouts, its record, and whether the package stays stopped. -/
structure PkgPower where
  state : PState
  target : Option PState
  step : Nat
  ready : List Nat
  acks : List (Nat × Nat)
  refused : Bool
  since : Word
  wake : Option WakeRec
  wstep : Nat
  tries : Nat
  stuck : Bool
deriving DecidableEq, Repr

/-- A request of PWR.BLKREQ in progress (R444): block, action. -/
structure BlkReq where
  block : Nat
  action : Nat
deriving DecidableEq, Repr

/-- A hand-over in progress (R412): REGCHK.HANDOVER as it stood at GO, the STATUS it will end with, and the Basette request it answers, if
any. -/
structure Hand where
  word : Word
  status : Nat
  frame : Option Frame
deriving DecidableEq, Repr

/-! ### Keeper, reset and the test port (chapters 17, 19) -/

/-- A Basette response ready to be read (R461, R462). -/
structure Resp where
  cmd : Nat
  seq : BitVec 16
  crit : Bool
  status : Nat
  payload : Bytes
  counter : Word
deriving DecidableEq, Repr

/-- The fuses (R455 to R457, R466 to R468): UDS, rollback fields by type, Basette keys by slot with those revoked, image key hashes
(0 to 3 ECDSA, 4 to 7 LMS) with those revoked. -/
structure Fuses where
  uds : Nat
  svn : SMap Word
  bkey : SMap Bytes
  brevoked : SMap Bool
  ihash : SMap Bytes
  irevoked : SMap Bool
deriving DecidableEq, Repr

/-- Keeper: its fuses and flash (unlisted bytes are 0xFF), whether the flash counter sector and the fuses fail, the counter record and
how many entries its sector holds (R464), the response queue (R462), notification bits and in-band interrupts not acknowledged (R465),
the reset that a RESET command asked for with the ticks left (R462), SVNs of the running images (R456), measurements (R459), SPDM
sessions (R458), the DOE responses by port, and the last frame sent. -/
structure Keeper where
  fuses : Fuses
  flash : SMap Byte
  flashBad : Bool
  fuseBad : Bool
  persist : Option Word
  entries : Nat
  resps : List Resp
  notif : Nat
  naks : Nat
  mute : Bool
  resetDue : Option (Nat × Nat)
  svn : SMap Nat
  meas : SMap Bytes
  sessions : Nat
  doe : SMap Bytes
  sent : Bytes
  poolLog : SMap Word
deriving DecidableEq, Repr

/-- The Lantern port (R500): the instruction selected (0 BYPASS, 1 IDCODE, 2 SAMPLE/PRELOAD, 3 EXTEST), the boundary register, the data register read out, and whether the boundary
register drives the contacts. -/
structure Tap where
  ir : Nat
  boundary : Bytes
  dr : Bytes
  drives : Bool
deriving DecidableEq, Repr

/-- The discrete signals of R495: the inputs PWROK (true from its assertion until a power failure, R447) and COLDRST# (true when high), and
the outputs THERMTRIP#, SLP_DEEP# and PERST{k}#
(true when asserted). -/
structure Pins where
  pwrok : Bool
  coldrst : Bool
  thermtrip : Bool
  slpDeep : Bool
  perst : SMap Bool
deriving DecidableEq, Repr

/-- A boot that waits at step 1, 3 or 4 of R448. -/
structure BootWait where
  step : Nat
  cause : Nat
  boot : Boot
deriving DecidableEq, Repr

/-! ### The whole block -/

/-- Everything but memory and the queue of commands. `poison` tells the poisoned lines of memory, `carried` those whose data is on its way
between caches, slices and nodes (R327). `awayQ` holds, for each chamber, what its queue from the mesh keeps while its clock stands still (R32,
R33). `linkCfg` is the BIF and SPLIT that a port last trained with (R345); `perstLeft` the ticks for which PERST# still stands (R346). -/
structure Hw where
  threads : SMap Thread
  cores : SMap Core
  chambers : SMap Chamber
  slices : SMap Slice
  mcs : SMap Mc
  insts : SMap Inst
  regs : SMap Word
  locks : SMap Bool
  newest : SMap Vec
  poison : SMap Bool
  carried : SMap Bool
  flits : List Flit
  flitId : Nat
  posts : List Post
  awayQ : SMap (List (Nat × Payload))
  portSnoops : SMap (List (Nat × Nat × Nat))
  meshCycles : Nat
  used : SMap Nat
  freed : SMap Nat
  rrPtr : SMap Nat
  throttle : SMap Nat
  frames : SMap Nat
  resvs : SMap Resv
  gens : SMap Nat
  admQ : List AdmReq
  resvCount : Nat
  bin : Nat
  swdt : Nat
  swdtOn : Bool
  wdFire : Option (Nat × Nat)
  wired : SMap Bool
  dirMem : SMap Nat
  links : SMap Link
  linkCfg : SMap Nat
  perstLeft : Nat
  lsMap : SMap (Nat × Nat)
  gtags : SMap GTag
  ptags : SMap PTag
  mmio : List MmioRd
  slotStat : SMap Nat
  banks : SMap Bank
  lastBank : Nat
  patrol : SMap Patrol
  repairs : SMap Repairs
  lossNext : Bool
  dropNew : Bool
  hottest : SMap Nat
  badSensor : SMap Bool
  badLanes : SMap Nat
  under : SMap (Vec × Bool)
  router : Router
  rails : SMap Rail
  temps : SMap Nat
  tooHot : SMap Nat
  limiter : List Nat
  pkgCeil : Nat
  trans : SMap Trans
  dies : SMap PState
  pkg : PkgPower
  blkreq : Option BlkReq
  deferred : SMap Nat
  hand : Option Hand
  keeper : Keeper
  tap : Tap
  pins : Pins
  off : Bool
  bootWait : Option BootWait
  maint : List (GMsg × List (Nat × Nat × Nat))
  mirror : Nat
  mirrorAsked : Nat
  cpl : SMap Cpl
  time : Word
  fresh : Nat
deriving DecidableEq, Repr

/-- The state of the block: the hardware, the bytes of memory (by local address), and the commands that wait, the first
to run first. -/
structure State where
  hw : Hw
  mem : List Host.Cell
  pending : List Instr
deriving DecidableEq, Repr

/-- Reasons to stop with a fault. The block has none: every condition the spec describes is an exception that a thread
takes, an error record, a status code or an event without effect. -/
inductive Fault where
deriving DecidableEq, Repr

/-- Reasons to refuse a command. -/
inductive Refusal where
  /-- The command has no meaning yet. Safe: the block stops. -/
  | notModelled (mnemonic : String)
  /-- LANTERN_EXTENSION with a debug level open: R500 gives the extension instructions no effect that the spec states.
  Safe: the block stops. -/
  | lanternExtension
deriving DecidableEq, Repr

/-! ### After reset

Every field stands at the value the spec gives for cold reset. DESIGN CHOICE (log 2): where the spec gives none, the value
here is the model's. -/

def Ctx.reset : Ctx := ⟨0, 0, 0, 0⟩

/-- R34, R90, R448: every register zero, at M in the secure world; the entry address is 0 until the thread is
released. -/
def Arch.reset : Arch :=
  ⟨0, [], [], [], [], .m, true, Ctx.reset, none, 0⟩

def Front.reset : Front := ⟨0, false, [], 0, 0, 0, [], 0, 0, 0, false⟩

def Back.reset : Back := ⟨[], [], 0, [], 0, [], none, none, [], [], [], [], none, none, none⟩

/-- A thread after reset: stopped (R448). -/
def Thread.reset : Thread :=
  ⟨Arch.reset, Front.reset, Back.reset, .stopped, ⟨[], 0⟩, ⟨[], 0⟩, [], []⟩

def Inbox.empty : Inbox := ⟨[], false⟩

/-- A cache after reset: disabled, invalid, coverage clear, tree bits 0 (R203, R207, R210). -/
def Cache.reset : Cache := ⟨[], [], 0, [], false⟩

/-- A core after reset (R139, R185, R208). -/
def Core.reset : Core :=
  ⟨Cache.reset, Cache.reset, [], [], [], false, [], [], [], [], [], [], [], false, 0, 0, none, 0, 0, [], 0⟩

/-- A chamber after reset; 2,600 MHz is the reset value of PWR.FREQ (R445). -/
def Chamber.reset : Chamber :=
  ⟨Cache.reset, [], [], [], [], none, false, 0, 0, 2600, 0, 0, 3400, none, .run, [], none⟩

def Slice.reset : Slice where
  ways := []
  offline := []
  sf := []
  sfPtr := []
  dir := []
  dirPtr := []
  wbb := []
  intake := []
  txns := []
  wbIn := []
  rwbIn := []
  snps := []
  answers := []
  fills := []
  tokens := []
  instIn := []
  ctxs := []
  opbuf := []
  ttlb := []
  walkers := []
  engineOff := false
  rr := 0
  stopped := false
  drr := (0, 0)

/-- A request that is begun (R230). -/
def Txn.begun (r : SReq) : Txn :=
  ⟨r, 0, [], false, [], [], [], [], false, false, false, false, false, false, 0, false, false, 0, false⟩

def Mc.reset : Mc :=
  { reads := [], writes := [], trackers := [], opened := [], refreshed := none, acts := [], retries := 0, failed := false, retention := []
    retTimes := [], uncTimes := [], corrs := [], hot := false, coolReads := 0, usableFull := 0, repairs := [], copy := none, remap := []
    repairLog := [], pool := [], capacity := 0, dimms := [], eyes := [], dimmTemps := [], drfm := false, wprot := [], scrubAt := 0, scrubBad := 0
    badHidden := [], drr := (0, 0), promoted := [] }

def Inst.reset : Inst := ⟨[], 0, false, false, 0, 0, none, none, none, false, 0, 0, false, 0, 0⟩

/-- A miss register that is free. -/
def Miss.free : Miss := ⟨0, false, false, false, 0, false, false, 0, .normal, false, 0, 0, false, false, 16, ⟨.u, false, 0⟩, none, false, false, 0, none⟩


def Link.reset : Link := ⟨false, 0, 0, 0, [], [], [], 0, false, [], false, [], [], []⟩

def Bank.reset : Bank := ⟨[], none, 0⟩
def Patrol.reset : Patrol := ⟨[], none, [], []⟩
def Repairs.reset : Repairs := ⟨[], [], [], [], [], 0⟩
def Router.reset : Router := ⟨[], [], [], [], 0, [], [], [], none⟩
def Rail.reset : Rail := ⟨0, none, 0⟩
def PkgPower.reset : PkgPower := ⟨.run, none, 0, [], [], false, 0, none, 0, 0, false⟩
/-- DESIGN CHOICE (log 4): blank fuses and flash, both of which work. -/
def Keeper.reset : Keeper :=
  ⟨⟨0, [], [], [], [], []⟩, [], false, false, none, 0, [], 0, 0, false, none, [], [], 0, [], [], []⟩
/-- Test-Logic-Reset selects IDCODE, instruction 1 (PRESUMED, log 41: IEEE 1149.1). -/
def Tap.reset : Tap := ⟨1, [], [], false⟩
/-- PWROK high and COLDRST# released (log 3). -/
def Pins.reset : Pins := ⟨true, true, false, false, []⟩

def Hw.reset : Hw where
  threads := []
  cores := []
  chambers := []
  slices := []
  mcs := []
  insts := []
  regs := []
  locks := []
  newest := []
  poison := []
  carried := []
  flits := []
  flitId := 0
  posts := []
  awayQ := []
  portSnoops := []
  meshCycles := 0
  used := []
  freed := []
  rrPtr := []
  throttle := []
  frames := []
  resvs := []
  gens := []
  admQ := []
  resvCount := 0
  bin := 0
  swdt := 763 * 65536
  swdtOn := false
  wdFire := none
  wired := []
  dirMem := []
  links := []
  linkCfg := []
  perstLeft := 0
  lsMap := []
  gtags := []
  ptags := []
  mmio := []
  slotStat := []
  banks := []
  lastBank := 5
  patrol := []
  repairs := []
  lossNext := false
  dropNew := false
  hottest := []
  badSensor := []
  badLanes := []
  under := []
  router := Router.reset
  rails := []
  temps := []
  tooHot := []
  limiter := []
  pkgCeil := 3400
  trans := []
  dies := []
  pkg := PkgPower.reset
  blkreq := none
  deferred := []
  hand := none
  keeper := Keeper.reset
  tap := Tap.reset
  pins := Pins.reset
  off := false
  bootWait := none
  maint := []
  mirror := 0
  mirrorAsked := 0
  cpl := []
  time := 0
  fresh := 0

/-- The block right after cold reset: nothing is listed in memory and no command waits. -/
def State.reset : State := ⟨Hw.reset, [], []⟩

end Sys2Proof.Machine
end

