-- ==== Sys2Proof/Machine/Ops.lean ====
section
/-! DEFINITION. The shared operations on bits, components, memory and registers that every family uses. -/

namespace Sys2Proof.Machine

/-! ### Bits and bytes -/

/-- Bits hi to lo of a number. -/
def fld (w : Nat) (hi lo : Nat) : Nat := w / 2 ^ lo % 2 ^ (hi + 1 - lo)

/-- Bits hi to lo of a word. -/
def Word.fld (w : Word) (hi lo : Nat) : Nat := Machine.fld w.toNat hi lo

/-- Bit i of a word. -/
def Word.bit (w : Word) (i : Nat) : Bool := w.getLsbD i

/-- The word with bits hi to lo replaced by the low bits of v. -/
def Word.setFld (w : Word) (hi lo v : Nat) : Word :=
  BitVec.ofNat 64 (w.toNat - Word.fld w hi lo * 2 ^ lo + v % 2 ^ (hi + 1 - lo) * 2 ^ lo)

def b2n (b : Bool) : Nat := if b then 1 else 0

/-- A word from a number. -/
def w64 (n : Nat) : Word := BitVec.ofNat 64 n

/-- All ones. -/
def onesW : Word := BitVec.allOnes 64

/-- Byte i of a vector. -/
def vbyte (v : Vec) (i : Nat) : Byte := v.extractLsb' (8 * i) 8

/-- The number that bytes spell, the lowest address least significant (R8). -/
def leNat : Bytes → Nat
  | [] => 0
  | b :: r => b.toNat + 256 * leNat r

/-- n bytes of a number, the least significant first (R8). -/
def leBytes : Nat → Nat → Bytes
  | 0, _ => []
  | n + 1, v => BitVec.ofNat 8 v :: leBytes n (v / 256)

/-- Bytes off to off + n − 1 of a vector. -/
def vbytes (v : Vec) (off n : Nat) : Bytes := leBytes n (v.toNat / 256 ^ off)

/-- The vector with bytes stored from byte off on; bytes beyond 63 are dropped. -/
def vput (v : Vec) (off : Nat) (bs : Bytes) : Vec :=
  let n := bs.length
  let m : Vec := BitVec.ofNat 512 ((256 ^ n - 1) * 256 ^ off)
  (v &&& ~~~m) ||| (BitVec.ofNat 512 (leNat bs * 256 ^ off) &&& m)

/-- The number whose byte i is all ones where bit i of a number is 1, for i below n. -/
def byteMask : Nat → Nat → Nat
  | 0, _ => 0
  | n + 1, m => (if m % 2 = 1 then 255 else 0) + 256 * byteMask n (m / 2)

/-- The bytes of new where the mask has a 1, of old elsewhere (R119). -/
def vmerge (old new : Vec) (mask : BitVec 64) : Vec :=
  let m : Vec := BitVec.ofNat 512 (byteMask 64 mask.toNat)
  (old &&& ~~~m) ||| (new &&& m)

/-- Mask of n bytes from byte off. -/
def maskOf (off n : Nat) : BitVec 64 := BitVec.ofNat 64 ((2 ^ n - 1) * 2 ^ off)

/-- Eight little-endian doublewords of a line (R8). -/
def vword (v : Vec) (i : Nat) : Word := v.extractLsb' (64 * i) 64

/-- A line from doublewords. -/
def lineOf (ws : List Word) : Vec := BitVec.ofNat 512 (ws.foldr (fun w n => w.toNat + 2 ^ 64 * n) 0)

/-- Lowest set bit of a number among its low n bits. -/
def lowBit : Nat → Nat → Option Nat
  | 0, _ => none
  | n + 1, v => if v % 2 = 1 then some 0 else (lowBit n (v / 2)).map (· + 1)

/-- Number of ones among the low n bits. -/
def popN : Nat → Nat → Nat
  | 0, _ => 0
  | n + 1, v => v % 2 + popN n (v / 2)

/-! ### Components (R6, R11, R14) -/

def numThreads : Nat := 1152
def numCores : Nat := 288
def numChambers : Nat := 72
def numSlices : Nat := 72

/-- The core of a thread, the chamber of a core, the die of a chamber (R6). -/
def coreOf (t : Nat) : Nat := t / 4
def chamberOf (core : Nat) : Nat := core / 4
def dieOf (chamber : Nat) : Nat := chamber / 18

/-- The local thread number 4 × local core + thread of a chamber (R167). -/
def localT (t : Nat) : Nat := t % 16

def Hw.thread (h : Hw) (t : Nat) : Thread := sget Thread.reset t h.threads
def Hw.core (h : Hw) (c : Nat) : Core := sget Core.reset c h.cores
def Hw.chamber (h : Hw) (c : Nat) : Chamber := sget Chamber.reset c h.chambers
def Hw.slice (h : Hw) (s : Nat) : Slice := sget Slice.reset s h.slices
def Hw.mc (h : Hw) (m : Nat) : Mc := sget Mc.reset m h.mcs
def Hw.inst (h : Hw) (i : Nat) : Inst := sget Inst.reset i h.insts

def Hw.updThread (h : Hw) (t : Nat) (f : Thread → Thread) : Hw :=
  { h with threads := supd Thread.reset t f h.threads }
def Hw.updCore (h : Hw) (c : Nat) (f : Core → Core) : Hw := { h with cores := supd Core.reset c f h.cores }
def Hw.updChamber (h : Hw) (c : Nat) (f : Chamber → Chamber) : Hw :=
  { h with chambers := supd Chamber.reset c f h.chambers }
def Hw.updSlice (h : Hw) (s : Nat) (f : Slice → Slice) : Hw := { h with slices := supd Slice.reset s f h.slices }
def Hw.updMc (h : Hw) (m : Nat) (f : Mc → Mc) : Hw := { h with mcs := supd Mc.reset m f h.mcs }
def Hw.updInst (h : Hw) (i : Nat) (f : Inst → Inst) : Hw := { h with insts := supd Inst.reset i f h.insts }

def Hw.updArch (h : Hw) (t : Nat) (f : Arch → Arch) : Hw := h.updThread t fun x => { x with a := f x.a }
def Hw.updFront (h : Hw) (t : Nat) (f : Front → Front) : Hw := h.updThread t fun x => { x with f := f x.f }
def Hw.updBack (h : Hw) (t : Nat) (f : Back → Back) : Hw := h.updThread t fun x => { x with b := f x.b }

def Hw.dieState (h : Hw) (d : Nat) : PState := sget .run d h.dies

/-- A thread's clocks run: its chamber is not stopped by a fatal error and not parked, and its core, chamber, die and package are in
Run (R430, R444, R487). -/
def Hw.threadUp (h : Hw) (t : Nat) : Bool :=
  let c := h.chamber (t / 16)
  !c.stopped && decide (c.park = none) && decide (c.pstate = .run) && decide (sget PState.run (t / 4 % 4) c.cstate = .run)
    && decide (h.dieState (t / 288) = .run) && decide (h.pkg.state = .run)

/-- A fold over the numbers lo to lo + n − 1. -/
def forN {α : Type} (lo : Nat) : Nat → (Nat → α → α) → α → α
  | 0, _, a => a
  | n + 1, f, a => forN (lo + 1) n f (f lo a)

/-! ### Memory-mapped registers, as the device itself sees them (R9, R24) -/

/-- The block, instance and offset that a local address lies in (R24). -/
def blockAt (a : Nat) : Option (Block × Nat × Nat) :=
  Block.all.findSome? fun b =>
    if b.base ≤ a ∧ a < b.base + b.window * b.count then
      some (b, (a - b.base) / b.window, (a - b.base) % b.window)
    else none

/-- Whether a register family stands at an offset. -/
def RegDef.at_ (d : RegDef) (o : Nat) : Bool :=
  decide (d.off ≤ o) && decide ((o - d.off) / d.s1 < d.n1) && decide ((o - d.off) % d.s1 % d.s2 = 0)
    && decide ((o - d.off) % d.s1 / d.s2 < d.n2)

/-- The register at a local address, if one stands there. -/
def regDefAt (a : Nat) : Option RegDef :=
  match blockAt a with
  | some (b, _, o) => b.regs.find? fun d => d.at_ o
  | none => none

/-- The reset value of a register: its fields' values. -/
def RegDef.resetVal (d : RegDef) : Word := w64 (d.fields.foldl (fun n f => n + f.reset * 2 ^ f.lo) 0)

/-- The reset value at a local address; registers that number themselves differ by instance only through boot. -/
def regReset (a : Nat) : Word :=
  match regDefAt a with
  | some d => d.resetVal
  | none => 0

/-- The value a register holds. -/
def Hw.reg (h : Hw) (a : Nat) : Word :=
  match sfind a h.regs with
  | some w => w
  | none => regReset a

/-- The device writes a register itself. -/
def Hw.setReg (h : Hw) (a : Nat) (w : Word) : Hw := { h with regs := sset a w h.regs }

def Hw.regF (h : Hw) (a hi lo : Nat) : Nat := Word.fld (h.reg a) hi lo

def Hw.setRegF (h : Hw) (a hi lo v : Nat) : Hw := h.setReg a (Word.setFld (h.reg a) hi lo v)

/-- A counter register advances by n modulo 2^64. -/
def Hw.bump (h : Hw) (a n : Nat) : Hw := h.setReg a (h.reg a + w64 n)

/-! Addresses of registers (the offsets are those of the tables the names come from). -/

def vatReg (s o : Nat) : Nat := 0xFF1000000000 + s * 0x10000 + o
def chamberReg (c o : Nat) : Nat := 0xFF0000000000 + c * 0x100000 + o
def mcReg (m o : Nat) : Nat :=
  if m < 12 then 0xFF2000000000 + m * 0x100000 + o else 0xFF2800000000 + (m - 12) * 0x100000 + o
def linkReg (k o : Nat) : Nat := 0xFF3000000000 + k * 0x100000 + o
def routerReg (o : Nat) : Nat := 0xFF4000000000 + o
def admReg (o : Nat) : Nat := 0xFF4800000000 + o
def pwrReg (o : Nat) : Nat := 0xFF5000000000 + o
def chkReg (o : Nat) : Nat := 0xFF5800000000 + o
def logReg (o : Nat) : Nat := 0xFF6000000000 + o
def kprReg (o : Nat) : Nat := 0xFF7000000000 + o
/-- The page of Churn instance i (R247). -/
def instReg (i o : Nat) : Nat := vatReg (i / 8) (0x8000 + 0x800 * (i % 8) + o)
def wireReg (n : Nat) : Nat := routerReg (8 * n)
def rinstReg (i : Nat) : Nat := routerReg (0x200000 + 8 * i)
/-- The rescue area of thread t (R167), and its claim and virtual-interrupt registers (R380, R386). -/
def rescueReg (t o : Nat) : Nat := chamberReg (t / 16) (0x80000 + 0x100 * localT t + o)
def intrReg (t o : Nat) : Nat := chamberReg (t / 16) (0x90000 + 0x80 * localT t + o)

/-- This socket's node ID (R27). -/
def Hw.node (h : Hw) : Nat := h.regF (chkReg 0x10000) 15 0

/-- The populated DDR, in bytes (R27). -/
def Hw.ddrTop (h : Hw) : Nat := h.regF (chkReg 0x10008) 42 30 * 2 ^ 30

/-- The valid entries of the coherent group (R27): index and node. -/
def Hw.group (h : Hw) : List (Nat × Nat) :=
  (List.range 16).filterMap fun i =>
    if Word.bit (h.reg (chkReg (0x10100 + 8 * i))) 63 then some (i, h.regF (chkReg (0x10100 + 8 * i)) 15 0) else none

/-- An event bit of a block is set (R374). -/
def Hw.event (h : Hw) (a bit : Nat) : Hw := h.setReg a (h.reg a ||| w64 (2 ^ bit))

/-! ### Bytes of memory

Memory is a list of (local address, byte) in ascending order without zero bytes: an unlisted byte reads 0
(DESIGN CHOICE, log 1). -/

/-- The byte at a local address. -/
def memGet : List Host.Cell → Nat → Byte
  | [], _ => 0
  | (j, b) :: r, a => if a = j then b else memGet r a

/-- Memory with a byte stored. -/
def memSet (a : Nat) (v : Byte) : List Host.Cell → List Host.Cell
  | [] => if v = 0 then [] else [(a, v)]
  | (j, b) :: r =>
    if a < j then (if v = 0 then (j, b) :: r else (a, v) :: (j, b) :: r)
    else if a = j then (if v = 0 then r else (a, v) :: r)
    else (j, b) :: memSet a v r

/-- n bytes from a local address. -/
def memBytes (m : List Host.Cell) (a : Nat) : Nat → Bytes
  | 0 => []
  | n + 1 => memGet m a :: memBytes m (a + 1) n

/-- Memory with bytes stored from a local address on. -/
def memPut (a : Nat) : Bytes → List Host.Cell → List Host.Cell
  | [], m => m
  | b :: r, m => memPut (a + 1) r (memSet a b m)

/-- The 64 bytes of a local line. -/
def memLine (m : List Host.Cell) (a : Nat) : Vec := BitVec.ofNat 512 (leNat (memBytes m a 64))

/-- The canonical form: addresses strictly rising, no zero byte. -/
def Memory.wf : List Host.Cell → Bool
  | [] => true
  | [(_, b)] => b != 0
  | (j, b) :: (k, c) :: r => b != 0 && decide (j < k) && Memory.wf ((k, c) :: r)

/-! ### Lines: the newest value (R59, R229)

Lines are numbered by global physical address ÷ 64. `newest` holds the value of a line that some cache or buffer of the
node holds newer than memory, and of every cached line of another node; coherence makes that one value (log 7). -/

/-- The line of an address. -/
def lineNo (pa : Word) : Nat := pa.toNat / 64

/-- Whether a line belongs to this node (R20 row 1). -/
def Hw.localLine (h : Hw) (l : Nat) : Bool := l / 2 ^ 42 == h.node

/-- The local address of a line's first byte. -/
def lineLocal (l : Nat) : Nat := l % 2 ^ 42 * 64

/-- A line of this node that another member of the group may own, by the directory (R231 to R233). -/
def Hw.awayLine (h : Hw) (l : Nat) : Bool :=
  h.slices.any (fun s => s.2.dir.any fun e => e.2.line == l && decide (2 ≤ e.2.summary)) || decide (2 ≤ sget 0 l h.dirMem)

/-- The newest value of a line; a free value where another node has it (log 31). -/
def lineVal (m : List Host.Cell) (h : Hw) (l : Nat) : Vec :=
  match sfind l h.newest with
  | some v => v
  | none => if h.localLine l && !h.awayLine l then memLine m (lineLocal l) else Config.farLine l h.fresh

/-- The line gets a new value while a cache of the node owns it. -/
def Hw.setNewest (h : Hw) (l : Nat) (v : Vec) : Hw := { h with newest := sset l v h.newest }

/-- Bytes merged into a line whose owner is a cache of the node. -/
def Hw.mergeNewest (m : List Host.Cell) (h : Hw) (l : Nat) (data : Vec) (mask : BitVec 64) : Hw :=
  h.setNewest l (vmerge (lineVal m h l) data mask)

/-- A line is poisoned in memory (R327). -/
def Hw.memBad (h : Hw) (l : Nat) : Bool := sget false l h.poison

def Hw.setPoison (h : Hw) (l : Nat) (b : Bool) : Hw :=
  { h with poison := if b then sset l true h.poison else sdel l h.poison }

/-- Data of a line is on its way, poisoned or good (R219, R327). -/
def Hw.carry (h : Hw) (l : Nat) (b : Bool) : Hw := { h with carried := sset l b h.carried }

/-- The data of a line has come to rest, unless a writeback of it is still under way. -/
def Hw.landed (h : Hw) (l : Nat) : Hw :=
  if h.chambers.any fun p => p.2.wbuf.any fun q => q.1 == l && q.2.1 then h else { h with carried := sdel l h.carried }

/-- n bytes of the newest value from a global address, over at most two lines. -/
def cohBytes (m : List Host.Cell) (h : Hw) (pa : Word) (n : Nat) : Bytes :=
  let o := pa.toNat % 64
  let n1 := min n (64 - o)
  vbytes (lineVal m h (lineNo pa)) o n1 ++ vbytes (lineVal m h (lineNo pa + 1)) 0 (n - n1)

/-- A doubleword of the newest value. -/
def cohWord (m : List Host.Cell) (h : Hw) (pa : Word) : Word := w64 (leNat (cohBytes m h pa 8))

/-! ### The outcome of a command -/

/-- A command of the always-on domain that changes the hardware and leaves memory as it is. -/
def State.onAon (s : State) (f : List Host.Cell → Hw → Hw) : Host.Outcome State Fault Refusal :=
  .next { s with hw := f s.mem s.hw }

/-- A command of the always-on domain that may write memory. -/
def State.onAonAll (s : State) (f : List Host.Cell → Hw → List Host.Cell × Hw) : Host.Outcome State Fault Refusal :=
  let p := f s.mem s.hw
  .next { s with hw := p.2, mem := p.1 }

/-- A command that changes the hardware and leaves memory as it is; nothing happens while every clock is stopped (R447). -/
def State.onHw (s : State) (f : List Host.Cell → Hw → Hw) : Host.Outcome State Fault Refusal :=
  if s.hw.off then .next s else s.onAon f

/-- A command that may write memory; nothing happens while every clock is stopped (R447). -/
def State.onAll (s : State) (f : List Host.Cell → Hw → List Host.Cell × Hw) : Host.Outcome State Fault Refusal :=
  if s.hw.off then .next s else s.onAonAll f

/-- A fresh number for a free value (log 6). -/
def Hw.tick (h : Hw) : Hw := { h with fresh := h.fresh + 1 }

end Sys2Proof.Machine
end

