-- ==== Sys2Proof/Machine/Mem.lean ====
section
/-! DEFINITION. Physical addresses: the decode of R20 to R26, memory types of the physical regime (R176), the homes of
lines (R220, R221, R316 to R319), and the region checkers (R395 to R399). -/

namespace Sys2Proof.Machine

/-- The port that the first matching host-managed decoder names for a local address: decoders are scanned from port 0
decoder 0 to port 7 decoder 3 (R351). IW codes 0 to 3 are 1, 2, 4 and 8 ways (R371). -/
def Hw.hdmPort (h : Hw) (a : Nat) : Option Nat :=
  (List.range 32).findSome? fun n =>
    let base := h.regF (linkReg (n / 4) (0x400 + 16 * (n % 4))) 47 28 * 2 ^ 28
    let c := h.reg (linkReg (n / 4) (0x408 + 16 * (n % 4)))
    if Word.bit c 63 && decide (base ≤ a) && decide (a < base + Word.fld c 27 0 * 2 ^ 28) then
      let w := a / 2 ^ (8 + Word.fld c 59 57) % 2 ^ Word.fld c 62 60
      some (Word.fld c 55 32 / 8 ^ w % 8)
    else none

/-- A window of root port k covers a local address (R351). -/
def Hw.winHit (h : Hw) (k a : Nat) : Bool :=
  (List.range 2).any fun d =>
    let l := h.reg (linkReg k (0x308 + 16 * d))
    Word.bit l 63 && decide (h.regF (linkReg k (0x300 + 16 * d)) 47 20 ≤ a / 2 ^ 20)
      && decide (a / 2 ^ 20 ≤ Word.fld l 47 20)

/-- The Pool window of a die is backed at an offset (R22): flat mode and a trained stack, the lowest 24 GiB. -/
def Hw.poolBacked (h : Hw) (p off : Nat) : Bool :=
  decide (h.regF (mcReg (12 + p) 0) 0 0 = 0) && decide (off < 24 * 2 ^ 30)
    && decide (h.regF (mcReg (12 + p) 8) 3 0 = 0) && decide (h.regF (mcReg (12 + p) 8) 47 32 ≠ 0)

/-- Whether [47:0] falls in one of the three memory ranges, each taken whole (R20). -/
def inMemRange (a : Nat) : Bool :=
  decide (a < 0x082000000000) || (decide (0x0C0000000000 ≤ a) && decide (a < 0x100000000000))

/-- The local map of R21, with the ECAM windows of R352: a target, or the subcode of R26. An address that MMIO windows of two root ports
cover goes to the port of the lower number (DESIGN CHOICE, log 82: R21 gives a scan order for the host-managed decoders only). -/
def Hw.decodeLocal (h : Hw) (a : Nat) : Except Nat Target :=
  if a < 0x080000000000 then (if a < h.ddrTop then .ok .ddr else .error 1)
  else if a < 0x082000000000 then
    let p := (a - 0x080000000000) / 0x800000000
    if h.poolBacked p ((a - 0x080000000000) % 0x800000000) then .ok (.pool p) else .error 1
  else if a < 0x0C0000000000 then .error 0
  else if a < 0x100000000000 then
    match h.hdmPort a with
    | some k => .ok (.cxl k)
    | none => .error 2
  else if a < 0xF00000000000 then .error 0
  else if a < 0xFF0000000000 then
    if 0xFE0000000000 ≤ a ∧ a < 0xFE0080000000 then .ok (.mmio ((a - 0xFE0000000000) / 0x10000000))
    else
      match (List.range 8).find? fun k => h.winHit k a with
      | some k => .ok (.mmio k)
      | none => .error 2
  else if (blockAt a).isSome then .ok .reg
  else .error 3

/-- The decode of R20; the first matching row decides. -/
def Hw.decodePA (h : Hw) (pa : Word) : Except Nat Target :=
  let n := pa.toNat / 2 ^ 48
  let a := pa.toNat % 2 ^ 48
  if n = h.node then h.decodeLocal a
  else if inMemRange a then
    match h.group.find? fun g => g.2 == n with
    | some (i, _) => .ok (.group i)
    | none => .ok .remote
  else .error 5

/-- The memory type of the physical regime (R176). -/
def Target.physType : Target → MemType
  | .ddr | .pool _ | .cxl _ | .group _ => .wb
  | .mmio _ | .reg => .strict
  | .remote => .nc

def MemType.rank : MemType → Nat
  | .wb => 0
  | .wt => 1
  | .nc => 2
  | .posted => 3
  | .strict => 4

def memTypeOf : Nat → MemType
  | 0 => .wb
  | 1 => .wt
  | 2 => .nc
  | 3 => .posted
  | _ => .strict

/-- The more restrictive of two types (R186). -/
def MemType.combine (a b : MemType) : MemType := if a.rank < b.rank then b else a

def MemType.device (t : MemType) : Bool := decide (3 ≤ t.rank)

/-- R23 and R66 applied to a translated type. -/
def Target.fixType (tg : Target) (t : MemType) : MemType :=
  match tg with
  | .reg => .strict
  | .remote => if t.rank < 2 then .nc else t
  | _ => t

/-! ### Homes (R220, R221, R316, R318) -/

/-- fold of R220 of a line number's local part. -/
def lineFold (l : Nat) : Nat :=
  ((l % 2 ^ 16) ^^^ (l / 2 ^ 16 % 2 ^ 16)) ^^^ (l / 2 ^ 32 % 2 ^ 10)

/-- The position whose node a line belongs to; none for a line of this node, and for one that R20 decodes as row 3. -/
def Hw.homePos (h : Hw) (line : Nat) : Option Nat :=
  if h.localLine line then none else (h.group.find? fun g => g.2 == line / 2 ^ 42).map (·.1)

/-- The group position of the node that an address is decoded to (R20). -/
def Target.home : Target → Option Nat
  | .group i => some i
  | _ => none

/-- The slice of a line (R220). -/
def sliceOf (l : Nat) : Nat := lineFold l % 72

/-- The Vat set of a line (R221). -/
def vatSet (l : Nat) : Nat := (l / 2 ^ 16 % 2 ^ 12) ^^^ (lineFold l / 72)

/-- Reverses the low n bits. -/
def revBits : Nat → Nat → Nat
  | 0, _ => 0
  | n + 1, v => v % 2 * 2 ^ n + revBits n (v / 2)

/-- The Pool port of a line (R318). -/
def poolPort (l : Nat) : Nat :=
  ((revBits 16 (l % 2 ^ 16) ^^^ (l / 2 ^ 16 % 2 ^ 16)) ^^^ (l / 2 ^ 32 % 2 ^ 10)) % 3

/-- The included DDR channels in ascending order (R314, R316): the reason is 0 or 6 and the trained rate was kept. -/
def Hw.included (h : Hw) : List Nat :=
  (List.range 12).filter fun m => decide (0 < (h.mc m).capacity)

/-- The channel and channel-local index of a DDR line (R316). -/
def Hw.ddrHome (h : Hw) (l : Nat) : Nat × Nat :=
  let e := h.included
  let i := l % 2 ^ 42
  if e.length = 0 then (0, i) else (e.getD (i % e.length) 0, i / e.length)

/-- The memory controller of a local line: DDR 0 to 11, Pool 12 to 15. -/
def Hw.mcOf (h : Hw) (l : Nat) : Nat :=
  let a := lineLocal l
  if a < 0x080000000000 then (h.ddrHome l).1 else 12 + (a - 0x080000000000) / 0x800000000 % 4

/-- The die whose Pool stack, in cache mode, serves a DDR line (R319). -/
def Hw.poolDie (h : Hw) (l : Nat) : Option Nat :=
  let p := (h.ddrHome l).1 / 3
  if lineLocal l < 0x080000000000 ∧ h.regF (mcReg (12 + p) 0) 0 0 = 1 ∧ h.regF (mcReg (12 + p) 8) 3 0 = 0
      ∧ h.regF (mcReg (12 + p) 8) 47 32 ≠ 0 then some p
  else none

/-- The index and tag of a DDR line in its die's stack (R319). -/
def Hw.poolPlace (h : Hw) (l : Nat) : Nat × Nat :=
  let d := h.ddrHome l
  let x := 3 * d.2 + d.1 % 3
  (x % 402653184, x / 402653184)

/-- The local DDR line with an index and tag in die p's stack: the inverse of `poolPlace`. -/
def Hw.poolLine (h : Hw) (p idx tag : Nat) : Nat :=
  let x := tag * 402653184 + idx
  let e := h.included
  let c := 3 * p + x % 3
  h.node * 2 ^ 42 + x / 3 * e.length + (e.findIdx? (· == c)).getD 0

/-- A Pool copy of a DDR line is invalidated (R319). -/
def Hw.poolDrop (h : Hw) (l : Nat) : Hw :=
  match h.poolDie l with
  | none => h
  | some p =>
    let q := h.poolPlace l
    match sfind q.1 (h.mc (12 + p)).pool with
    | some e => if e.1 = q.2 then h.updMc (12 + p) fun x => { x with pool := sdel q.1 x.pool } else h
    | none => h

/-! ### Region checkers (R395 to R398) -/

/-- An enabled region that contains a local address. -/
def Hw.rgnHit (h : Hw) (a n : Nat) : Bool :=
  let at_ := h.reg (chkReg (0x20 * n + 16))
  Word.bit at_ 63 && !(decide (Word.fld at_ 57 56 = 2) && decide (Word.fld at_ 43 32 = 0))
    && decide (h.regF (chkReg (0x20 * n)) 47 12 ≤ a / 4096)
    && decide (a / 4096 ≤ h.regF (chkReg (0x20 * n + 8)) 47 12)

/-- The owner a region's ATTR names. -/
def attrOwner (at_ : Word) : Owner :=
  match Word.fld at_ 57 56 with
  | 0 => .normal
  | 1 => .secure
  | _ => .geode (Word.fld at_ 43 32)

/-- The deciding owner of a local address and its permission bits X, W, R as [2:0] (R398). -/
def Hw.ownerOf (h : Hw) (a : Nat) : Owner × Nat :=
  let rs := ((List.range 64).filter (h.rgnHit a)).map fun n => h.reg (chkReg (0x20 * n + 16))
  if rs.isEmpty then (.secure, 7)
  else
    let gs := rs.filter fun r => Word.fld r 57 56 == 2
    let o : Owner :=
      match gs with
      | r :: q => if q.all fun x => Word.fld x 43 32 == Word.fld r 43 32 then .geode (Word.fld r 43 32) else .nobody
      | [] => if rs.any fun r => Word.fld r 57 56 == 1 then .secure else .normal
    (o, match rs.find? fun r => attrOwner r == o with
        | some r => Word.fld r 2 0
        | none => 0)

/-- Whether an accessor is admitted to memory of an owner (R397). -/
def Acc.admits (c : Acc) : Owner → Bool
  | .normal => true
  | .secure => c.secure
  | .geode g => decide (c.lvl = .m) || (!c.secure && decide (c.geode ≠ 0) && decide (c.geode = g))
  | .nobody => decide (c.lvl = .m)

/-- The judgement of R397: the needed permissions are bits X 4, W 2, R 1. -/
def Hw.judge (h : Hw) (c : Acc) (a need : Nat) : Bool :=
  if c.lvl = .m then true
  else
    let o := h.ownerOf a
    c.admits o.1 && decide (o.2 &&& need = need)

/-- The judgement of an access by global address: only memory and PCIe MMIO of this node are judged here (R395, R396);
on another node an access is judged as normal-world, outside every geode. -/
def Hw.judgePA (h : Hw) (c : Acc) (pa : Word) (need : Nat) : Bool :=
  match h.decodePA pa with
  | .ok .reg => true
  | .ok (.group _) | .ok .remote => true
  | .ok _ => h.judge c (pa.toNat % 2 ^ 48) need
  | .error _ => true

/-- The owner tag a cache gives a line it fills (R399). -/
def Hw.lineOwner (h : Hw) (l : Nat) : Owner :=
  if h.localLine l then (h.ownerOf (lineLocal l)).1 else .normal

end Sys2Proof.Machine
end

