-- ==== Sys2Proof/Machine/Mesh.lean ====
section
/-! DEFINITION. The mesh (R14 to R19, R32, R33, R282 to R290): stops, routes, the channels, stages and ages of messages, the queues at
its edge, and credits (R237, R238, R243). -/

namespace Sys2Proof.Machine

/-! Stops are numbered: compute die d, column x, row y is 24 d + 6 y + x; the stops of IO0 are 96 to 127, of IO1 128 to 159
(DESIGN CHOICE, log 8: the spec does not number them; an I/O die's own mesh is one hop from any stop to any other). -/

/-- The stop of a chamber and of its slice (R14). -/
def chamberStop (c : Nat) : Nat :=
  24 * (c / 18) + [1, 3, 4, 7, 8, 9, 10, 11, 12, 13, 14, 15, 16, 17, 19, 21, 22, 23].getD (c % 18) 1

/-- The stop of a DDR controller, and of a Pool controller's port (R14, R15). -/
def ddrStop (m : Nat) : Nat := 24 * (m / 3) + [0, 20, 5].getD (m % 3) 0

/-- The stop by which a line reaches its controller (R15, R318). -/
def mcStop (mc l : Nat) : Nat := if mc < 12 then ddrStop mc else ddrStop (3 * (mc - 12) + poolPort l)

/-- The stop of link port k (R18, R19). -/
def portStop (k : Nat) : Nat := if k < 4 ∨ (8 ≤ k ∧ k < 11) ∨ k = 14 ∨ k = 15 then 96 + k else 128 + k

/-- The blocks on the I/O dies (R18). -/
inductive PkgBlock where
  | router | power | keeper | i3c | spi | avs (n : Nat) | pmbus | lantern | crystal | admission | log
deriving DecidableEq, Repr

/-- The stop of a package block: on IO0 from 112 on, on IO1 146 and 147 (R18, R19; log 8). -/
def blockStop : PkgBlock → Nat
  | .router => 112
  | .power => 113
  | .keeper => 114
  | .i3c => 115
  | .spi => 116
  | .avs n => 117 + n % 6
  | .pmbus => 123
  | .lantern => 124
  | .crystal => 125
  | .admission => 146
  | .log => 147

def stopDie (n : Nat) : Nat := if n < 96 then n / 24 else if n < 128 then 4 else 5
def stopX (n : Nat) : Nat := n % 6
def stopY (n : Nat) : Nat := n % 24 / 6

/-- The die-edge stops of a compute die: H, V and IO (R14). -/
def hStop (d : Nat) : Nat := 24 * d + 6
def vStop (d : Nat) : Nat := 24 * d + 18
def ioStop (d : Nat) : Nat := 24 * d + 2
/-- The I/O die of a compute die, and the stop of its IO bridge there. -/
def ioDie (d : Nat) : Nat := 4 + d / 2
def ioBridge (d : Nat) : Nat := 96 + 32 * (d / 2) + 30 + d % 2

/-- The next move of a message (R16, R284): direction 0 +x, 1 −x, 2 +y, 3 −y, 4 over the bridge of the stop, 5 ejection,
6 within an I/O die; and the stop it leads to. -/
def nextMove (at_ dst : Nat) : Nat × Nat :=
  if at_ = dst then (5, dst)
  else
    let d := stopDie at_
    let e := stopDie dst
    if d < 4 then
      let goal := if d = e then dst
        else if e < 4 then (if d % 2 ≠ e % 2 then hStop d else vStop d)
        else if e = ioDie d then ioStop d else vStop d
      if at_ = goal then
        (4, if goal = hStop d then hStop (d ^^^ 1) else if goal = vStop d then vStop (d ^^^ 2) else ioBridge d)
      else if stopX at_ < stopX goal then (0, at_ + 1)
      else if stopX goal < stopX at_ then (1, at_ - 1)
      else if stopY at_ < stopY goal then (2, at_ + 6)
      else (3, at_ - 6)
    else if d = e then (6, dst)
    else
      let die := if d = 4 then (if e = 1 ∨ e = 3 then 1 else 0) else (if e = 1 ∨ e = 3 ∨ e = 4 then 3 else 2)
      if at_ = ioBridge die then (4, ioStop die) else (6, ioBridge die)

/-- The stage lane a message enters when it moves (R283): A 0, then 0 to 3 as 1 to 4, then B 5. -/
def stageAfter (stage at_ dir next : Nat) : Nat :=
  if dir = 4 then
    (if stopDie next ≥ 4 then 5 else if stopDie at_ ≥ 4 then 2 else if at_ = hStop (stopDie at_) then 3 else 4)
  else stage

/-- The input of the next stop that a move arrives at (R288): 0 +x, 1 −x, 2 +y, 3 −y, 5 a bridge queue, 6 the mesh of an I/O die. A message
that its agent holds ready is at 9, one in the injection queue at 4. -/
def inputAfter (dir : Nat) : Nat :=
  match dir with
  | 0 => 1
  | 1 => 0
  | 2 => 3
  | 3 => 2
  | 4 => 5
  | _ => 6

/-- The virtual channels of R282. -/
def vcReq : Nat := 0
def vcSnp : Nat := 1
def vcRsp : Nat := 2
def vcData : Nat := 3
def vcCreq : Nat := 4
def vcCdata : Nat := 5

/-- A message is handed to its agent's stop; it waits there for admission into the injection queue (R287). -/
def Hw.send (h : Hw) (vc src dst : Nat) (p : Payload) : Hw :=
  { h with
    flits := h.flits ++ [⟨h.flitId, vc, src, dst, if src < 96 then 1 else 0, 9, 0, p⟩]
    flitId := h.flitId + 1 }

/-- The package is not in Still or deeper: the mesh clocks run (R430). -/
def Hw.meshRuns (h : Hw) : Bool := match h.pkg.state with
  | .run | .drip => true
  | _ => false

/-- The always-on blocks of IO0: power, Keeper, the sideband interfaces, the crystal (R29). -/
def aonStop (n : Nat) : Bool := decide (113 ≤ n) && decide (n ≤ 125)

/-- The local agent of its stop that a message comes from (R287): at a chamber stop 0 the L2, 1 the slice, 2 the engine; at a memory-controller
stop 0 the DDR controller, 1 the Pool port. -/
def Payload.agent : Payload → Nat
  | .req _ r => (match r.src with
    | .chamber _ _ | .core _ _ | .thread _ | .far _ _ _ => 0
    | .eng _ _ => 2
    | _ => 0)
  | .wback _ _ _ _ | .snpAns _ _ _ _ | .instReq _ _ | .adm _ | .dev .. => 0
  | .memData _ f => if f.mc < 12 then 0 else 1
  | .memDone _ mc _ _ => if mc < 12 then 0 else 1
  | _ => 1

/-- The depth of the dual-clock queue that a message crosses from its sender to its stop, when it crosses one: from a chamber's L2, from a
memory controller, or from an always-on block (R33). A slice, an engine, a port and another block of an I/O die run on the mesh clock. -/
def crossing (vc src : Nat) : Payload → Option Nat
  | .req _ r => match r.src with
    | .chamber _ _ | .core _ _ | .thread _ | .far _ _ _ => some (if 4 ≤ vc then 8 else 16)
    | _ => none
  | .instReq _ _ | .adm _ => some 16
  | .dev (.load _ _ _) .. | .dev (.store _ _ _ _) .. | .dev (.ext _ _ _) .. => some 16
  | .snpAns _ c _ _ => if c < 72 then some 16 else none
  | .wback _ _ _ _ => some (if 4 ≤ vc then 8 else 16)
  | .memData _ f => some (if f.mc < 12 then 32 else 64)
  | .memDone _ _ _ _ => some 16
  | .coreAns _ _ _ _ => if aonStop src then some 8 else none
  | _ => none

/-- A message waiting for admission stands in the queue between its sender and the stop: only so many of its channel fit, and a full queue
stalls its writer (R32, R33). -/
def Hw.inQueue (h : Hw) (f : Flit) : Bool :=
  match crossing f.vc f.at_ f.payload with
  | none => true
  | some n => ((h.flits.filter fun g => g.at_ == f.at_ && g.vc == f.vc && g.input == 9 && g.payload.agent == f.payload.agent).take n).any
      fun g => g.id == f.id

/-- The messages that the mesh of an I/O die holds of one channel: not those its agents have ready, and not those in its bridge queues
(R285). -/
def Hw.inIoMesh (h : Hw) (d vc : Nat) : Nat :=
  (h.flits.filter fun g => stopDie g.at_ == d && g.vc == vc && (g.input == 4 || g.input == 6)).length

/-! Pointers of round-robin arbitration: of an output link the channel served last, the Cream channel served last and the input that won
last (R288); of a stop and channel the agent admitted last (R287). -/

/-- The number of an output link, under which its frame limiter stands (R292, R293). -/
def linkKey (node dir : Nat) : Nat := node * 8 + dir

def ptrKey (node dir k : Nat) : Nat := 4 * linkKey node dir + k
def takeInKey (node vc : Nat) : Nat := 8192 + node * 8 + vc

/-- One agent of a stop is admitted to a channel, round-robin among those that have a message ready (R287): its oldest message enters the
injection queue of 4 with age 0 (R285, R289). None is while the channel is throttled (R290), or the mesh of an I/O die is full. -/
def Hw.takeIn (h : Hw) (node vc : Nat) : Hw :=
  let q := (h.flits.filter fun g => g.at_ == node && g.vc == vc && g.input == 4).length
  if sget 0 vc h.throttle ≠ 0 ∨ 4 ≤ q ∨ (4 ≤ stopDie node ∧ 256 ≤ h.inIoMesh (stopDie node) vc) then h
  else
    let last := sget 0 (takeInKey node vc) h.rrPtr
    let ready := fun a : Nat => h.flits.find? fun f => f.at_ == node && f.vc == vc && f.input == 9 && f.payload.agent == a
    match [(last + 1) % 3, (last + 2) % 3, last % 3].findSome? ready with
    | none => h
    | some f => { h with
        flits := h.flits.map fun g => if g.id = f.id then { g with input := 4, age := 0 } else g
        rrPtr := sset (takeInKey node vc) f.payload.agent h.rrPtr }

/-- A cycle of admission at a stop: each channel admits one agent's message (R287). -/
def Hw.takeInAll (h : Hw) (node : Nat) : Hw := forN 0 6 (fun vc h => h.takeIn node vc) h

/-- A chamber takes messages out of the queues from its stop: its clock is not stopped (R32, R430). -/
def Chamber.clocked (x : Chamber) : Bool := x.droop != 2 && match x.pstate with
  | .run | .drip => true
  | _ => false

/-- The chamber to which a message goes over the dual-clock queue of its stop, if it goes to one (R33). -/
def Payload.toChamber : Payload → Option Nat
  | .snoop c _ _ _ => if c < 72 then some c else none
  | .fill c _ _ _ _ _ _ => some c
  | .farAns t _ _ _ | .answer t _ _ | .cmoDone t => some (t / 16)
  | .coreAns (.load t _ _) _ _ _ | .coreAns (.ext t _ _) _ _ _ | .coreAns (.store t _ _ _) _ _ _ | .coreAns (.vint t _) _ _ _ => some (t / 16)
  | _ => none

/-- The depth of the queue from a stop to its chamber (R33). -/
def awayDepth (vc : Nat) : Nat := if vc = vcData then 32 else 16

/-- Whether the queue between a stop and its agent has room for a message (R32, R33): a running agent empties it into the entries that credits
keep for it (R238). -/
def Hw.ejectRoom (h : Hw) (f : Flit) : Bool :=
  match f.payload with
  | .memRead mc _ _ _ => decide ((h.mc mc).reads.length < 144 + 4 * 32 + if mc < 12 then 32 else 48)
  | .memWrite mc _ _ _ _ _ => decide ((h.mc mc).writes.length < 144 + 4 * 32 + if mc < 12 then 32 else 48)
  | p => match p.toChamber with
    | some c => (h.chamber c).clocked || decide (((sget [] c h.awayQ).filter fun q => q.1 == f.vc).length < awayDepth f.vc)
    | none => true

/-- Whether the buffer a message moves into has room (R283, R285, R33): 2 entries a lane, 64 a bridge queue, 256 the mesh of an I/O die, at its
destination the queue of its agent. -/
def Hw.roomFor (h : Hw) (f : Flit) : Bool :=
  let mv := nextMove f.at_ f.dst
  if mv.1 = 5 then h.ejectRoom f
  else if mv.1 = 6 then f.input == 4 || f.input == 6 || decide (h.inIoMesh (stopDie f.at_) f.vc < 256)
  else
    let st := stageAfter f.stage f.at_ mv.1 mv.2
    let n := (h.flits.filter fun g => g.at_ == mv.2 && g.vc == f.vc && g.stage == st && g.input == inputAfter mv.1).length
    decide (n < if mv.1 = 4 then 64 else 2)

/-- An aged message (R289): non-Cream, age 512 or more. -/
def Flit.aged (f : Flit) : Bool := decide (f.vc < 4) && decide (512 ≤ f.age)

/-- The number of the input in R288: a bridge queue stands in the place of the injection queue. -/
def Flit.inp (f : Flit) : Nat := min f.input 4

/-- Heads: no other message of the same lane stands before it (lanes are first in, first out). -/
def isHead (fs : List Flit) (f : Flit) : Bool :=
  match fs.find? fun g => g.at_ == f.at_ && g.vc == f.vc && g.input == f.input && g.stage == f.stage with
  | some g => g.id == f.id
  | none => true

/-- The Cream cap in force (R311). -/
def Hw.cap (h : Hw) : Nat := h.regF (admReg 0) 7 0

/-- Cream flits that a frame of an output link takes (R292): a slot of a die bridge takes 4. -/
def Hw.linkCap (h : Hw) (dir : Nat) : Nat := if dir = 4 then 4 * h.cap else h.cap

/-- The frame limiter of an output link lets a Cream flit pass (R293). A message that leaves the mesh meets none (R286). -/
def Hw.creamMay (h : Hw) (node dir : Nat) : Bool := dir == 5 || decide (sget 0 (linkKey node dir) h.frames < h.linkCap dir)

/-- The eligible heads at a stop, of one channel, for one output link (R288), in order of arrival. -/
def Hw.heads (h : Hw) (node dir vc : Nat) : List Flit :=
  h.flits.filter fun f => f.at_ == node && f.vc == vc && f.input != 9 && (nextMove f.at_ f.dst).1 == dir && isHead h.flits f && h.roomFor f

/-- The candidate of an input among eligible heads: the one of the highest stage (R288). -/
def candidate (fs : List Flit) (inp : Nat) : Option Flit :=
  (fs.filter fun f => f.inp == inp).foldl
    (fun (b : Option Flit) f => match b with
      | some g => if g.stage < f.stage then some f else b
      | none => some f) none

/-- The winner among the candidates of the inputs (R288): the oldest aged head, the lowest input among equals; else the first in round-robin
order after the input that won last. -/
def pickInput (cs : List Flit) (last : Nat) : Option Flit :=
  match cs.filter Flit.aged with
  | a :: as => some (as.foldl (fun b f => if b.age < f.age ∨ (b.age = f.age ∧ f.inp < b.inp) then f else b) a)
  | [] => ((List.range 5).map fun i => (last + 1 + i) % 5).findSome? fun i => cs.find? fun f => f.inp == i

/-- The choice of R288 on one output link: Cream within its frame, its two channels in alternation, each first in first out (R293; DEDUCED,
log 158); else the next channel with a candidate in round-robin order. -/
def Hw.arbitrate (h : Hw) (node dir : Nat) : Option Flit :=
  let cream := if sget 0 (ptrKey node dir 1) h.rrPtr = vcCreq then [vcCdata, vcCreq] else [vcCreq, vcCdata]
  let others := (List.range 4).map fun i => (sget 0 (ptrKey node dir 0) h.rrPtr + 1 + i) % 4
  (if h.creamMay node dir then cream.findSome? fun vc => (h.heads node dir vc).head? else none).or
    (others.findSome? fun vc =>
      let fs := h.heads node dir vc
      pickInput ((List.range 5).filterMap (candidate fs)) (sget 0 (ptrKey node dir 2) h.rrPtr))

/-- The starvation mark of a channel rises and is counted (R290). -/
def Hw.raiseMark (h : Hw) (vc : Nat) : Hw :=
  if sget 0 vc h.throttle = 1 then h else { h with throttle := sset vc 1 h.throttle }.bump (admReg 0x18) 1

/-- In a cycle of an output link, every aged message that waits for it and is not the one granted raises its channel's mark (R290). -/
def Hw.starve (h : Hw) (node dir : Nat) (won : Option Flit) : Hw :=
  forN 0 4 (fun vc h =>
    if h.flits.any fun f => f.at_ == node && f.vc == vc && f.aged && (nextMove f.at_ f.dst).1 == dir && some f.id != won.map (·.id) then
      h.raiseMark vc
    else h) h

/-- A message of a channel is aged and its output link would grant another: its mark rises (R290). -/
def Hw.marksUp (h : Hw) : Hw :=
  (h.flits.filter fun f => f.aged && f.input != 9).foldl (fun h f =>
    let dir := (nextMove f.at_ f.dst).1
    if (h.arbitrate f.at_ dir).any fun (g : Flit) => g.id == f.id then h else h.raiseMark f.vc) h

/-- The mark of a channel drops once no aged message of it remains; the throttle goes on until STARVATION_THROTTLE_END (R290). -/
def Hw.dropMarks (h : Hw) : Hw :=
  forN 0 4 (fun vc h =>
    if sget 0 vc h.throttle = 1 ∧ !h.flits.any fun f => f.vc == vc && f.aged then { h with throttle := sset vc 2 h.throttle } else h) h

/-- Deficit round-robin among Whole requests (R294): `cur` is the sender served last with the lines left of its quantum, `cs` the sender and
weight of each request in order of arrival. It gives the sender served next, with the lines then left of its quantum; senders follow in
ascending order (DESIGN CHOICE, log 155: the rule gives the round no order). -/
def drrPick (cur : Nat × Nat) (cs : List (Nat × Nat)) : Option (Nat × Nat) :=
  if cur.2 ≠ 0 ∧ cs.any fun c => c.1 == cur.1 then some (cur.1, cur.2 - 1)
  else
    let least := fun (l : List (Nat × Nat)) => l.foldl (fun (a : Option (Nat × Nat)) c => match a with
      | some b => if c.1 < b.1 then some c else some b
      | none => some c) none
    (least (match cs.filter fun c => decide (cur.1 < c.1) with | [] => cs | l => l)).map fun c => (c.1, c.2 - 1)

/-! ### Credits (R237, R238, R243) -/

/-- Classes of credits: 0 LREQ, 1 IOP, 2 IONP, 3 CHR, 4 RREQ, 5 SNP, 6 CSNP, 7 WB, 8 RWB, 9 MEM reads, 10 MEM writes; 11 the Cream entries of
a slice's intake, which all senders share as sender 0; 12 the Cream entries of a memory controller, one sender a die (R243). WBB and RSP
have entries and no credits of their own (R238). -/
def creditsOf (cls : Nat) : Nat := [2, 4, 4, 1, 4, 4, 1, 2, 4, 2, 2, 32, 32].getD cls 0

def creditKey (cls sender dest : Nat) : Nat := (cls * 2048 + sender) * 2048 + dest

/-- A sender holds a free credit. -/
def Hw.hasCredit (h : Hw) (cls sender dest : Nat) : Bool :=
  decide (sget 0 (creditKey cls sender dest) h.used < creditsOf cls)

def Hw.useCredit (h : Hw) (cls sender dest : Nat) : Hw :=
  { h with used := supd 0 (creditKey cls sender dest) (· + 1) h.used }

/-- Two messages wait for the same credits. -/
def Post.same (p q : Post) : Bool := p.cls == q.cls && p.snd == q.snd && p.dest == q.dest

/-- A message is sent with a credit of its class, or waits at its sender for one, behind those that wait already (R237, R241). -/
def Hw.post (h : Hw) (p : Post) : Hw :=
  if h.hasCredit p.cls p.snd p.dest && !h.posts.any p.same then
    (h.useCredit p.cls p.snd p.dest).send p.vc p.src p.stop p.payload
  else { h with posts := h.posts ++ [p] }

/-- The oldest message that waits for a credit leaves with one that came back. -/
def Hw.repost (h : Hw) (cls snd dest : Nat) : Hw :=
  match h.posts.find? fun p => p.cls == cls && p.snd == snd && p.dest == dest with
  | none => h
  | some p =>
    if h.hasCredit cls snd dest then
      ({ h with posts := h.posts.erase p }.useCredit cls snd dest).send p.vc p.src p.stop p.payload
    else h

/-- The destination frees the entry; the credit is on its way back until CREDIT_RETURN. -/
def Hw.freeEntry (h : Hw) (cls sender dest : Nat) : Hw :=
  { h with freed := supd 0 (creditKey cls sender dest) (· + 1) h.freed }

/-- The credit is back at its sender (R237). -/
def Hw.returnCredit (h : Hw) (cls sender dest : Nat) : Hw :=
  let k := creditKey cls sender dest
  if sget 0 k h.freed = 0 then h
  else { h with freed := supd 0 k (· - 1) h.freed, used := supd 0 k (· - 1) h.used }

/-- Who holds the credit that a request to a slice uses, and its class (R238, R243). The interrupt router's requests go as those of a ninth port
(DESIGN CHOICE, log 161: R238 names no class for them). -/
def SReq.credit (r : SReq) : Nat × Nat :=
  if r.cream then (11, 0)
  else match r.src with
    | .chamber c _ => (0, c)
    | .core t _ => (0, t / 16)
    | .thread t => (0, t / 16)
    | .far t _ _ => (0, t / 16)
    | .gallery k _ _ _ => (4, k)
    | .gfar k _ => (4, k)
    | .pass k _ => (4, k)
    | .port k => (match r.kind with | .write _ => 1 | _ => 2, k)
    | .eng e _ => (3, e)
    | .router _ => (2, 8)

/-- The slice is done with a request's entry. -/
def Hw.freeReq (h : Hw) (s : Nat) (r : SReq) : Hw := h.freeEntry r.credit.1 r.credit.2 s

/-- The stop that a request comes from and its answer goes to (R14, R19, R246). -/
def Requester.stop : Requester → Nat
  | .chamber c _ => chamberStop c
  | .core t _ => chamberStop (t / 16)
  | .thread t => chamberStop (t / 16)
  | .far t _ _ => chamberStop (t / 16)
  | .gallery k _ _ _ => portStop k
  | .gfar k _ => portStop k
  | .pass k _ => portStop k
  | .port k => portStop k
  | .eng e _ => chamberStop e
  | .router _ => blockStop .router

/-- A request leaves for a slice once a credit of its class is free (R237, R241). Data that goes with it travels on the data channel, but for
an engine's (R238). -/
def Hw.postReq (h : Hw) (s : Nat) (r : SReq) : Hw :=
  let data := match r.kind, r.src with
    | _, .eng _ _ => false
    | .write _, _ => true
    | .far _, .gfar _ _ | .far _, .pass _ _ => true
    | _, _ => false
  h.post ⟨r.credit.1, r.credit.2, s, if r.cream then (if data then vcCdata else vcCreq) else if data then vcData else vcReq,
    r.src.stop, chamberStop s, .req s r⟩

end Sys2Proof.Machine
end

