-- ==== Sys2Proof/Machine/LogOps.lean ====
section
/-! DEFINITION. Error banks and the incident log (R479 to R487): the severity of a record, its placing in a bank, and its
presentation to the log. -/

namespace Sys2Proof.Machine

def Record.type (r : Record) : Nat := Word.fld r.w0 63 56

/-- SEV of a record by its TYPE (R479, R481). -/
def Record.sev (r : Record) : Nat :=
  let t := Record.type r
  if t = 1 ∨ t = 2 ∨ t = 3 then 1
  else if t = 4 ∨ t = 5 ∨ t = 0x0D then 3
  else if t = 6 then 2
  else if t < 0x10 then 0
  else if t ≤ 0x13 then t - 0x0F
  else if t = 0x21 ∨ t = 0x24 ∨ t = 0x25 then 2
  else if t = 0x26 then [2, 3, 2, 2, 1].getD (Word.fld r.w0 7 0) 0
  else if t = 0x30 then 3
  else if t = 0x31 then (if 0x30 ≤ Word.fld r.w2 63 56 ∧ Word.fld r.w2 63 56 ≤ 0x32 then 3 else 0)
  else if t = 0x40 ∨ t = 0x60 then 2
  else if t = 0x41 then 3
  else if t = 0x42 then 4
  else if t = 0x52 ∨ t = 0x61 then 1
  else 0

/-- Block IDs of R443 with type 13 for a thread (R483). -/
def blockId (type n : Nat) : Nat := type * 2 ^ 12 + n

/-- The bank of a source (R482). -/
def bankOf (src : Nat) : Nat :=
  let n := src % 2 ^ 12
  match src / 2 ^ 12 with
  | 0 | 1 => n / 18
  | 2 => n / 3
  | 3 => n % 4
  | 4 => if n < 4 ∨ (8 ≤ n ∧ n < 11) ∨ n = 14 ∨ n = 15 then 4 else 5
  | 6 | 7 => 5
  | 13 => n / 288
  | _ => 4

def Hw.bank (h : Hw) (b : Nat) : Bank := sget Bank.reset b h.banks

def Hw.setBank (h : Hw) (b : Nat) (x : Bank) : Hw :=
  { h with banks := sset b x h.banks }.setRegF (logReg (0x100 + 8 * b)) 5 0 x.recs.length

/-- R487: a SEV 4 record sets LOG.FATAL when its VALID bit is 0. -/
def Hw.noteFatal (h : Hw) (r : Record) (src sev : Nat) : Hw :=
  if sev = 4 ∧ !Word.bit (h.reg (logReg 0x38)) 63 then
    h.setReg (logReg 0x38) (w64 (2 ^ 63 + src % 2 ^ 16 * 2 ^ 32 + Record.type r))
  else h

/-- A record enters its bank: a place, a count on a held record of the same SOURCE and TYPE, or the overflow record (R482). -/
def Hw.placeRecord (h0 : Hw) (b : Nat) (r : Record) (src : Nat) (sec : Bool) (sev : Nat) : Hw :=
  let h := h0.noteFatal r src sev
  let k := h.bank b
  if k.recs.length < 32 then h.setBank b { k with recs := k.recs ++ [⟨r, src, sec, sev, 0, r.w3, r.w3⟩] }
  else
    let same := fun x : Held => x.src == src && Record.type x.body == Record.type r && decide (x.cnt < 65535)
    match k.recs.findIdx? same with
    | some i =>
      { h with banks := sset b { k with recs := k.recs.modify i fun x => { x with cnt := x.cnt + 1, last := r.w3 } } h.banks }
    | none =>
      let a := logReg (0x100 + 8 * b)
      let h1 := h.setRegF a 63 32 (min (h.regF a 63 32 + 1) (2 ^ 32 - 1))
      let o := match k.ovf with
        | some o => { o with body := { o.body with w2 := o.body.w2 + 1 }, sev := max o.sev sev, last := r.w3 }
        | none => ⟨⟨w64 (0x80 * 2 ^ 56 + b), 0, 1, r.w3⟩, blockId 7 b, false, sev, 0, r.w3, r.w3⟩
      { h1 with banks := sset b { k with ovf := some o, ahead := if k.ovf.isSome then k.ahead else k.recs.length } h1.banks }

/-- A record of the generic layout (R481), made now. -/
def Hw.incident (h : Hw) (type detail0 : Nat) (addr detail : Word) (src : Nat) (sec : Bool) : Hw :=
  let r : Record := ⟨w64 (type * 2 ^ 56 + detail0), addr, detail, h.time⟩
  h.placeRecord (bankOf src) r src sec (Record.sev r)

/-- The refusal record of R510 for an access of a thread. -/
def Hw.refusalT (h : Hw) (t : Nat) (sec : Bool) (pa : Word) : Hw := h.incident 0x50 0 pa 0 (blockId 13 t) sec

/-! ### Reset causes and warm triggers (R417, R446, R447, R450) -/

/-- KPR.RSTCAUSE moves to KPR.RSTPREV and the new cause is written (R447, R450, R471). -/
def Hw.causeWrite (h : Hw) (cause thread warm : Nat) (flushed : Bool) : Hw :=
  (h.setReg (kprReg 8) (h.reg (kprReg 0))).setReg (kprReg 0)
    (w64 (cause * 2 ^ 56 + b2n flushed * 2 ^ 55 + thread % 2048 * 2 ^ 44 + min warm 65535 * 2 ^ 16))

/-- Warm resets since cold reset (R471). -/
def Hw.warmCnt (h : Hw) : Nat := h.regF (kprReg 0) 31 16

/-- Keeper has a notification for the board management controller (R465): bit 0 warm reset, 1 watchdog, 2 wake timeout. Without a dynamic
address it cannot be raised, which is recorded with the bits as STATUS (DEDUCED, log 56). -/
def Hw.notifyBmc (h : Hw) (bit : Nat) : Hw :=
  let k := h.keeper
  let n := k.notif - k.notif / 2 ^ bit % 2 * 2 ^ bit + 2 ^ bit
  let h1 := { h with keeper := { k with notif := n } }
  if Word.bit (h.reg (kprReg 0x18)) 61 then h1 else h1.incident 0x55 (n * 2 ^ 24) 0 0 (blockId 8 0) false

/-- A warm reset is requested: WARM_RESET carries it out. One that comes while another is on its way is ignored and recorded (R447). -/
def Hw.warmTrigger (h : Hw) (cause t : Nat) : Hw :=
  if h.wdFire.isSome ∨ h.bootWait.isSome then h.incident 0x61 1 0 (w64 cause) (blockId 8 0) false else { h with wdFire := some (cause, t) }

/-- Step 2 of R417: the cause is written, the board management controller is notified, and the warm reset follows. A thread that waits for the
reset it made (R168) makes no second one. -/
def Hw.wdReset (h : Hw) (cause t : Nat) : Hw :=
  if h.wdFire = some (cause, t) then h
  else if h.wdFire.isSome then h.warmTrigger cause t else ((h.causeWrite cause t h.warmCnt false).notifyBmc 1).warmTrigger cause t

/-! ### The log (R483 to R486) -/

def logSlot (v : Nat) : Nat := logReg (0x40000 + 64 * (v % 4096))

/-- Unconsumed entries (R484). -/
def Hw.logU (h : Hw) : Nat := ((h.reg (logReg 0x10)).toNat + 2 ^ 32 - (h.reg (logReg 0x20)).toNat) % 2 ^ 32

/-- LOG.STAT follows WR, RD and the bounds (R484, R490). -/
def Hw.logMode (h : Hw) : Hw :=
  let u := h.logU
  let mode := if h.regF (logReg 0) 11 0 ≤ u then 1
    else if u < h.regF (logReg 0) 27 16 then 0 else h.regF (logReg 8) 63 63
  (h.setRegF (logReg 8) 44 32 u).setRegF (logReg 8) 63 63 mode

/-- The newest open, unconsumed entry of a SOURCE and TYPE (R484), searched from WR − 1 down over n entries. -/
def Hw.logOpen (h : Hw) (src type wr : Nat) : Nat → Option Nat
  | 0 => none
  | n + 1 =>
    let v := (wr + 2 ^ 32 - 1) % 2 ^ 32
    let w := h.reg (logSlot v)
    if Word.fld w 47 32 = src ∧ Word.fld w 63 56 = type then some v else h.logOpen src type v n

/-- A record is presented to the log: it coalesces, takes an entry or is refused (R484). -/
def Hw.present (h : Hw) (x : Held) : Hw :=
  let wr := (h.reg (logReg 0x10)).toNat
  let pk := (h.reg (logReg 0x18)).toNat
  let u := h.logU
  let type := Record.type x.body
  let openN := (wr + 2 ^ 32 - pk) % 2 ^ 32
  let hit := if h.regF (logReg 8) 63 63 = 1 then h.logOpen x.src type wr (min openN u) else none
  let fresh : Hw :=
    if (x.sev ≤ 2 ∧ 3840 ≤ u) ∨ 4096 ≤ u then
      let a := logReg 0x28
      let h1 := if x.sev ≤ 2 then h.setRegF a 31 0 (min (h.regF a 31 0 + x.cnt + 1) (2 ^ 32 - 1))
        else h.setRegF a 63 32 (min (h.regF a 63 32 + x.cnt + 1) (2 ^ 32 - 1))
      { h1 with lossNext := true, dropNew := true }
    else
      let e := logSlot wr
      let w0 := w64 (type * 2 ^ 56 + x.sev * 2 ^ 53 + b2n x.sec * 2 ^ 52 + b2n h.lossNext * 2 ^ 51 + x.src % 2 ^ 16 * 2 ^ 32
        + min x.cnt 65535 * 2 ^ 16 + wr % 2 ^ 16)
      let ws := [w0, x.first, x.last, 0, x.body.w0, x.body.w1, x.body.w2, x.body.w3]
      let h1 := forN 0 8 (fun i h => h.setReg (e + 8 * i) (ws.getD i 0)) { h with lossNext := false }
      ((h1.setReg (logReg 0x10) (w64 ((wr + 1) % 2 ^ 32))).bump (logReg 0x30) x.cnt).logMode
  match hit with
  | some v =>
    let e := logSlot v
    let n := h.regF e 31 16 + x.cnt + 1
    if n ≤ 65535 then ((h.setRegF e 31 16 n).setReg (e + 16) x.last).bump (logReg 0x30) (x.cnt + 1) else fresh
  | none => fresh

/-- The collector takes the next record of a bank (R482). -/
def Hw.collect (h : Hw) (b : Nat) : Hw :=
  let k := h.bank b
  match k.ovf, k.recs with
  | some o, rs =>
    if k.ahead = 0 then (h.setBank b { k with ovf := none }).present o
    else match rs with
      | r :: q => (h.setBank b { k with recs := q, ahead := k.ahead - 1 }).present r
      | [] => (h.setBank b { k with ovf := none, ahead := 0 }).present o
  | none, r :: q => (h.setBank b { k with recs := q }).present r
  | none, [] => h

/-- Some unconsumed entry has a severity in a range (R486). -/
def Hw.logHas (h : Hw) (lo hi : Nat) : Bool :=
  (List.range (min h.logU 4096)).any fun i =>
    let s := h.regF (logSlot ((h.reg (logReg 0x20)).toNat + i)) 55 53
    decide (lo ≤ s) && decide (s ≤ hi)

/-- A write of LOG.PEEK: ignored outside [RD, WR] (R485). -/
def Hw.writePeek (h : Hw) (v : Word) : Hw :=
  let rd := (h.reg (logReg 0x20)).toNat
  if ((v.toNat % 2 ^ 32) + 2 ^ 32 - rd) % 2 ^ 32 ≤ h.logU then h.setReg (logReg 0x18) (w64 (v.toNat % 2 ^ 32)) else h

/-- A write of LOG.RD: ignored outside [RD, PEEK]; the mode may return to Normal (R484, R485). -/
def Hw.writeRd (h : Hw) (v : Word) : Hw :=
  let rd := (h.reg (logReg 0x20)).toNat
  let pk := (h.reg (logReg 0x18)).toNat
  if ((v.toNat % 2 ^ 32) + 2 ^ 32 - rd) % 2 ^ 32 ≤ (pk + 2 ^ 32 - rd) % 2 ^ 32 then
    (h.setReg (logReg 0x20) (w64 (v.toNat % 2 ^ 32))).logMode
  else h

end Sys2Proof.Machine
end

