-- ==== Sys2Proof/Machine/LinkOps.lean ====
section
/-! DEFINITION. Sending over Gallery links and Passage ports: link state, retry buffers and entries (R356, R361), routes (R357,
R358, R362, R365), egress of Passage (R368) and tags (R359, R369), and MMIO reads (R352). -/

namespace Sys2Proof.Machine

/-! ### Link state (R371) -/

def statReg (k j : Nat) : Nat := linkReg k (0x100 + 8 * j)

/-- STATE of a link: 0 not formed, 1 down, 2 up, 3 retraining. -/
def Hw.linkState (h : Hw) (k j : Nat) : Nat := h.regF (statReg k j) 63 61

/-- A link that retrains keeps its retry buffer and its place (R356): it counts as up. -/
def Hw.linkUp (h : Hw) (k j : Nat) : Bool := decide (2 ≤ h.linkState k j)

def Hw.link (h : Hw) (k j : Nat) : Link := sget Link.reset (16 * k + j) h.links

def Hw.updLink (h : Hw) (k j : Nat) (f : Link → Link) : Hw := { h with links := supd Link.reset (16 * k + j) f h.links }

/-! ### Entering a link -/

/-- CLASS by OP (R360): 0 MNT, 1 RREQ, 2 SNP, 3 RWB, 4 RSP. -/
def galClass (op : Nat) : Nat :=
  if op ≤ 5 then 1 else if op ≤ 0x11 then 2 else if op ≤ 0x21 then 3 else if op ≤ 0x36 then 4 else 0

/-- Entries that the receiving port holds for a class and lane (R361). -/
def classEntries (c : Nat) : Nat := [2, 8, 8, 8, 16].getD c 0

/-- The entries that a receiving port holds for messages like one, and whether another takes one of them (R361): by class and lane on a Gallery
link, for requests and for responses on a Passage link (DESIGN CHOICE, log 163: the numbers of a Passage link are not given). -/
def LMsg.share (m x : LMsg) : Bool × Nat :=
  match m, x with
  | .gal op g, .gal o y => (galClass o == galClass op && y.lane == g.lane, classEntries (galClass op))
  | .gal op _, _ => (false, classEntries (galClass op))
  | .pas ty _, .pas t _ => (decide (ty < 3) == decide (t < 3), if ty < 3 then 8 else 16)
  | .pas ty _, _ => (false, if ty < 3 then 8 else 16)
  | .ls _ _ _, _ => (false, 1)

/-- Whether a message may enter the link: the retry buffer has room (R356), and an entry of its kind is free at the receiver (R237, R361); an entry
counts as freed when the flit is acknowledged (log 20). -/
def Link.enters (l : Link) (m : LMsg) : Bool :=
  decide (l.retry.length < 256) && decide ((l.retry.filter fun p => (m.share p.2).1).length < (m.share m).2)

/-- The messages waiting at a link enter it in order, each when it may. -/
def Link.pump : Nat → Link → Link
  | 0, l => l
  | n + 1, l =>
    match l.wait.find? l.enters with
    | none => l
    | some m => Link.pump n { l with
        wait := l.wait.erase m
        seq := (l.seq + 1) % 4096
        retry := l.retry ++ [(l.seq, m)] }

/-- A message enters link j where its port stands. -/
def Hw.linkSend (h : Hw) (k j : Nat) (m : LMsg) : Hw :=
  h.updLink k j fun l => let x := { l with wait := l.wait ++ [m] }; x.pump x.wait.length

/-- The mesh channel of a message on its way to its port (R238): of its class, the data channel when it carries data. -/
def LMsg.vc : LMsg → Nat
  | .gal op _ =>
    if op = 0x05 ∨ op = 0x30 ∨ op = 0x32 ∨ op = 0x34 ∨ galClass op = 3 then vcData
    else if galClass op = 2 then vcSnp else if galClass op = 4 then vcRsp else vcReq
  | .pas ty _ => if ty = 0 then vcReq else if ty = 4 ∨ ty = 6 then vcRsp else vcData
  | .ls _ _ _ => vcRsp

/-- A message leaves the stop `src` for link j of port k (R19, R237). -/
def Hw.toLink (h : Hw) (src k j : Nat) (m : LMsg) : Hw := h.send m.vc src (portStop k) (.link k j m)

/-! ### Gallery (R357, R358, R362) -/

/-- This socket's group position: the lowest valid entry that names its own node (R357). -/
def Hw.ownPos (h : Hw) : Option Nat := (h.group.find? fun g => g.2 == h.node).map (·.1)

/-- The egress link of a destination position, if its route is valid (R358). -/
def Hw.route (h : Hw) (d : Nat) : Option Nat :=
  let w := h.reg (linkReg 8 (0x3100 + 8 * d))
  if Word.bit w 7 then some (8 + Word.fld w 6 4) else none

/-- In MODE 1 link 5 and link COVER carry their traffic together, by message class (R363): here the odd classes on link 5. -/
def Hw.shareLink (h : Hw) (k op : Nat) : Nat :=
  let sp := h.reg (linkReg 8 0x3000)
  if Word.fld sp 5 4 = 1 ∧ k = 8 + Word.fld sp 2 0 ∧ h.linkUp 13 0 ∧ galClass op % 2 = 1 then 13 else k

/-- The link at which messages to a position are held while a failover changes their route (R364). -/
def Hw.holdsFor (h : Hw) (d : Nat) : Option Nat := (List.range 6).find? fun i => (h.link (8 + i) 0).heldPos.contains d

def Hw.holdMsg (h : Hw) (i op : Nat) (m : GMsg) : Hw := h.updLink (8 + i) 0 fun l => { l with held := l.held ++ [(op, m)] }

/-- A message leaves the stop `src` on hop lane `lane` of the route to its DPOS, or is held while a failover changes that route (R364); false
when there is no route. -/
def Hw.galSend (h : Hw) (src op lane : Nat) (m : GMsg) : Hw × Bool :=
  match h.holdsFor m.dpos with
  | some i => (h.holdMsg i op { m with lane := lane }, true)
  | none =>
  match h.route m.dpos with
  | some k => (h.toLink src (h.shareLink k op) 0 (.gal op { m with lane := lane }), true)
  | none => (h, false)

/-- A message has reached the port of its link: it enters the link, unless a failover holds it (R364) or the link has gone down meanwhile and
another route is there. -/
def Hw.linkEnter (h : Hw) (k j : Nat) (m : LMsg) : Hw :=
  match m with
  | .gal op g =>
    (match h.holdsFor g.dpos with
     | some i => h.holdMsg i op g
     | none => if h.linkUp k j then h.linkSend k j m else (h.galSend (portStop k) op g.lane g).1)
  | _ => h.linkSend k j m

/-- A free Gallery tag of this node. -/
def Hw.freeGTag (h : Hw) : Option Nat := sfree h.gtags 0 4096

/-- The thread that an access is made for which no slice makes: its loads, blocks and stores, and its TLBI. -/
def Waiter.thread : Waiter → Option Nat
  | .load t _ _ | .ext t _ _ | .store t _ _ _ | .tlbi t | .vint t _ => some t
  | _ => none

/-- The stop that a message made for `w` about a line leaves from: the slice of the line, or the thread's chamber (R224). -/
def Waiter.stop (w : Waiter) (line : Nat) : Nat :=
  match w.thread with
  | some t => chamberStop (t / 16)
  | none => chamberStop (sliceOf line)

/-- A request or snoop with a tag of its own, and with the expected value of a CAS; none when no tag is free or no route leads there. -/
def Hw.galReqE (h : Hw) (who : Waiter) (op dpos line arg : Nat) (poison : Bool) (st : Nat) (data exp : Vec) : Option Hw :=
  match h.freeGTag, h.ownPos with
  | some tag, some p =>
    let m : GMsg := ⟨0, p, dpos, tag, BitVec.ofNat 42 line, poison, st, BitVec.ofNat 17 arg, data, exp⟩
    let r := h.galSend (who.stop line) op 0 m
    if r.2 then some { r.1 with gtags := sset tag ⟨who, op, m, false, false⟩ r.1.gtags } else none
  | _, _ => none

/-- The same for a message without an expected value. -/
def Hw.galReq (h : Hw) (who : Waiter) (op dpos line arg : Nat) (poison : Bool) (st : Nat) (data : Vec) : Option Hw :=
  h.galReqE who op dpos line arg poison st data 0

/-- ARG of FAR (R360), with the offset in the line and the memory type (R251) above it, which R359 gives no other place (DESIGN CHOICE,
log 46). The operands are two: the expected value of a CAS has a field of its own. -/
def farArg (s4 : Bool) (op size : Nat) (ret : Bool) (pa : Word) (mt : MemType) : Nat :=
  mt.rank * 2 ^ 14 + pa.toNat % 64 * 256 + b2n s4 * 128 + op * 8 + (if s4 then 0 else (lowBit 4 (size / 8)).getD 0) * 2 + b2n ret

/-- An answer to a received message leaves the stop `src`: same tag, back to its source, on lane 0. -/
def Hw.galAnswer (h : Hw) (src op : Nat) (m : GMsg) (st arg : Nat) (poison : Bool) (data : Vec) : Hw :=
  match h.ownPos with
  | some p => (h.galSend src op 0 ⟨0, p, m.spos, m.tag, m.line, poison, st, BitVec.ofNat 17 arg, data, 0⟩).1
  | none => h

/-! ### Passage (R367 to R369) -/

/-- The Passage links that are up, as port and first lane, in ascending order of 4 × port + link (R344, R368). -/
def Hw.passUp (h : Hw) : List (Nat × Nat) :=
  (List.range 16).filterMap fun i => if h.linkUp (14 + i / 4) (4 * (i % 4)) then some (14 + i / 4, 4 * (i % 4)) else none

/-- The egress link of a node (R368). -/
def Hw.passEgress (h : Hw) (dnode : Nat) : Option (Nat × Nat) :=
  let up := h.passUp
  if up.isEmpty then none else up[dnode % up.length]?

def ptagKey (k j tag : Nat) : Nat := (16 * k + j) * 4096 + tag

/-- A Passage request to another node with a free tag (R224, R367, R369) leaves the proxy slice of its line: none when no link is up, no tag
is free, or an earlier request to that node is out on another link. A Device access leaves its thread's chamber. -/
def Hw.passReqE (h : Hw) (who : Waiter) (ty aop len : Nat) (ret poison : Bool) (pa : Word) (data exp : Vec) : Option Hw :=
  let dn := pa.toNat / 2 ^ 48
  match h.passEgress dn with
  | none => none
  | some (k, j) =>
    if h.ptags.any fun p => p.2.who.isSome && p.2.dn == dn && p.1 / 4096 != 16 * k + j then none else
    match sfree h.ptags (ptagKey k j 0) 4096 with
    | none => none
    | some key =>
      let p : PPkt := ⟨BitVec.ofNat 16 dn, BitVec.ofNat 16 h.node, BitVec.ofNat 4 aop, ret, poison, len, key % 4096, 0,
        pa &&& w64 (2 ^ 63 - 1), data, exp⟩
      some { h.toLink (who.stop (lineNo pa)) k j (.pas ty p) with ptags := sset key ⟨some who, dn, pa⟩ h.ptags }

/-- The same without poison and without an expected value. -/
def Hw.passReq (h : Hw) (who : Waiter) (ty aop len : Nat) (ret : Bool) (pa : Word) (data : Vec) : Option Hw :=
  h.passReqE who ty aop len ret false pa data 0

/-- A Passage answer to a received request (R368 to R370) leaves the stop `src` for the egress link of its sender. -/
def Hw.passAnswer (h : Hw) (src ty : Nat) (p : PPkt) (err : Nat) (poison : Bool) (data : Vec) : Hw :=
  match h.passEgress p.snode.toNat with
  | some (k, j) =>
    h.toLink src k j (.pas ty { p with dnode := p.snode, snode := BitVec.ofNat 16 h.node, err := err, poison := poison,
                                       data := data, aop := 0, ret := false, exp := 0 })
  | none => h

/-! ### Root ports (R25, R349, R352) -/

/-- A completion goes to the device: status 0 successful, 1 Unsupported Request, 4 Completer Abort (R25, R253, R400). -/
def Hw.sendCpl (h : Hw) (port status : Nat) (ep : Bool) (data : Bytes) : Hw := { h with cpl := sset port ⟨status, ep, data⟩ h.cpl }

/-! ### Device accesses (R23, R63, R64, R186, R352) -/

/-- The stop of a register's block (R14, R15, R18): the region checkers' stands at 107, a Pool controller's at the first of its ports
(DESIGN CHOICE, log 8). -/
def regStop (a : Nat) : Nat :=
  match blockAt a with
  | some (.chamber, i, _) | some (.vat, i, _) => chamberStop i
  | some (.mc, i, _) => ddrStop i
  | some (.pool, i, _) => ddrStop (3 * i)
  | some (.link, i, _) => portStop i
  | some (.router, _, _) => blockStop .router
  | some (.adm, _, _) => blockStop .admission
  | some (.pwr, _, _) => blockStop .power
  | some (.log, _, _) => blockStop .log
  | some (.kpr, _, _) => blockStop .keeper
  | _ => 107

/-- The stop of the target of a Device access inside this node (R186): its register's block, its port, its line's controller. -/
def Hw.devStop (h : Hw) (tg : Target) (pa : Word) : Nat :=
  match tg with
  | .reg => regStop (pa.toNat % 2 ^ 48)
  | .mmio k | .cxl k => portStop k
  | _ => mcStop (h.mcOf (lineNo pa)) (lineNo pa)

/-- A Device access of a thread leaves its chamber for its target (R63). Reads and writes travel on one channel, so that they reach a block in
program order (R64). -/
def Hw.devSend (h : Hw) (who : Waiter) (tg : Target) (acc : Acc) (bank : Bool) (vmid : Nat) (pa : Word) (len : Nat) (wr : Option (Vec × BitVec 64))
    (err : Nat) : Hw :=
  h.send vcReq (who.stop (lineNo pa)) (h.devStop tg pa) (.dev who tg acc bank vmid pa len wr err)

/-- The answer to an access of a thread leaves the stop `src` for its chamber: the bytes from its first one on, and 0 or n + 1 for ERR n. -/
def Hw.answerCore (h : Hw) (src : Nat) (cream : Bool) (who : Waiter) (pa : Word) (v : Vec) (err : Nat) : Hw :=
  let data := match who with | .store .. => false | _ => err == 0
  match who.thread with
  | some t => h.send (if cream then vcCdata else if data then vcData else vcRsp) src (chamberStop (t / 16)) (.coreAns who pa v err)
  | none => h

/-- A read or a posted write goes out at root port k: a read's completion or timeout ends it, a write is performed with its Ack (R352). -/
def Hw.mmioSend (h : Hw) (k : Nat) (who : Waiter) (pa : Word) (wr : Bool) : Hw :=
  let used := h.mmio.filter fun r => r.port == k
  let id := ((List.range (used.length + 1)).find? fun i => used.all fun r => r.id != i).getD used.length
  { h with mmio := h.mmio ++ [⟨k, id, who, pa, wr⟩] }

/-! ### Blocks that a thread reads and that its core does not hold (R94, R161, R165, R193) -/

def Thread.extOf (x : Thread) (fetch : Bool) : List ExtRead := if fetch then x.b.fext else x.b.ext

def Hw.updExt (h : Hw) (t : Nat) (fetch : Bool) (f : List ExtRead → List ExtRead) : Hw :=
  h.updBack t fun b => if fetch then { b with fext := f b.fext } else { b with ext := f b.ext }

/-- The answer to a block read has come: err is 0, or n + 1 for ERR n. -/
def Hw.extDone (h : Hw) (t : Nat) (fetch : Bool) (id err : Nat) (bs : Bytes) : Hw :=
  h.updExt t fetch fun es => es.map fun e => if e.id = id ∧ !e.done then { e with done := true, err := err, data := bs.take e.len } else e

/-- A block read begins: it is remembered, and no other read of the same kind of the thread has its number. -/
def Hw.extBegin (h : Hw) (t : Nat) (fetch : Bool) (acc : Acc) (pa : Word) (n : Nat) (unique : Bool := false) : Hw :=
  (h.updBack t fun b => { b with nextId := b.nextId + 1 }).updExt t fetch fun es =>
    (if fetch then [] else es) ++ [⟨(h.thread t).b.nextId, pa, n, acc, unique, false, 0, []⟩]

/-- A block read's state: answered (its error and bytes), on its way, or to be sent. -/
inductive Ext where
  | got (err : Nat) (bs : Bytes)
  | out
  | send (f : Hw → Hw)

end Sys2Proof.Machine
end

