-- ==== Sys2Proof/Machine/RegOps.lean ====
section
/-! DEFINITION. Reads and writes of memory-mapped registers by a requester: access codes, legal values, byte lanes and
paired bounds (R9, R10, R507, R508), and who may write or read (the register tables). What a write starts beyond storing its
fields is in RegStore. -/

namespace Sys2Proof.Machine

def Level.num : Level → Nat
  | .u => 0
  | .s => 1
  | .h => 2
  | .m => 3

/-- The bin's limits (R3): top of the power range, base and single-chamber maximum clock. -/
def Hw.binTop (h : Hw) : Nat := if h.bin = 0 then 720 else if h.bin = 1 then 560 else 400
def Hw.binBase (h : Hw) : Nat := if h.bin = 0 then 2600 else if h.bin = 1 then 2100 else 1500
def Hw.binMax (h : Hw) : Nat := if h.bin = 2 then 3000 else 3400

/-- R345: every link a BIF value forms has a width of 1, 2, 4, 8 or 16 and begins at a multiple of it. -/
def bifOk (v : Nat) : Bool :=
  let ends := (List.range 16).filter fun i => decide (i = 15) || decide (v / 2 ^ i % 2 = 1)
  (ends.foldl (fun (p : Bool × Nat) e =>
    let w := e + 1 - p.2
    (p.1 && (w == 1 || w == 2 || w == 4 || w == 8 || w == 16) && decide (p.2 % w = 0), e + 1)) (true, 0)).1

/-- Whether a value of a field is not reserved (R10). -/
def Hw.legal (h : Hw) (a : Nat) (f : RField) (v : Nat) : Bool :=
  match f.legal with
  | .any => true
  | .rng lo hi => decide (lo ≤ v) && decide (v ≤ hi)
  | .tagged 1 => decide ((a - 0xFF3000000000) / 0x100000 < 8) && bifOk v
  | .tagged 2 => decide (14 ≤ (a - 0xFF3000000000) / 0x100000)
  | .tagged 3 => decide (400 ≤ v) && decide (v ≤ h.binTop)
  | .tagged 4 => decide (v % 25 = 0) && decide (400 ≤ v) && decide (v ≤ h.binMax)
  | .tagged _ => true

/-- The key of a lock: register address and lowest bit of the field (R9). -/
def lockKey (a lo : Nat) : Nat := a * 64 + lo

/-- The value a field would hold once the addressed bytes are stored (R507): `v` is the doubleword with the stored bytes in
their lanes, lanes lo8 to lo8 + n − 1. -/
def fieldAfter (f : RField) (old v : Word) (lanes : Word) : Nat :=
  Word.fld ((old &&& ~~~lanes) ||| (v &&& lanes)) f.hi f.lo

/-- Whether a field has a bit in the addressed lanes. -/
def fieldHit (f : RField) (lanes : Word) : Bool := decide (Word.fld lanes f.hi f.lo ≠ 0)

/-- A register and its locks after one field of a write (R9, R10, R507). -/
def Hw.writeField (h : Hw) (a : Nat) (v lanes : Word) (p : Word × SMap Bool) (f : RField) : Word × SMap Bool :=
  if !fieldHit f lanes then p
  else
    let n := fieldAfter f p.1 v lanes
    match f.acc with
    | .ro | .ros | .wo => p
    | .rw | .rws => if h.legal a f n then (Word.setFld p.1 f.hi f.lo n, p.2) else p
    | .w1c | .w1cs =>
      (w64 (p.1.toNat - ((p.1 &&& v &&& lanes).toNat / 2 ^ f.lo % 2 ^ (f.hi + 1 - f.lo)) * 2 ^ f.lo), p.2)
    | .rwo =>
      if sget false (lockKey a f.lo) p.2 || !h.legal a f n then p
      else (Word.setFld p.1 f.hi f.lo n, sset (lockKey a f.lo) true p.2)

/-- R508: the pairs bounded by each other: LOG.CTL (LOWAT below HIWAT), REGCHK.SWDT (PRE below PERIOD) and PWR.DROOP (DTH1
below DTH2): whether the pair that a write would leave breaks its bound, and the bits of the pair. -/
def pairBroken (a : Nat) (w : Word) : Option (List (Nat × Nat)) :=
  if a = logReg 0 then (if Word.fld w 27 16 < Word.fld w 11 0 then none else some [(27, 16), (11, 0)])
  else if a = chkReg 0x20100 then (if Word.fld w 31 16 < Word.fld w 47 32 then none else some [(47, 32), (31, 16)])
  else if a = pwrReg 0xA00 then (if 20 ≤ Word.fld w 7 0 ∧ Word.fld w 7 0 < Word.fld w 15 8 then none else some [(15, 8), (7, 0)])
  else none

/-- A stored value under the access codes: the register with its fields written and its locks (R9, R10, R507, R508). -/
def Hw.applyWrite (h : Hw) (a : Nat) (d : RegDef) (v lanes : Word) : Hw :=
  let p := d.fields.foldl (h.writeField a v lanes) (h.reg a, h.locks)
  match pairBroken a p.1 with
  | none => { h with regs := sset a p.1 h.regs, locks := p.2 }
  | some fs =>
    let w := fs.foldl (fun w f => Word.setFld w f.1 f.2 (Word.fld (h.reg a) f.1 f.2)) p.1
    let locks := fs.foldl (fun l f => sset (lockKey a f.2) (sget false (lockKey a f.2) h.locks) l) p.2
    { h with regs := sset a w h.regs, locks := locks }

/-- A root port k is secure-held (R410). -/
def Hw.portSecure (h : Hw) (k : Nat) : Bool := decide (k < 8) && Word.bit (h.reg (chkReg 0x20018)) k

/-- A wired source's route entry is secure-held (R377). -/
def wireSecure (w : Word) : Bool := decide (Word.fld w 60 59 = 3) || Word.bit w 58

/-- Whether a thread's accessor may post to instance i (R389); `bank` is the world that WORLD_M.BANK selects, secure when
true, and vmid the VMID_H of the poster. -/
def Hw.mayPost (h : Hw) (i : Nat) (acc : Acc) (bank : Bool) (vmid : Nat) : Bool :=
  let x := h.inst i
  let sec := Word.bit (h.reg (rinstReg i)) 60
  let world := if acc.lvl = .m then bank else acc.secure
  world == sec && (match acc.lvl with
    | .h | .m => true
    | .u => x.uok && decide (acc.geode = x.geode) && (acc.secure || decide (vmid = x.vmid))
    | .s => x.sok && decide (acc.geode = x.geode) && (acc.secure || decide (vmid = x.vmid)))

/-- Claim registers are for the level and world of their inbox, and the levels above (R380). -/
def claimAllowed (box : Nat) (acc : Acc) : Bool :=
  match box with
  | 0 => (decide (acc.lvl = .s) && !acc.secure) || decide (acc.lvl = .h) || decide (acc.lvl = .m)
  | 1 => (decide (acc.lvl = .s) && acc.secure) || decide (acc.lvl = .m)
  | 2 => decide (acc.lvl = .h) || decide (acc.lvl = .m)
  | _ => decide (acc.lvl = .m)

/-- Whether an offset of a chamber block is a claim register, and of which inbox (R380). -/
def claimBox (b : Block) (o : Nat) : Option Nat :=
  if b = .chamber ∧ 0x90000 ≤ o ∧ o < 0x90800 ∧ (o - 0x90000) % 0x80 < 0x20 then some ((o - 0x90000) % 0x80 / 8) else none

/-- Who may write a register beyond the level of its table row: blocks held by the secure world, claim registers, region
locks, the bits of chamber events that are M's (R374, R377, R380, R394, R395, R410). -/
def Hw.mayWrite (h : Hw) (b : Block) (i o : Nat) (d : RegDef) (acc : Acc) (v : Word) : Bool :=
  let lvl := Level.num acc.lvl
  match claimBox b o with
  | some box => claimAllowed box acc
  | none =>
    if b = .regchk ∧ o < 0x800 ∧ Word.bit (h.reg (chkReg (o / 0x20 * 0x20 + 16))) 62 then false
    else if b = .link then
      (if h.portSecure i then decide (lvl = 3) else decide (d.wmin ≤ lvl))
    else if b = .router ∧ o < 0x8000 then
      decide (lvl = 3) || (decide (2 ≤ lvl) && !wireSecure (h.reg (routerReg o)) && !wireSecure v)
    else if b = .router ∧ o = 0x100010 then decide (lvl = 3) || (decide (2 ≤ lvl) && !Word.bit v 62)
    else decide (d.wmin ≤ lvl)

/-- The lanes a store of n bytes addresses, and its value in them. -/
def lanesOf (a n : Nat) : Word := w64 ((256 ^ n - 1) * 256 ^ (a % 8))

/-- Lanes that a requester below M may not write in a register it may write: bit 0 of a chamber's event registers (R374), GSLEEP and
IGNLTR0 of PWR.PKGCTL (R445). -/
def Hw.maskLanes (b : Block) (o : Nat) (acc : Acc) (lanes : Word) : Word :=
  if b = .chamber ∧ (o = 0x1000 ∨ o = 0x1008) ∧ acc.lvl ≠ .m then lanes &&& ~~~(w64 1)
  else if b = .pwr ∧ o = 0x900 ∧ acc.lvl ≠ .m then lanes &&& ~~~(w64 6)
  else lanes

/-- A store of n bytes (4 or 8) of a register by a requester, as far as fields go: the register at its 8-byte address, with
the fields written where the requester may write (R9, R27, R507). -/
def Hw.storeFields (h : Hw) (acc : Acc) (a n : Nat) (val : Nat) : Hw :=
  let a8 := a / 8 * 8
  match blockAt a8, regDefAt a8 with
  | some (b, i, o), some d =>
    let lanes := lanesOf a n
    let v := w64 (val * 256 ^ (a % 8))
    let merged := (h.reg a8 &&& ~~~lanes) ||| (v &&& lanes)
    if h.mayWrite b i o d acc merged then
      h.applyWrite a8 (if d.wmin = 9 then { d with fields := [] } else d) v (Hw.maskLanes b o acc lanes)
    else h
  | _, _ => h

/-- What a requester reads from a register, as a doubleword: zero where it may not read (R27, R167, R281, R380, R395); EN of a
region that names geode 0 reads as 0 (R395); the BODY of a secure log entry reads as zero from H (R490); WO fields read as zero. -/
def Hw.readReg (h : Hw) (acc : Acc) (bank : Bool) (vmid a8 : Nat) : Word :=
  match blockAt a8, regDefAt a8 with
  | some (b, _, o), some d =>
    let ok := match claimBox b o with
      | some box => claimAllowed box acc
      | none =>
        if b = .vat ∧ 0x8000 ≤ o ∧ o < 0xC000 then
          decide (2 ≤ Level.num acc.lvl)
            || h.mayPost ((a8 - 0xFF1000000000) / 0x10000 * 8 + (o - 0x8000) / 0x800) acc bank vmid
        else decide (d.rmin ≤ Level.num acc.lvl)
    let w := h.reg a8
    if !ok then 0
    else if b = .regchk ∧ o < 0x800 ∧ o % 0x20 = 16 ∧ Word.fld w 57 56 = 2 ∧ Word.fld w 43 32 = 0 then
      Word.setFld w 63 63 0
    else if b = .log ∧ 0x40000 ≤ o ∧ 32 ≤ o % 64 ∧ acc.lvl = .h ∧ Word.bit (h.reg (a8 / 64 * 64)) 52 then 0
    else w
  | _, _ => 0

/-- The bytes a load of n bytes takes from a register (R507). -/
def Hw.readBytes (h : Hw) (acc : Acc) (bank : Bool) (vmid a n : Nat) : Nat :=
  (h.readReg acc bank vmid (a / 8 * 8)).toNat / 256 ^ (a % 8) % 256 ^ n

end Sys2Proof.Machine
end

