-- ==== Sys2Proof/Machine/AdmOps.lean ====
section
/-! DEFINITION. Admission by arithmetic (R292, R297 to R311): resources and their figures, routes and shares, the tests of a
reservation, answers, revocation, and the regulators that make a line Cream. -/

namespace Sys2Proof.Machine

/-! ### Resources (R292, R308) -/

/-- Payload of one trained link in MB/s (R355): Gallery and Passage by rate and width; a PCIe or CXL link's figure is one the spec
does not state (log 33). -/
def Hw.linkPayload (h : Hw) (k j : Nat) : Nat :=
  let st := linkReg k (0x100 + 8 * j)
  let w := h.regF st 56 52
  let r := h.regF st 51 48
  if h.regF st 63 61 < 2 then 0
  else if k < 8 then Config.pciePayload r w
  else (if k < 14 then 168000 else 159600) * w / 16 / (if r = 8 then 2 else 1)

/-- Surveyed payload rate of a port per direction: its links that are up. -/
def Hw.payload (h : Hw) (k : Nat) : Nat := (List.range 16).foldl (fun n j => n + h.linkPayload k j) 0

def dramReg (r : Nat) : Nat := if r / 4096 = 4 then mcReg (r % 16) 0 else mcReg (12 + r % 4) 8

/-- Slot time of a resource in ns (R292). -/
def Hw.tau (h : Hw) (r : Nat) : Rat :=
  match r / 4096 with
  | 4 => (8000 : Rat) / (h.regF (dramReg r) 47 32 : Rat)
  | 5 => 64 / 75
  | 6 => (64000 : Rat) / (h.payload (r % 32) : Rat)
  | _ => 5 / 11

/-- Lines per slot of a resource (R292). -/
def linesPerSlot (r : Nat) : Nat := if r / 4096 = 1 then 4 else if r / 4096 = 5 then 16 else 1

/-- The Cream cap of a resource (R292, R301): none of a channel or stack whose surveyed rate is 0 (R328). -/
def Hw.capOf (h : Hw) (r : Nat) : Nat :=
  if r / 4096 = 4 ∨ r / 4096 = 5 then (if h.regF (dramReg r) 47 32 = 0 then 0 else h.cap * h.regF (dramReg r) 31 24 / 256) else h.cap

/-- Whether a resource ID names a resource (R308). -/
def resExists (r : Nat) : Bool :=
  match r / 4096 with
  | 0 =>
    let x := fld r 9 7
    let y := fld r 6 5
    decide (r % 8 = 0) && decide (x < 6)
      && (match fld r 4 3 with | 0 => decide (x < 5) | 1 => decide (0 < x) | 2 => decide (y < 3) | _ => decide (0 < y))
  | 1 =>
    let s := fld r 11 9
    let e := fld r 8 6
    decide (r % 64 = 0) && (if s < 4 ∧ e < 4 then (s ^^^ e == 1 || s ^^^ e == 2)
      else (decide (s < 4) && e == 4 + s / 2) || (decide (e < 4) && s == 4 + e / 2))
  | 2 | 3 => decide (r % 4096 < 72)
  | 4 => decide (r % 4096 < 12)
  | 5 => decide (r % 4096 < 4)
  | 6 | 7 => decide (r % 4096 < 64) && decide (r % 32 < 18)
  | _ => false

/-- The resource that a move over an output link crosses; a move within an I/O die crosses the path of the port at one of its ends
(R292, R308). -/
def moveRes (at_ dir next : Nat) : Nat :=
  if dir < 4 then stopDie at_ * 1024 + stopX at_ * 128 + stopY at_ * 32 + dir * 8
  else if dir = 4 then 0x1000 + stopDie at_ * 512 + stopDie next * 64
  else
    let io := 96 + 32 * (stopDie at_ - 4)
    if next - io < 30 then 0x7000 + (next - io) else 0x7000 + 32 + (at_ - io)

/-- The resources of the route between two stops, in order (R16, R284). -/
def legIds : Nat → Nat → Nat → List Nat
  | 0, _, _ => []
  | n + 1, at_, dst =>
    let mv := nextMove at_ dst
    if mv.1 = 5 then [] else moveRes at_ mv.1 mv.2 :: legIds n mv.2 dst

def leg (a b : Nat) : List Nat := legIds 64 a b

/-- Mesh cycles of a leg without queueing: 2 a hop, 8 a bridge (R304). -/
def legCycles (l : List Nat) : Nat := l.foldl (fun n r => n + if r / 4096 = 1 then 8 else 2) 0

/-- Lines of a 4 MiB granule that a slice is home to (R302). -/
def granuleLines (s : Nat) : Nat := if s < 16 then 911 else 910

/-! ### The descriptor (R299) -/

/-- What a reservation charges beyond its slices: places where lines leave the mesh, each with the resources at its end, its lines of
`total`, and its read access time; the schedulers with their lines; whether lines pass a home slice. -/
structure AdmDest where
  home : Bool
  ports : List (Nat × List Nat × Nat × Nat)
  scheds : List (Nat × Nat)
  total : Nat

/-- A refusal: REASON, resource, and the low word of the answer (R306, R307). -/
structure AdmNo where
  reason : Nat
  res : Nat
  low : Nat

def AdmNo.of (n : Nat) : AdmNo := ⟨n, 0xFFFF, 0⟩

def wd (ws : List Word) (i : Nat) : Word := ws.getD i 0

def resvKind (ws : List Word) : Nat := Word.fld (wd ws 0) 63 62
def resvBind (ws : List Word) : Nat := Word.fld (wd ws 0) 15 0
def resvBurst (ws : List Word) : Nat := Word.fld (wd ws 0) 39 32
def resvPortDest (ws : List Word) : Bool := Word.fld (wd ws 0) 59 58 == 1

/-- The directions of a reservation: true for read. -/
def resvDirs (ws : List Word) : List Bool :=
  match Word.fld (wd ws 0) 61 60 with
  | 0 => [true]
  | 1 => [false]
  | _ => [true, false]

/-- REASON 1 (R307). -/
def resvBad (ws : List Word) : Bool :=
  let c := wd ws 0
  let lo := wd ws 1
  let hi := wd ws 2
  let b := wd ws 3
  let n := wd ws 4
  let kind := resvKind ws
  kind == 3 || Word.fld c 61 60 == 3 || decide (2 ≤ Word.fld c 59 58) || decide (Word.fld c 57 40 ≠ 0)
    || decide (Word.fld c 31 16 ≠ 0) || decide (resvBurst ws < 1) || decide (32 < resvBurst ws)
    || (match kind with
        | 0 => decide (Word.fld hi 63 8 ≠ 0) || (lo == 0 && hi == 0)
        | 1 => lo != 0 || hi != 0 || decide (512 ≤ resvBind ws)
        | _ => decide (Word.fld lo 63 3 ≠ 0) || hi != 0)
    || (if resvPortDest ws then decide (18 ≤ b.toNat) || n != 0
        else decide (Word.fld b 21 0 ≠ 0) || decide (Word.fld n 21 0 ≠ 0) || n == 0)
    || decide (Word.fld (wd ws 5) 63 32 ≠ 0) || wd ws 5 == 0 || decide (Word.fld (wd ws 6) 63 32 ≠ 0) || wd ws 7 != 0

/-- The weight that a root port's function table gives a requester ID, if it has a valid entry (R354). -/
def Hw.funcWeight (h : Hw) (k rid : Nat) : Option Nat :=
  (List.range 256).findSome? fun n =>
    let w := h.reg (linkReg k (0x1000 + 8 * n))
    if Word.bit w 63 && decide (Word.fld w 15 0 = rid) then some (Word.fld w 39 32) else none

/-- REASON 9 (R307, R354, R393). -/
def Hw.resvUnbound (h : Hw) (ws : List Word) : Bool :=
  match resvKind ws with
  | 0 => resvBind ws == 0xFFFF
  | 1 =>
    let st := h.regF (rinstReg (resvBind ws)) 63 61
    st == 0 || st == 1 || st == 5
  | _ => (h.funcWeight (Word.fld (wd ws 1) 2 0) (resvBind ws)).isNone

/-- The ends of a port: its path in the I/O die stands on the legs; its egress and ingress (R308). -/
def portEnds (k : Nat) : List Nat := [0x6000 + k, 0x6000 + 32 + k]

/-- The destination, or REASON 7 or 8 (R302, R307). -/
def Hw.resvDest (h : Hw) (ws : List Word) : Except AdmNo AdmDest :=
  let b := wd ws 3
  if resvPortDest ws then
    let k := b.toNat
    if 8 ≤ k ∧ k < 14 then .error (AdmNo.of 7)
    else if h.payload k = 0 then .error ⟨8, 0x6000 + k, 0⟩
    else .ok ⟨false, [(portStop k, portEnds k, 1, 0)], [], 1⟩
  else
    let lo := b.toNat % 2 ^ 48
    let n := (wd ws 4).toNat
    if b.toNat / 2 ^ 48 ≠ h.node then .error (AdmNo.of 7)
    else if lo + n ≤ h.ddrTop then
      let e := h.included
      let c := e.length
      let tot := n / 64
      let part := e.zipIdx.map fun p => (p.1, tot / c + b2n (decide ((p.2 + c * 2 ^ 48 - lo / 64) % c < tot % c)))
      match part.find? fun p => h.regF (mcReg p.1 0) 47 32 == 0 with
      | some p => .error ⟨8, 0x4000 + p.1, 0⟩
      | none =>
        let cached := fun (ch : Nat) => decide (h.regF (mcReg (12 + ch / 3) 0) 0 0 = 1) && decide (h.regF (mcReg (12 + ch / 3) 8) 3 0 = 0)
        .ok ⟨true, part.map (fun p =>
            if cached p.1 then
              (ddrStop p.1, [0x4000 + p.1, 0x5000 + p.1 / 3], p.2, h.regF (mcReg p.1 0) 23 16 + h.regF (mcReg (12 + p.1 / 3) 8) 23 16)
            else (ddrStop p.1, [0x4000 + p.1], p.2, h.regF (mcReg p.1 0) 23 16)),
          part.map (fun p => (0x4000 + p.1, p.2)) ++ (part.filter fun p => cached p.1).map (fun p => (0x5000 + p.1 / 3, p.2)), tot⟩
    else if 0x080000000000 ≤ lo ∧ lo < 0x082000000000 then
      let p := (lo - 0x080000000000) / 0x800000000
      if h.poolBacked p ((lo - 0x080000000000) % 0x800000000 + n - 1) then
        if h.regF (mcReg (12 + p) 8) 47 32 = 0 then .error ⟨8, 0x5000 + p, 0⟩
        else .ok ⟨true, (List.range 3).map (fun i => (ddrStop (3 * p + i), [0x5000 + p], 21846, h.regF (mcReg (12 + p) 8) 23 16)),
          [(0x5000 + p, 65536)], 65536⟩
      else .error (AdmNo.of 7)
    else
      let dec := (List.range 32).find? fun d =>
        let base := h.regF (linkReg (d / 4) (0x400 + 16 * (d % 4))) 47 28 * 2 ^ 28
        let c := h.reg (linkReg (d / 4) (0x408 + 16 * (d % 4)))
        Word.bit c 63 && decide (base ≤ lo) && decide (lo < base + Word.fld c 27 0 * 2 ^ 28)
      match dec with
      | none => .error (AdmNo.of 7)
      | some d =>
        let base := h.regF (linkReg (d / 4) (0x400 + 16 * (d % 4))) 47 28 * 2 ^ 28
        let c := h.reg (linkReg (d / 4) (0x408 + 16 * (d % 4)))
        if lo < 0x0C0000000000 ∨ 0x100000000000 < lo + n ∨ base + Word.fld c 27 0 * 2 ^ 28 < lo + n then .error (AdmNo.of 7)
        else
          let ways := (List.range (2 ^ Word.fld c 62 60)).map fun w => Word.fld c 55 32 / 8 ^ w % 8
          match ways.find? fun k => h.payload k == 0 with
          | some k => .error ⟨8, 0x6000 + k, 0⟩
          | none => .ok ⟨true, ways.map (fun k => (portStop k, portEnds k, 1, 0)), [], ways.length⟩

/-- The sources: stop and regulator ID (R297, R308). -/
def Hw.resvSources (h : Hw) (ws : List Word) : List (Nat × Nat) :=
  match resvKind ws with
  | 0 =>
    let both := (wd ws 1).toNat + 2 ^ 64 * (wd ws 2).toNat
    ((List.range 72).filter fun c => decide (both / 2 ^ c % 2 = 1)).map fun c => (chamberStop c, 0x9000 + c)
  | 1 => let e := h.regF (instReg (resvBind ws) 0) 6 0; [(chamberStop e, 0x8000 + e)]
  | _ => let k := Word.fld (wd ws 1) 2 0; [(portStop k, 0xA000 + k)]

/-! ### Charges (R302) -/

def addLoad (x : Nat) (l : SMap Nat) (r : Nat) : SMap Nat := supd 0 r (· + x) l

def addLoads (x : Nat) (rs : List Nat) (l : SMap Nat) : SMap Nat := rs.foldl (addLoad x) l

/-- c times the lines that one flow sends over each resource, in units of 1 / (65,536 × total) of its lines. -/
def AdmDest.flow (d : AdmDest) (src : Nat) (rd : Bool) : SMap Nat :=
  if d.home then
    let l1 := (List.range 72).foldl (fun (l : SMap Nat) s =>
      let st := chamberStop s
      let g := granuleLines s
      let x := g * d.total
      let l1 := addLoads x (leg src st ++ leg st src ++ (if rd then [0x2000 + s] else []) ++ [0x3000 + s]) l
      d.ports.foldl (fun (l : SMap Nat) p => addLoads (g * p.2.2.1) (leg st p.1 ++ leg p.1 st) l) l1) []
    let l2 := d.scheds.foldl (fun (l : SMap Nat) p => addLoad ((if rd then 1 else 2) * p.2 * 65536) l p.1) l1
    if d.scheds.isEmpty then d.ports.foldl (fun (l : SMap Nat) p => addLoads (p.2.2.1 * 65536) p.2.1 l) l2 else l2
  else
    d.ports.foldl (fun (l : SMap Nat) p => addLoads 65536 (leg src p.1 ++ leg p.1 src ++ p.2.1) l) []

/-- The lines that share a slot of a resource; a stack in cache mode takes a slot for each line of a DDR range (R319). -/
def AdmDest.perSlot (d : AdmDest) (r : Nat) : Nat :=
  if r / 4096 = 5 ∧ d.scheds.any (fun p => p.1 / 4096 == 4) then 1 else linesPerSlot r

/-- The charges of a reservation in ascending resource ID: n_r and b_r (R302). -/
def Hw.charges (h : Hw) (ws : List Word) (d : AdmDest) (srcs : List (Nat × Nat)) : List (Nat × Nat × Nat) :=
  let flows := srcs.flatMap fun s => (resvDirs ws).map fun rd => (d.flow s.1 rd, rd)
  let lines := flows.foldl (fun (l : SMap Nat) f => f.1.foldl (fun (l : SMap Nat) p => addLoad p.2 l p.1) l) []
  let bs := flows.foldl (fun (l : SMap Nat) f => f.1.foldl (fun (l : SMap Nat) p =>
    let c := if !f.2 && (p.1 / 4096 = 4 ∨ p.1 / 4096 = 5) then 2 else 1
    addLoad ((c * resvBurst ws + d.perSlot p.1 - 1) / d.perSlot p.1) l p.1) l) []
  let bw := (wd ws 5).toNat
  lines.map fun p =>
    let lam : Rat := (bw * p.2 * 256 : Rat) * h.tau p.1 / (64000 * 65536 * d.total : Rat)
    (p.1, (lam / (d.perSlot p.1 : Rat)).ceil.toNat, sget 0 p.1 bs)

/-- N_r and B_r of the live reservations (R302). -/
def Hw.totals (h : Hw) (r : Nat) : Nat × Nat :=
  h.resvs.foldl (fun n p => p.2.charges.foldl (fun n c => if c.1 = r then (n.1 + c.2.1, n.2 + c.2.2) else n) n) (0, 0)

/-! ### The latency bound (R304) -/

/-- The routes of a flow, as their resources with multiplicity, their fixed mesh cycles and their memory time. -/
def AdmDest.routes (d : AdmDest) (src : Nat) (rd : Bool) : List (List Nat × Nat × Nat) :=
  if d.home then
    (List.range 72).flatMap fun s =>
      let st := chamberStop s
      let head := leg src st ++ leg st src
      d.ports.map fun p =>
        let legs := head ++ leg st p.1 ++ leg p.1 st
        (legs ++ (if rd then [0x2000 + s] else []) ++ [0x3000 + s] ++ p.2.1, legCycles legs + 11, if rd then p.2.2.2 else 0)
  else d.ports.map fun p =>
    let legs := leg src p.1 ++ leg p.1 src
    (legs ++ p.2.1, legCycles legs, 0)

/-- L in ns, rounded up, and the resource with the largest (B_r + 1) × τ_r on the worst route. `b` gives B_r. Of routes that tie the first in the order of
sources, directions, slices and ports is taken, of resources that tie the lowest ID (DESIGN CHOICE, log 165). -/
def Hw.latency (h : Hw) (ws : List Word) (d : AdmDest) (srcs : List (Nat × Nat)) (b : Nat → Nat) : Nat × Nat :=
  let term := fun (r : Nat) => ((b r + 1 : Nat) : Rat) * h.tau r
  let cost := fun (p : List Nat × Nat × Nat) => p.1.foldl (fun (x : Rat) r => x + term r) ((p.2.1 : Rat) * (5 / 11) + (p.2.2 : Rat))
  let rs := srcs.flatMap fun s => (resvDirs ws).flatMap fun rd => d.routes s.1 rd
  let worst := rs.foldl (fun (w : Rat × List Nat) p => let c := cost p; if w.1 < c then (c, p.1) else w) ((-1 : Rat), [])
  let top := worst.2.foldl (fun (x : Rat × Nat) r =>
    let c := term r
    if x.1 < c ∨ (x.1 = c ∧ r < x.2) then (c, r) else x) ((-1 : Rat), 0xFFFF)
  (worst.1.ceil.toNat, top.2)

/-! ### Grant and refusal (R303, R305 to R307) -/

/-- Regulators of a source that live reservations hold (R298). -/
def Hw.regulators (h : Hw) (id : Nat) : Nat :=
  h.resvs.foldl (fun n p => if p.2.live && (h.resvSources p.2.words).any (fun s => s.2 == id) then n + (resvDirs p.2.words).length else n) 0

/-- ADM.STAT follows the reservations (R311). -/
def Hw.admStat (h : Hw) : Hw :=
  let live := (h.resvs.filter fun p => p.2.live).length
  (h.setRegF (admReg 8) 12 0 live).setRegF (admReg 8) 44 32 (h.resvs.length - live)

/-- The tests of R307 in order. -/
def Hw.admTest (h : Hw) (ws : List Word) : Except AdmNo (List (Nat × Nat × Nat) × Nat) :=
  if resvBad ws then .error (AdmNo.of 1)
  else if h.resvUnbound ws then .error (AdmNo.of 9)
  else match h.resvDest ws with
    | .error e => .error e
    | .ok d =>
      let srcs := h.resvSources ws
      if 4096 ≤ h.resvs.length then .error (AdmNo.of 5)
      else match srcs.find? fun s => decide (8 < h.regulators s.2 + (resvDirs ws).length) with
        | some s => .error ⟨6, s.2, 0⟩
        | none =>
          let ch := h.charges ws d srcs
          match ch.find? fun c => decide (h.capOf c.1 < (h.totals c.1).1 + c.2.1) with
          | some c => .error ⟨2, c.1, h.capOf c.1 * 65536 + min ((h.totals c.1).1 + c.2.1) 0xFFFF⟩
          | none =>
            let full := fun (c : Nat × Nat × Nat) => (h.totals c.1).1 + (h.totals c.1).2 + c.2.1 + c.2.2
            match ch.find? fun c => decide (h.capOf c.1 < full c) with
            | some c => .error ⟨3, c.1, h.capOf c.1 * 65536 + min (full c) 0xFFFF⟩
            | none =>
              let bs : SMap Nat := ch.map fun c => (c.1, (h.totals c.1).2 + c.2.2)
              let l := h.latency ws d srcs fun r => sget 0 r bs
              let lat := (wd ws 6).toNat
              if lat ≠ 0 ∧ lat < l.1 then .error ⟨4, l.2, min l.1 (2 ^ 32 - 1)⟩ else .ok (ch, l.1)

/-- A QRESV is decided (R305, R306): the answer, with the reservation held on a grant. Its regulators start full
(DESIGN CHOICE, log 34). -/
def Hw.qresv (h : Hw) (ws : List Word) : Hw × Word :=
  match h.admTest ws with
  | .error e => (h.bump (admReg 0x10) 1, w64 (2 ^ 63 + e.reason * 2 ^ 56 + e.res % 2 ^ 16 * 2 ^ 32 + e.low % 2 ^ 32))
  | .ok (ch, l) =>
    match sfree h.resvs 0 4096 with
    | none => (h, 0)
    | some i =>
      let g := sget 0 i h.gens % (2 ^ 20 - 1) + 1
      let full := resvBurst ws * 65536
      let tok := (h.resvSources ws).foldl (fun (k : SMap Nat) s =>
        (resvDirs ws).foldl (fun (k : SMap Nat) rd => sset (s.2 * 2 + b2n rd) full k) k) []
      let r : Resv := ⟨ws, g, true, ch, l, 0, h.resvCount, tok, false⟩
      ({ h with resvs := sset i r h.resvs, gens := sset i g h.gens, resvCount := h.resvCount + 1 }.admStat,
       w64 (min l 0xFFFF * 2 ^ 32 + g * 2 ^ 12 + i))

/-- The reservation that a handle names (R309). -/
def Hw.resvOf (h : Hw) (handle : Word) : Option (Nat × Resv) :=
  if Word.fld handle 63 32 ≠ 0 then none
  else
    let i := Word.fld handle 11 0
    match sfind i h.resvs with
    | some r => if r.gen = Word.fld handle 31 12 then some (i, r) else none
    | none => none

/-- Revocation (R310): the regulators stop, the charges go, the handle stays; an incident is recorded. -/
def Hw.revoke (h : Hw) (i : Nat) : Hw :=
  match sfind i h.resvs with
  | none => h
  | some r =>
    if !r.live || r.retire then h
    else
      ({ h with resvs := sset i { r with live := false, charges := [], tok := [] } h.resvs }.admStat).incident 0x53 0 0
        (w64 (r.gen * 2 ^ 12 + i)) (blockId 6 0) false

/-- Every live reservation with a binding is revoked, the newest first (R393). -/
def Hw.revokeAll (h : Hw) (p : Resv → Bool) : Hw :=
  let hit := h.resvs.filter fun x => x.2.live && p x.2
  (hit.mergeSort fun a b => decide (b.2.order ≤ a.2.order)).foldl (fun (h : Hw) x => h.revoke x.1) h

def Hw.revokeInst (h : Hw) (i : Nat) : Hw := h.revokeAll fun r => resvKind r.words == 1 && resvBind r.words == i

/-- The reservations of a requester ID below a port (R393). -/
def Hw.revokeFunc (h : Hw) (k : Nat) (p : Nat → Bool) : Hw :=
  h.revokeAll fun r => resvKind r.words == 2 && Word.fld (wd r.words 1) 2 0 == k && p (resvBind r.words)

/-- Every cap is looked at again (R310): while some resource with live users is over its cap, the newest reservation that uses it is revoked; the
lowest resource first (DESIGN CHOICE, log 35: the order over resources is not stated). The charges of a released handle stay a frame longer
(R309), and are looked at again when they go. -/
def Hw.admRefit : Nat → Hw → Hw
  | 0, h => h
  | n + 1, h =>
    let ids := h.resvs.foldl (fun (l : SMap Nat) p => p.2.charges.foldl (fun (l : SMap Nat) c => addLoad (c.2.1 + c.2.2) l c.1) l) []
    let users := fun (r : Nat) => h.resvs.filter fun x => x.2.live && !x.2.retire && x.2.charges.any fun c => c.1 == r
    match ids.findSome? fun p => if h.capOf p.1 < p.2 then (users p.1).head?.map fun u => (u, (users p.1).tail) else none with
    | none => h
    | some (u, us) => Hw.admRefit n (h.revoke (us.foldl (fun (a : Nat × Resv) x => if a.2.order < x.2.order then x else a) u).1)

/-- A figure of the site survey, or a cap, has changed (R310). -/
def Hw.surveyChanged (h : Hw) : Hw := h.admRefit 4097

/-- ADM.LOAD_r (R311). -/
def Hw.admLoad (h : Hw) (r : Nat) : Word :=
  if !resExists r then 0
  else
    let t := h.totals r
    w64 (min t.1 255 * 65536 + min t.2 255 * 256 + min (h.capOf r) 255)

/-! ### Regulators (R297, R298) -/

/-- Whether an address lies in a reservation's range, or is reached through its port: a root port's MMIO, or another node over a Passage
port's link (R299, R368). -/
def Hw.resvCovers (h : Hw) (ws : List Word) (pa : Nat) : Bool :=
  if resvPortDest ws then
    match h.decodePA (w64 pa) with
    | .ok (.mmio k) => k == (wd ws 3).toNat
    | .ok .remote => (match h.passEgress (pa / 2 ^ 48) with | some l => l.1 == (wd ws 3).toNat | none => false)
    | _ => false
  else decide ((wd ws 3).toNat ≤ pa) && decide (pa < (wd ws 3).toNat + (wd ws 4).toNat)

/-- The live reservation, with its index, that matches a line of a source's traffic; the oldest when several do (DESIGN CHOICE, log 166). -/
def Hw.matching (h : Hw) (id : Nat) (rd : Bool) (pa : Nat) (kind bind : Nat) : Option (Nat × Resv) :=
  (h.resvs.filter fun p => p.2.live && !p.2.retire && resvKind p.2.words == kind && resvBind p.2.words == bind
    && (sfind (id * 2 + b2n rd) p.2.tok).isSome && h.resvCovers p.2.words pa).foldl
      (fun (b : Option (Nat × Resv)) p => match b with
        | none => some p
        | some a => if p.2.order < a.2.order then some p else b) none

/-- A matched line takes a token and is Cream, or is counted in OVER (R298). -/
def Hw.regulate (h : Hw) (id : Nat) (rd : Bool) (pa : Nat) (kind bind : Nat) : Hw × Bool :=
  match h.matching id rd pa kind bind with
  | none => (h, false)
  | some (i, r) =>
    let k := id * 2 + b2n rd
    let n := sget 0 k r.tok
    if 65536 ≤ n then ({ h with resvs := sset i { r with tok := sset k (n - 65536) r.tok } h.resvs }, true)
    else ({ h with resvs := sset i { r with overCnt := min (r.overCnt + 1) (2 ^ 32 - 1) } h.resvs }, false)

/-- The VMID that a thread's traffic is matched by (R297): at U or S in the normal world. -/
def Thread.resvVmid (x : Thread) : Option Nat :=
  if x.a.secure || decide (2 ≤ Level.num x.a.level) then none else some x.a.ctx.vmid

/-- A line of a thread at its chamber's regulators. -/
def Hw.regulateT (h : Hw) (c : Nat) (vmid : Option Nat) (rd : Bool) (line : Nat) : Hw × Bool :=
  match vmid with
  | none => (h, false)
  | some v => h.regulate (0x9000 + c) rd (line * 64) 0 v

/-- The refill of n mesh cycles: the rate in lines with 16 fraction bits, rounded down, up to BURST (R298). -/
def Resv.refill (r : Resv) (n : Nat) : Resv :=
  let rate := (wd r.words 5).toNat * 65536 / 140800
  { r with tok := r.tok.map fun p => (p.1, min (p.2 + n * rate) (resvBurst r.words * 65536)) }

end Sys2Proof.Machine
end

