-- ==== Sys2Proof/Machine/Caches.lean ====
section
/-! DEFINITION. The caches as tags (chapters 08, 09): tree pseudo-LRU (R203, R204), lookups, inclusion (R200, R201), the Vat's
ways and ages (R222, R225, R226), the snoop filter (R227), the write-back buffer (R234). -/

namespace Sys2Proof.Machine

/-! ### Tree pseudo-LRU (R203) -/

/-- Every node on the path to way w points away from it; 2^lg ways, node bits in heap order. -/
def plruTouch : Nat → Nat → Nat → Nat → Nat
  | 0, _, st, _ => st
  | k + 1, node, st, w =>
    let half := w / 2 ^ k % 2
    let b := 2 ^ (node - 1)
    let st' := st - st / b % 2 * b + (1 - half) * b
    plruTouch k (2 * node + half) st' w

/-- The way the tree points at. -/
def plruVictim : Nat → Nat → Nat → Nat → Nat
  | 0, _, _, w => w
  | k + 1, node, st, w =>
    let b := st / 2 ^ (node - 1) % 2
    plruVictim k (2 * node + b) st (2 * w + b)

/-- A cache geometry: number of sets and log2 of the ways (R199, R200). -/
structure Geo where
  sets : Nat
  lg : Nat

def Geo.ways (g : Geo) : Nat := 2 ^ g.lg
def geoL1I : Geo := ⟨256, 2⟩
def geoL1D : Geo := ⟨128, 3⟩
def geoL2 : Geo := ⟨4096, 4⟩

/-- The place of a line in one set, if it is there. -/
def Cache.look (c : Cache) (g : Geo) (set line : Nat) : Option Nat :=
  ((List.range g.ways).find? fun w => match sfind (set * g.ways + w) c.lines with
    | some l => l.line == line
    | none => false).map (set * g.ways + ·)

/-- The way a fill takes (R204): the lowest invalid eligible way, the tree's way, or the next eligible way; none when no way is
eligible. -/
def Cache.pick (c : Cache) (g : Geo) (set : Nat) : Option Nat :=
  let ok := fun w => !sget false w c.offline
  match (List.range g.ways).find? fun w => ok w && (sfind (set * g.ways + w) c.lines).isNone with
  | some w => some w
  | none =>
    let v := plruVictim g.lg 1 (sget 0 set c.plru) 0
    ((List.range g.ways).map fun i => (v + i) % g.ways).find? ok

/-- The tree of a set after an access to a way (R203). -/
def Cache.touch (c : Cache) (g : Geo) (key : Nat) : Cache :=
  { c with plru := supd 0 (key / g.ways) (fun st => plruTouch g.lg 1 st (key % g.ways)) c.plru }

/-- The cache with a line at a way, and the line that was there. -/
def Cache.put (c : Cache) (key : Nat) (l : CLine) : Cache := { c with lines := sset key l c.lines }
def Cache.drop (c : Cache) (key : Nat) : Cache := { c with lines := sdel key c.lines }

/-! ### L1 and L2 copies -/

/-- The L1I places that may hold a physical line: four candidate sets (R199). -/
def l1iKeys (c : Cache) (line : Nat) : List Nat :=
  (List.range 4).filterMap fun j => c.look geoL1I (line % 64 + 64 * j) line

def Hw.l1dKey (h : Hw) (core line : Nat) : Option Nat := (h.core core).l1d.look geoL1D (line % 128) line
def Hw.l2Key (h : Hw) (c line : Nat) : Option Nat := (h.chamber c).l2.look geoL2 (line % 4096) line

/-- The L1D line of a core. -/
def Hw.l1dLine (h : Hw) (core line : Nat) : Option CLine :=
  match h.l1dKey core line with
  | some k => sfind k (h.core core).l1d.lines
  | none => none

def Hw.l2Line (h : Hw) (c line : Nat) : Option CLine :=
  match h.l2Key c line with
  | some k => sfind k (h.chamber c).l2.lines
  | none => none

def Hw.updL1d (h : Hw) (core : Nat) (f : Cache → Cache) : Hw := h.updCore core fun x => { x with l1d := f x.l1d }
def Hw.updL1i (h : Hw) (core : Nat) (f : Cache → Cache) : Hw := h.updCore core fun x => { x with l1i := f x.l1i }
def Hw.updL2 (h : Hw) (c : Nat) (f : Cache → Cache) : Hw := h.updChamber c fun x => { x with l2 := f x.l2 }

def Hw.setL1d (h : Hw) (core line : Nat) (st : LSt) : Hw :=
  match h.l1dKey core line with
  | some k => h.updL1d core fun c => { c with lines := supd ⟨line, st, .normal, 0, false⟩ k (fun l => { l with st := st }) c.lines }
  | none => h

def Hw.setL2 (h : Hw) (c line : Nat) (f : CLine → CLine) : Hw :=
  match h.l2Key c line with
  | some k => h.updL2 c fun x => { x with lines := supd ⟨line, .s, .normal, 0, false⟩ k f x.lines }
  | none => h

/-- A core's L1D copy is good or poisoned (R219). -/
def Hw.markL1d (h : Hw) (core line : Nat) (b : Bool) : Hw :=
  match h.l1dKey core line with
  | some k => h.updL1d core fun c => { c with lines := supd ⟨line, .s, .normal, 0, b⟩ k (fun l => { l with bad := b }) c.lines }
  | none => h

/-- A bit of the presence vector (R200). -/
def presBit (p i : Nat) : Bool := decide (p / 2 ^ i % 2 = 1)
def presSet (p i : Nat) (b : Bool) : Nat := p - p / 2 ^ i % 2 * 2 ^ i + b2n b * 2 ^ i

/-- A core's L1D copy goes; a dirty one makes the L2 line M (R200, R201). -/
def Hw.l1dDrop (h : Hw) (core line : Nat) : Hw :=
  match h.l1dKey core line, h.l1dLine core line with
  | some k, some l =>
    let h1 := { h.updL1d core (fun c => c.drop k) with under := sdel line h.under }
    h1.setL2 (chamberOf core) line fun x =>
      { x with pres := presSet x.pres (core % 4) false, st := if l.st = .m then .m else x.st, bad := if l.st = .m then l.bad else x.bad }
  | _, _ => h

/-- A core's L1D copy in M or E becomes S; a dirty one makes the L2 line M (R201). -/
def Hw.l1dShare (h : Hw) (core line : Nat) : Hw :=
  match h.l1dLine core line with
  | some l =>
    if l.st = .m then
      ({ h.setL1d core line .s with under := sdel line h.under }).setL2 (chamberOf core) line fun x => { x with st := .m, bad := l.bad }
    else h.setL1d core line .s
  | none => h

/-- Every L1I copy of a line goes (R199). -/
def Hw.l1iDrop (h : Hw) (core line : Nat) : Hw :=
  let ks := l1iKeys (h.core core).l1i line
  let h1 := h.updL1i core fun c => ks.foldl (fun c k => c.drop k) c
  h1.setL2 (chamberOf core) line fun x => { x with pres := presSet x.pres (4 + core % 4) false }

/-- A line in a core's L1D writeback buffer is merged into L2 (R202). -/
def Hw.l1Wb (h : Hw) (core line : Nat) : Hw :=
  if (h.core core).wbuf.contains line then
    (h.updCore core fun x => { x with wbuf := x.wbuf.filter (· != line) }).setL2 (chamberOf core) line fun l => { l with st := .m }
  else h

/-- The L1 copies of a chamber go before its L2 line does (R200). -/
def Hw.l1Back (h : Hw) (c line : Nat) : Hw :=
  forN 0 4 (fun i h => ((h.l1Wb (4 * c + i) line).l1dDrop (4 * c + i) line).l1iDrop (4 * c + i) line) h

/-- A chamber loses a line: L1 copies, then the L2 line. True when dirty data was held, which is now on its way (R200). -/
def Hw.l2Remove (h : Hw) (c line : Nat) : Hw × Bool :=
  let h1 := h.l1Back c line
  match h1.l2Key c line, h1.l2Line c line with
  | some k, some l =>
    let d := l.st == .m || l.st == .o
    let h2 := h1.updL2 c fun x => x.drop k
    (if d then h2.carry line l.bad else h2, d)
  | _, _ => (h1, false)

/-- The poison of the dirty copy that a chamber holds of a line, when it holds one (R219). -/
def Hw.dirtyBad (h : Hw) (c line : Nat) : Option Bool :=
  match (List.range 4).findSome? fun i => (h.l1dLine (4 * c + i) line).bind fun l => if l.st = .m then some l.bad else none with
  | some b => some b
  | none => (h.l2Line c line).bind fun l => if l.st = .m ∨ l.st = .o then some l.bad else none

/-! ### The Vat's ways (R222) -/

def Slice.look (s : Slice) (line : Nat) : Option Nat :=
  let set := vatSet line
  ((List.range 24).find? fun w => match sfind (set * 24 + w) s.ways with
    | some l => l.line == line
    | none => false).map (set * 24 + ·)

def Hw.vatLine (h : Hw) (s line : Nat) : Option VatWay :=
  match (h.slice s).look line with
  | some k => sfind k (h.slice s).ways
  | none => none

/-- A line is being snooped or back-invalidated (R222): by a transaction, as the victim of its filter entry, or by a snoop of its home. -/
def Slice.busy (s : Slice) (line : Nat) : Bool :=
  s.txns.any (fun t => t.req.line == line || (t.victimLine == line && !t.victims.isEmpty)) || s.snps.any fun p => p.line == line

/-- A way is eligible unless patrol holds it, or its line is being snooped (R222). -/
def Slice.eligible (s : Slice) (key : Nat) : Bool :=
  !sget false (key % 24) s.offline && (match sfind key s.ways with
    | some l => !s.busy l.line
    | none => true)

/-- The victim of R222 among the ways of a set: the lowest invalid eligible way, else the lowest eligible way of the highest
eligible age, and by how much the eligible ages rise. -/
def Slice.victim (s : Slice) (set : Nat) : Option (Nat × Nat) :=
  let ks := ((List.range 24).map (set * 24 + ·)).filter s.eligible
  match ks.find? fun k => (sfind k s.ways).isNone with
  | some k => some (k, 0)
  | none =>
    let age := fun k => (sget ⟨0, .s, 0, 0, false⟩ k s.ways).age
    let top := ks.foldl (fun a k => max a (age k)) 0
    (ks.find? fun k => age k == top).map fun k => (k, 3 - top)

/-- A free write-back buffer entry (R234). -/
def Slice.wbbFree (s : Slice) : Option Nat := sfree s.wbb 0 32

/-- The number of the write-back buffer entry that holds a line. -/
def Slice.wbbOf (s : Slice) (line : Nat) : Option Nat := (s.wbb.find? fun e => e.2.line == line).map (·.1)

/-- A line enters the write-back buffer with a value (R234): an entry of it that is not yet issued takes the value (R235). -/
def Hw.wbbPut (h : Hw) (s line : Nat) (v : Vec) (bad : Bool) : Hw :=
  match (h.slice s).wbb.find? fun p => p.2.line == line && !p.2.issued with
  | some p => h.updSlice s fun x => { x with wbb := sset p.1 ⟨line, v, false, bad, false⟩ x.wbb }
  | none => match (h.slice s).wbbFree with
    | some e => h.updSlice s fun x => { x with wbb := sset e ⟨line, v, false, bad, false⟩ x.wbb }
    | none => h

/-- The same with the line's newest value. -/
def Hw.wbbAdd (m : List Host.Cell) (h : Hw) (s line : Nat) (bad : Bool) : Hw := h.wbbPut s line (lineVal m h line) bad

/-- The entry of a line, when there is one. -/
def Hw.wbbEntry (h : Hw) (s line : Nat) : Option WbbEntry := ((h.slice s).wbb.find? fun e => e.2.line == line).map (·.2)

/-- Whether the newest value of a line is poisoned (R219, R327): that of data on its way, of a dirty copy, of the Vat's copy, of the write-back
buffer's, of another copy of a line of another node, of memory. -/
def Hw.poisoned (h : Hw) (line : Nat) : Bool :=
  let s := sliceOf line
  let x := h.slice s
  let hs := match (List.range 16).findSome? fun w => (sfind (vatSet line * 16 + w) x.sf).filter fun e => e.line == line with
    | some e => (match e.form with | .one a _ => [a] | .two a b _ => [a, b] | .wide _ _ => List.range 72)
    | none => []
  match sfind line h.carried with
  | some b => b
  | none => match hs.findSome? fun c => h.dirtyBad c line with
    | some b => b
    | none => match h.vatLine s line with
      | some w => w.bad
      | none => match h.wbbEntry s line with
        | some e => e.bad
        | none => if h.localLine line then h.memBad line else hs.any fun c => (h.l2Line c line).any (·.bad)

/-- A write of bytes of one line to the place that holds its newest value: the owning cache's copy, or memory. A full line clears the poison
(R327). -/
def cohWrite (l : Nat) (data : Vec) (mask : BitVec 64) (p : List Host.Cell × Hw) : List Host.Cell × Hw :=
  let full := decide (mask = BitVec.allOnes 64)
  if (sfind l p.2.newest).isSome then (p.1, let h := p.2.mergeNewest p.1 l data mask; if full then h.carry l false else h)
  else (memPut (lineLocal l) (vbytes (vmerge (memLine p.1 (lineLocal l)) data mask) 0 64) p.1, if full then p.2.setPoison l false else p.2)

/-- A counter of the slice advances; bit 1 of VAT.EVT is set when it wraps (R245, R374). -/
def Hw.vatCount (h : Hw) (s o : Nat) : Hw :=
  let h1 := h.bump (vatReg s o) 1
  if h1.reg (vatReg s o) = 0 then h1.event (vatReg s 0x80) 1 else h1

/-- Allocation of a line in the Vat (R222, R225): false when no way is eligible, or the victim is dirty and the write-back
buffer is full; VAT.NOALLOC counts that. A way that is hit takes the ORIGIN of the line that now comes: 0 for a core's, where a link port's
write had allocated it (DESIGN CHOICE, log 172: R221 does not say). -/
def Hw.vatAlloc (m : List Host.Cell) (h : Hw) (s line : Nat) (st : LSt) (age origin : Nat) (bad : Bool) : Hw × Bool :=
  let x := h.slice s
  match x.look line with
  | some k => (h.updSlice s fun x => { x with ways := sset k ⟨line, st, age, origin, bad⟩ x.ways }, true)
  | none =>
    let set := vatSet line
    match x.victim set with
    | none => (h.vatCount s 0x210, false)
    | some (k, up) =>
      let dirty := match sfind k x.ways with
        | some v => decide (v.st = .m ∨ v.st = .o)
        | none => false
      if dirty && x.wbbFree.isNone then (h.vatCount s 0x210, false)
      else
        let h1 := match sfind k x.ways with
          | some v => if dirty then h.wbbAdd m s v.line v.bad else h
          | none => h
        let aged := fun (ws : SMap VatWay) => ws.map fun p =>
          if p.1 / 24 = set ∧ x.eligible p.1 then (p.1, { p.2 with age := p.2.age + up }) else p
        (h1.updSlice s fun x => { x with ways := sset k ⟨line, st, age, origin, bad⟩ (aged x.ways) }, true)

/-- A hit sets the age to 0 (R222). -/
def Hw.vatHit (h : Hw) (s line : Nat) : Hw :=
  match (h.slice s).look line with
  | some k => h.updSlice s fun x => { x with ways := supd ⟨line, .s, 0, 0, false⟩ k (fun w => { w with age := 0 }) x.ways }
  | none => h

def Hw.vatSetSt (h : Hw) (s line : Nat) (st : LSt) : Hw :=
  match (h.slice s).look line with
  | some k => h.updSlice s fun x => { x with ways := supd ⟨line, st, 0, 0, false⟩ k (fun w => { w with st := st }) x.ways }
  | none => h

def Hw.vatDrop (h : Hw) (s line : Nat) : Hw :=
  match (h.slice s).look line with
  | some k => h.updSlice s fun x => { x with ways := sdel k x.ways }
  | none => h

/-! ### The snoop filter (R227, R228) -/

/-- Place of a line in the filter. -/
def Slice.sfLook (s : Slice) (line : Nat) : Option Nat :=
  let set := vatSet line
  ((List.range 16).find? fun w => match sfind (set * 16 + w) s.sf with
    | some l => l.line == line
    | none => false).map (set * 16 + ·)

/-- The holders a snoop goes to (R227). -/
def SfForm.holders : SfForm → List Nat
  | .one h _ => [h]
  | .two a b _ => [a, b]
  | .wide dies ports =>
    ((List.range 72).filter fun c => dies.getLsbD (c / 18)) ++ (if ports then (List.range 8).map (72 + ·) else [])

/-- A holder is added; a third one makes the entry wide (R227). -/
def SfForm.add (f : SfForm) (x : Nat) (own : Bool) : SfForm :=
  match f with
  | .one a o =>
    if a = x then .one a own else .two a x (if o then some a else if own then some x else none)
  | .two a b o => if a = x ∨ b = x then .two a b (if own then some x else o) else
      .wide ([a, b, x].foldl (fun d c => if c < 72 then d ||| BitVec.ofNat 4 (2 ^ (c / 18)) else d) 0)
        ([a, b, x].any fun c => decide (72 ≤ c))
  | .wide d p =>
    if x < 72 then .wide (d ||| BitVec.ofNat 4 (2 ^ (x / 18))) p else .wide d true

/-- A holder is removed; a wide entry keeps its form (R227). -/
def SfForm.del (f : SfForm) (x : Nat) : Option SfForm :=
  match f with
  | .one a o => if a = x then none else some (.one a o)
  | .two a b o =>
    if a = x then some (.one b (o == some b)) else if b = x then some (.one a (o == some a)) else some (.two a b o)
  | .wide d p => some (.wide d p)

/-- The holder that owns the line in M, E or O, if the entry says (R227). -/
def SfForm.owner : SfForm → Option Nat
  | .one a o => if o then some a else none
  | .two _ _ o => o
  | .wide _ _ => none

def Hw.sfForm (h : Hw) (s line : Nat) : Option SfForm :=
  match (h.slice s).sfLook line with
  | some k => (sfind k (h.slice s).sf).map (·.form)
  | none => none

def Hw.sfSet (h : Hw) (s line : Nat) (f : Option SfForm) : Hw :=
  match (h.slice s).sfLook line with
  | some k => h.updSlice s fun x =>
      { x with sf := match f with | some f => sset k ⟨line, f⟩ x.sf | none => sdel k x.sf }
  | none => h

def Hw.sfDel (h : Hw) (s line holder : Nat) : Hw :=
  match h.sfForm s line with
  | some f => h.sfSet s line (f.del holder)
  | none => h

/-- The way of a round-robin pointer, or the next of the 16 that is not held offline (DESIGN CHOICE, log 173: R228 and R232 do not speak of
offline ways); `base` tells whose ways they are. -/
def Slice.rrWay (s : Slice) (base p : Nat) : Nat :=
  (((List.range 16).map fun i => (p + i) % 16).find? fun w => !sget false (base + w) s.offline).getD p

/-- The place a new filter entry takes: an invalid way, else the way of the round-robin pointer (R228). -/
def Slice.sfPlace (s : Slice) (line : Nat) : Nat × Option SfEntry :=
  let set := vatSet line
  match (List.range 16).find? fun w => !sget false (100 + w) s.offline && (sfind (set * 16 + w) s.sf).isNone with
  | some w => (set * 16 + w, none)
  | none => let k := set * 16 + s.rrWay 100 (sget 0 set s.sfPtr)
            (k, sfind k s.sf)

/-- Every holder in the node loses the line, with its filter entry: what a write by a device, an engine or an atomic does to
other copies, all at once (R229, R257). -/
def Hw.dropHolders (h : Hw) (line : Nat) : Hw :=
  let s := sliceOf line
  match h.sfForm s line with
  | some f => ((f.holders.filter (· < 72)).foldl (fun h c => (h.l2Remove c line).1) h).sfSet s line none
  | none => h

/-- Some cache of this node, or its write-back buffer, holds a line (R224, R227, R235). -/
def Hw.nodeHas (h : Hw) (line : Nat) : Bool :=
  (h.vatLine (sliceOf line) line).isSome || (h.sfForm (sliceOf line) line).isSome || (h.wbbEntry (sliceOf line) line).isSome

/-- The home slice can act on a line in one step: it is not stopped (R244), no request or snoop of the line runs or waits there before it (R230),
no writeback of it is under way, no write of it is out to memory (R235), and the result finds a way or an entry (R222, R234). -/
def Hw.homeReady (h : Hw) (l : Nat) : Bool :=
  let s := sliceOf l
  let x := h.slice s
  !x.stopped && !x.busy l && x.intake.all (fun r => r.line != l) && h.chambers.all (fun p => p.2.wbuf.all fun q => q.1 != l)
    && (match h.wbbEntry s l with
        | some e => !e.issued
        | none => (x.look l).isSome || x.wbbFree.isSome || (match x.victim (vatSet l) with
          | some (k, _) => (match sfind k x.ways with | some v => !(v.st == .m || v.st == .o) | none => true)
          | none => false))

/-- The home slice takes a line as M for an operation of its own in one step, with bytes stored: the router's far atomics, the device's CAS on
a geode control block (R225, R229, R385, R403). An entry of the write-back buffer takes the result (R235); without a way a new one does. -/
def Hw.homeStore (m : List Host.Cell) (h : Hw) (l : Nat) (data : Vec) (mask : BitVec 64) : Hw :=
  let s := sliceOf l
  let bad := h.poisoned l && decide (mask ≠ BitVec.allOnes 64)
  let h1 := ((h.dropHolders l).mergeNewest m l data mask).landed l
  if (h1.wbbEntry s l).isSome then (h1.wbbAdd m s l bad).vatCount s 0x200
  else
    let r := h1.vatAlloc m s l .m 1 0 bad
    if r.2 then r.1 else r.1.wbbAdd m s l bad

/-- The same for n bytes at an address within one line. -/
def Hw.homeStoreBytes (m : List Host.Cell) (h : Hw) (pa : Word) (bs : Bytes) : Hw :=
  let o := pa.toNat % 64
  h.homeStore m (lineNo pa) (vput 0 o bs) (maskOf o bs.length)

end Sys2Proof.Machine
end

