-- ==== Sys2Proof/Machine/CorePort.lean ====
section
/-! DEFINITION. Requests of a core to its chamber's L2 and of L2 to the home slices: miss registers (R200 to R202, R206, R211 to R213), the
core port (R130 to R132), and requests to a slice that no cache of the chamber keeps. -/

namespace Sys2Proof.Machine

/-! ### Requests of a core to L2, of L2 to a home slice -/

def Miss.bitOf (core : Nat) (fetch : Bool) : Nat := core % 4 + if fetch then 4 else 0

/-- The L2 miss register of a line, or none. -/
def missOf (ms : SMap Miss) (line : Nat) : Option Nat := (ms.find? fun p => p.2.line == line).map (·.1)

/-- An L2 miss register sends its request when its line is in no writeback (R202) and a credit of the slice is free: of its own two, or for
a Cream line of the Cream entries (R237, R238, R243). -/
def Hw.l2Send (h : Hw) (c reg : Nat) : Hw :=
  match sfind reg (h.chamber c).miss with
  | none => h
  | some q =>
    let s := sliceOf q.line
    if q.sent || q.ready || (h.chamber c).wbuf.any (fun p => p.1 == q.line) then h
    else
      let kind := if !q.unique then ReqKind.readShared else if (h.l2Key c q.line).isSome then .upgrade else .readUnique
      let g := h.regulateT c q.resv true q.line
      let r : SReq := ⟨kind, q.line, .chamber c reg, q.acc, q.fetch, q.weight, g.2, q.home⟩
      if !g.1.hasCredit r.credit.1 r.credit.2 s then h
      else (g.1.postReq s r).updChamber c fun x => { x with miss := sset reg { q with sent := true } x.miss }

/-- A request of an L1 register that L2 cannot answer joins or takes an L2 miss register (R211, R212). -/
def Hw.l2Miss (h : Hw) (core : Nat) (q : Miss) : Hw :=
  let c := chamberOf core
  let ch := h.chamber c
  let bit := Miss.bitOf core q.fetch
  match missOf ch.miss q.line with
  | some r =>
    let p := sget Miss.free r ch.miss
    if p.dna || presBit p.l1s bit || decide (8 ≤ p.reqs) then h
    else h.updChamber c fun x =>
      { x with miss := sset r { p with reqs := p.reqs + 1, l1s := presSet p.l1s bit true, alloc := x.l2.en,
                                       unique := p.unique || (q.unique && !p.sent) } x.miss }
  | none =>
    match sfree ch.miss 0 64 with
    | none => h
    | some r =>
      (h.updChamber c fun x =>
        { x with miss := sset r { Miss.free with line := q.line, unique := q.unique, alloc := x.l2.en, acc := q.acc, weight := q.weight,
                                                 resv := q.resv, fetch := q.fetch, home := q.home, l1s := presSet 0 bit true } x.miss }).l2Send c r

/-- Whether an L1D of the chamber that a request must have snooped holds a line in M or E: any but the requester's own, and that one too
for a walk's read, which does not look there (R183, R201). -/
def Hw.otherOwner (h : Hw) (core line : Nat) (own : Bool) : Bool :=
  (List.range 4).any fun i =>
    let k := chamberOf core * 4 + i
    (k != core || own) && (match h.l1dLine k line with | some l => l.st == .m || l.st == .e | none => false)

/-- A line sits in the writeback buffer of an L1D of the chamber: no request for it is served until L2 has accepted it (R202). -/
def Hw.inL1Wb (h : Hw) (c line : Nat) : Bool := (List.range 4).any fun i => (h.core (4 * c + i)).wbuf.contains line

/-- Every L1I copy of a chamber, and every L1D copy but the core's own, goes: a store is about to change the line (R199 to
R201). -/
def Hw.ownInChamber (h : Hw) (core line : Nat) : Hw :=
  forN 0 4 (fun i h =>
    let k := chamberOf core * 4 + i
    let h1 := if k = core then h else h.l1dDrop k line
    if (l1iKeys (h1.core k).l1i line).isEmpty then h1 else h1.l1iDrop k line) h

/-- The tree of an L2 set after an access (R205). -/
def Hw.touchL2 (h : Hw) (c line : Nat) : Hw :=
  match h.l2Key c line with
  | some k => h.updL2 c fun x => x.touch geoL2 k
  | none => h

def Hw.touchL1d (h : Hw) (core line : Nat) : Hw :=
  match h.l1dKey core line with
  | some k => h.updL1d core fun x => x.touch geoL1D k
  | none => h

/-- An L1 register's request that L2 has accepted: answered when the line is there in a state that serves it and no other L1D owns it
(R200 to R202), else a miss. Nothing happens to a register that is already ready, or whose request waits at the port. -/
def Hw.l2Req (h : Hw) (core : Nat) (fetch : Bool) (reg : Nat) : Hw :=
  let c := chamberOf core
  let regs := if fetch then (h.core core).imiss else (h.core core).dmiss
  match sfind reg regs with
  | none => h
  | some q =>
    if q.ready || q.atPort || h.inL1Wb c q.line then h
    else
      let give := fun (h : Hw) (l : CLine) => h.updCore core fun x =>
        let p := { q with ready := true, own := l.own, bad := l.bad }
        if fetch then { x with imiss := sset reg p x.imiss } else { x with dmiss := sset reg p x.dmiss }
      match (if (h.chamber c).l2.en then h.l2Line c q.line else none) with
      | some l =>
        if h.otherOwner core q.line q.walk then h
        else if !q.unique then give (h.touchL2 c q.line) l
        else if l.st = .m ∨ l.st = .e then give ((h.ownInChamber core q.line).touchL2 c q.line) l
        else h.l2Miss core q
      | none => h.l2Miss core q

/-! ### The core port (R130 to R132) -/

/-- The oldest register whose request waits at the port. -/
def oldestAtPort (ms : SMap Miss) : Option Nat :=
  (ms.foldl (fun (b : Option (Nat × Nat)) p =>
    if !p.2.atPort then b
    else match b with
      | some q => if p.2.seq < q.2 then some (p.1, p.2.seq) else b
      | none => some (p.1, p.2.seq)) none).map (·.1)

/-- A register's request that L2 has accepted and not answered. -/
def Miss.asks (q : Miss) : Bool := !q.ready && !q.atPort

/-- The snoops for which L2 waits at an L1D: the line, held there in M or E, and whether ownership is asked for (R201). A walk's read of the
core itself has its own L1D snooped too (R183). -/
def Hw.snoopsDue (h : Hw) (core : Nat) : List (Nat × Bool) :=
  (List.range 4).flatMap fun i =>
    let k := 4 * chamberOf core + i
    let x := h.core k
    ((x.dmiss.filter fun p => p.2.asks && (k != core || p.2.walk)) ++ (x.imiss.filter fun p => p.2.asks && k != core)).filterMap fun p =>
      match h.l1dLine core p.2.line with
      | some l => if l.st = .m ∨ l.st = .e then some (p.2.line, p.2.unique) else none
      | none => none

/-- A refused winner still stands. -/
def Hw.stillHeld (h : Hw) (core : Nat) : Option PortReq :=
  let x := h.core core
  x.held.filter fun r => match r with
    | .snoop l u => (h.snoopsDue core).contains (l, u)
    | .wb l => x.wbuf.head? == some l
    | .miss f i => (sfind i (if f then x.imiss else x.dmiss)).any (·.atPort)

/-- The access that a core's port takes next (R130 to R132): the winner that L2 refused, else the first of ranks 1 to 6. -/
def Hw.portPick (h : Hw) (core : Nat) : Option PortReq :=
  let x := h.core core
  let i := (oldestAtPort x.imiss).map (PortReq.miss true)
  ((((((h.stillHeld core).or
    (if 16 ≤ x.lossCnt then i else none)).or
    ((h.snoopsDue core).head?.map fun s => .snoop s.1 s.2)).or
    (if 4 ≤ x.wbuf.length then x.wbuf.head?.map .wb else none)).or
    ((oldestAtPort x.dmiss).map (PortReq.miss false))).or
    (x.wbuf.head?.map .wb)).or i

/-- The instruction-loss counter after the port carried an access (R131): `data` for the data side. -/
def Core.portCount (x : Core) (data : Bool) : Core :=
  { x with held := none, lossCnt := if (oldestAtPort x.imiss).isNone || !data then 0 else min 16 (x.lossCnt + 1) }

/-- L2 accepts accesses while one of its miss registers is free (R132). -/
def Hw.l2Accepts (h : Hw) (c : Nat) : Bool := (sfree (h.chamber c).miss 0 64).isSome

/-- The port holds the winner that L2 refuses (R132). -/
def Hw.portHold (h : Hw) (core : Nat) (r : PortReq) : Hw := h.updCore core fun x => { x with held := some r }

/-- The port carries the requests of miss registers, in order, until something else wins or L2 refuses (R130 to R132). -/
def Hw.runPort : Nat → Nat → Hw → Hw
  | 0, _, h => h
  | n + 1, core, h =>
    match h.portPick core with
    | none => h
    | some p =>
      if !h.l2Accepts (chamberOf core) then h.portHold core p
      else match p with
        | .miss f r =>
          let take := fun (ms : SMap Miss) => ms.map fun p => if p.1 = r then (p.1, { p.2 with atPort := false }) else p
          let h1 := h.updCore core fun x =>
            Core.portCount (if f then { x with imiss := take x.imiss } else { x with dmiss := take x.dmiss }) (!f)
          Hw.runPort n core (h1.l2Req core f r)
        | _ => h

/-- A new request of a core waits at its port and is carried as soon as its rank allows. -/
def Hw.toPort (h : Hw) (core : Nat) : Hw := Hw.runPort 20 core h

/-- Everything of a chamber that waits at L2 or at its ports tries again: accepted L1 requests, then the ports, then L2 registers (R132,
R202). -/
def Hw.pumpL2 (h : Hw) (c : Nat) : Hw :=
  let h1 := forN 0 4 (fun i h =>
    let k := 4 * c + i
    let h1 := ((h.core k).dmiss.map (·.1)).foldl (fun h r => h.l2Req k false r) h
    (((h1.core k).imiss.map (·.1)).foldl (fun h r => h.l2Req k true r) h1).toPort k) h
  ((h1.chamber c).miss.map (·.1)).foldl (fun h r => h.l2Send c r) h1

/-- The weight of a thread's requests: its byte of CHAMBER.QOSW (R295, R311). -/
def Hw.weightOf (h : Hw) (t : Nat) : Nat :=
  h.regF (chamberReg (t / 16) (0x2000 + 8 * (localT t / 8))) (8 * (t % 8) + 7) (8 * (t % 8))

/-- What asks for an L1D miss register (R211): a load or atomic, the store at the head of a thread's buffer, or a walk's read. -/
inductive MissFor where
  | load | store | walk
deriving DecidableEq, Repr

/-- An L1D miss register for a line (R211 to R213): a new one, or the one that is there, which the request joins without a port access; none when
it must park or wait. A store joins a register once. -/
def Hw.l1dMiss (h : Hw) (t line : Nat) (unique : Bool) (kind : MissFor) (acc : Acc) (home : Option Nat) : Option Hw :=
  let core := coreOf t
  let x := h.core core
  let alloc := x.l1d.en && kind != .walk
  let mark := fun (n : Nat) => if kind = .store then presSet n (t % 4) true else n
  match missOf x.dmiss line with
  | some r =>
    let q := sget Miss.free r x.dmiss
    if q.dna || decide (8 ≤ q.reqs) || (kind == .store && presBit q.l1s (t % 4)) then none
    else some (h.updCore core fun x =>
      { x with dmiss := sset r { q with reqs := q.reqs + 1, alloc := q.alloc || alloc, l1s := mark q.l1s,
                                        unique := q.unique || (unique && q.atPort) } x.dmiss })
  | none =>
    match sfree x.dmiss 0 16 with
    | none => none
    | some r => some ((h.updCore core fun x =>
        { x with portSeq := x.portSeq + 1
                 dmiss := sset r { Miss.free with
                                       line := line, unique := unique, alloc := alloc, acc := acc, l1s := mark 0,
                                       weight := h.weightOf t, resv := (h.thread t).resvVmid,
                                       walk := kind == .walk, atPort := true, seq := x.portSeq, home := home }
                           x.dmiss }).toPort core)

/-! ### Accesses that no cache of the chamber keeps (R186, R224) -/

/-- A read or a write of a thread leaves for the slice of its line, with a request credit of its chamber (R237, R238); none while it must wait
for one. What a reservation matches may be Cream (R297). -/
def Hw.coreReq (h : Hw) (t : Nat) (who : Waiter) (k : ReqKind) (line : Nat) (fetch : Bool) (acc : Acc) (home : Option Nat) : Option Hw :=
  let rd := match k with | .write _ => false | _ => true
  let g := h.regulateT (t / 16) (h.thread t).resvVmid rd line
  let r : SReq := ⟨k, line, .core t who, acc, fetch, h.weightOf t, g.2, home⟩
  let c := r.credit
  if h.hasCredit c.1 c.2 (sliceOf line) && h.posts.all (fun p => !(p.cls == c.1 && p.snd == c.2 && p.dest == sliceOf line)) then
    some (g.1.postReq (sliceOf line) r)
  else none

end Sys2Proof.Machine
end

