-- ==== Sys2Proof/Machine/Operands.lean ====
section
/-! DEFINITION. Operands: the registers of a thread (R7, R34 to R36), elements of vectors (R69), immediates (R41), and the
control registers with their banks, fields and effects (R88 to R91). -/

namespace Sys2Proof.Machine

/-! ### General, vector and mask registers -/

/-- g0 reads as zero (R7). -/
def Arch.rg (a : Arch) (r : Reg) : Word := if r = 0 then 0 else sget 0 r.toNat a.g

/-- A write of g0 is discarded (R7). -/
def Arch.wg (a : Arch) (r : Reg) (w : Word) : Arch := if r = 0 then a else { a with g := sset r.toNat w a.g }

def Arch.rv (a : Arch) (r : Reg) : Vec := sget 0 r.toNat a.v
def Arch.wv (a : Arch) (r : Reg) (w : Vec) : Arch := { a with v := sset r.toNat w a.v }

/-- m0 reads as all ones; a write of it is discarded (R36). -/
def Arch.rm (a : Arch) (r : Nat) : Word := if r = 0 then onesW else sget 0 r a.m
def Arch.wm (a : Arch) (r : Nat) (w : Word) : Arch := if r = 0 then a else { a with m := sset r w a.m }

/-- A register written by number (R113). -/
def Arch.put (a : Arch) (d : Dest) (v : Vec) : Arch :=
  match d with
  | .none => a
  | .g r => a.wg (BitVec.ofNat 5 r) (v.setWidth 64)
  | .v r => a.wv (BitVec.ofNat 5 r) v
  | .m r => a.wm r (v.setWidth 64)

/-- The destination that names g[r]: g0 is no destination. -/
def destG (r : Reg) : Dest := if r = 0 then .none else .g r.toNat

/-! ### Elements (R69) -/

/-- Element width in bits of an ew field. -/
def ewBits (ew : BitVec 2) : Nat := 8 * 2 ^ ew.toNat

/-- Elements in a vector. -/
def ewCount (ew : BitVec 2) : Nat := 64 / 2 ^ ew.toNat

/-- Element j of width w. -/
def elem (v : Vec) (w j : Nat) : Nat := v.toNat / 2 ^ (w * j) % 2 ^ w

/-- A number of width w read as signed. -/
def toS (w n : Nat) : Int := if n % 2 ^ w < 2 ^ (w - 1) then (n % 2 ^ w : Nat) else (n % 2 ^ w : Nat) - (2 ^ w : Nat)

/-- The low w bits of an integer. -/
def ofS (w : Nat) (i : Int) : Nat := (i % (2 ^ w : Nat)).toNat

/-- Elements of width w as a vector, the first element lowest. -/
def packElems (w : Nat) (es : List Nat) : Vec := BitVec.ofNat 512 (es.foldr (fun e n => e % 2 ^ w + 2 ^ w * n) 0)

/-- Whether element j is active under a mask (R70). -/
def active (mask : Word) (j : Nat) : Bool := mask.getLsbD j

/-! ### Immediates -/

/-- sext64 of an immediate (R41, R43). -/
def sx {w : Nat} (i : BitVec w) : Word := i.signExtend 64
/-- zext64 of an immediate. -/
def zx {w : Nat} (i : BitVec w) : Word := i.setWidth 64

/-! ### Control registers -/

/-- The listed control registers (R90). -/
def crListed (n : Nat) : Bool :=
  n ≤ 0x006 || (0x010 ≤ n && n ≤ 0x012) || (0x020 ≤ n && n ≤ 0x023) || n == 0x030
    || (0x400 ≤ n && n ≤ 0x406) || (0x420 ≤ n && n ≤ 0x423) || (0x800 ≤ n && n ≤ 0x808) || (0x820 ≤ n && n ≤ 0x823)
    || (0xC00 ≤ n && n ≤ 0xC06) || n == 0xC08 || (0xC20 ≤ n && n ≤ 0xC23)

/-- The lowest level that may access a CR: bits [11:10] (R88). -/
def crLevel (n : Nat) : Nat := n / 0x400

/-- The bits of a CR that a write may change (R90). -/
def crMask (n : Nat) : Nat :=
  match n with
  | 0x000 => 0xDF
  | 0x001 => 2 ^ 64 - 1
  | 0x002 | 0x003 => 2 ^ 64 - 4
  | 0x400 | 0x800 => 0xA
  | 0xC00 => 0x2
  | 0x401 | 0x801 | 0xC01 => 2 ^ 64 - 2 ^ 12
  | 0x402 | 0x802 | 0xC02 => 2 ^ 64 - 2 ^ 6
  | 0x403 => 2 ^ 64 - 2 ^ 12 + 3
  | 0x803 => 2 ^ 48 - 2 ^ 12 + 3
  | 0x404 | 0x805 | 0xC03 | 0x405 | 0x806 => 2 ^ 64 - 1
  | 0x406 | 0x808 | 0xC08 => 3
  | 0x804 => 2 ^ 16 - 1
  | 0x807 => 0xC
  | 0xC04 => 3
  | _ => 0

/-- Fields whose value 3 is reserved (R90): MODE of the ATP registers and MAXST of the WAITCTL registers. -/
def crTwoBit (n : Nat) : Bool :=
  n == 0x403 || n == 0x803 || n == 0x406 || n == 0x808 || n == 0xC08

def crReset (n : Nat) : Word :=
  if n % 0x1000 = 0x405 ∨ n = 0x806 then onesW else if n = 0x004 then 0xFFFFFFFF else 0

/-- Where a CR number leads for a thread: the S registers are banked by world, and the secure bank stands at 0x1000 above
(R89). WORLD_M.BANK 0 is the secure bank. -/
def Arch.crKey (a : Arch) (n : Nat) : Nat :=
  if 0x400 ≤ n ∧ n < 0x800 then
    let sec := match a.level with
      | .m => !Word.bit (sget 0 0xC04 a.cr) 1
      | .h => false
      | _ => a.secure
    if sec then n + 0x1000 else n
  else n

/-- A control register by its key. -/
def Arch.crAt (a : Arch) (k : Nat) : Word := sget (crReset k) k a.cr

def Arch.setCr (a : Arch) (k : Nat) (w : Word) : Arch := { a with cr := sset k w a.cr }

/-- The bank of a world of an S register. -/
def sKey (secure : Bool) (n : Nat) : Nat := if secure then n + 0x1000 else n

/-- The key of STATUS, VBASE, XSP of a level, offset 0 to 2 (R90), in the S bank of a world. -/
def lvlKey (lvl : Level) (secure : Bool) (o : Nat) : Nat :=
  match lvl with
  | .h => 0x800 + o
  | .m => 0xC00 + o
  | _ => sKey secure (0x400 + o)

/-- GEODE_ID of a thread. -/
def Arch.geode (a : Arch) : Nat := (a.crAt 0x005).toNat

/-- Every line of a cache has been invalidated since it was disabled (R207). -/
def Cache.inv (c : Cache) (n : Nat) : Bool := decide (c.cov = 2 ^ n - 1)

/-- CACHECTL_M as a core reads it (R90, R207). -/
def Hw.cachectl (h : Hw) (core : Nat) : Word :=
  let c := h.core core
  let l2 := (h.chamber (chamberOf core)).l2
  w64 (b2n c.refused * 64 + b2n (l2.inv 65536) * 32 + b2n (c.l1d.inv 1024) * 16 + b2n (c.l1i.inv 1024) * 8
    + b2n l2.en * 4 + b2n c.l1d.en * 2 + b2n c.l1i.en)

/-- What a CRR of CR n returns to thread t (R90). -/
def Hw.readCr (h : Hw) (t n : Nat) : Word :=
  let a := (h.thread t).a
  match n with
  | 0x006 => w64 (h.node * 2 ^ 48 + t)
  | 0x010 => (h.chamber (t / 16)).cycle - (h.core (t / 4)).missed
  | 0x012 => h.time
  | 0xC05 => 0
  | 0xC06 => h.cachectl (coreOf t)
  | _ =>
    let k := a.crKey n
    let w := a.crAt k
    if n = 0xC00 ∨ k = 0x1400 then w ||| 0x800 else w

/-- A write reloads the secure watchdog with PERIOD × 65,536 ticks and ends its warning (R416, R417). -/
def Hw.wdKick (h : Hw) : Hw :=
  { h with swdt := h.regF (chkReg 0x20100) 47 32 * 65536, wired := sdel 0x052 h.wired }

/-- The value a CR takes from a written value: reserved bits are ignored, and a reserved value of a two-bit field leaves the
field as it was (R9, R10). -/
def crNew (n : Nat) (old v : Word) : Word :=
  let m := if crTwoBit n ∧ v.toNat % 4 = 3 then crMask n - 3 else crMask n
  (old &&& ~~~(w64 m)) ||| (v &&& w64 m)

end Sys2Proof.Machine
end

