-- ==== Sys2Proof/Machine/VatOps.lean ====
section
/-! DEFINITION. What a Vat slice does with requests (R224 to R236): filter allocation, snoops of holders and of other nodes, data
from a holder, the Vat, a write-back buffer entry, memory or the home node, what is written (R225, R226, R251), and the answer;
writebacks and eviction notices; the directory. -/

namespace Sys2Proof.Machine

/-! ### Directory of other nodes' copies (R231 to R233) -/

def dirSet (line : Nat) : Nat := vatSet line % 2048

def Slice.dirLook (s : Slice) (line : Nat) : Option Nat :=
  ((List.range 16).find? fun w => match sfind (dirSet line * 16 + w) s.dir with
    | some e => e.line == line
    | none => false).map (dirSet line * 16 + ·)

/-- The other members of the coherent group, by position (R27, R357). -/
def Hw.others (h : Hw) : List Nat := (h.group.filter fun g => g.2 != h.node).map (·.1)

/-- The members a request for a line of this node must snoop, and whether all were for want of a directory entry (R231 to
R233): `excl` for every request but a read shared. -/
def Hw.remoteSnoops (h : Hw) (line : Nat) (excl : Bool) : List Nat × Bool :=
  let all := h.others
  if all.isEmpty then ([], false)
  else
    let x := h.slice (sliceOf line)
    match x.dirLook line with
    | some k =>
      match sfind k x.dir with
      | some e =>
        if excl then (all.filter fun p => e.sharers.getLsbD p || ((e.summary == 2 || e.summary == 3) && e.owner == p), false)
        else (if e.summary = 2 ∨ e.summary = 3 then all.filter (· == e.owner) else [], false)
      | none => ([], false)
    | none =>
      if 0x0C0000000000 ≤ lineLocal line then ([], false)
      else match sget 0 line h.dirMem with
        | 0 => ([], false)
        | 1 => if excl then (all, true) else ([], false)
        | _ => (all, true)

/-- What a new directory entry starts from: the summary in memory, and every other member as a sharer that it may stand for (R231, R232). -/
def Hw.dirStart (h : Hw) (line : Nat) : DirEntry :=
  let n := sget 0 line h.dirMem
  ⟨line, n, if n = 0 then 0 else (h.others.foldl (fun v p => v ||| BitVec.ofNat 16 (2 ^ p)) 0), 0⟩

/-- The directory records that member `pos` was given a line: as owner (E or M) or as sharer; an entry is allocated, whose victim
has its summary written to memory (R231, R232). -/
def Hw.dirGive (h : Hw) (line pos : Nat) (own : Bool) : Hw :=
  let s := sliceOf line
  let x := h.slice s
  let upd := fun (e : DirEntry) =>
    if own then { e with summary := 2, sharers := BitVec.ofNat 16 (2 ^ pos), owner := pos }
    else { e with summary := if e.summary = 2 then 3 else max e.summary 1, sharers := e.sharers ||| BitVec.ofNat 16 (2 ^ pos) }
  match x.dirLook line with
  | some k => h.updSlice s fun x => { x with dir := supd ⟨line, 0, 0, 0⟩ k upd x.dir }
  | none =>
    let set := dirSet line
    match (List.range 16).find? fun w => !sget false (200 + w) x.offline && (sfind (set * 16 + w) x.dir).isNone with
    | some w => h.updSlice s fun x => { x with dir := sset (set * 16 + w) (upd (h.dirStart line)) x.dir }
    | none =>
      let p := x.rrWay 200 (sget 0 set x.dirPtr)
      let k := set * 16 + p
      let h1 := match sfind k x.dir with
        | some v => { h with dirMem := sset v.line v.summary h.dirMem }
        | none => h
      h1.updSlice s fun x => { x with dir := sset k (upd (h.dirStart line)) x.dir, dirPtr := sset set ((p + 1) % 16) x.dirPtr }

/-- The entry that a new directory entry for a line would replace, when it is one of a CXL window: it may go only once every node in its
vector has been invalidated (R233). -/
def Hw.dirVictim (h : Hw) (line : Nat) : Option DirEntry :=
  let x := h.slice (sliceOf line)
  let set := dirSet line
  if (x.dirLook line).isSome ∨ ((List.range 16).any fun w => !sget false (200 + w) x.offline && (sfind (set * 16 + w) x.dir).isNone) then none
  else (sfind (set * 16 + x.rrWay 200 (sget 0 set x.dirPtr)) x.dir).filter fun e => decide (0x0C0000000000 ≤ lineLocal e.line)

/-- The directory forgets a line: no other node holds it. -/
def Hw.dirClear (h : Hw) (line : Nat) : Hw :=
  let s := sliceOf line
  let h1 := match (h.slice s).dirLook line with
    | some k => h.updSlice s fun x => { x with dir := sdel k x.dir }
    | none => h
  { h1 with dirMem := sdel line h1.dirMem }

/-- The directory names a member as one that holds a line. -/
def Hw.dirHas (h : Hw) (line pos : Nat) : Bool :=
  match (h.slice (sliceOf line)).dirLook line with
  | some k => (match sfind k (h.slice (sliceOf line)).dir with | some e => e.sharers.getLsbD pos | none => false)
  | none => false

/-- An owner that was snooped keeps the line as a sharer, and memory is current (R231). -/
def Hw.dirShare (h : Hw) (line : Nat) : Hw :=
  let s := sliceOf line
  match (h.slice s).dirLook line with
  | some k => h.updSlice s fun x => { x with dir := supd ⟨line, 0, 0, 0⟩ k (fun e => { e with summary := 1 }) x.dir }
  | none => { h with dirMem := sset line 1 h.dirMem }

/-- One member's copy is gone; with the last one the entry clears. -/
def Hw.dirDrop (h : Hw) (line pos : Nat) : Hw :=
  let s := sliceOf line
  match (h.slice s).dirLook line with
  | some k =>
    match sfind k (h.slice s).dir with
    | some e =>
      let sh := e.sharers &&& ~~~(BitVec.ofNat 16 (2 ^ pos))
      if sh = 0 then h.dirClear line
      else h.updSlice s fun x => { x with dir := sset k { e with sharers := sh, summary := 1 } x.dir }
    | none => h
  | none => h

/-! ### Where a line is (R224) -/

/-- A line that is reached over a Passage port only (R20 row 3, R66). -/
def Hw.farOff (h : Hw) (line : Nat) : Bool := !h.localLine line && (h.homePos line).isNone

/-- The line of this node that a Gallery message names. -/
def Hw.ownLineOf (h : Hw) (g : GMsg) : Nat := h.node * 2 ^ 42 + g.line.toNat

/-- A line of this node stands in a memory range that is there (R25). -/
def Hw.lineThere (h : Hw) (l : Nat) : Bool :=
  match h.decodeLocal (lineLocal l) with
  | .ok .ddr | .ok (.pool _) | .ok (.cxl _) => true
  | _ => false

/-- An error answer to a Gallery request, with the incident of a refusal at entry (R25, R510); it leaves the stop `src`. -/
def Hw.galRefuse (h : Hw) (src k : Nat) (g : GMsg) (err : Nat) : Hw :=
  (h.incident 0x50 3 (w64 (h.ownLineOf g * 64)) 0 (blockId 4 k) false).galAnswer src 0x35 g 0 err false 0

/-- A line of this node in a CXL window (R233). -/
def cxlLine (line : Nat) : Bool := decide (0x0C0000000000 ≤ lineLocal line)

/-- The Vat of this node holds a line alone in the domain: in M or E. -/
def Hw.vatOwns (h : Hw) (line : Nat) : Bool :=
  match h.vatLine (sliceOf line) line with
  | some w => w.st == .m || w.st == .e
  | none => false

/-- The entry number of a write that has no write-back buffer entry: the writeback of another node, or data that finds no place (R225). -/
def wbNoEntry : Nat := 64

/-! ### Writebacks and eviction notices (R225, R234, R236) -/

/-- Whether other nodes than position `self` may hold a line of this node (R231, R232). -/
def Hw.heldAway (h : Hw) (line : Nat) (self : Option Nat) : Bool :=
  let x := h.slice (sliceOf line)
  match (x.dirLook line).bind fun k => sfind k x.dir with
  | some e => (List.range 16).any fun p => e.sharers.getLsbD p && some p != self
  | none => decide (sget 0 line h.dirMem ≠ 0) && !h.others.isEmpty

/-- A dirty line reaches the slice from a holder: it is allocated at age 1 as M, or O while others hold the line; else it enters
the write-back buffer; false when neither has room (R225, R234). A line with an entry there is never put back in the Vat: the data replaces
the entry's, and waits while that is issued (R235). -/
def Hw.takeDirty (m : List Host.Cell) (h : Hw) (s line : Nat) : Hw × Bool :=
  let bad := h.poisoned line
  match h.wbbEntry s line with
  | some e => if e.issued then (h, false) else ((h.wbbAdd m s line bad).landed line, true)
  | none =>
    let st := if (h.sfForm s line).isSome || (h.localLine line && h.heldAway line none) then LSt.o else .m
    let r := h.vatAlloc m s line st 1 0 bad
    if r.2 then (r.1.landed line, true)
    else if (r.1.slice s).wbbFree.isSome then ((r.1.wbbAdd m s line bad).landed line, true) else (r.1, false)

/-- The filter holder that a requester is, if it is one. -/
def Requester.holder : Requester → Option Nat
  | .chamber c _ => some c
  | _ => none

def Hw.txn (h : Hw) (s line : Nat) : Option Txn := (h.slice s).txns.find? fun x => x.req.line == line

/-- A holder that has no copy any more leaves the filter entry; the entry stays for the holder that a request of the line is for, and while its way
is being taken over (R227, R228). -/
def Hw.sfGone (h : Hw) (s line holder : Nat) : Hw :=
  match h.sfForm s line with
  | none => h
  | some f => match f.del holder, (h.txn s line).bind fun x => x.req.src.holder with
    | none, some c => h.sfSet s line (some (.one c false))
    | none, none => if (h.slice s).txns.any fun y => !y.started && y.victimLine == line then h else h.sfSet s line none
    | g, _ => h.sfSet s line g

/-- A writeback or eviction notice of a chamber is handled (R225); false when it must wait. -/
def Hw.takeWriteback (m : List Host.Cell) (h : Hw) (s c line : Nat) (dirty : Bool) : Hw × Bool :=
  let h1 := h.sfGone s line c
  if dirty then (let r := h1.takeDirty m s line; if r.2 then r else (h, false)) else (h1, true)

/-- The writeback left its buffer: an entry of the chamber's writeback buffer is free, and so is its credit (R202, R237). -/
def Hw.wbAccepted (h : Hw) (s c line : Nat) : Hw :=
  (h.updChamber c fun x => { x with wbuf := x.wbuf.filter (fun p => p.1 != line), vms := sdel line x.vms }).freeEntry 7 c s

/-- A chamber's line leaves L2 toward its slice: L1 copies go, and it enters the writeback buffer; false when that is full
(R200, R202). -/
def Hw.l2Evict (h : Hw) (c line : Nat) : Hw × Bool :=
  if 16 ≤ (h.chamber c).wbuf.length then (h, false)
  else
    let r := h.l2Remove c line
    (r.1.updChamber c fun x => { x with wbuf := x.wbuf ++ [(line, r.2, false)] }, true)

/-- Entries of a chamber's writeback buffer leave for their slices as credits allow (R237, R238). Dirty data is Cream where a reservation of the
VMID whose miss brought the line has a token (R297, R298; DESIGN CHOICE, log 133). -/
def Hw.pumpWb (h : Hw) (c : Nat) : Hw :=
  ((h.chamber c).wbuf).foldl (fun h p =>
    let s := sliceOf p.1
    if p.2.2 || !h.hasCredit 7 c s then h
    else
      let g := if p.2.1 then h.regulateT c (sfind p.1 (h.chamber c).vms) false p.1 else (h, false)
      ((g.1.useCredit 7 c s).send (if g.2 then vcCdata else vcData) (chamberStop c) (chamberStop s) (.wback s c p.1 p.2.1)).updChamber c fun x =>
      { x with wbuf := x.wbuf.map fun q => if q.1 = p.1 then (q.1, q.2.1, true) else q }) h

/-- A dirty line of a chamber is on its way to the slice (R202, R236). -/
def Hw.wbInFlight (h : Hw) (c line : Nat) : Bool := (h.chamber c).wbuf.any fun p => p.1 == line && p.2.1

/-- A request goes to every position that a route leads to; none while tags are wanting (R359). -/
def Hw.askAll (h : Hw) (ps : List Nat) (ask : Hw → Nat → Option Hw) : Option Hw :=
  ps.foldl (fun o p => o.bind fun h => match ask h p with
    | some h1 => some h1
    | none => if h.freeGTag.isNone then none else some h) (some h)

/-! ### Requests and transactions -/

/-- Every other copy goes before the request is done (R229). -/
def ReqKind.unique : ReqKind → Bool
  | .readShared | .read _ _ => false
  | _ => true

/-- The permissions that a request needs of the region checkers: X 4, W 2, R 1 (R396). -/
def SReq.need (r : SReq) : Nat :=
  if r.fetch then 4
  else match r.kind with
    | .readShared | .read _ _ => 1
    | .far _ => 3
    | _ => 2

def Hw.updTxn (h : Hw) (s line : Nat) (f : Txn → Txn) : Hw :=
  h.updSlice s fun x => { x with txns := x.txns.map fun y => if y.req.line = line then f y else y }

def Hw.endTxn (h : Hw) (s line : Nat) : Hw :=
  (h.updSlice s fun x => { x with txns := x.txns.filter fun y => y.req.line != line }).landed line

/-- An uncorrectable line ends the request with ERR 5: far atomics and engines; others take it as poisoned (R256, R274, R327). -/
def SReq.needsGood (r : SReq) : Bool :=
  match r.kind, r.src with
  | .far _, _ => true
  | _, .eng _ _ => true
  | _, _ => false

/-- Nothing that a transaction has sent for is awaited, besides memory or the home. -/
def Txn.settled (x : Txn) : Bool :=
  x.victims.isEmpty && x.started && x.unsent.isEmpty && x.snoops.isEmpty && x.remote.isEmpty && x.wbWait.isEmpty && !x.wr

/-! ### Snoops of holders (R227 to R229, R236) -/

/-- The holders of the node that a request has snooped (R227, R229). At a proxy slice a read shared seeks any copy when no holder owns the
line. -/
def snoopsFor (f : Option SfForm) (unique home : Bool) (self : Option Nat) : List Nat :=
  match f with
  | none => []
  | some f =>
    let hs := f.holders.filter fun x => some x != self
    if unique then hs
    else match f.owner with
      | some o => if some o = self then [] else [o]
      | none => if home then [] else hs

/-- The holder that a request leaves alone: the requester, and for a write-through store its own chamber, whose copies take the bytes too
(R186; DESIGN CHOICE, log 156). -/
def SReq.spared (r : SReq) : Option Nat :=
  match r.src with
  | .core t (.store _ _ _ .wt) => some (t / 16)
  | x => x.holder

/-- The mode of a snoop: 1 to invalidate; 2 to share and give up ownership, where the new holder makes the entry wide, which holds only S
copies (R227); 0 to share. -/
def snoopMode (f : Option SfForm) (unique : Bool) (self : Option Nat) : Nat :=
  if unique then 1
  else match f, self with
    | some (.two a b (some _)), some c => if c = a ∨ c = b then 0 else 2
    | _, _ => 0

/-- The stop of a holder: a chamber, or a PCIe/CXL port (R227). -/
def holderStop (c : Nat) : Nat := if c < 72 then chamberStop c else portStop (c - 72)

/-- A snoop leaves for a holder when its credit is free (R237, R238). -/
def Hw.snoopSend (h : Hw) (s c line mode : Nat) : Option Hw :=
  if h.hasCredit 6 s c then
    some ((h.useCredit 6 s c).send vcSnp (chamberStop s) (holderStop c) (.snoop c s line mode))
  else none

/-- Snoops of a transaction that still want a credit are sent as credits allow. -/
def Hw.sendSnoops (h : Hw) (s : Nat) (x : Txn) : Hw :=
  x.unsent.foldl (fun h c =>
    let r := if x.started then
        h.snoopSend s c x.req.line (snoopMode (h.sfForm s x.req.line) x.req.kind.unique x.req.src.holder)
      else h.snoopSend s c x.victimLine 1
    match r with
    | some h1 => h1.updTxn s x.req.line fun y => { y with unsent := y.unsent.filter (· != c) }
    | none => h) h

/-- The same for a snoop of another member's home. -/
def Hw.sendProxySnoops (h : Hw) (s : Nat) (p : ProxySnoop) : Hw :=
  p.unsent.foldl (fun h c =>
    match h.snoopSend s c p.line (b2n p.inv) with
    | some h1 => h1.updSlice s fun x => { x with snps := x.snps.map fun q =>
        if q.line = p.line ∧ q.msg.tag = p.msg.tag then { q with unsent := q.unsent.filter (· != c) } else q }
    | none => h) h

/-- A snoop acts on a chamber. Invalidating, it drops the line; else it leaves O in place of M, or S when ownership is given up, and S in
place of E. The answer (R236): 0 no copy, 1 dirty data, 2 a writeback in flight, 3 clean data, 4 dirty data of a line in O, 5 dirty data with
ownership. A chamber stopped by a fatal error is isolated: "no copy", or poisoned dirty data where the filter says that it owns the line
(R487). -/
def Hw.snoopHolder (h : Hw) (c line mode : Nat) : Hw × Nat :=
  if (h.chamber c).stopped then
    (if (h.sfForm (sliceOf line) line).bind SfForm.owner = some c then ((h.l2Remove c line).1.carry line true, 1)
      else ((h.l2Remove c line).1, 0))
  else if h.wbInFlight c line then (h, 2)
  else match h.l2Line c line with
    | none => (h, 0)
    | some l0 =>
      if mode = 1 then
        let r := h.l2Remove c line
        (if r.2 ∨ l0.st = .s then r.1 else r.1.carry line l0.bad, if r.2 then (if l0.st = .o then 4 else 1) else if l0.st = .s then 0 else 3)
      else
        let h1 := forN 0 4 (fun i h => (h.l1Wb (4 * c + i) line).l1dShare (4 * c + i) line) h
        match h1.l2Line c line with
        | some l =>
          let d := l.st == .m || l.st == .o
          ((h1.setL2 c line fun x => { x with st := if d ∧ mode = 0 then .o else .s }).carry line l.bad, if !d then 3 else if mode = 2 then 5 else if l0.st = .o then 4 else 1)
        | none => (h1, 0)

/-- The snoops that wait at a holder. -/
def Hw.snoopsAt (h : Hw) (c : Nat) : List (Nat × Nat × Nat) := if c < 72 then (h.chamber c).snoops else sget [] (c - 72) h.portSnoops

/-- A fill of a line is on its way to a chamber, or waits there for its place. -/
def Hw.fillComing (h : Hw) (c line : Nat) : Bool :=
  let isTo := fun (p : Payload) (r : Nat) => match p with | .fill d q _ _ _ _ _ => d == c && q == r | _ => false
  (h.chamber c).miss.any fun p => p.2.line == line && (p.2.ready || h.flits.any (fun f => isTo f.payload p.1)
    || (sget [] c h.awayQ).any fun q => isTo q.2 p.1)

/-- The snoop that a slice sent and that waits at a holder acts there, and its answer leaves (R229). `victim` selects back-invalidations. A snoop
that met its holder before the fill it follows waits for that. A port has no copy: no CXL.cache device takes one (log 78). -/
def Hw.actSnoop (h : Hw) (s c : Nat) (victim : Bool) : Hw :=
  let isV := fun l => (h.slice s).txns.any fun y => !y.started && y.victimLine == l && !y.victims.isEmpty
  match (h.snoopsAt c).find? fun p => p.1 == s && isV p.2.1 == victim && !(decide (c < 72) && h.fillComing c p.2.1) with
  | none => h
  | some p =>
    let h1 := if c < 72 then h.updChamber c fun x => { x with snoops := x.snoops.erase p }
      else { h with portSnoops := supd [] (c - 72) (fun q => q.erase p) h.portSnoops }
    let r := if c < 72 then h1.snoopHolder c p.2.1 p.2.2 else (h1, 0)
    (r.1.freeEntry 6 s c).send vcRsp (holderStop c) (chamberStop s) (.snpAns s c p.2.1 r.2)

/-- No holder owns the line any more. -/
def SfForm.ownless : SfForm → SfForm
  | .one a _ => .one a false
  | .two a b _ => .two a b none
  | f => f

def Hw.sfOwnless (h : Hw) (s line : Nat) : Hw :=
  match h.sfForm s line with
  | some f => h.sfSet s line (some f.ownless)
  | none => h

/-! ### Answers to requests (R25, R229, R237) -/

/-- A refusal by the region checkers is reported to whom it concerns; the requester hears of it with its answer, with which a
thread's is reported (R25, R400, R510). -/
def Hw.refuseReq (h : Hw) (r : SReq) : Hw :=
  let at_ := match r.kind with
    | .write o => o.pa
    | .far o => o.pa
    | .read off _ => w64 (r.line * 64 + off)
    | _ => w64 (r.line * 64)
  match r.src with
  | .gallery k _ _ _ | .gfar k _ => h.incident 0x50 3 at_ 0 (blockId 4 k) false
  | .pass k _ => h.incident 0x50 4 at_ 0 (blockId 4 k) false
  | .port k => h.incident 0x50 1 at_ 0 (blockId 4 k) (h.portSecure k)
  | .eng e _ => h.incident 0x50 2 at_ 0 (blockId 1 e) r.acc.secure
  | .router _ => h.incident 0x50 6 at_ 0 (blockId 5 0) r.acc.secure
  | _ => h

/-- The completion that a request of a root port gets; none for a posted write (R25, R253). An error completes as Completer Abort where it is
a far atomic's or a refusal, else as an Unsupported Request (log 79). -/
def portCpl (r : SReq) (err : Nat) (bad : Bool) (v old : Vec) : Option Cpl :=
  match r.kind with
  | .read off len => some (if err = 0 then ⟨0, bad, vbytes v off len⟩ else ⟨if err = 3 then 4 else 1, false, []⟩)
  | .far o => some (if err = 0 then ⟨0, false, vbytes old 0 o.len⟩ else ⟨4, false, []⟩)
  | _ => none

/-- The answer to a request that takes no copy leaves its slice (R25, R55, R256, R370). -/
def Hw.answerReq (m : List Host.Cell) (h : Hw) (s : Nat) (x : Txn) : Hw :=
  let r := x.req
  let at_ := chamberStop s
  let v := lineVal m h r.line
  let bad := h.poisoned r.line
  let vc := fun (data : Bool) => if r.cream then vcCdata else if data then vcData else vcRsp
  match r.src with
  | .core _ who =>
    (match r.kind with
     | .read off len => h.answerCore at_ r.cream who (w64 (r.line * 64 + off)) (vput 0 0 (vbytes v off len)) (if x.err = 0 ∧ bad then 2 else x.err)
     | .far _ => h.answerCore at_ r.cream who (w64 (r.line * 64)) x.old x.err
     | _ => h.answerCore at_ r.cream who (w64 (r.line * 64)) 0 x.err)
  | .far t id ret => h.send (vc ret) at_ r.src.stop (.farAns t id x.old x.err)
  | .gfar _ g =>
    if x.err ≠ 0 then h.galAnswer at_ 0x35 g 0 (x.err - 1) false 0
    else if g.arg.toNat % 2 = 1 then h.galAnswer at_ 0x34 g 0 0 false x.old else h.galAnswer at_ 0x31 g 0 0 false 0
  | .pass _ p =>
    if x.err ≠ 0 then h.passAnswer at_ 6 p (x.err - 1) false 0
    else (match r.kind with
      | .read _ _ => h.passAnswer at_ 3 p 0 bad v
      | .far _ => if p.ret then h.passAnswer at_ 5 p 0 false x.old else h.passAnswer at_ 4 p 0 false 0
      | _ => h.passAnswer at_ 4 p 0 false 0)
  | .port k => match portCpl r x.err bad v x.old with
    | some c => h.send (vc (!c.data.isEmpty)) at_ (portStop k) (.cpl k c)
    | none => h
  | .router n =>
    (match r.kind with
     | .read off len => h.send vcData at_ (blockStop .router) (.rtrAns n (vput 0 0 (vbytes v off len)) (if x.err = 0 ∧ bad then 2 else x.err))
     | _ => h.send vcData at_ (blockStop .router) (.rtrAns n x.old x.err))
  | .eng e why => h.send (vc (match r.kind with | .read _ _ => true | _ => false)) at_ (chamberStop e) (.engAns e why v bad x.err)
  | _ => h

/-- What this node knows of a line of another node goes with its last copy. -/
def Hw.forget (h : Hw) (line : Nat) : Hw :=
  if h.localLine line || h.nodeHas line then h
  else { h with newest := sdel line h.newest, under := sdel line h.under, carried := sdel line h.carried }

/-- A request that takes no copy is done: its answer leaves and its entry is free (R237). A read that finds the line in the Vat sets its age to 0
(R222). -/
def Hw.finish (m : List Host.Cell) (h : Hw) (s : Nat) (x : Txn) : Hw :=
  let h1 := match x.req.kind with | .read _ _ => if x.err = 0 then h.vatHit s x.req.line else h | _ => h
  (((h1.answerReq m s x).freeReq s x.req).endTxn s x.req.line).forget x.req.line

/-- What the Vat keeps of a line that a core of this node is given (R222, R225): a hit sets age 0, and the copy of a line taken for ownership
gives its dirty data away; a fill from memory, the home or another node's owner is allocated at age 2. -/
def Hw.vatGive (m : List Host.Cell) (h : Hw) (s : Nat) (x : Txn) (excl : Bool) : Hw :=
  let line := x.req.line
  match h.vatLine s line with
  | some w =>
    if !x.req.kind.unique then h.vatHit s line
    else if x.req.kind = .upgrade then (h.vatHit s line).vatSetSt s line (if w.st = .o then .m else if w.st = .s then .e else w.st)
    else if w.st = .m ∨ w.st = .o then h.vatDrop s line
    else (h.vatHit s line).vatSetSt s line .e
  | none =>
    if !(x.came || x.away) || x.req.kind = .upgrade then h
    else (h.vatAlloc m s line (if x.req.kind.unique then .e else if x.dirty || x.away then .o else if excl then .e else .s) 2 0 (h.poisoned line)).1

/-- A request for a copy is answered (R229): what the holders, the Vat and the other nodes leave decides the state that the requester
receives. The tag of a Gallery requester is 4,096 higher when it asked for ownership without data (OWN, R360), and 8,192 higher when it asked
for an upgrade, which gets no data while the directory names it as a sharer. -/
def Hw.reply (m : List Host.Cell) (h : Hw) (s : Nat) (x : Txn) : Hw :=
  let line := x.req.line
  let err := x.err
  let unique := x.req.kind.unique
  let vdirty := match h.vatLine s line with | some w => w.st == .m || w.st == .o | none => false
  let others := match h.sfForm s line with
    | some f => f.holders.any fun y => some y != x.req.src.holder
    | none => false
  match x.req.src with
  | .chamber c reg =>
    let alone := !others && (if h.localLine line then !h.heldAway line none else if x.came then !x.shared else h.vatOwns line)
    let granted := unique || alone
    let dirty := x.dirty || (vdirty && x.req.kind != .upgrade)
    let bad := h.poisoned line
    let h1 := if err ≠ 0 then h else h.vatGive m s x alone
    let h2 := if err ≠ 0 then (if (h1.l2Line c line).isSome then h1 else h1.sfDel s line c)
      else match h1.sfForm s line with
        | some f => h1.sfSet s line (some (if unique then .one c true else f.add c granted))
        | none => h1.updSlice s fun y => { y with sf := sset (y.sfPlace line).1 ⟨line, .one c granted⟩ y.sf }
    let h3 := h2.send (if x.req.cream then vcCdata else vcData) (chamberStop s) (chamberStop c)
      (.fill c reg granted (unique && dirty) (h.lineOwner line) bad err)
    (h3.freeReq s x.req).endTxn s line
  | .gallery _ spos tag _ =>
    let at_ := chamberStop s
    let g : GMsg := ⟨0, 0, spos, tag % 4096, BitVec.ofNat 42 line, h.poisoned line, 0, 0, lineVal m h line, 0⟩
    if err ≠ 0 then ((h.galAnswer at_ 0x35 { g with spos := spos } 0 (err - 1) false 0).freeReq s x.req).endTxn s line
    else
      let away := unique || (!others && !h.heldAway line (some spos) && (h.vatLine s line).isNone)
      let h1 := if unique then (h.vatDrop s line).sfSet s line none else h.vatHit s line
      let h2 := if away && (h1.wbbEntry s line).isNone then { h1 with newest := sdel line h1.newest, under := sdel line h1.under } else h1
      let h3 := h2.dirGive line spos away
      let st := if unique then (if x.dirty || vdirty then 4 else 2) else if away then 2 else 1
      let noData := tag / 4096 == 1 || (tag / 4096 == 2 && h.dirHas line spos)
      let h4 := h3.galAnswer at_ (if noData then 0x31 else 0x30) { g with spos := spos } st 0 (!noData && h.poisoned line)
        (if noData then 0 else lineVal m h line)
      (h4.freeReq s x.req).endTxn s line
  | _ => h.finish m s x

/-! ### Writes and far atomics performed at a slice (R225, R226, R235, R251) -/

/-- A write of bytes at an address within one line. -/
def lineWrite (pa : Word) (len : Nat) (data : Vec) (poison : Bool) (mt : MemType) : LineOp :=
  ⟨pa, len, data, poison, 0, 0, mt, maskOf (pa.toNat % 64) len⟩

/-- A far atomic on size bytes (R252): operand, operation, expected value, type. -/
def farOp (pa : Word) (size : Nat) (data : Vec) (op : Nat) (exp : Vec) (mt : MemType) : LineOp :=
  ⟨pa, size, data, false, op, exp, mt, maskOf (pa.toNat % 64) size⟩

/-- What a write leaves in a line. -/
def LineOp.merged (o : LineOp) (v : Vec) : Vec := vmerge v (vput 0 (o.pa.toNat % 64) (vbytes o.data 0 o.len)) o.mask

/-- Ways of a set that lines written from link ports hold, of one port or of all (R226); a line's own way is not counted. -/
def Hw.ioWays (h : Hw) (s line : Nat) (p : Nat → Bool) : List (Nat × VatWay) :=
  (h.slice s).ways.filter fun w => decide (w.1 / 24 = vatSet line) && w.2.line != line && p w.2.origin

/-- A line that a link port writes finds its way: its own, a free or other one within the quota of port k and the cap of all ports, else
that of the port's line of highest age; none when it is to go to memory (R222, R226). -/
def Hw.ioAlloc (m : List Host.Cell) (h : Hw) (s line k : Nat) (bad : Bool) : Hw × Bool :=
  let quota := h.regF (vatReg s (0x100 + 8 * k)) 3 0
  let cap := h.regF (vatReg s 0x90) 4 0
  let mine := h.ioWays s line (· == k + 1)
  let all := h.ioWays s line (· != 0)
  let own := match h.vatLine s line with | some w => w.origin == k + 1 | none => false
  if quota = 0 then (h, false)
  else if own || (decide (mine.length < quota) && decide (all.length < cap)) then h.vatAlloc m s line .m 2 (k + 1) bad
  else match mine.filter fun w => (h.slice s).eligible w.1 with
    | [] => if mine.isEmpty then (h, false) else (h.vatCount s 0x210, false)
    | w :: ws =>
      let old := ws.foldl (fun (a : Nat × VatWay) b => if a.2.age < b.2.age then b else a) w
      let dirty := old.2.st == .m || old.2.st == .o
      if dirty && (h.slice s).wbbFree.isNone then (h.vatCount s 0x210, false)
      else
        let h1 := if dirty then h.wbbAdd m s old.2.line old.2.bad else h
        ((h1.vatDrop s line).updSlice s fun x => { x with ways := sset old.1 ⟨line, .m, 2, k + 1, bad⟩ x.ways }, true)

/-- The link port that a request came by, whose quota its writes have (R225, R226). -/
def Requester.ioPort : Requester → Option Nat
  | .port k => some k
  | .pass k _ => some k
  | _ => none

/-- The result leaves for memory: it takes the place of the line's unissued entry, or a new entry (R234, R235). None while the line's entry
is issued, or the buffer is full. -/
def Hw.toMemory (h : Hw) (s line : Nat) (v : Vec) (bad : Bool) : Option Hw :=
  match h.wbbEntry s line with
  | some e => if e.issued then none else
      some ((h.vatDrop s line).updSlice s fun x =>
        { x with wbb := x.wbb.map fun p => if p.2.line = line then (p.1, { p.2 with data := v, bad := bad }) else p })
  | none => if (h.slice s).wbbFree.isNone then none else some ((h.vatDrop s line).wbbPut s line v bad)

/-- A write whose line is this node's, or owned by it, is performed (R225, R226, R235, R360): on the line's entry of the write-back buffer; in
the Vat within its port's quota, or where the Vat holds the line for a core's access that allocates none (R186); else in memory by a new entry.
A write of the whole line clears poison, a partial one keeps it (R327). None while it must wait. A line of another member is never allocated. -/
def Hw.writeLine (m : List Host.Cell) (h : Hw) (s : Nat) (r : SReq) (o : LineOp) : Option Hw :=
  let line := r.line
  let v := o.merged (lineVal m h line)
  let bad := o.poison || (h.poisoned line && decide (o.mask ≠ BitVec.allOnes 64))
  let put := fun (h : Hw) => (h.setNewest line v).landed line
  let core := match r.src with | .core _ _ => true | _ => false
  match h.wbbEntry s line, (if h.localLine line then r.src.ioPort else none) with
  | none, some k =>
    let a := h.ioAlloc m s line k bad
    if a.2 then some (put a.1) else (put a.1).toMemory s line v bad
  | none, none =>
    if core && (h.vatLine s line).isSome then some (put (h.vatAlloc m s line .m 0 0 bad).1) else (put h).toMemory s line v bad
  | some _, _ => (put h).toMemory s line v bad

/-- A write by an engine is done only when the line has reached memory or its home; a link port's when it is ordered there (R63, R271). -/
def Requester.awaitsMemory : Requester → Bool
  | .eng _ _ => true
  | _ => false

/-- A request goes over a Passage port (R20 row 3, R66). -/
def Hw.isFar (h : Hw) (r : SReq) : Bool := !h.localLine r.line && r.home.isNone

/-- A transaction that has its data, or its error, or its answer from another node, goes to its end. A far atomic of this node's line waits
for its engine (R254); what is out to memory waits for it. -/
def Hw.conclude (m : List Host.Cell) (h : Hw) (s : Nat) (x : Txn) : Hw :=
  match x.req.kind with
  | .readShared | .readUnique | .upgrade => h.reply m s x
  | .read _ _ => h.finish m s x
  | .cmo _ => h
  | .far _ => if x.err ≠ 0 ∨ !h.localLine x.req.line then h.finish m s x else h.updTxn s x.req.line fun y => { y with came := true }
  | .write o =>
    if x.err ≠ 0 ∨ h.isFar x.req then h.finish m s x
    else match h.writeLine m s x.req o with
      | none => h
      | some h1 =>
        if x.req.src.awaitsMemory then h1.updTxn s x.req.line fun y => { y with wr := true }
        else h1.finish m s x

/-! ### How a transaction goes on (R228 to R236) -/

/-- The line's data, or for a write of a whole line the right to it, is in this node once its snoops are answered (R229, R235). A clean copy
that a write invalidated is not used. At a proxy slice a request for ownership is answered only where the Vat owns the line (R229). -/
def Hw.able (h : Hw) (s : Nat) (x : Txn) : Bool :=
  let line := x.req.line
  let vat := (h.vatLine s line).isSome
  let wbb := (h.wbbEntry s line).isSome
  if h.localLine line then
    match x.req.kind with
    | .write o => decide (o.mask = BitVec.allOnes 64) || x.dirty || vat || wbb
    | .upgrade => x.dirty || x.got || vat || wbb || (match x.req.src with | .chamber c _ => (h.l2Line c line).isSome | _ => true)
    | _ => x.dirty || x.got || vat || wbb
  else if x.req.home.isNone then false
  else match x.req.kind with
    | .far _ => false
    | k => if k.unique then h.vatOwns line else x.dirty || x.got || vat || wbb

/-- Snoops of members that no route leads to (R365): "no copy" where memory is current, poisoned dirty data where it may be stale. -/
def Hw.snoopLost (h : Hw) (line : Nat) (lost : List Nat) : Hw :=
  let x := h.slice (sliceOf line)
  let stale := match (x.dirLook line).bind fun k => sfind k x.dir with
    | some e => (e.summary == 2 || e.summary == 3) && lost.contains e.owner
    | none => decide (2 ≤ sget 0 line h.dirMem)
  if !lost.isEmpty && stale then h.carry line true else h

/-- A transaction starts (R227 to R233): the holders of this node and the members that hold the line are to be snooped. It does not start while
tags are wanting. A victim hit is counted here (R235). -/
def Hw.startTxn (h : Hw) (s : Nat) (x : Txn) : Hw :=
  let line := x.req.line
  let home := h.localLine line
  let started := fun (h : Hw) (sn rs : List Nat) =>
    h.updTxn s line fun y => { y with started := true, unsent := sn, snoops := sn, remote := rs }
  let away := h.isFar x.req || (!home && match x.req.kind with | .far _ => true | _ => false)
  if away then started h [] []
  else
    let sn := snoopsFor (h.sfForm s line) x.req.kind.unique home x.req.spared
    let rs := if home then h.remoteSnoops line x.req.kind.unique else ([], false)
    let rs' := match x.req.src with
      | .gallery _ sp _ _ => rs.1.filter (· != sp)
      | _ => rs.1
    let there := fun p => (h.route p).isSome || (h.holdsFor p).isSome
    match h.askAll (rs'.filter there) fun h p => h.galReq (.line s line) (if x.req.kind.unique then 0x11 else 0x10) p line 0 false 0 0 with
    | none => h
    | some h1 =>
      let h2 := if rs.2 then h1.vatCount s 0x218 else h1
      let h3 := if (h2.wbbEntry s line).isSome then h2.vatCount s 0x200 else h2
      started (h3.snoopLost line (rs'.filter fun p => !there p)) sn (rs'.filter there)

/-- The OP of R360 with which a proxy slice asks the home; `has` that the node has the line's data already. -/
def ReqKind.galOp (has : Bool) : ReqKind → Nat
  | .readShared | .read _ _ => 0x01
  | .upgrade => 0x03
  | .readUnique => if has then 0x03 else 0x02
  | .write o => if o.mask = BitVec.allOnes 64 then 0x04 else if has then 0x03 else 0x02
  | .far _ => 0x05
  | _ => 0x02

/-- Memory, the home node, or a remote node is asked for what this node does not have (R224, R229, R234, R319, R368). -/
def Hw.ask (m : List Host.Cell) (h : Hw) (s : Nat) (x : Txn) : Hw :=
  let line := x.req.line
  let who := Waiter.line s line
  let asked := fun (h : Hw) => h.updTxn s line fun y => { y with asked := true }
  let gone := h.conclude m s { x with err := 4 }
  if h.localLine line then
    if cxlLine line then
      (h.updTxn s line fun y => { y with came := true }).conclude m s { x with came := true }
    else
      let mc := match h.poolDie line with
        | some p => if x.poolMiss then h.mcOf line else 12 + p
        | none => h.mcOf line
      let c : Nat × Nat := if x.req.cream then (12, s / 18) else (9, s)
      if h.hasCredit c.1 c.2 mc then
        asked ((h.useCredit c.1 c.2 mc).send (if x.req.cream then vcCreq else vcReq) (chamberStop s) (mcStop mc line)
          (.memRead mc s line x.req.acc))
      else h
  else match x.req.home with
    | some p =>
      if (h.wbbEntry s line).any fun e => e.issued then h
      else
        let has := x.dirty || x.got || (h.vatLine s line).isSome || (h.wbbEntry s line).isSome
        let r := match x.req.kind with
          | .far o => h.galReqE who 0x05 p (line % 2 ^ 42) (farArg (decide (o.len = 4)) o.op o.len true o.pa o.mt) false 0 o.data o.exp
          | k => h.galReq who (k.galOp has) p (line % 2 ^ 42) 0 false 0 0
        match r with
        | some h1 => asked h1
        | none => if (h.route p).isNone && (h.holdsFor p).isNone then gone else h
    | none =>
      let r := match x.req.kind with
        | .far o => h.passReqE who 2 o.op o.len true false o.pa o.data o.exp
        | .write o => h.passReqE who 1 0 o.len false o.poison o.pa (vput 0 (o.pa.toNat % 64) (vbytes o.data 0 o.len)) 0
        | .read off len => h.passReq who 0 0 len false (w64 (line * 64 + off)) 0
        | _ => none
      match r with
      | some h1 => asked h1
      | none => if h.passUp.isEmpty then gone else h

/-- The directory entry that a Gallery request needs is to be had once the entry of a CXL-window line has gone (R233): its sharers are
invalidated first. None when nothing stands in the way. -/
def Hw.dirRoom (h : Hw) (s : Nat) (x : Txn) : Option Hw :=
  match x.req.src, h.dirVictim x.req.line with
  | .gallery _ _ _ _, some v =>
    let who := Waiter.line s v.line
    if h.gtags.any fun p => p.2.who == who then some h
    else
      let there := h.others.filter fun p => v.sharers.getLsbD p && (h.route p).isSome
      if there.isEmpty then some (h.dirClear v.line)
      else some ((h.askAll there fun h p => h.galReq who 0x11 p v.line 0 false 0 0).getD h)
  | _, _ => none

/-- A transaction goes on as far as it can (R229, R230): victims, snoops, data, answer. -/
def Hw.advance (m : List Host.Cell) (h : Hw) (s line : Nat) : Hw :=
  match h.txn s line with
  | none => h
  | some x =>
    if x.wr then (if (h.wbbEntry s line).isNone then h.finish m s x else h)
    else if !x.victims.isEmpty then h.sendSnoops s x
    else
      let h1 := if x.started then h else h.startTxn s x
      match h1.txn s line with
      | none => h1
      | some x =>
        let h2 := h1.sendSnoops s x
        match h2.txn s line with
        | none => h2
        | some x =>
          if !x.settled then h2
          else match h2.dirRoom s x with
            | some h3 => h3
            | none =>
              if x.unread then h2.conclude m s { x with came := true, err := if h2.able s x ∨ !x.req.needsGood then 0 else 6 }
              else if x.err ≠ 0 ∨ x.came ∨ (!x.asked ∧ h2.able s x) then h2.conclude m s x
              else if x.asked then h2
              else h2.ask m s x

/-- An operation performed in one step at a line's home first calls back what the other members hold (R231 to R233): every copy when
`excl`, else an owner's. None when there is nothing to call back; else the state with the snoops out, and the operation waits. -/
def Hw.recall (h : Hw) (line : Nat) (excl : Bool) : Option Hw :=
  let who := Waiter.line (sliceOf line) line
  let rs := h.remoteSnoops line excl
  let there := rs.1.filter fun p => (h.route p).isSome || (h.holdsFor p).isSome
  if !h.localLine line || there.isEmpty then none
  else if h.gtags.any fun p => p.2.who == who then some h
  else some (match h.askAll there fun h p => h.galReq who (if excl then 0x11 else 0x10) p line 0 false 0 0 with
    | some h1 => if rs.2 then h1.vatCount (sliceOf line) 0x218 else h1
    | none => h)

/-- Every transaction of a slice tries to go on. -/
def Hw.pumpSlice (m : List Host.Cell) (h : Hw) (s : Nat) : Hw :=
  ((h.slice s).txns.map fun x => x.req.line).foldl (fun h l => h.advance m s l) h

/-- Every slice with transactions tries to go on: a tag is free again, or a route has changed. -/
def Hw.pumpAll (m : List Host.Cell) (h : Hw) : Hw :=
  ((h.slices.filter fun p => !p.2.txns.isEmpty).map (·.1)).foldl (fun h s => h.pumpSlice m s) h

/-- A filter entry whose holders are back-invalidated becomes the entry of the line that took its way (R228). -/
def Hw.sfTurn (h : Hw) (s old : Nat) (r : SReq) : Hw :=
  h.updSlice s fun x => { x with sf := x.sf.map fun p =>
    if p.2.line = old then (p.1, match r.src.holder with | some c => ⟨r.line, .one c false⟩ | none => p.2) else p }

/-- A request of a slice's intake is taken: judged, given a filter entry's victim if it needs one, and begun (R228 to R230,
R396). -/
def Hw.begin (m : List Host.Cell) (h : Hw) (s : Nat) (r : SReq) : Hw :=
  let h1 := h.updSlice s fun x => { x with intake := x.intake.erase r }
  let x := Txn.begun r
  let add := fun (h : Hw) (x : Txn) => h.updSlice s fun y => { y with txns := y.txns ++ [x] }
  if h.localLine r.line && !h.judge r.acc (lineLocal r.line) r.need then
    let y := { x with err := 3 }
    (add (h1.refuseReq r) y).conclude m s y
  else
    match (if (h1.sfForm s r.line).isSome then none else r.src.holder) with
    | none => (add h1 x).advance m s r.line
    | some c =>
      let p := (h1.slice s).sfPlace r.line
      match p.2 with
      | none => (add (h1.updSlice s fun y => { y with sf := sset p.1 ⟨r.line, .one c false⟩ y.sf }) x).advance m s r.line
      | some v =>
        let hs := v.form.holders
        let h2 := ((add h1 { x with victimLine := v.line, victims := hs, unsent := hs }).updSlice s fun y =>
          { y with sfPtr := supd 0 (vatSet r.line) (fun p => (p + 1) % 16) y.sfPtr }).vatCount s 0x208
        (if hs.isEmpty then h2.sfTurn s v.line r else h2).advance m s r.line

/-- The requests of an intake that satisfy p and are blocked neither by a transaction or snoop of their line nor by an earlier request for
it (R230), in order of arrival. -/
def Slice.unblocked (x : Slice) (p : SReq → Bool) : List SReq :=
  x.intake.filter fun r => p r && !x.busy r.line
    && (match x.intake.find? fun q => q.line == r.line with | some q => q == r | none => true)

/-- The sender of a request, as deficit round-robin counts them (R294): its credit sender of R238. -/
def SReq.sender (r : SReq) : Nat := r.credit.1 * 128 + r.credit.2

/-- The request of an intake that is served next, and what deficit round-robin then stands at (R293, R294): Cream first in order of arrival
while its frames permit; then Whole; Skim, of weight 0, only while nothing else waits. -/
def Slice.nextReq (x : Slice) (cream : SReq → Bool) : Option (SReq × Nat × Nat) :=
  let cs := x.unblocked fun _ => true
  match (cs.find? fun r => r.cream).filter cream with
  | some r => some (r, x.drr)
  | none =>
    match drrPick x.drr ((cs.filter fun r => !r.cream && r.weight != 0).map fun r => (r.sender, r.weight)) with
    | some d => (cs.find? fun r => !r.cream && r.weight != 0 && r.sender == d.1).map fun r => (r, d)
    | none => if x.intake.all fun r => !r.cream && r.weight == 0 then cs.head?.map fun r => (r, x.drr) else none

/-- The frame limiters' keys of a slice's request intake and data intake, and of a link port's egress and ingress (R292). -/
def intakeKey (s : Nat) : Nat := 2048 + s
def dataKey (s : Nat) : Nat := 2176 + s
def egressKey (k : Nat) : Nat := 2304 + k
def ingressKey (k : Nat) : Nat := 2336 + k

/-- A request brings data, which takes a slot of the data intake too (R223, R292). -/
def SReq.brings (r : SReq) : Bool := match r.kind with | .write _ => true | _ => false

/-- A Cream request finds a slot in the frames of a slice's intake (R293). -/
def Hw.creamSlot (h : Hw) (s : Nat) (r : SReq) : Bool :=
  decide (sget 0 (intakeKey s) h.frames < h.cap) && (!r.brings || decide (sget 0 (dataKey s) h.frames < h.cap))

/-- A served request takes its slots, or its turn (R293, R294). -/
def Hw.countReq (h : Hw) (s : Nat) (r : SReq) (d : Nat × Nat) : Hw :=
  if r.cream then
    let f := supd 0 (intakeKey s) (· + 1) h.frames
    { h with frames := if r.brings then supd 0 (dataKey s) (· + 1) f else f }
  else h.updSlice s fun x => { x with drr := d }

/-- The request that a slice serves next, when it is of one kind, with its turn taken (R293, R294). -/
def Hw.nextOf (h : Hw) (s : Nat) (p : SReq → Bool) : Option (SReq × Hw) :=
  if numSlices ≤ s ∨ (h.slice s).stopped then none
  else match (h.slice s).nextReq (h.creamSlot s) with
    | some (r, d) => if p r then some (r, h.countReq s r d) else none
    | none => none

/-- A slice handles the request that it serves next, when that is of one kind. -/
def Hw.takeReq (m : List Host.Cell) (h : Hw) (s : Nat) (p : SReq → Bool) : Hw :=
  match h.nextOf s p with
  | some (r, h1) => h1.begin m s r
  | none => h

/-! ### Snoops of another member's home (R229, R236, R360) -/

/-- A snoop that has every answer is answered itself: dirty data of a holder, of the Vat, or of a write-back buffer entry that is not issued goes
to the home; "writeback in flight" where the entry is (R236). -/
def Hw.endSnoop (m : List Host.Cell) (h : Hw) (s : Nat) (p : ProxySnoop) : Hw :=
  let l := p.line
  let v := lineVal m h l
  let bad := h.poisoned l
  let vst := (h.vatLine s l).map (·.st)
  let e := h.wbbEntry s l
  let dirty := p.dirty || vst == some LSt.m || vst == some LSt.o || e.any fun e => !e.issued
  let h0 := h.updSlice s fun x => { x with wbb := x.wbb.filter fun e => e.2.line != l || e.2.issued }
  let h1 :=
    if p.inv then (((h0.sfSet s l none).vatDrop s l).forget l)
    else if vst == some LSt.m then h0.vatSetSt s l .o
    else if vst == some LSt.e then h0.vatSetSt s l .s
    else h0
  let h2 := (h1.updSlice s fun x => { x with snps := x.snps.filter fun q => !(q.line == l && q.msg.tag == p.msg.tag) }).landed l
  let at_ := chamberStop s
  let h3 := if e.any fun e => e.issued then h2.galAnswer at_ 0x33 p.msg 0 0 false 0
    else if dirty then h2.galAnswer at_ 0x32 p.msg 0 0 bad v else h2.galAnswer at_ 0x31 p.msg 0 0 false 0
  (h3.freeEntry 5 p.port s).pumpSlice m s

/-- Snoops of a proxy slice go on, unless it is stopped (R244). -/
def Hw.pumpSnoops (m : List Host.Cell) (h : Hw) (s : Nat) : Hw :=
  if (h.slice s).stopped then h else
  (h.slice s).snps.foldl (fun h p =>
    let h1 := h.sendProxySnoops s p
    match (h1.slice s).snps.find? fun q => q.line == p.line && q.msg.tag == p.msg.tag with
    | some q => if q.unsent.isEmpty && q.snoops.isEmpty && q.wbWait.isEmpty then h1.endSnoop m s q else h1
    | none => h1) h

/-- A snoop of the home at position SPOS reaches the proxy slice: a writeback of the line that is bound for the home is named, else every
holder is snooped (R227, R236). -/
def Hw.snoopIn (m : List Host.Cell) (h : Hw) (s port : Nat) (inv : Bool) (g : GMsg) : Hw :=
  match sfind g.spos h.group with
  | none => (h.galAnswer (chamberStop s) 0x31 g 0 0 false 0).freeEntry 5 port s
  | some n =>
    let l := n * 2 ^ 42 + g.line.toNat
    if (h.slice s).stopped then h.updSlice s fun x => { x with snps := x.snps ++ [⟨port, g, inv, l, [], [], [], false⟩] }
    else if (h.wbbEntry s l).any (fun e => e.issued) || h.gtags.any (fun p => p.2.op == 0x20 && p.2.msg.line == g.line && p.2.msg.dpos == g.spos) then
      (h.galAnswer (chamberStop s) 0x33 g 0 0 false 0).freeEntry 5 port s
    else
      let f := h.sfForm s l
      let hs := match f with
        | none => []
        | some f => if inv then f.holders else match f.owner with | some o => [o] | none => []
      (h.updSlice s fun x => { x with snps := x.snps ++ [⟨port, g, inv, l, hs, hs, [], false⟩] }).pumpSnoops m s

/-! ### Answers of holders (R228, R229, R236) -/

/-- Dirty data that an answer brings finds a place, or goes to memory or to its home without one (R225, R239). False while a home's tag is wanting,
or for the line of a CXL device while neither the Vat nor the write-back buffer has room. -/
def Hw.landDirty (m : List Host.Cell) (h : Hw) (s line : Nat) : Hw × Bool :=
  let r := h.takeDirty m s line
  if r.2 then r
  else
    let v := lineVal m h line
    let bad := h.poisoned line
    match h.homePos line with
    | some p => match r.1.galReq (.line s line) 0x20 p (line % 2 ^ 42) 0 bad 3 v with
      | some h1 => (h1.landed line, true)
      | none => (h, false)
    | none =>
      if cxlLine line then (h, false)
      else
        let mc := h.mcOf line
        (((r.1.post ⟨10, s, mc, vcData, chamberStop s, mcStop mc line, .memWrite mc s wbNoEntry line v bad⟩).poolDrop line).landed line, true)

/-- A writeback of a chamber's line has reached the slice: what waited for it goes on with its data (R236). -/
def Hw.wbArrived (m : List Host.Cell) (h : Hw) (s c line : Nat) (dirty : Bool) : Hw :=
  let h1 := h.updSlice s fun x => { x with
    txns := x.txns.map fun y =>
      if y.req.line = line then { y with wbWait := y.wbWait.filter (· != c), dirty := y.dirty || (dirty && y.wbWait.contains c && y.req.kind.unique) }
      else if !y.started ∧ y.victimLine = line ∧ y.wbWait.contains c then
        { y with wbWait := y.wbWait.filter (· != c), victims := y.victims.filter (· != c) }
      else y
    snps := x.snps.map fun p => if p.line = line then { p with wbWait := p.wbWait.filter (· != c) } else p }
  let h2 := match (h1.slice s).txns.find? fun y => !y.started && y.victimLine == line && y.victims.isEmpty with
    | some y => h1.sfTurn s line y.req
    | none => h1
  (h2.pumpSlice m s).pumpSnoops m s

/-- A holder's answer is taken (R228, R229, R236). -/
def Hw.takeAnswer (m : List Host.Cell) (h : Hw) (s c : Nat) : Hw :=
  match (h.slice s).answers.find? fun a => a.1 == c with
  | none => h
  | some (_, line, ans) =>
    let h1 := h.updSlice s fun x => { x with answers := x.answers.erase (c, line, ans) }
    let waits := decide (ans = 2) && h.wbInFlight c line
    let data := ans == 1 || ans == 4 || ans == 5
    match (h1.slice s).txns.find? fun y => !y.started && y.victimLine == line && y.victims.contains c with
    | some y =>
      if waits then h1.updTxn s y.req.line fun y => { y with wbWait := y.wbWait ++ [c] }
      else
        let left := y.victims.filter (· != c)
        let h2 := if left.isEmpty then h1.sfTurn s line y.req else h1.sfDel s line c
        let r := if data then h2.landDirty m s line else (h2, true)
        if !r.2 then h
        else (r.1.updTxn s y.req.line fun y => { y with victims := left }).advance m s y.req.line
    | none =>
      match (h1.slice s).snps.find? fun p => p.line == line && p.snoops.contains c with
      | some p =>
        let q := { p with snoops := p.snoops.filter (· != c), wbWait := if waits then p.wbWait ++ [c] else p.wbWait,
                          dirty := p.dirty || data }
        let h2 := if p.inv || ans == 0 then h1.sfDel s line c else if ans == 3 then h1.sfOwnless s line else h1
        (h2.updSlice s fun x => { x with snps := x.snps.map fun y => if y.line = line ∧ y.msg.tag = p.msg.tag then q else y }).pumpSnoops m s
      | none =>
        match h1.txn s line with
        | none => h1
        | some x =>
          let unique := x.req.kind.unique
          let h2 := if unique then (if waits then h1 else h1.sfGone s line c)
            else if ans = 0 then h1.sfGone s line c
            else if ans = 3 ∨ ans = 5 then h1.sfOwnless s line
            else h1
          let r := if ans = 5 ∧ !unique then h2.landDirty m s line else (h2, true)
          if !r.2 then h
          else
            (r.1.updTxn s line fun y =>
              { y with snoops := y.snoops.filter (· != c), wbWait := if waits then y.wbWait ++ [c] else y.wbWait,
                       dirty := y.dirty || (data && unique),
                       got := y.got || (if unique then ans == 1 || ans == 3 else data || ans == 3) }).advance m s line

/-- A writeback or eviction notice of a chamber waiting at a slice is handled (R225, R236). -/
def Hw.handleWb (m : List Host.Cell) (h : Hw) (s : Nat) (dirty : Bool) : Hw :=
  if numSlices ≤ s ∨ (h.slice s).stopped then h
  else match (h.slice s).wbIn.find? fun p => p.2.2 == dirty with
    | none => h
    | some (c, line, d) =>
      let r := h.takeWriteback m s c line d
      if r.2 then
        ((r.1.updSlice s fun x => { x with wbIn := x.wbIn.erase (c, line, d) }).wbAccepted s c line).wbArrived m s c line d
      else h

/-- Bytes of one line of another member are written by this node on behalf of `who` (R225, R360): written back at once when the Vat
owns the line; else the line is read unique, or owned without data for a full line, and the bytes wait with the tag (its ARG here:
first byte and length), to be merged and written back when the answer comes. False when no tag is free or no route leads there. -/
def Hw.memberStore (m : List Host.Cell) (h : Hw) (i : Nat) (who : Waiter) (pa : Word) (bs : Bytes) : Hw × Bool :=
  let l := lineNo pa
  let off := pa.toNat % 64
  if h.vatOwns l then
    let h1 := h.dropHolders l
    let v := vput (lineVal m h1 l) off bs
    match h1.galReq who 0x20 i (l % 2 ^ 42) 0 (h1.poisoned l && decide (bs.length < 64)) 4 v with
    | some h2 => (({ h2.vatDrop (sliceOf l) l with newest := sdel l h2.newest }).landed l, true)
    | none => (h, false)
  else
    match h.freeGTag, h.galReq who (if bs.length = 64 then 0x04 else 0x02) i (l % 2 ^ 42) 0 false 0 0 with
    | some tag, some h1 =>
      let keep := fun (x : GTag) => { x with msg := { x.msg with data := vput 0 off bs, arg := BitVec.ofNat 17 (off * 128 + bs.length) } }
      ({ h1 with gtags := h1.gtags.map fun p => if p.1 = tag then (p.1, keep p.2) else p }, true)
    | _, _ => (h, false)

/-- A read or an atomic of a block of this node on Normal write-back memory of the domain leaves for the slice of its line; none for an address
that is no such memory. -/
def Hw.domReq (h : Hw) (src : Requester) (k : ReqKind) (acc : Acc) (pa : Word) : Option Hw :=
  match h.decodePA pa with
  | .ok .ddr | .ok (.pool _) | .ok (.cxl _) | .ok (.group _) =>
    some (h.postReq (sliceOf (lineNo pa)) ⟨k, lineNo pa, src, acc, false, 16, false, h.homePos (lineNo pa)⟩)
  | _ => none

/-! ### Writes to memory (R234) -/

/-- A line's value reaches memory, with its poison (R327); if no newer value exists, the overlay entry ends. -/
def writeMem (line : Nat) (v : Vec) (bad : Bool) (p : List Host.Cell × Hw) : List Host.Cell × Hw :=
  let h := p.2.setPoison line bad
  (memPut (lineLocal line) (vbytes v 0 64) p.1,
   if sfind line h.newest = some v then { h with newest := sdel line h.newest } else h)

/-- A write-back buffer entry is reserved for the line that an install in the Pool may push out (R319). -/
def Hw.wbbReserve (h : Hw) (s r : Nat) : Hw :=
  h.updSlice s fun x => { x with wbb := sset r ⟨2 ^ 60, 0, true, false, false⟩ x.wbb }

/-- A line that came from DDR is installed in its die's Pool stack, if an entry can be reserved (R319). The entry number of a write to a
stack in cache mode tells what it does: 1024 + r installs a clean line, 2048 + 32 × e + r the dirty line of entry e, 4096 + r a dirty line that
has no entry; r is the reserved entry. -/
def Hw.poolInstall (m : List Host.Cell) (h : Hw) (s line : Nat) : Hw :=
  match h.poolDie line, (h.slice s).wbbFree with
  | some p, some r =>
    if h.hasCredit 10 s (12 + p) then
      ((h.useCredit 10 s (12 + p)).send vcData (chamberStop s) (mcStop (12 + p) line)
        (.memWrite (12 + p) s (1024 + r) line (memLine m (lineLocal line)) (h.memBad line))).wbbReserve s r
    else h
  | _, _ => h

/-- An entry of the write-back buffer obtains a credit and is issued: to the controller, to a CXL window at once, or to the home
node, which goes on to count this node as a sharer (R234; log 77). -/
def Hw.wbbIssue (m : List Host.Cell) (h : Hw) (s e : Nat) : List Host.Cell × Hw :=
  match sfind e (h.slice s).wbb with
  | none => (m, h)
  | some w =>
    if w.issued then (m, h)
    else
      let mark := fun (h : Hw) => h.updSlice s fun x => { x with wbb := sset e { w with issued := true } x.wbb }
      match h.homePos w.line with
      | some p => (m, ((h.galReq (.line s w.line) 0x20 p (w.line % 2 ^ 42) 0 w.bad 3 w.data).map mark).getD h)
      | none =>
        if 0x0C0000000000 ≤ lineLocal w.line then
          let q := writeMem w.line w.data w.bad (m, h.updSlice s fun x => { x with wbb := sdel e x.wbb })
          (q.1, q.2.pumpSlice q.1 s)
        else
          match (if w.direct then none else h.poolDie w.line), (h.slice s).wbbFree with
          | some p, some r =>
            if h.hasCredit 10 s (12 + p) then
              (m, (mark ((h.useCredit 10 s (12 + p)).send vcData (chamberStop s) (mcStop (12 + p) w.line)
                (.memWrite (12 + p) s (2048 + e * 32 + r) w.line w.data w.bad))).wbbReserve s r)
            else (m, h)
          | _, _ =>
            let mc := h.mcOf w.line
            if h.hasCredit 10 s mc then
              (m, (mark ((h.useCredit 10 s mc).send vcData (chamberStop s) (mcStop mc w.line) (.memWrite mc s e w.line w.data w.bad))).poolDrop
                w.line)
            else (m, h)

end Sys2Proof.Machine
end

