-- ==== Sys2Proof/Machine/Walk.lean ====
section
/-! DEFINITION. Address translation: the walk of R181 as a function of the values its reads have returned, the look-aside
buffers of R184 to R187, and the checks of permissions and marks (R188 to R190). -/

namespace Sys2Proof.Machine

/-- The KIND of the fault syndrome (R197). -/
def Access.kind : Access → Nat
  | .load | .handler => 0
  | .store | .push => 1
  | .fetch => 2
  | .atomic | .casLoad => 3
  | .cmo => 4
  | .desc | .record => 5

/-- The permissions an access needs in order: R 1, W 2, X 4 (R188). -/
def Access.needs : Access → Nat
  | .load | .handler | .cmo | .desc => 1
  | .store | .push | .record => 2
  | .fetch => 4
  | .atomic | .casLoad => 3

/-- The SUB of codes 3 to 7 (R197). -/
def synSub (stage2 s1walk : Bool) (kind lvl reason : Nat) : Nat :=
  b2n stage2 * 2 ^ 15 + kind * 2 ^ 12 + lvl * 2 ^ 9 + b2n s1walk * 2 ^ 8 + reason * 16

/-- A leaf of either stage (R179): output, level, permissions R 1, W 2, X 4, U 8, D 16, accessed mark, type, G. -/
structure Leaf where
  out : Nat
  lvl : Nat
  perm : Nat
  a : Bool
  mt : Nat
  g : Bool
deriving DecidableEq, Repr

/-- The leaf of a stage that is off (R175): all permitted, marks set, Normal write-back, largest size. -/
def Leaf.off (x : Nat) : Leaf := ⟨x, 9, 31, true, 0, false⟩

/-- The progress of a walk: the reads not yet used, and the pointers read so far. -/
abbrev WalkSt := List (Option Word) × List WcEntry

/-- What a walk does next: read a doubleword of memory, end in a fault, or end with a result. -/
inductive WRes (α : Type) where
  | need (pa : Word) (ptrs : List WcEntry)
  | flt (f : Flt) (ptrs : List WcEntry)
  | ok (v : α) (st : WalkSt)

/-- The walk goes on with the result. -/
def WRes.andThen {α β : Type} : WRes α → (α → WalkSt → WRes β) → WRes β
  | .need p q, _ => .need p q
  | .flt f q, _ => .flt f q
  | .ok v st, k => k v st

/-- R180: the reason an entry fails, if it does, in the order of the checks. `nodeZero`: NODE must be 0 in a leaf. -/
def entryFail (e : Word) (lvl : Nat) (stage2 nodeZero : Bool) : Option Nat :=
  let ptr := decide (Word.fld e 3 1 = 0)
  if !Word.bit e 0 then some 0
  else if (ptr && decide (lvl = 0)) || (!ptr && decide (lvl = 4)) then some 3
  else if ptr then (if Word.fld e 63 48 ≠ 0 ∨ Word.fld e 10 4 ≠ 0 then some 1 else none)
  else if (nodeZero && decide (Word.fld e 63 48 ≠ 0)) || (stage2 && (Word.bit e 10 || Word.bit e 4))
      || decide (5 ≤ Word.fld e 9 7) || (Word.bit e 2 && !Word.bit e 1) then some 1
  else if Word.fld e 47 12 % 512 ^ lvl ≠ 0 then some 2
  else none

/-- The leaf that an entry holds for an input (R179). -/
def leafOf (e : Word) (lvl x : Nat) : Leaf :=
  let size := 4096 * 512 ^ lvl
  ⟨Word.fld e 63 48 * 2 ^ 48 + (Word.fld e 47 12 * 4096 / size * size + x % size), lvl,
   Word.fld e 3 1 + 8 * b2n (Word.bit e 4) + 16 * b2n (Word.bit e 6), Word.bit e 5, Word.fld e 9 7, Word.bit e 10⟩

/-- The permission check of R188: the reason of the first check that fails. -/
def permFail (stage2 : Bool) (perm : Nat) (acc : Access) (lvl : Level) : Option Nat :=
  let n := acc.needs
  if n % 2 = 1 ∧ perm % 2 = 0 then some 0
  else if n / 2 % 2 = 1 ∧ perm / 2 % 2 = 0 then some 1
  else if n / 4 % 2 = 1 ∧ perm / 4 % 2 = 0 then some 2
  else if stage2 then none
  else if lvl = .u ∧ perm / 8 % 2 = 0 then some 3
  else if lvl = .s ∧ acc = .fetch ∧ perm / 8 % 2 = 1 then some 4
  else none

/-- The mark check of R189: the code of the trap, if any. -/
def markTrap (perm : Nat) (a : Bool) (acc : Access) : Option Nat :=
  if acc = .cmo then none
  else if !a then some 5
  else if (acc = .store ∨ acc = .push ∨ acc = .atomic ∨ acc = .record) ∧ perm / 16 % 2 = 0 then some 6
  else none

/-- Permissions, then marks, of one stage's leaf (R181). -/
def stageFault (stage2 s1walk : Bool) (l : Leaf) (acc : Access) (lvl : Level) (kind : Nat) (faddr : Word) : Option Flt :=
  match permFail stage2 l.perm acc lvl with
  | some r => some ⟨4, synSub stage2 s1walk kind l.lvl r, faddr, stage2⟩
  | none =>
    match markTrap l.perm l.a acc with
    | some c => some ⟨c, synSub stage2 s1walk kind l.lvl 0, faddr, stage2⟩
    | none => none

/-- R182: the reason a table read at p on this node is not made. Where several conditions hold the decode of the address decides before
the leaf's type (DESIGN CHOICE, log 64: the spec gives no order). -/
def Hw.tableFail (h : Hw) (p : Nat) (mt : Nat) : Option Nat :=
  match h.decodePA (w64 p) with
  | .ok .reg | .ok (.mmio _) => some 0
  | .ok (.group _) | .ok .remote | .error 5 => some 2
  | .ok _ => if 3 ≤ mt then some 0 else none
  | .error _ => if 0xF00000000000 ≤ p % 2 ^ 48 then some 0 else some 1

/-- The regime a walk is made under (R175). -/
structure Wcfg where
  h : Hw
  acc : Acc
  ctx : Ctx
  wc : List WcEntry
  access : Access
  va : Word

def Wcfg.atp1 (c : Wcfg) : Word := if c.acc.secure then c.ctx.atpSS else c.ctx.atpS
def Wcfg.on2 (c : Wcfg) : Bool := !c.acc.secure && decide (Word.fld c.ctx.atpH 1 0 ≠ 0)
def Wcfg.asid (c : Wcfg) : Nat := Word.fld c.atp1 63 48
def Wcfg.vmid (c : Wcfg) : Nat := if c.acc.secure then 0 else c.ctx.vmid

/-- The deepest pointer the walk cache holds for an input: the level whose table it names, and the table (R183). -/
def Wcfg.start (c : Wcfg) (stage2 : Bool) (x top root : Nat) : Nat × Nat :=
  let es := c.wc.filter fun e =>
    e.stage2 == stage2 && e.secure == c.acc.secure && e.vmid == c.vmid && (stage2 || e.asid == c.asid)
      && e.key == x / 2 ^ (12 + 9 * e.lvl)
  es.foldl (fun b e => if e.lvl - 1 < b.1 then (e.lvl - 1, e.table) else b) (top, root)

/-- The stage-2 walk of an intermediate address from level n − 1 down (R181). -/
def walk2 (c : Wcfg) (kind : Nat) (s1walk : Bool) (ia : Nat) : Nat → Nat → WalkSt → WRes Leaf
  | 0, _, (_, ps) => .flt ⟨3, synSub true s1walk kind 0 3, w64 ia, true⟩ ps
  | n + 1, tbl, (ans, ps) =>
    let p := c.h.node * 2 ^ 48 + (tbl + 8 * (ia / 2 ^ (12 + 9 * n) % 512)) % 2 ^ 48
    match c.h.tableFail p 0 with
    | some r => .flt ⟨7, synSub true s1walk kind n r, w64 ia, true⟩ ps
    | none =>
      match ans with
      | [] => .need (w64 p) ps
      | none :: _ => .flt ⟨7, synSub true s1walk kind n 3, w64 ia, true⟩ ps
      | some e :: ans =>
        match entryFail e n true false with
        | some r => .flt ⟨3, synSub true s1walk kind n r, w64 ia, true⟩ ps
        | none =>
          if Word.fld e 3 1 = 0 then
            let t := Word.fld e 47 12 * 4096
            walk2 c kind s1walk ia n t (ans, ps ++ [⟨true, c.acc.secure, c.vmid, c.asid, n, ia / 2 ^ (12 + 9 * n), t⟩])
          else .ok (leafOf e n ia) (ans, ps)

/-- Stage 2 of an intermediate address: width, walk, permissions and marks as a given access (R178, R181). -/
def stage2 (c : Wcfg) (s1walk : Bool) (acc : Access) (ia : Nat) (st : WalkSt) : WRes Leaf :=
  let kind := c.access.kind
  let top := Word.fld c.ctx.atpH 1 0 + 2
  let width := if top = 3 then 48 else 57
  if 2 ^ width ≤ ia then .flt ⟨3, synSub true s1walk kind top 4, w64 ia, true⟩ st.2
  else
    let b := c.start true ia top (Word.fld c.ctx.atpH 47 12 * 4096)
    (walk2 c kind s1walk ia (b.1 + 1) b.2 st).andThen fun l st =>
      match stageFault true s1walk l acc c.acc.lvl kind (w64 ia) with
      | some f => .flt f st.2
      | none => .ok l st

/-- The stage-1 walk from level n − 1 down (R181). The LEVEL of a walk-target fault on a table read under stage 2 is the level of the
stage-1 table (DESIGN CHOICE, log 65: R197 does not say which). -/
def walk1 (c : Wcfg) : Nat → Nat → WalkSt → WRes Leaf
  | 0, _, (_, ps) => .flt ⟨3, synSub false false c.access.kind 0 3, c.va, false⟩ ps
  | n + 1, tbl, st =>
    let kind := c.access.kind
    let t := (tbl + 8 * (c.va.toNat / 2 ^ (12 + 9 * n) % 512)) % 2 ^ 48
    let at_ : WRes (Nat × Nat) :=
      if c.on2 then (stage2 c true .load t st).andThen fun l st => .ok (l.out, l.mt) st
      else .ok (c.h.node * 2 ^ 48 + t, 0) st
    at_.andThen fun pm st =>
      let s2 := c.on2
      match c.h.tableFail pm.1 pm.2 with
      | some r => .flt ⟨7, synSub s2 s2 kind n r, if s2 then w64 t else c.va, s2⟩ st.2
      | none =>
        match st.1 with
        | [] => .need (w64 pm.1) st.2
        | none :: _ => .flt ⟨7, synSub s2 s2 kind n 3, if s2 then w64 t else c.va, s2⟩ st.2
        | some e :: ans =>
          match entryFail e n false c.on2 with
          | some r => .flt ⟨3, synSub false false kind n r, c.va, false⟩ st.2
          | none =>
            if Word.fld e 3 1 = 0 then
              let t' := Word.fld e 47 12 * 4096
              walk1 c n t' (ans, st.2 ++ [⟨false, c.acc.secure, c.vmid, c.asid, n, c.va.toNat / 2 ^ (12 + 9 * n), t'⟩])
            else .ok (leafOf e n c.va.toNat) (ans, st.2)

/-- Stage 1 of the virtual address: width, walk, permissions and marks (R178, R181). -/
def stage1 (c : Wcfg) (st : WalkSt) : WRes Leaf :=
  let mode := Word.fld c.atp1 1 0
  if mode = 0 then .ok (Leaf.off c.va.toNat) st
  else
    let top := mode + 2
    let hi := if top = 3 then c.va.toNat / 2 ^ 47 else c.va.toNat / 2 ^ 56
    let lim := if top = 3 then 2 ^ 17 - 1 else 2 ^ 8 - 1
    if hi ≠ 0 ∧ hi ≠ lim then .flt ⟨3, synSub false false c.access.kind top 4, c.va, false⟩ st.2
    else
      let b := c.start false c.va.toNat top (Word.fld c.atp1 47 12 * 4096)
      (walk1 c (b.1 + 1) b.2 st).andThen fun l st =>
        match stageFault false false l c.access c.acc.lvl c.access.kind c.va with
        | some f => .flt f st.2
        | none => .ok l st

/-- The whole walk (R181): both leaves. -/
def walkBoth (c : Wcfg) (st : WalkSt) : WRes (Leaf × Leaf) :=
  (stage1 c st).andThen fun l1 st =>
    if c.on2 then (stage2 c false c.access l1.out st).andThen fun l2 st => .ok (l1, l2) st
    else .ok (l1, Leaf.off l1.out) st

/-- The TLB entry a finished walk makes (R184): the page size is the smaller of the two leaves' sizes. -/
def tlbEntry (c : Wcfg) (l1 l2 : Leaf) : TlbEntry :=
  let size := min l1.lvl l2.lvl
  ⟨c.acc.secure, c.vmid, c.asid, l1.g, c.va.toNat / 4096, size, l2.out / 4096, l1.perm, l1.lvl, l2.perm, l2.lvl,
   (memTypeOf l1.mt).combine (memTypeOf l2.mt)⟩

/-- Whether an entry matches an access (R184). -/
def TlbEntry.hits (e : TlbEntry) (secure : Bool) (vmid asid : Nat) (va : Word) : Bool :=
  e.secure == secure && (secure || e.vmid == vmid) && (e.glob || e.asid == asid)
    && e.vpn / 512 ^ e.size == va.toNat / 4096 / 512 ^ e.size

/-- The address an entry gives (R184). -/
def TlbEntry.pa (e : TlbEntry) (va : Word) : Word :=
  let size := 4096 * 512 ^ e.size
  w64 (e.frame * 4096 / size * size + va.toNat % size)

/-- The choice among matching entries: the smallest page; among equals the first in the order given (R187). -/
def pickEntry (es : List TlbEntry) : Option TlbEntry :=
  es.foldl (fun b e => match b with
    | none => some e
    | some x => if e.size < x.size then some e else some x) none

/-- The checks of a hit: the fault the walk would raise for the stored values (R187). The intermediate address of a
stage-2 fault is not held by the entry; it is what stage 1 gives, by the walk of the same address. -/
def TlbEntry.fault (e : TlbEntry) (acc : Access) (lvl : Level) (va ia : Word) : Option Flt :=
  match (if e.s1lvl = 9 then none else stageFault false false ⟨0, e.s1lvl, e.s1, true, 0, false⟩ acc lvl acc.kind va) with
  | some f => some f
  | none => if e.s2lvl = 9 then none
    else stageFault true false ⟨0, e.s2lvl, e.s2, true, 0, false⟩ acc lvl acc.kind ia

/-- The accessor of a thread: its level, world and geode (R396). -/
def Thread.acc (x : Thread) : Acc := ⟨x.a.level, x.a.secure, (sget 0 0x005 x.a.cr).toNat⟩

/-- Whether an accessor uses the physical regime (R175, R176). -/
def physRegime (acc : Acc) (ctx : Ctx) : Bool :=
  match acc.lvl with
  | .h | .m => true
  | _ => if acc.secure then decide (Word.fld ctx.atpSS 1 0 = 0)
    else decide (Word.fld ctx.atpS 1 0 = 0) && decide (Word.fld ctx.atpH 1 0 = 0)

/-- A table read in one piece (R179): the newest value of its doubleword; none when a region checker refuses it or the line that was read is
poisoned (R182 reason 3). -/
def tableRead (m : List Host.Cell) (h : Hw) (acc : Acc) (bad : Bool) (pa : Word) : Option Word :=
  if h.judgePA acc pa 1 && !bad then some (cohWord m h pa) else none

/-- A walk run to its end, reading memory as it goes; at most `fuel` reads. -/
def runWalk {α : Type} (m : List Host.Cell) (c : Wcfg) (f : WalkSt → WRes α) : Nat → List (Option Word) → WRes α
  | 0, ans => f (ans, [])
  | fuel + 1, ans =>
    match f (ans, []) with
    | .need p _ => runWalk m c f fuel (ans ++ [tableRead m c.h c.acc (c.h.memBad (lineNo p)) p])
    | r => r

/-- The whole walk run to its end. -/
def walkAll (m : List Host.Cell) (c : Wcfg) (fuel : Nat) (ans : List (Option Word)) : WRes (Leaf × Leaf) :=
  runWalk m c (walkBoth c) fuel ans

/-- The intermediate address of an access (R198), which no buffer holds: what stage 1 gives. -/
def Wcfg.ia (m : List Host.Cell) (c : Wcfg) : Word :=
  match runWalk m c (stage1 c) 40 [] with
  | .ok l _ => w64 l.out
  | _ => c.va

/-! ### The register that names victims (R185) -/

/-- One step of the register of R185, with taps at bits 16, 14, 13 and 11 counted from 1: it shifts left, and the feedback enters bit 0
(DESIGN CHOICE, log 76: R185 gives the taps and no direction). -/
def lfsrNext (x : BitVec 16) : BitVec 16 :=
  (x <<< 1) ||| BitVec.setWidth 16 (BitVec.ofBool (x.getLsbD 15 ^^ x.getLsbD 13 ^^ x.getLsbD 12 ^^ x.getLsbD 10))

/-- The register n steps after reset set it to 1. -/
def lfsrAt : Nat → BitVec 16
  | 0 => 1
  | n + 1 => lfsrNext (lfsrAt n)

/-- A core's register, which steps with its cycles. -/
def Hw.coreLfsr (h : Hw) (core : Nat) : BitVec 16 := lfsrAt ((h.chamber (chamberOf core)).cycle.toNat % 65535)

/-- An engine's register, which steps with the mesh's cycles (R246; log 38). -/
def Hw.engLfsr (h : Hw) : BitVec 16 := lfsrAt (h.meshCycles % 65535)

/-- What the buffers of a thread's core tell of an access: its address and type, with the entry that gave them, a fault, or nothing yet
(R116). -/
inductive Xlt where
  | ok (pa : Word) (mt : MemType) (e : Option TlbEntry)
  | flt (f : Flt)
  | miss

/-- The translation of an access under a regime: the physical regime, a micro-TLB hit, what a walk found for it, or a miss (R116, R176,
R187). -/
def Hw.xlate (m : List Host.Cell) (h : Hw) (t : Nat) (fetch : Bool) (r : Regime) (access : Access) (va : Word) : Xlt :=
  if physRegime r.acc r.ctx then .ok va (match h.decodePA va with | .ok tg => tg.physType | .error _ => .wb) none
  else
    let c : Wcfg := ⟨h, r.acc, r.ctx, [], access, va⟩
    let core := h.core (coreOf t)
    match pickEntry ((if fetch then core.itlb else core.dtlb).filter fun e => e.hits r.acc.secure c.vmid c.asid va) with
    | some e =>
      match e.fault access r.acc.lvl va (c.ia m) with
      | some f => .flt f
      | none => .ok (e.pa va) e.mtype (some e)
    | none =>
      match (h.thread t).b.walkEnds.find? fun w => w.page == va.toNat / 4096 && w.access == access && w.lvl == r.acc.lvl with
      | some ⟨_, _, _, some f, _⟩ => .flt f
      | some ⟨_, _, _, none, some e⟩ => .ok (e.pa va) e.mtype (some e)
      | _ => .miss

/-- A cancelled access waits for its translation (R116): the thread's younger work is none, and it replays. -/
def Hw.cancelAs (h : Hw) (t : Nat) (va : Word) (access : Access) (r : Regime) : Hw :=
  h.updBack t fun b => { b with replay := some ⟨va, access, r⟩ }

/-- The regime of a thread (R175). -/
def Thread.regime (x : Thread) : Regime := ⟨x.acc, x.a.ctx⟩

/-- A local address in the rescue area of a thread (R167). -/
def rescueAt (a : Nat) : Bool :=
  match blockAt a with
  | some (.chamber, _, o) => decide (0x80000 ≤ o) && decide (o < 0x81000)
  | _ => false

/-- The decode at X2 (R20, R23, R26): the target and final type, or the physical-address fault of a load or store of n
bytes. `plain` is false for an operation that register space does not take (R23). An access outside every block window gets subcode 3
also where its size, alignment or operation would give subcode 4 (DESIGN CHOICE, log 66: R23 and R26 give no order). A load or store of the
rescue area never faults, whatever its size (R167; DEDUCED, log 67: R23 has no such exception). -/
def decodeX2 (h : Hw) (pa : Word) (mt : MemType) (n : Nat) (plain : Bool) (faddr : Word) : Except Flt (Target × MemType) :=
  match h.decodePA pa with
  | .error s => .error ⟨8, s, faddr, false⟩
  | .ok .reg =>
    if plain && (rescueAt (pa.toNat % 2 ^ 48) || ((n == 4 || n == 8) && decide (pa.toNat % n = 0))) then .ok (.reg, .strict) else .error ⟨8, 4, faddr, false⟩
  | .ok tg => .ok (tg, tg.fixType mt)

end Sys2Proof.Machine
end

