-- ==== Sys2Proof/Machine/Entry.lean ====
section
/-! DEFINITION. Taking an exception (R152 to R160, R165 to R168, R407), the pending interrupts of a thread and the choice among
them (R154, R376, R380, R387, R172), and the thread's view of memory through its own store buffer. -/

namespace Sys2Proof.Machine

/-! ### Memory as a thread sees it -/

/-- Bytes of an entry laid over n bytes at an address of its line. -/
def SbEntry.over (e : SbEntry) (pa : Word) (v : Vec) : Vec :=
  if e.line = lineNo pa then vmerge v e.data e.mask else v

/-- A line as a thread reads it: the newest value, with the thread's own buffered stores in order (R59, R122). -/
def ownLine (m : List Host.Cell) (h : Hw) (t : Nat) (pa : Word) : Vec :=
  let b := (h.thread t).b
  (b.sb ++ b.vstWait).foldl (fun v e => e.over pa v) (lineVal m h (lineNo pa))

/-- Eight doublewords of an aligned line as a thread reads them. -/
def ownWords (m : List Host.Cell) (h : Hw) (t : Nat) (pa : Word) : List Word :=
  (List.range 8).map fun i => vword (ownLine m h t pa) i

/-- The number that the next long operation of a thread gets: none in flight has it. -/
def Back.fresh (b : Back) : Nat := b.longs.foldl (fun n o => max n (o.id + 1)) b.nextId

/-- An operation of the thread before number `before` that is not performed reads or changes a byte of a line (R61 row 1). -/
def Back.pendingOn (b : Back) (before line : Nat) (mask : BitVec 64) : Bool :=
  b.longs.any fun o => decide (o.id < before) && !o.ready && o.parts.any fun p =>
    !p.done && lineNo p.pa == line && (maskOf (p.pa.toNat % 64) p.len &&& mask) != 0

/-- A store of the thread to a line has left the store buffer and is not performed (R63). -/
def Back.outOn (b : Back) (line : Nat) : Bool := b.outs.any fun o => o.1 == line

/-- Device accesses of the thread that are still to be performed: buffered, on their way and pending, of the given types (R63, R64). -/
def Back.deviceBusy (b : Back) (p : MemType → Bool) : Bool :=
  (b.sb ++ b.vstWait).any (fun e => p e.mtype) || b.outs.any (fun o => p o.2.1)
    || b.longs.any fun o => !o.ready && o.parts.any fun q => !q.done && p q.mt

/-- R64, R125: a Device access must still wait: a strict one for every earlier Device access, a posted one for strict ones. -/
def Back.deviceWaits (b : Back) (mt : MemType) : Bool :=
  match mt with
  | .strict => b.deviceBusy MemType.device
  | .posted => b.deviceBusy (· == .strict)
  | _ => false

/-- The values of a thread that the register blocks ask for (R389). -/
def Thread.bank (x : Thread) : Bool := !Word.bit (x.a.crAt 0xC04) 1
def Thread.vmid (x : Thread) : Nat := (x.a.crAt 0x804).toNat

/-- The read of n bytes of one line that an instruction, an entry or a fetch needs before it goes on (R94, R161, R165, R193): what it has brought,
or how it is sent. Cached memory is read as a load reads it, in L1D or by an L1D miss register; a line of which the thread has stores under way
waits for them (R59), but for buffered ones over an L1D hit. Non-cacheable memory is read at its slice; a port, a register block or another node
is asked itself, after earlier Device accesses (R64). An ERR of R172 is given plus one. -/
def Hw.blockRead (m : List Host.Cell) (h : Hw) (t : Nat) (fetch : Bool) (acc : Acc) (mt : MemType) (tg : Target) (pa : Word) (n : Nat) : Ext :=
  let x := h.thread t
  let b := x.b
  let line := lineNo pa
  let core := coreOf t
  match (x.extOf fetch).find? fun e => e.pa == pa && e.len == n && e.acc == acc with
  | some e => if e.done then .got e.err e.data else .out
  | none =>
    let who := Waiter.ext t fetch b.nextId
    let sent := fun (h1 : Option Hw) => match h1 with
      | some _ => Ext.send fun h => ((h1.map fun h1 => h1.extBegin t fetch acc pa n).getD h)
      | none => .out
    let own := !fetch && ((b.sb ++ b.vstWait).any (fun e => e.line == line) || b.pendingOn b.fresh line (maskOf (pa.toNat % 64) n))
    if !fetch && b.outOn line then .out
    else match tg with
      | .mmio _ | .reg =>
        if own || b.deviceWaits .strict then .out else sent (some (h.devSend who tg acc x.bank x.vmid pa n none 0))
      | _ =>
        if mt.rank < 2 ∧ tg ≠ .remote then
          match (if (h.core core).l1d.en then h.l1dLine core line else none) with
          | some l =>
            if !acc.admits l.own && !h.judgePA acc pa 1 then .got 3 []
            else if l.bad then .got 2 [] else .got 0 (vbytes (ownLine m h t pa) (pa.toNat % 64) n)
          | none => if own || (h.core core).wbuf.contains line then .out else sent (h.l1dMiss t line false .load acc tg.home)
        else if own || (mt.device && b.deviceWaits .strict) then .out
        else if !mt.device then sent (h.coreReq t who (.read (pa.toNat % 64) n) line fetch acc tg.home)
        else match tg with
          | .group g => if (h.route g).isNone then .got 4 [] else sent (h.galReq who 0x01 g (line % 2 ^ 42) 0 false 0 0)
          | .remote => if h.passUp.isEmpty then .got 4 [] else sent (h.passReq who 0 0 n false pa 0)
          | _ => sent (some (h.devSend who tg acc x.bank x.vmid pa n none 0))

/-! ### Prediction state (R139, R147 to R149) and fetch redirection -/

/-- The tables of the thread's core and the thread's own return stack and history are cleared; the clear ends at
PREDICTOR_CLEAR_END (R147, R148). -/
def Hw.clearPred (h : Hw) (t : Nat) : Hw :=
  (h.updCore (coreOf t) fun c => { c with clearing := true, second := [], indirect := [] }).updFront t fun f =>
    { f with ras := [], rasPtr := 0, rasCnt := 0, hist := 0 }

/-- Prediction state as a checkpoint holds it (R143, R144). -/
def Front.restore (f : Front) (c : Checkpoint) : Front :=
  { f with ras := sset c.ptr c.top f.ras, rasPtr := c.ptr, rasCnt := c.cnt, hist := c.hist }

/-- The fetched instructions are discarded: prediction state from the checkpoint of the oldest branch or jump among them (R144). -/
def Front.empty (f : Front) : Front :=
  match f.iq.findSome? (·.guess) with
  | some g => { f.restore g.cp with iq := [], cpWait := false }
  | none => { f with iq := [], cpWait := false }

/-- Fetch goes on at a new address, with the loop copy loaded (R105). -/
def Front.redirect (f : Front) (a : Arch) (pc : Word) : Front :=
  { f with
    fetchPc := pc
    fetchStop := false
    fcount := a.crAt 1
    fstart := a.crAt 2
    fend := a.crAt 3 }

/-- The front after its fetched instructions are discarded (R144) and fetch goes to a new address (R105). -/
def Front.discard (f : Front) (a : Arch) (pc : Word) : Front := f.empty.redirect a pc

/-- The pending writes of ATP_S, ATP_H and VMID_H come into force (R91); a changed VMID_H clears the predictors when PCLR is 1 (R149), once the
fetched instructions have given prediction state back (R159, R173). -/
def Hw.applyCtx (h : Hw) (t : Nat) : Hw :=
  let a := (h.thread t).a
  let c : Ctx := ⟨a.crAt 0x403, a.crAt 0x1403, a.crAt 0x803, (a.crAt 0x804).toNat⟩
  let h1 := h.updArch t fun a => { a with ctx := c }
  if c.vmid ≠ a.ctx.vmid ∧ Word.bit (a.crAt 0x807) 3 then (h1.updFront t Front.empty).clearPred t else h1

/-! ### Geodes: control block and slots (R403, R404) -/

/-- The address of geode g's control block. -/
def Hw.gcb (h : Hw) (g : Nat) : Word := w64 (h.node * 2 ^ 48 + (h.regF (chkReg 0x20000) 47 12 * 4096 + 64 * g) % 2 ^ 48)

/-- STATE of a control block; 4 to 7 are read as FREE. -/
def gcbState (v : Vec) : Nat :=
  let s := Word.fld (vword v 0) 63 61
  if s < 4 then s else 0

/-- The address of slot s of the geode with a control block. -/
def slotPA (v : Vec) (s : Nat) : Word := w64 (Word.fld (vword v 4) 63 12 * 4096 + 0x1000 * s)

/-- Who the device is when it reads and writes control blocks and slots (R403). -/
def geodeAcc : Acc := ⟨.m, true, 0⟩

/-- n lines of a control block or slot as the device reads them for a thread, or what is to be waited for. A line in error is all ones (DESIGN
CHOICE, log 162: R403 does not say). -/
def Hw.linesRead (m : List Host.Cell) (h : Hw) (t : Nat) : Nat → Word → Sum (Hw → Hw) (List Vec)
  | 0, _ => .inr []
  | n + 1, pa =>
    let rest := Hw.linesRead m h t n (pa + 64)
    let put := fun (v : Vec) => match rest with | .inl f => Sum.inl f | .inr vs => .inr (v :: vs)
    match h.decodePA pa with
    | .error _ => put (BitVec.allOnes 512)
    | .ok tg =>
      match h.blockRead m t false geodeAcc tg.physType tg pa 64 with
      | .send f => .inl f
      | .out => .inl id
      | .got err bs => put (if err = 0 then vput 0 0 bs else BitVec.allOnes 512)

/-- An operation of the home in one step on a line of this node waits: for other members' copies, which it calls back, or for what runs there
(R229 to R235). -/
def Hw.homeHold (h : Hw) (l : Nat) : Option Hw :=
  match h.recall l true with
  | some h1 => some h1
  | none => if h.homeReady l then none else some h

/-- The device's CAS on CTL waits for the home, or finds that CTL has changed since it was read, and reads it again (R403). -/
def Hw.gcbHold (m : List Host.Cell) (h : Hw) (t g : Nat) (v : Vec) : Option (Hw → Hw) :=
  let l := lineNo (h.gcb g)
  if (h.homeHold l).isSome then some fun h => (h.homeHold l).getD h
  else if vword (lineVal m h l) 0 = vword v 0 then none
  else some fun h => h.updExt t false fun _ => []

/-- The device's CAS on CTL sets or clears a bit of SLOTMAP (R403). -/
def Hw.slotMap (m : List Host.Cell) (h : Hw) (g : Nat) (v : Vec) (s : Nat) (b : Bool) : Hw :=
  h.homeStoreBytes m (h.gcb g) (leBytes 8 (Word.setFld (vword v 0) s s (b2n b)).toNat)

/-- The doublewords of a slot after HDR and EXITPC, lines 1 to 39 (R404). -/
def slotLine (a : Arch) (i : Nat) : Vec :=
  if i < 5 then lineOf ((List.range 8).map fun j => let r := 8 * (i - 1) + j + 1
    if r < 32 then sget 0 r a.g else 0)
  else if i = 5 then lineOf ((List.range 8).map fun j => if j < 7 then sget 0 (j + 1) a.m else 0)
  else if i < 8 then 0
  else sget 0 (i - 8) a.v

/-- HDR (R404): SSTATE, ELVL, THREAD. -/
def slotHdr (sstate elvl t : Nat) : Word := w64 (sstate * 2 ^ 62 + elvl * 2 ^ 60 + t)

/-- Line 0 of a slot with the interrupted stream's state (R404); `old` is the line as it stands. -/
def slotLine0 (a : Arch) (old : Vec) (sstate t : Nat) (pc : Word) : Vec :=
  lineOf [slotHdr sstate (Word.fld (vword old 0) 61 60) t, vword old 1, pc, a.crAt 0, a.crAt 1, a.crAt 2, a.crAt 3, 0]

/-- The target of an address, if it has one. -/
def Hw.target? (h : Hw) (pa : Word) : Option Target := (h.decodePA pa).toOption

/-- An entry that a thread's exception entry makes: a whole line. -/
def fullEntry (h : Hw) (t : Nat) (pa : Word) (mt : MemType) (v : Vec) (k : SbKind) (acc : Acc) : SbEntry :=
  ⟨lineNo pa, pa, mt, v, BitVec.allOnes 64, false, k, acc, h.target? pa, (h.thread t).b.fresh⟩

/-- The 40 save entries of R407: lines 1 to 39, then line 0 with HDR in SSTATE 2. The device writes them as M. -/
def saveEntries (h : Hw) (t : Nat) (a : Arch) (sl : Word) (old : Vec) (epc : Word) : List SbEntry :=
  ((List.range 39).map fun i => fullEntry h t (sl + w64 (64 * (i + 1))) .wb (slotLine a (i + 1)) .save geodeAcc)
    ++ [fullEntry h t sl .wb (slotLine0 a old 2 t epc) .save geodeAcc]

/-- A write of bytes in line 0 of a slot, in one step at its home, waits: for the thread's own stores to the line, and for the home. -/
def Hw.slotHold (h : Hw) (t : Nat) (pa : Word) : Option (Hw → Hw) :=
  let l := lineNo pa
  let b := (h.thread t).b
  if !h.localLine l then none
  else if (b.sb ++ b.vstWait).any (fun e => e.line == l) || b.outOn l then some id
  else if (h.homeHold l).isSome then some fun h => (h.homeHold l).getD h
  else none

/-- Bytes of line 0 of a slot are written (R404 to R409): at the home of a line of this node at once; to another member's line by a store of the
thread (DESIGN CHOICE, log 162). -/
def Hw.slotStore (m : List Host.Cell) (h : Hw) (t : Nat) (pa : Word) (bs : Bytes) : Hw :=
  if h.localLine (lineNo pa) then h.homeStoreBytes m pa bs
  else
    let o := pa.toNat % 64
    h.updBack t fun b => { b with vstWait := b.vstWait ++
      [{ fullEntry h t pa .wb (vput 0 o bs) .save geodeAcc with mask := maskOf o bs.length }] }

/-- HDR of a slot gets a new value (R405, R408, R409). -/
def Hw.setSlotHdr (m : List Host.Cell) (h : Hw) (t : Nat) (pa hdr : Word) : Hw := h.slotStore m t pa (leBytes 8 hdr.toNat)

/-- A save line met an error: SSTATE 3 is written into HDR, in the entry that is still to drain, or in memory (R407). -/
def Hw.slotDamaged (m : List Host.Cell) (h : Hw) (t : Nat) (pa : Word) : Hw :=
  let hdr := pa &&& ~~~(0xFFF : Word)
  let mine := fun (e : SbEntry) => e.kind == .save && e.line == lineNo hdr
  let fix := fun (e : SbEntry) => if mine e then { e with data := vput e.data 0 (leBytes 8 (Word.setFld (vword e.data 0) 63 62 3).toNat) } else e
  let b := (h.thread t).b
  if (b.sb ++ b.vstWait).any mine then h.updBack t fun b => { b with sb := b.sb.map fix, vstWait := b.vstWait.map fix }
  else h.setSlotHdr m t hdr (Word.setFld (vword (lineVal m h (lineNo hdr)) 0) 63 62 3)

/-- The registers of a thread loaded from a slot (R405, R408). -/
def Arch.loadSlot (a : Arch) (rd : Nat → Word) : Arch :=
  { a with
    pc := rd 2 &&& ~~~3
    g := forN 1 31 (fun i m => sset i (rd (8 + i - 1)) m) []
    m := forN 1 7 (fun i m => sset i (rd (40 + i - 1)) m) []
    v := forN 0 32 (fun i m => sset i (lineOf ((List.range 8).map fun j => rd (64 + 8 * i + j))) m) []
    cr := sset 3 (rd 6 &&& ~~~3) (sset 2 (rd 5 &&& ~~~3) (sset 1 (rd 4) (sset 0 (rd 3) a.cr))) }

/-! ### Entry (R158) -/

/-- What a check of an exception entry gives: a value, the subcode of a frame fault, or something to be waited for. -/
inductive EChk (α : Type) where
  | ok (v : α)
  | bad (sub : Nat)
  | wait (f : Hw → Hw)

/-- The frame-fault subcode of a failed check (R165): `base` 0 for the push, 4 for the handler entry. -/
def frameSub (base : Nat) (f : Flt) : Nat :=
  base + (if f.code = 3 ∨ f.code = 7 then 0 else if f.code = 8 then 3 else 1)

/-- A check of R165 in the regime of the level entered: the physical address, type and target, or the subcode. A push into register space
fails for its type, subcode 2, and not for its size (DESIGN CHOICE, log 71: R165 and R23 do not say which). -/
def frameChk (m : List Host.Cell) (h : Hw) (t : Nat) (acc : Acc) (access : Access) (base : Nat) (va : Word) :
    EChk (Word × MemType × Target) :=
  let r : Regime := ⟨acc, (h.thread t).a.ctx⟩
  match h.xlate m t false r access va with
  | .miss => .wait fun h => h.cancelAs t va access r
  | .flt f => .bad (frameSub base f)
  | .ok pa mt _ =>
    match decodeX2 h pa mt 8 true va with
    | .error f => .bad (frameSub base f)
    | .ok (tg, mt) => if mt.device then .bad (base + 2) else .ok (pa, mt, tg)

/-- The handler entry's value, or subcode 7 when it is refused, poisoned, or met by a bus error (R165). -/
def handlerRead (m : List Host.Cell) (h : Hw) (t : Nat) (acc : Acc) (va : Word) : EChk Word :=
  match frameChk m h t acc .handler 4 va with
  | .bad s => .bad s
  | .wait f => .wait f
  | .ok (pa, mt, tg) =>
    match h.blockRead m t false acc mt tg pa 8 with
    | .got err bs => if err = 0 then .ok (w64 (leNat bs)) else .bad 7
    | .out => .wait id
    | .send f => .wait f

/-- The world entered with level x (R158). -/
def entryWorld (x : Level) (cur : Bool) : Bool :=
  match x with
  | .m => true
  | .h => false
  | _ => cur

/-- The eight words of a frame (R157). -/
def frameWords (h : Hw) (t : Nat) (a : Arch) (x : Level) (code sub orig : Nat) (faddr epc : Word) (loop : Word × Word × Word) :
    List Word :=
  let st := a.crAt (lvlKey x (entryWorld x a.secure) 0)
  let vm := if !a.secure && (x == .h || x == .m) then (a.crAt 0x804).toNat else 0
  [epc,
   w64 (a.geode * 2 ^ 32 + b2n a.secure * 2 ^ 11 + Level.num a.level * 2 ^ 9 + b2n (Word.bit st 1) * 2),
   w64 (b2n (decide (32 ≤ code ∧ code ≤ 35)) * 2 ^ 63 + sub % 2 ^ 16 * 2 ^ 32 + orig % 64 * 2 ^ 16 + code % 64),
   faddr, loop.1, loop.2.1, loop.2.2,
   w64 (h.node * 2 ^ 48 + vm * 2 ^ 32 + t)]

/-- The state changes of R158 and R407 once the checks have passed: pc, level, world, STATUS_x, loop, GEODE_ID, fetch. -/
def Hw.entryState (h : Hw) (t : Nat) (x : Level) (entry : Word) : Hw :=
  let a := (h.thread t).a
  let w := entryWorld x a.secure
  let k := lvlKey x w 0
  let st := Word.setFld (Word.setFld (a.crAt k) 10 9 (Level.num a.level)) 1 1 0
  let a1 : Arch := { a with level := x, secure := w, pc := entry &&& ~~~3,
                            cr := sset 5 0 (sset 1 0 (sset k st a.cr)) }
  let h1 := h.updThread t fun y =>
    { y with
      a := a1
      f := y.f.discard a1 a1.pc
      b := { y.b with replay := none, walkEnds := [], ext := [], fext := [], solo := none }
      run := .running }
  if w ≠ a.secure then h1.clearPred t else h1

/-- Inside a geode: g1 is the slot, every other register 0, and the resume record is set (R407 step 3). -/
def Arch.geodeClear (a : Arch) : Arch :=
  { a with g := sset 1 (w64 a.slot) [], v := [], m := [], cr := sset 0 0 a.cr, resume := some (a.geode, a.slot) }

/-- What an entry came to: the cause took effect, it escalated, or it still waits for room, a translation or a read. -/
inductive Took where
  | cause | escalated | waits
deriving DecidableEq, Repr

/-- What R407 adds to an entry from inside a geode: the saved pc, FADDR and loop of the frame, the 40 save entries of a READY geode, else the
slot given back, and the registers cleared. It waits for registers that are owed, for its reads, and for the home where a slot is given back. -/
structure GeodeEntry where
  epc : Word
  faddr : Word
  loop : Word × Word × Word
  saves : List SbEntry
  go : Hw → Hw

def Hw.geodeEntry (m : List Host.Cell) (h : Hw) (t : Nat) (faddr epc : Word) : Sum (Hw → Hw) GeodeEntry :=
  let a := (h.thread t).a
  let g := a.geode
  let page := faddr &&& ~~~(0xFFF : Word)
  if g = 0 then .inr ⟨epc, faddr, (a.crAt 1, a.crAt 2, a.crAt 3), [], id⟩
  else if !(h.thread t).b.owed.isEmpty then .inl id
  else match h.linesRead m t 1 (h.gcb g) with
    | .inl f => .inl f
    | .inr vs =>
      let v := vs.headD 0
      let sl := slotPA v a.slot
      if gcbState v = 2 then
        match h.linesRead m t 1 sl with
        | .inl f => .inl f
        | .inr ls => .inr ⟨vword v 3, page, (0, 0, 0), saveEntries h t a sl (ls.headD 0) epc, fun h => h.updArch t Arch.geodeClear⟩
      else match h.gcbHold m t g v with
        | some f => .inl f
        | none => .inr ⟨vword v 3, page, (0, 0, 0), [], fun h => (h.slotMap m g v a.slot false).updArch t Arch.geodeClear⟩

/-- The rescue of R167, and the second frame fault of R168. -/
def Hw.rescue (m : List Host.Cell) (h0 h : Hw) (t o sub : Nat) (addr faddr epc : Word) : Hw × Took :=
  let a := (h.thread t).a
  let acc : Acc := ⟨.m, true, 0⟩
  match (if Word.bit (h.reg (rescueReg t 0x50)) 0 then EChk.bad 0
         else handlerRead m h t acc (a.crAt 0xC01 + w64 (8 * 14))) with
  | .bad _ => (h.wdReset 7 t, .escalated)
  | .wait f => (f h0, .waits)
  | .ok entry =>
    match h.geodeEntry m t faddr epc with
    | .inl f => (f h0, .waits)
    | .inr g =>
      let fw := frameWords h t a .m 14 sub o g.faddr g.epc g.loop
      let h1 := forN 0 8 (fun i h => h.setReg (rescueReg t (8 * i)) (fw.getD i 0)) h
      let h2 := (((h1.setReg (rescueReg t 0x40) addr).setReg (rescueReg t 0x48) (w64 sub)).setReg (rescueReg t 0x50) 1).setReg
        (rescueReg t 0x58) (a.crAt 0xC02)
      let h3 := g.go (h2.updBack t fun b => { b with vstWait := b.vstWait ++ g.saves })
      ((h3.event (chamberReg (t / 16) 0x1000) 0).entryState t .m entry, .escalated)

/-- The level that a frame fault escalates to (R166). -/
def levelUp (x : Level) (secure : Bool) : Level := if x = .s ∧ !secure then .h else .m

/-- Entry into level x for a cause (R158). While it waits the thread is as before but for what it waits for: its instruction or interrupt
comes again. -/
def Hw.enterLvl (m : List Host.Cell) (t : Nat) : Nat → Hw → Level → Nat → Nat → Nat → Word → Word → Hw × Took
  | 0, h, _, _, _, _, _, _ => (h, .waits)
  | fuel + 1, h0, x, code, sub, orig, faddr, epc =>
    let h := h0.applyCtx t
    let a := (h.thread t).a
    let acc : Acc := ⟨x, entryWorld x a.secure, 0⟩
    let ps := a.crAt (lvlKey x acc.secure 2) - 64
    let hv := a.crAt (lvlKey x acc.secure 1) + w64 (8 * code)
    let fail := fun (s : Nat) (addr : Word) =>
      let o := if code = 14 then orig else code
      if x = .m then h.rescue m h0 t o s addr faddr epc
      else
        let r := Hw.enterLvl m t fuel h0 (levelUp x a.secure) 14 s o addr epc
        (r.1, if r.2 = .waits then .waits else .escalated)
    match frameChk m h t acc .push 0 ps with
    | .wait f => (f h0, .waits)
    | .bad s => fail s ps
    | .ok (pa, mt, _) =>
      match handlerRead m h t acc hv with
      | .wait f => (f h0, .waits)
      | .bad s => fail s hv
      | .ok entry =>
        match h.geodeEntry m t faddr epc with
        | .inl f => (f h0, .waits)
        | .inr g =>
          let push := fullEntry h t pa mt (lineOf (frameWords h t a x code sub orig g.faddr g.epc g.loop)) .push acc
          let b := (h.thread t).b
          if g.saves.isEmpty && (decide (16 ≤ b.sb.length) || !b.vstWait.isEmpty) then (h0, .waits)
          else
            let h1 := if g.saves.isEmpty then h.updBack t fun b => { b with sb := b.sb ++ [push] }
              else h.updBack t fun b => { b with vstWait := b.vstWait ++ g.saves ++ [push] }
            let h2 := (g.go h1).updArch t fun a => a.setCr (lvlKey x acc.secure 2) ps
            (h2.entryState t x entry, .cause)

/-- The level a cause is taken at (R152, R153, R156). -/
def Arch.target (a : Arch) (lvl : Level) : Level :=
  let x := if lvl = .h ∧ a.secure then Level.m else lvl
  if Level.num x < Level.num a.level then a.level else x

/-- A synchronous exception (R156): an instruction at `epc` raises a cause whose table target is `lvl`. -/
def Hw.raise (m : List Host.Cell) (h : Hw) (t : Nat) (lvl : Level) (code sub : Nat) (faddr epc : Word) : Hw :=
  (Hw.enterLvl m t 3 h ((h.thread t).a.target lvl) code sub 0 faddr epc).1

/-- A fault of an access is raised at a level. An access or dirty trap removes the matching entries of the core's buffers (R191). -/
def Hw.raiseAt (m : List Host.Cell) (h : Hw) (t : Nat) (lvl : Level) (f : Flt) (va epc : Word) : Hw :=
  let a := (h.thread t).a
  let h1 := if f.code = 5 ∨ f.code = 6 then
      let asid := Word.fld (if a.secure then a.ctx.atpSS else a.ctx.atpS) 63 48
      let hit := fun e : TlbEntry => e.hits a.secure a.ctx.vmid asid va
      h.updCore (coreOf t) fun c =>
        { c with dtlb := c.dtlb.filter (fun e => !hit e), itlb := c.itlb.filter (fun e => !hit e),
                 tlb := c.tlb.filter fun p => !hit p.2 }
    else h
  h1.raise m t lvl f.code f.sub f.faddr epc

/-- A fault of translation, address or alignment (codes 2 to 9): stage 2 goes to H; code 8 goes to H under a hypervisor
(R156). -/
def Hw.raiseFlt (m : List Host.Cell) (h : Hw) (t : Nat) (f : Flt) (va epc : Word) : Hw :=
  let a := (h.thread t).a
  h.raiseAt m t (if f.stage2 then Level.h
    else if f.code = 8 ∧ !a.secure ∧ Level.num a.level < 2 ∧ Word.fld a.ctx.atpH 1 0 ≠ 0 then .h else .s) f va epc

/-- Illegal instruction (R156 code 0). -/
def Hw.illegal (m : List Host.Cell) (h : Hw) (t : Nat) : Hw := h.raise m t .s 0 0 0 (h.thread t).a.pc

/-! ### Interrupts (R154) -/

def Thread.box (x : Thread) (n : Nat) : Inbox := sget Inbox.empty n x.inbox

/-- The claim register of inbox n is valid (R380). -/
def Hw.claimed (h : Hw) (t n : Nat) : Bool := Word.bit (h.reg (intrReg t (8 * n))) 63

/-- Inbox n has a pending interrupt (R380). -/
def Hw.boxPending (h : Hw) (t n : Nat) : Bool := !h.claimed t n && !((h.thread t).box n).queued.isEmpty

/-- A virtual interrupt is pending (R387). -/
def Hw.virtPending (h : Hw) (t : Nat) : Bool :=
  let a := (h.thread t).a
  (List.range 4).any (fun i => h.reg (intrReg t (0x40 + 8 * i)) != 0)
    && Word.bit (h.reg (intrReg t 0x20)) 63 && Level.num a.level < 2 && !a.secure
    && decide ((a.crAt 0x804).toNat = h.regF (intrReg t 0x20) 15 0)

/-- The interrupts pending for a thread: level, world (secure when true), code. -/
def Hw.pendingInts (h : Hw) (t : Nat) : List (Level × Bool × Nat) :=
  let x := h.thread t
  let late := fun k => decide ((x.a.crAt k).toNat ≤ h.time.toNat)
  [(.m, true, 32, !x.errS.recs.isEmpty), (.m, true, 34, h.boxPending t 3),
   (.h, false, 32, !x.errN.recs.isEmpty), (.h, false, 33, late 0x806), (.h, false, 34, h.boxPending t 2),
   (.s, x.a.secure, 33, late (sKey x.a.secure 0x405)),
   (.s, x.a.secure, 34, h.boxPending t (if x.a.secure then 1 else 0)),
   (.s, false, 35, h.virtPending t),
   (.s, !x.a.secure, 33, late (sKey (!x.a.secure) 0x405)),
   (.s, !x.a.secure, 34, h.boxPending t (if x.a.secure then 0 else 1))].filterMap
    fun p => if p.2.2.2 then some (p.1, p.2.1, p.2.2.1) else none

/-- R154: whether an interrupt routed to a level and world can be taken. -/
def Arch.takes (a : Arch) (x : Level) (sec : Bool) : Bool :=
  let ie := Word.bit (a.crAt (lvlKey x sec 0)) 1
  (decide (Level.num a.level < Level.num x) || (decide (a.level = x) && ie))
    && (x == .m || (if x = .h then !a.secure else a.secure == sec))

/-- The interrupts that can be taken, in the order of R154 (the list above is in that order). -/
def Hw.takable (h : Hw) (t : Nat) : List (Level × Bool × Nat) :=
  (h.pendingInts t).filter fun p => (h.thread t).a.takes p.1 p.2.1

/-- The queued record of the lowest vector, the oldest among equals (R380). -/
def Inbox.next (b : Inbox) : Option IntRec :=
  b.queued.foldl (fun x r => match x with
    | none => some r
    | some y => if r.vector < y.vector then some r else some y) none

/-- The claim register's value for a record (R380). -/
def claimWord (r : IntRec) (lost : Bool) : Word :=
  w64 (2 ^ 63 + b2n r.message * 2 ^ 62 + b2n lost * 2 ^ 61 + r.count % 256 * 2 ^ 53 + r.source % 2 ^ 24 * 2 ^ 24
    + r.vector % 2 ^ 12)

/-- What the entry of an interrupt also does once it takes effect: a claim (R380), a virtual vector (R387), an error record
(R172). -/
def Hw.consume (h : Hw) (t : Nat) (x : Level) (sec : Bool) (code : Nat) : Hw :=
  match code with
  | 32 => h.updThread t fun y =>
      if sec then { y with errS := ⟨y.errS.recs.tail, 0⟩ } else { y with errN := ⟨y.errN.recs.tail, 0⟩ }
  | 34 =>
    let n := match x with | .m => 3 | .h => 2 | _ => if sec then 1 else 0
    let b := (h.thread t).box n
    match b.next with
    | none => h
    | some r =>
      (h.setReg (intrReg t (8 * n)) (claimWord r (r.lost || b.lost))).updThread t fun y =>
        { y with inbox := sset n ⟨b.queued.erase r, false⟩ y.inbox }
  | 35 =>
    match (List.range 4).find? fun i => h.reg (intrReg t (0x40 + 8 * i)) != 0 with
    | none => h
    | some i =>
      let w := h.reg (intrReg t (0x40 + 8 * i))
      h.setReg (intrReg t (0x40 + 8 * i)) (w &&& (w - 1))
  | _ => h

/-- SUB and FADDR of an interrupt's frame (R156, R172, R380, R387). -/
def Hw.intSub (h : Hw) (t : Nat) (x : Level) (sec : Bool) (code : Nat) : Nat × Word :=
  match code with
  | 32 =>
    let q := if sec then (h.thread t).errS else (h.thread t).errN
    match q.recs with
    | r :: _ => (r.kind * 2 ^ 12 + r.err * 2 ^ 8 + min q.lost 255, r.pa)
    | [] => (0, 0)
  | 34 =>
    let n := match x with | .m => 3 | .h => 2 | _ => if sec then 1 else 0
    match ((h.thread t).box n).next with
    | some r => (b2n r.message * 2 ^ 12 + r.vector, 0)
    | none => (0, 0)
  | 35 =>
    match (List.range 4).find? fun i => h.reg (intrReg t (0x40 + 8 * i)) != 0 with
    | some i => (2 * 2 ^ 12 + 64 * i + (lowBit 64 (h.reg (intrReg t (0x40 + 8 * i))).toNat).getD 0, 0)
    | none => (0, 0)
  | _ => (0, 0)

/-- The interrupt entry of EXCEPTION_ENTRY: the first takable interrupt is taken at the thread's issue boundary (R154, R158). -/
def Hw.takeInterrupt (m : List Host.Cell) (h : Hw) (t : Nat) : Hw :=
  match h.takable t with
  | [] => h
  | (x, sec, code) :: _ =>
    let s := h.intSub t x sec code
    let r := Hw.enterLvl m t 3 h x code s.1 0 s.2 (h.thread t).a.pc
    if r.2 = .cause then r.1.consume t x sec code else r.1

/-- A record of an asynchronous error (R171, R172): queued for its world's handler, or counted as lost when 4 wait; copied to
the incident log, with the status code 0x25 of a far atomic that a remote node answered with an error above the SUB (R256; its place is a
DESIGN CHOICE, log 74); a refusal makes a record of its own (R400, R510). -/
def Hw.asyncErr (h : Hw) (t kind err : Nat) (pa : Word) (sec : Bool) : Hw :=
  let add := fun q : ErrQueue => if q.recs.length < 4 then { q with recs := q.recs ++ [⟨pa, kind, err⟩] }
    else { q with lost := min (q.lost + 1) 255 }
  let q := if sec then (h.thread t).errS else (h.thread t).errN
  let h1 := h.updThread t fun y => if sec then { y with errS := add y.errS } else { y with errN := add y.errN }
  let code := if kind = 4 ∧ err = 4 then 0x25 * 2 ^ 16 else 0
  let h2 := h1.incident 0x30 0 pa (w64 (code + kind * 2 ^ 12 + err * 2 ^ 8 + q.lost)) (blockId 13 t) sec
  if err = 2 then h2.refusalT t sec pa else h2

end Sys2Proof.Machine
end

