-- ==== Sys2Proof/Machine/Issue.lean ====
section
/-! DEFINITION. Issue and completion (R106 to R118): when an instruction of a thread is ready, its guess (R133 to R144), what its
completion does to pc, loop, counters and fetched instructions (R57, R102), and long operations with the scoreboard (R110 to
R115). An instruction that is not ready waits: its command changes nothing (log 9). -/

namespace Sys2Proof.Machine

/-! ### Readiness -/

/-- The issue class of R107, as far as readiness differs. -/
inductive Cls where
  | int | mem | long | memLong | vroot | div | solo
deriving DecidableEq, Repr

def Back.owes (b : Back) (d : Dest) : Bool := b.owed.any fun p => p.1 == d

/-- Long operations in flight that count toward 8 (R112): every one but pending loads, and a vector store whose entries are not all
allocated. -/
def Back.longCount (b : Back) : Nat :=
  (b.longs.filter fun o => o.kind != .load).length
    + b2n (b.vstWait.any fun e => match e.kind with | .save | .push => false | _ => true)

/-- The VCSR flags are owed while a vector operation that sets them has not written them (R113). -/
def Back.vcsrOwed (b : Back) : Bool := b.longs.any (·.setsFlags)

/-- The memory slot is withheld: a parked load, a vector store with entries to allocate, an acquire access that is not performed
(R123, R125, R509), a cache being disabled (R209). -/
def Hw.memHeld (h : Hw) (t : Nat) : Bool :=
  let b := (h.thread t).b
  b.parked.isSome || !b.vstWait.isEmpty || b.acqHold.isSome
    || (match (h.chamber (t / 16)).clean with
      | some c => c.l2 || c.core == coreOf t
      | none => false)

/-- A core has a unit busy: it holds a divide, or a VFDIV or VFSQRT, of any of its threads until the result is written (R111, R112). -/
def Hw.unitBusy (h : Hw) (core : Nat) (k : LongKind) : Bool :=
  (List.range 4).any fun i => (h.thread (4 * core + i)).b.longs.any fun o => o.kind == k

/-- The thread exists and runs, no enabled interrupt is pending for it, nothing of it is replaying or held at RD, and the
instruction at its pc carries no fetch fault (R106, R116, R118). -/
def Hw.issues (h : Hw) (t : Nat) : Bool :=
  let x := h.thread t
  decide (t < numThreads) && decide (x.run = .running) && h.threadUp t && x.b.replay.isNone
    && x.b.solo.isNone && x.b.tlbi.isNone && (h.takable t).isEmpty
    && (match x.f.iq with | e :: _ => !(e.flt.isSome && e.pc == x.a.pc) | [] => true)

/-- R106, R109, R112, R113: an instruction of the thread with these sources is ready. -/
def Hw.ready (h : Hw) (t : Nat) (srcs : List Dest) (c : Cls) : Bool :=
  let b := (h.thread t).b
  h.issues t && !(srcs.any b.owes) && (match c with
    | .int => true
    | .mem => !h.memHeld t
    | .long => decide (b.longCount < 8)
    | .memLong => !h.memHeld t && decide (b.longCount < 8)
    | .vroot => decide (b.longCount < 8) && !h.unitBusy (coreOf t) .vroot
    | .div => decide (b.longCount < 8) && !h.unitBusy (coreOf t) .div
    | .solo => b.owed.isEmpty && !b.vcsrOwed)

/-! ### Guesses (R133 to R137) -/

def condIndex (pc : Word) : Nat := Word.fld pc 13 2 ^^^ Word.fld pc 25 14
def indIndex (pc : Word) (hist : Nat) : Nat := (Word.fld pc 11 2 ^^^ Word.fld pc 21 12) ^^^ hist

/-- Bits [56:2] of an address, as tables and stacks hold it. -/
def held55 (w : Word) : Word := w64 (Word.fld w 56 2)
/-- The address read out: sign-extended from bit 56, bits [1:0] zero (R135). -/
def out55 (w : Word) : Word := (BitVec.ofNat 57 (w.toNat * 4)).signExtend 64

/-- What the front sees of a branch or jump. -/
inductive Flow where
  | cond (hint : Bool) (target : Word)
  | jal (push : Bool) (target : Word)
  | jalr (kind : Nat)

/-- A push of the return stack (R136). -/
def Front.push (f : Front) (ret : Word) : Front :=
  let p := (f.rasPtr + 1) % 16
  { f with ras := sset p (held55 ret) f.ras, rasPtr := p, rasCnt := min (f.rasCnt + 1) 16 }

/-- A pop of the return stack; an empty one is left as it is (R136). -/
def Front.pop (f : Front) : Front :=
  if f.rasCnt = 0 then f else { f with rasPtr := (f.rasPtr + 15) % 16, rasCnt := f.rasCnt - 1 }

/-- The stack action of a JALR kind (R50). -/
def Front.act (f : Front) (kind : Nat) (ret : Word) : Front :=
  match kind with
  | 1 => f.push ret
  | 2 => f.pop
  | 3 => f.pop.push ret
  | _ => f

def Front.shiftHist (f : Front) (d : Bool) : Front := { f with hist := (f.hist * 2 + b2n d) % 1024 }

/-- The checkpoint of the front as it stands (R140). -/
def Front.checkpoint (f : Front) : Checkpoint := ⟨f.rasPtr, f.rasCnt, sget 0 f.rasPtr f.ras, f.hist⟩

/-- The checkpoints that a thread holds: one for every branch or jump in its queue (R140). -/
def Front.held (f : Front) : Nat := (f.iq.filter fun e => e.guess.isSome).length

/-- The guess formed at DE for the instruction at pc, with its checkpoint (R133, R140). -/
def guessOf (c : Core) (f : Front) (pc : Word) : Flow → Guess
  | .cond hint tg =>
    let table := decide (2 ≤ sget 0 (condIndex pc) c.second)
    let d := if table then !hint else hint
    ⟨if table then .table else .hint, d, some (if d then tg else pc + 4), f.checkpoint⟩
  | .jal _ tg => ⟨.direct, true, some tg, f.checkpoint⟩
  | .jalr kind =>
    if kind < 2 then ⟨.ind, true, (sfind (indIndex pc f.hist) c.indirect).map out55, f.checkpoint⟩
    else ⟨.ret, true, if f.rasCnt = 0 then none else some (out55 (sget 0 f.rasPtr f.ras)), f.checkpoint⟩

/-- The action of a branch or jump on history and return stack, with its direction (R136, R137). -/
def Front.actFlow (f : Front) (pc : Word) (fl : Flow) (d : Bool) : Front :=
  match fl with
  | .cond _ _ => f.shiftHist d
  | .jal push _ => if push then f.push (pc + 4) else f
  | .jalr kind => f.act kind (pc + 4)

/-- A resolved branch or jump was mispredicted (R142): JAL never is. -/
def Guess.wrong (g : Guess) (fl : Flow) (d : Bool) (next : Word) : Bool :=
  match fl with
  | .cond _ _ => g.taken != d
  | .jal _ _ => false
  | .jalr _ => g.next != some next

/-- The BRMISS register that counts a misprediction (R151): its key, none inside a geode. -/
def Arch.brmissKey (a : Arch) (src : GuessSrc) : Option Nat :=
  let o := match src with | .hint => 0 | .table => 1 | .ind => 2 | _ => 3
  match a.level with
  | .u => if a.secure then some (0x1420 + o) else if a.geode ≠ 0 then none else some (0x020 + o)
  | .s => some (sKey a.secure 0x420 + o)
  | .h => some (0x820 + o)
  | .m => some (0xC20 + o)

/-- A branch or jump passes X2 with its actual direction and successor (R134, R135, R142, R143, R151): tables, counters, repair. An
instruction that was not fetched gets its guess as it resolves. After a misprediction the fetched instructions go, and the thread is first
in line at F1. -/
def Hw.resolve (h : Hw) (t : Nat) (pc : Word) (fl : Flow) (d : Bool) (next : Word) : Hw :=
  let x := h.thread t
  let c := h.core (coreOf t)
  let p : Front × Guess := match x.f.iq with
    | e :: _ =>
      match (if e.pc = pc then e.guess else none) with
      | some g => (x.f, g)
      | none => let f0 := x.f.empty; let g := guessOf c f0 pc fl
                ({ f0.actFlow pc fl g.taken with fetchPc := g.next.getD 0, fetchStop := g.next.isNone }, g)
    | [] => let g := guessOf c x.f pc fl
            ({ x.f.actFlow pc fl g.taken with fetchPc := g.next.getD 0, fetchStop := g.next.isNone }, g)
  let g := p.2
  let wrong := g.wrong fl d next
  let f2 := if wrong then { (p.1.restore g.cp).actFlow pc fl d with iq := [], fetchStop := true, cpWait := false } else p.1
  let c1 := if c.clearing then c else
    match fl with
    | .cond hint _ =>
      let i := condIndex pc
      let n := sget 0 i c.second
      { c with second := sset i (if d != hint then min (n + 1) 3 else n - 1) c.second }
    | .jalr kind => if kind < 2 then { c with indirect := sset (indIndex pc g.cp.hist) (held55 next) c.indirect } else c
    | .jal _ _ => c
  let c2 := if wrong then { c1 with redirect := c1.redirect.filter (· != t % 4) ++ [t % 4] } else c1
  let h1 := (h.updFront t fun _ => f2).updCore (coreOf t) fun _ => c2
  if wrong then
    match x.a.brmissKey g.src with
    | some k => h1.updArch t fun a => a.setCr k (a.crAt k + 1)
    | none => h1
  else h1

/-! ### Completion -/

/-- The end test of R57 for a completed instruction at A. -/
def Arch.endTest (a : Arch) : Arch :=
  if a.crAt 1 ≠ 0 ∧ a.pc = a.crAt 3 then
    if 1 < (a.crAt 1).toNat then { a.setCr 1 (a.crAt 1 - 1) with pc := a.crAt 2 }
    else { a.setCr 1 0 with pc := a.pc + 4 }
  else { a with pc := a.pc + 4 }

/-- The fetched instructions once the one at pc has left: kept while they are what comes next, else discarded and fetched
again at the new pc with the loop copy loaded (R105, R109, R117, R143). -/
def Front.advance (f : Front) (a : Arch) (pc : Word) : Front :=
  let q := match f.iq with
    | e :: r => if e.pc = pc then r else []
    | [] => []
  match q with
  | e :: _ => if e.pc = a.pc then { f with iq := q } else ({ f with iq := q }).discard a a.pc
  | [] => if f.fetchPc = a.pc ∧ !f.fetchStop then { f with iq := [] } else ({ f with iq := [] }).discard a a.pc

/-- How the pc moves on completion. -/
inductive Next where
  | seq                 -- the end test applies (R57)
  | noTest              -- to pc + 4, exempt from the end test (R57)
  | to (pc : Word)      -- control is transferred

/-- The instruction at pc completes at WB (R57, R90, R102); the secure watchdog starts with the first completion at M
(R416). -/
def Hw.complete (h : Hw) (t : Nat) (n : Next) : Hw :=
  let a := (h.thread t).a
  let a1 := a.setCr 0x011 (a.crAt 0x011 + 1)
  let a2 := match n with
    | .seq => a1.endTest
    | .noTest => { a1 with pc := a1.pc + 4 }
    | .to p => { a1 with pc := p }
  let h1 := h.updThread t fun x => { x with a := a2, f := x.f.advance a2 a.pc, b := { x.b with walkEnds := [], ext := [] } }
  if a.level = .m ∧ !h.swdtOn then { h1 with swdtOn := true, swdt := h.regF (chkReg 0x20100) 47 32 * 65536 } else h1

/-- A write of a register by an instruction that is no long operation: the register is owed no more (R114). -/
def Hw.writeG (h : Hw) (t : Nat) (rd : Reg) (w : Word) : Hw :=
  h.updThread t fun x =>
    { x with a := x.a.wg rd w, b := { x.b with owed := x.b.owed.filter fun p => p.1 != destG rd } }

/-- An integer instruction (R37): its sources are read, its result written, it completes. -/
def Hw.intOp (h : Hw) (t : Nat) (srcs : List Reg) (rd : Reg) (f : Arch → Word) : Hw :=
  if h.ready t (srcs.map destG) .int then (h.writeG t rd (f (h.thread t).a)).complete t .seq else h

/-! ### Long operations (R110, R113 to R115) -/

/-- A long operation issues: it owns its destination, which is owed until it writes (R113, R114). -/
def Hw.addLong (h : Hw) (t : Nat) (o : LongOp) : Hw :=
  h.updBack t fun b =>
    { b with
      longs := b.longs ++ [{ o with id := b.fresh }]
      nextId := b.fresh + 1
      owed := (if o.dest = .none then [] else [(o.dest, b.fresh)]) ++ b.owed.filter fun p => p.1 != o.dest || o.dest == .none }

/-- A long operation whose result is known when it issues. -/
def LongOp.known (k : LongKind) (d : Dest) (v : Vec) : LongOp :=
  ⟨0, k, d, true, v, 0, false, 0, false, [], none, false, false, ⟨.u, false, 0⟩, false⟩

/-- A long operation writes its result where it still owns the register; its flags are ORed into VCSR in any case
(R87, R114, R115). -/
def Hw.writeback (h : Hw) (t id : Nat) : Hw :=
  match (h.thread t).b.longs.find? fun o => o.id == id && o.ready with
  | none => h
  | some o =>
    let owns := (h.thread t).b.owed.any fun p => p.1 == o.dest && p.2 == id
    h.updThread t fun x =>
      let a1 := if owns then x.a.put o.dest o.val else x.a
      { x with
        a := if o.setsFlags then a1.setCr 0 (a1.crAt 0 ||| o.flags.setWidth 64) else a1
        b := { x.b with
          longs := x.b.longs.filter fun p => p.id != id
          owed := x.b.owed.filter fun p => !(p.1 == o.dest && p.2 == id)
          acqHold := if x.b.acqHold = some id then none else x.b.acqHold } }

end Sys2Proof.Machine
end

