-- ==== Sys2Proof/Machine/LoadOps.lean ====
section
/-! DEFINITION. What reaches a pending load, from wherever its data comes (R44, R123, R127, R171, R400). -/

namespace Sys2Proof.Machine

/-- The value that a scalar load writes (R43, R51): size bytes, sign- or zero-extended. -/
def extend (size : Nat) (signed : Bool) (v : Vec) : Word :=
  let n := v.toNat % 256 ^ size
  if signed then BitVec.ofInt 64 (toS (8 * size) n) else w64 n

/-- An operation whose parts are all there is ready (R110, R127); an error writes all ones (R171). -/
def LongOp.finish (o : LongOp) : LongOp :=
  if o.parts.all (·.done) then
    { o with ready := true,
             val := if o.bad then BitVec.allOnes 512
                      else if o.kind = .load then (extend o.size o.signed o.val).setWidth 512 else o.val }
  else o

def Hw.updLong (h : Hw) (t id : Nat) (f : LongOp → LongOp) : Hw :=
  h.updBack t fun b => { b with longs := b.longs.map fun o => if o.id = id then f o else o }

def Hw.longOf (h : Hw) (t id : Nat) : Option LongOp := (h.thread t).b.longs.find? fun o => o.id == id

/-- A part gets its bytes. -/
def Hw.putPart (h : Hw) (t id i : Nat) (bs : Bytes) : Hw :=
  h.updLong t id fun o =>
    match o.parts[i]? with
    | some p => { o with val := vput o.val p.off (bs.take p.len), parts := o.parts.set i { p with done := true } }.finish
    | none => o

/-- A part's data is refused or in error: its bytes are all ones, and a record of kind 5 is made (R171, R400). -/
def Hw.failPart (h : Hw) (t id i err : Nat) : Hw :=
  match h.longOf t id with
  | none => h
  | some o =>
    match o.parts[i]? with
    | none => h
    | some p =>
      ((h.updLong t id fun o => { o with bad := true }).putPart t id i (List.replicate p.len 0xFF)).asyncErr t 5 err p.pa
        o.acc.secure

/-- The answer to a far atomic is here, with 0 or n + 1 for ERR n; its response or acknowledgement has yet to reach the thread (R255). -/
def Hw.farAnswer (h : Hw) (t id : Nat) (v : Vec) (err : Nat) : Hw :=
  h.updLong t id fun o => { o with val := v, parts := o.parts.map fun p => { p with off := err, done := true } }

/-- The answer to an access of a thread reaches its core (R63): a part of a load, a block, a store that is performed with it, or an
atomic on a posted-interrupt descriptor (R386). `err` is 0, or
n + 1 for the ERR n of R172. -/
def Hw.coreTake (h : Hw) (w : Waiter) (pa : Word) (v : Vec) (err : Nat) : Hw :=
  match w with
  | .load t id i => if err = 0 then h.putPart t id i (vbytes v 0 64) else h.failPart t id i (err - 1)
  | .ext t fetch id => h.extDone t fetch id err (vbytes v 0 64)
  | .store t kind sec mt =>
    let h1 := h.updBack t fun b => { b with outs := b.outs.eraseP fun o => o.1 == lineNo pa && o.2.1 == mt }
    if err = 0 then h1 else h1.asyncErr t kind (err - 1) pa sec
  | .vint t id => h.updThread t fun x => { x with vint := x.vint.map fun o => if o.id = id then { o with ans := some (v, err) } else o }
  | _ => h

end Sys2Proof.Machine
end

