-- ==== Sys2Proof/Machine/IntrOps.lean ====
section
/-! DEFINITION. The interrupt router (R373 to R387): levels of wired sources, records and inboxes, claims, message remapping, posted
virtual interrupts. -/

namespace Sys2Proof.Machine

/-! ### Wired sources (R373, R374, R377, R378) -/

/-- An event register has a bit at 1 that its enable register has at 1 (R374). -/
def Hw.evtOn (h : Hw) (evt en : Nat) : Bool := (h.reg evt &&& h.reg en) % 256 != 0

/-- The present level of a wired source from what its block holds (R373, R374, R417, R445, R486). -/
def Hw.srcLevel (h : Hw) (n : Nat) : Bool :=
  if n < 0x12 then h.evtOn (linkReg n 0x10) (linkReg n 0x18)
  else if 0x20 ≤ n ∧ n < 0x2C then h.evtOn (mcReg (n - 0x20) 0x10) (mcReg (n - 0x20) 0x18)
  else if 0x30 ≤ n ∧ n < 0x34 then h.evtOn (mcReg (n - 0x30 + 12) 0x10) (mcReg (n - 0x30 + 12) 0x18)
  else if n = 0x40 then h.regF (logReg 8) 63 63 == 0 && h.logHas 0 2
  else if n = 0x41 then h.logHas 3 3 || h.dropNew
  else if n = 0x42 then Word.bit (h.reg (logReg 0x38)) 63
  else if n = 0x48 then h.regF (admReg 8) 44 32 != 0
  else if n = 0x50 then h.reg (pwrReg 0x20) != 0
  else if n = 0x51 then h.evtOn (kprReg 0x120) (kprReg 0x128)
  else if n = 0x52 then sget false n h.wired
  else if 0x100 ≤ n ∧ n < 0x148 then h.evtOn (vatReg (n - 0x100) 0x80) (vatReg (n - 0x100) 0x88)
  else if 0x200 ≤ n ∧ n < 0x248 then h.evtOn (chamberReg (n - 0x200) 0x1000) (chamberReg (n - 0x200) 0x1008)
  else false

/-- The inbox of a target level and world: 0 normal S, 1 secure S, 2 H, 3 M (R379). -/
def boxOf (lvl : Nat) (sec : Bool) : Nat := if lvl = 3 then 3 else if lvl = 2 then 2 else if sec then 1 else 0

/-- An incident of a dropped record or message (R379, R381), with ROUTER.DROP. -/
def Hw.dropMsg (h : Hw) (id : Nat) (addr : Word) : Hw :=
  (h.bump (routerReg 0x100018) 1).incident 0x52 id addr 0 (blockId 5 0) false

/-- A record enters an inbox: it coalesces, queues, spills or is dropped (R379). The second result tells that it is in the device. -/
def Hw.inboxPut (h : Hw) (t box : Nat) (r : IntRec) (spill : Bool) : Hw × Bool :=
  let b := sget Inbox.empty box (h.thread t).inbox
  let same := fun (q : IntRec) => q.source == r.source && q.message == r.message
  let put := fun (b : Inbox) => h.updThread t fun x => { x with inbox := sset box b x.inbox }
  if b.queued.any same then
    (put { b with queued := b.queued.map fun q => if same q then { q with count := min (q.count + r.count + 1) 255 } else q }, true)
  else if b.queued.length < 32 then (put { b with queued := b.queued ++ [r] }, true)
  else if !spill then (h, false)
  else if h.router.spill.length < 1024 then ({ h with router := { h.router with spill := h.router.spill ++ [(t, box, r)] } }, true)
  else ((put { b with lost := true }).dropMsg r.source onesW, false)

/-- A wired source sends its record when its entry lets it (R378). -/
def Hw.wireSend (h : Hw) (n : Nat) : Hw :=
  let w := h.reg (wireReg n)
  let t := Word.fld w 42 32
  if Word.bit w 63 && Word.bit w 61 && !Word.bit w 62 && decide (Word.fld w 60 59 ≠ 0) && decide (t < numThreads) then
    let r := h.inboxPut t (boxOf (Word.fld w 60 59) (Word.bit w 58)) ⟨false, n, Word.fld w 11 0, 0, false⟩ true
    if r.2 then r.1.setRegF (wireReg n) 62 62 1 else r.1
  else h

/-- LEVEL of a source follows its block; a rise sends (R378). -/
def Hw.wireUpdate (h : Hw) (n : Nat) : Hw :=
  let old := Word.bit (h.reg (wireReg n)) 61
  let new := h.srcLevel n
  let h1 := h.setRegF (wireReg n) 61 61 (b2n new)
  if new && !old then h1.wireSend n else h1

/-- A route entry was written: EN became 1, or LVL left 0, while the level is up (R378). -/
def Hw.wireWritten (h : Hw) (n : Nat) (old : Word) : Hw :=
  let w := h.reg (wireReg n)
  if (Word.bit w 63 && !Word.bit old 63) || (decide (Word.fld w 60 59 ≠ 0) && decide (Word.fld old 60 59 = 0)) then h.wireSend n
  else h

/-- A claim is released (R380); a wired source that is still asserted sends again (R378). -/
def Hw.releaseClaim (h : Hw) (t box : Nat) : Hw :=
  let a := intrReg t (8 * box)
  let w := h.reg a
  if !Word.bit w 63 then h
  else
    let h1 := h.setReg a 0
    if Word.bit w 62 then h1
    else
      let n := Word.fld w 35 24
      (h1.setRegF (wireReg n) 62 62 0).wireSend n

/-- The inboxes and claims of a thread are emptied; wired sources still asserted send again (R380). -/
def Hw.emptyInboxes (h : Hw) (t : Nat) : Hw :=
  let wired := ((List.range 4).flatMap fun b => ((sget Inbox.empty b (h.thread t).inbox).queued.filter fun r => !r.message).map (·.source))
    ++ (h.router.spill.filter fun s => s.1 == t && !s.2.2.message).map (fun s => s.2.2.source)
    ++ (List.range 4).filterMap fun b =>
      let w := h.reg (intrReg t (8 * b))
      if Word.bit w 63 && !Word.bit w 62 then some (Word.fld w 35 24) else none
  let h1 := (List.range 4).foldl (fun (h : Hw) b => h.setReg (intrReg t (8 * b)) 0)
    ({ h with router := { h.router with spill := h.router.spill.filter fun s => s.1 != t } }.updThread t fun x => { x with inbox := [] })
  wired.foldl (fun (h : Hw) n => (h.setRegF (wireReg n) 62 62 0).wireSend n) h1

/-! ### Messages (R375, R381, R382) -/

/-- The table a message is looked up in: secure when true (R381). -/
def Hw.msgSecure (h : Hw) : Origin → Bool
  | .device port _ => h.portSecure port
  | .churn i => Word.bit (h.reg (rinstReg i)) 60
  | .doorbell => false

/-- The key of a cached entry. -/
def remapKey (sec : Bool) (id : Nat) : Nat := id + if sec then 2 ^ 24 else 0

def Hw.mtbase (h : Hw) (sec : Bool) : Word := h.reg (routerReg (if sec then 0x100008 else 0x100000))

/-- The address of a remap entry. -/
def Hw.remapAddr (h : Hw) (sec : Bool) (id : Nat) : Word :=
  w64 (h.node * 2 ^ 48 + (Word.fld (h.mtbase sec) 47 12 * 4096 + 16 * id) % 2 ^ 48)

/-- Whether an address is in the populated part of a memory range of this node (R381). -/
def Hw.ownMem (h : Hw) (pa : Word) : Bool :=
  match h.decodePA pa with
  | .ok .ddr | .ok (.pool _) | .ok (.cxl _) => true
  | _ => false

/-- Why an entry drops a message (R381). -/
def remapBad (sec : Bool) (o : Origin) (e0 e1 : Word) : Bool :=
  let virt := Word.bit e0 62
  let lvl := Word.fld e0 61 60
  let skind := Word.fld e0 58 57
  let orig := match skind, o with
    | 0, _ => true
    | 1, .device port rid => decide (Word.fld e0 56 54 = port) && decide (Word.fld e0 47 32 = rid.toNat)
    | 2, .churn i => decide (Word.fld e0 47 32 = i)
    | _, _ => false
  !Word.bit e0 63 || decide (skind = 3) || decide (Word.fld e0 53 48 ≠ 0) || decide (Word.fld e0 31 12 ≠ 0) || !orig
    || (!sec && (lvl == 3 || Word.bit e0 59))
    || (if virt then decide (Word.fld e0 11 8 ≠ 0) || decide (Word.fld e1 5 0 ≠ 0)
        else decide (lvl = 0) || decide (numThreads ≤ Word.fld e1 10 0) || decide (e1.toNat / 2 ^ 11 ≠ 0))

/-- The far atomic that posts a virtual vector (R385): its PIR bit and CTL.ON. -/
def pidSet (pid : Word) (vec : Nat) : LineOp := farOp pid 64 (BitVec.ofNat 512 (2 ^ vec + 2 ^ 318)) 2 0 .wb

/-- A message with its entry: dropped, delivered to an inbox, or a far atomic to a posted-interrupt descriptor (R381, R385). -/
def Hw.deliverMsg (h : Hw) (o : Origin) (id : Nat) (e0 e1 : Word) : Hw :=
  let sec := h.msgSecure o
  if remapBad sec o e0 e1 then h.dropMsg id (h.remapAddr sec id)
  else if Word.bit e0 62 then
    let n := h.router.nextPost
    let vec := Word.fld e0 7 0
    let q := h.domReq (.router n) (.far (pidSet e1 vec)) ⟨.s, sec, 0⟩ e1
    let h1 := q.getD h
    { h1 with router := { h1.router with posting := h1.router.posting ++ [⟨n, id, e1, vec, sec, if q.isSome then none else some (0, 1)⟩], nextPost := n + 1 } }
  else
    (h.inboxPut (Word.fld e1 10 0) (boxOf (Word.fld e0 61 60) (Word.bit e0 59)) ⟨true, id, Word.fld e0 11 0, 0, false⟩ true).1

/-- The read of a message's entry is sent, coherent and judged at S in the table's world; outside the populated memory of this node it is an
error (R381). -/
def Hw.lookMsg (h : Hw) (o : Origin) (id : Nat) : Hw :=
  let sec := h.msgSecure o
  let pa := h.remapAddr sec id
  let n := h.router.nextPost
  let q := if h.ownMem pa then h.domReq (.router n) (.read (pa.toNat % 64) 16) ⟨.s, sec, 0⟩ pa else none
  let h1 := q.getD h
  { h1 with router := { h1.router with looking := h1.router.looking ++ [⟨n, o, id, if q.isSome then none else some (0, 1)⟩], nextPost := n + 1 } }

/-- A message is presented to the router (R375, R381): an ID at or above the table's size is dropped; a cached entry serves it at once;
else its entry is read. -/
def Hw.presentMsg (h : Hw) (o : Origin) (id : Nat) : Hw :=
  let sec := h.msgSecure o
  if 2 ^ Word.fld (h.mtbase sec) 4 0 ≤ id then h.dropMsg id onesW
  else match sfind (remapKey sec id) h.router.cache with
    | some e => h.deliverMsg o id e.1 e.2
    | none => h.lookMsg o id

/-- A message of a device or an instance leaves for the router over the mesh (R19, R375). -/
def Hw.sendMsg (h : Hw) (src : Nat) (o : Origin) (id : Nat) : Hw := h.send vcReq src (blockStop .router) (.irq o id)

/-- A message reaches the router; a signal of an instance is then accepted (R375, R390). -/
def Hw.takeMsg (h : Hw) (o : Origin) (id : Nat) : Hw :=
  match o with
  | .churn i =>
    if h.router.signals.contains (i, id) then
      { h with router := { h.router with signals := h.router.signals.erase (i, id) } }.presentMsg o id
    else h
  | _ => h.presentMsg o id

/-- The answer to a read or an atomic of the router has come (R381, R385). -/
def Hw.routerTake (h : Hw) (n : Nat) (v : Vec) (err : Nat) : Hw :=
  let r := h.router
  { h with router := { r with
      looking := r.looking.map fun x => if x.n = n then { x with ans := some (v, err) } else x
      posting := r.posting.map fun x => if x.n = n then { x with ans := some (v, err) } else x } }

/-- A new entry is cached; which one it replaces when 4,096 are held is not specified (R381). -/
def Hw.cacheRemap (h : Hw) (k : Nat) (e : Word × Word) : Hw :=
  let c := h.router.cache
  if c.length < 4096 then { h with router := { h.router with cache := sset k e c } }
  else
    let i := (Config.freeWord h.fresh).toNat % 4096
    { h.tick with router := { h.router with cache := sset k e (c.eraseIdx i) } }

/-- The read of a message's entry has returned (R381): refused, in error, or a value. -/
def Hw.remapRead (h : Hw) (o : Origin) (id : Nat) (v : Vec) (err : Nat) : Hw :=
  let sec := h.msgSecure o
  if err ≠ 0 then h.dropMsg id (h.remapAddr sec id)
  else
    let e := (vword v 0, vword v 1)
    (h.cacheRemap (remapKey sec id) e).deliverMsg o id e.1 e.2

/-- A write of ROUTER.INVAL (R382, R394). Reads of covered entries that are out are made again, so that no old version enters the cache. -/
def Hw.routerInval (h : Hw) (v : Word) : Hw :=
  let sec := Word.bit v 62
  let r := h.router
  let hit := fun (k : Nat) => if Word.bit v 63 then decide (2 ^ 24 ≤ k) == sec else k == remapKey sec (Word.fld v 23 0)
  let old := fun (x : RtrLook) => hit (remapKey (h.msgSecure x.origin) x.id)
  let h1 := { h with router := { r with cache := r.cache.filter fun e => !hit e.1, looking := r.looking.filter fun x => !old x,
                                        inval := some r.nextPost } }
  ((r.looking.filter old).foldl (fun (h : Hw) x => h.lookMsg x.origin x.id) h1).setRegF (routerReg 0x100010) 0 0 1

/-! ### Posted virtual interrupts (R384 to R386) -/

/-- BUSY of a thread's VCTL follows its operations in flight (R386). -/
def Hw.setVint (h : Hw) (t : Nat) (ops : List VintOp) : Hw :=
  (h.updThread t fun x => { x with vint := ops }).setRegF (intrReg t 0x20) 61 61 (b2n (!ops.isEmpty))

/-- The descriptor address that VPID holds, on this node as it stands (R386). -/
def Hw.vpid (h : Hw) (t : Nat) : Word := h.reg (intrReg t 0x28)

/-- The vectors that VPEND holds (R386). -/
def Hw.vpend (h : Hw) (t : Nat) : Vec := lineOf ((List.range 4).map fun i => h.reg (intrReg t (0x40 + 8 * i)))

/-- Each word of VPEND is written. -/
def Hw.setVpend (h : Hw) (t : Nat) (f : Nat → Word → Word) : Hw :=
  (List.range 4).foldl (fun (h : Hw) i => h.setReg (intrReg t (0x40 + 8 * i)) (f i (h.reg (intrReg t (0x40 + 8 * i))))) h

/-- A far atomic of 32 bytes on the first half of a descriptor leaves the thread's chamber (R386), judged in the normal world; it fails where the
address is no Normal memory of the domain. It is the last of the thread's virtual-interrupt operations, or is already among them. -/
def Hw.vintSend (h : Hw) (t : Nat) (o : VintOp) (op : Nat) (data : Vec) : Hw :=
  let q := h.domReq (.core t (.vint t o.id)) (.far (farOp o.pid 32 data op 0 .wb)) ⟨.h, false, 0⟩ o.pid
  let x : VintOp := { o with sent := true, ans := if q.isSome then none else some (0, 1) }
  let h1 := q.getD h
  h1.setVint t ((h1.thread t).vint.map fun y => if y.id = o.id then x else y)

/-- A virtual-interrupt operation joins those of its thread. -/
def Hw.vintAdd (h : Hw) (t : Nat) (fold : Bool) : Hw × VintOp :=
  let o : VintOp := ⟨fold, h.vpid t, (h.thread t).b.nextId, false, none⟩
  ((h.updBack t fun b => { b with nextId := b.nextId + 1 }).setVint t ((h.thread t).vint ++ [o]), o)

/-- A fold goes once every pull before it has returned: VPEND is ORed into PIR and cleared (R386). -/
def Hw.vintGo (h : Hw) (t : Nat) : Hw :=
  match (h.thread t).vint with
  | o :: _ => if o.fold && !o.sent then (h.vintSend t o 2 (h.vpend t)).setVpend t fun _ _ => 0 else h
  | [] => h

/-- A pull starts: PIR is swapped with zero (R386). -/
def Hw.startPull (h : Hw) (t : Nat) : Hw := let r := h.vintAdd t false; r.1.vintSend t r.2 8 0

/-- A notification reaches a thread (R386). -/
def Hw.notify (h : Hw) (t : Nat) (pid : Word) : Hw :=
  if Word.bit (h.reg (intrReg t 0x20)) 63 && h.vpid t == pid then h.startPull t else h

/-- VCTL was written (R386): ACTIVE from 1 to 0 starts the fold, PULL a pull. -/
def Hw.vctlWritten (h : Hw) (t : Nat) (old v : Word) : Hw :=
  let h1 := if Word.bit old 63 && !Word.bit (h.reg (intrReg t 0x20)) 63 then (h.vintAdd t true).1.vintGo t else h
  if Word.bit v 62 then h1.startPull t else h1

end Sys2Proof.Machine
end

