-- ==== Sys2Proof/Machine/MediumOps.lean ====
section
/-! DEFINITION. The media (chapter 12): records, activations, corrections, failed devices, row repair, mirrors, poison, and the figures of
MC.SURVEY and POOL.SURVEY. -/

namespace Sys2Proof.Machine

def isDdr (mc : Nat) : Bool := decide (mc < 12)

/-- The block ID of a controller (R443). -/
def mcBlock (mc : Nat) : Nat := if mc < 12 then blockId 2 mc else blockId 3 (mc - 12)

/-- Every controller is secure-held while an enabled region has OWNER 1 or 2 (R413). -/
def Hw.mcSecure (h : Hw) : Bool :=
  (List.range 64).any fun n =>
    let a := h.reg (chkReg (0x20 * n + 16))
    Word.bit a 63 && (Word.fld a 57 56 == 1 || (Word.fld a 57 56 == 2 && Word.fld a 43 32 != 0))

/-- A channel-local index of a controller: of a DDR line, of a DDR line in a stack in cache mode, of a Pool line (R316, R318, R319). -/
def Hw.mcIndex (h : Hw) (mc line : Nat) : Nat :=
  if mc < 12 then (h.ddrHome line).2
  else if lineLocal line < 0x080000000000 then (h.poolPlace line).1
  else lineLocal line % 0x800000000 / 64

/-- The LOC word of R341 of a channel-local line, without device and codewords. -/
def locAt (mc idx : Nat) : Nat :=
  let u := if mc < 12 then 2 ^ 26 else 2 ^ 31
  Config.dramLoc mc idx / u * u

/-- Row, bank, rank and subchannel of a LOC word (R341). -/
def locRow (l : Nat) : Nat := l / 2 ^ 37
def locBank (l : Nat) : Nat := l / 2 ^ 55
def locRank (mc l : Nat) : Nat := if mc < 12 then l / 2 ^ 60 % 8 else 0
def locSub (l : Nat) : Nat := l / 2 ^ 63 % 2

/-- The device field of LOC that names none (R341). -/
def noDevice (mc : Nat) : Nat := if mc < 12 then 31 * 2 ^ 21 else 0

/-- A record of a memory event (R341, R342). -/
def Hw.memRecord (h : Hw) (mc type : Nat) (pa : Word) (loc : Nat) : Hw :=
  let r : Record := ⟨w64 (type * 2 ^ 56 + if mc < 12 then mc * 2 ^ 51 else 2 ^ 55 + (mc - 12) * 2 ^ 51), pa, w64 loc, h.time⟩
  h.placeRecord (bankOf (mcBlock mc)) r (mcBlock mc) h.mcSecure (Record.sev r)

/-! ### The lines of a channel (R316, R317, R319, R340) -/

/-- The first line of a channel's spare region, and of its mirror region (R317). -/
def Hw.spareBase (h : Hw) (mc : Nat) : Nat := (h.mc mc).capacity / 64 - 16384
def Hw.hiddenBase (h : Hw) (mc : Nat) : Nat :=
  let n := max h.included.length 1
  h.spareBase mc - (h.mirror * 2 ^ 30 + n - 1) / n

/-- A line of a medium: its controller, its channel-local index, its line number where it has an address. -/
structure MPlace where
  mc : Nat
  idx : Nat
  line : Option Nat
deriving DecidableEq, Repr

def MPlace.loc (p : MPlace) : Nat := locAt p.mc p.idx
def MPlace.rank (p : MPlace) : Nat := locRank p.mc p.loc
/-- The PA of a record: all ones for a line without an address (R341). -/
def MPlace.pa (p : MPlace) : Word := match p.line with | some l => w64 (l * 64) | none => onesW

def Hw.placeOf (h : Hw) (mc line : Nat) : MPlace := ⟨mc, h.mcIndex mc line, some line⟩

/-- How many lines a controller's medium has. -/
def Hw.mediumLines (h : Hw) (mc : Nat) : Nat := if mc < 12 then (h.mc mc).capacity / 64 else 402653184

/-- The line with a channel-local index. In the hidden regions, and above DDR_TOP, it has no address; in a stack in cache mode, that of the DDR
line it holds (R317, R319). -/
def Hw.placeAt (h : Hw) (mc idx : Nat) : MPlace :=
  ⟨mc, idx,
    if mc < 12 then
      let e := h.included
      let l := idx * e.length + (e.findIdx? (· == mc)).getD 0
      if idx < h.hiddenBase mc ∧ l * 64 < h.ddrTop then some (h.node * 2 ^ 42 + l) else none
    else if h.regF (mcReg mc 0) 0 0 = 1 then (sfind idx (h.mc mc).pool).map fun t => h.poolLine (mc - 12) idx t.1
    else some (h.node * 2 ^ 42 + (0x080000000000 + (mc - 12) * 0x800000000) / 64 + idx)⟩

/-- A line of the lowest M granules of 64 GiB has a secondary copy (R340). -/
def Hw.mirrored (h : Hw) (line : Nat) : Bool := decide (lineLocal line < h.mirror * 2 ^ 36)

/-- Where the secondary copy of a mirrored line is (R340). -/
def Hw.secondary (h : Hw) (line : Nat) : Option MPlace :=
  let e := h.included
  let n := e.length
  let l := line % 2 ^ 42
  if !h.mirrored line ∨ n < 2 then none
  else
    let mc := e.getD ((l % n + n / 2) % n) 0
    some ⟨mc, h.hiddenBase mc + l / n, none⟩

/-- A line is poisoned in its medium (R327). -/
def Hw.placeBad (h : Hw) (p : MPlace) : Bool :=
  match p.line with
  | some l => h.memBad l
  | none => (h.mc p.mc).badHidden.contains p.idx

/-- A life counter of a rank advances, saturating, in the field hi to lo (R332, R343). -/
def Hw.lifeUp (h : Hw) (a hi lo n : Nat) : Hw := h.setRegF a hi lo (min (h.regF a hi lo + n) (2 ^ (hi + 1 - lo) - 1))

/-- SURVGEN advances with a change of a survey item (R451). -/
def Hw.survGen (h : Hw) : Hw := h.setRegF (kprReg 0x200) 31 0 (h.regF (kprReg 0x200) 31 0 + 1)

/-! ### Survey figures (R301, R315, R320, R343) -/

def surveyReg (mc : Nat) : Nat := mcReg mc (if mc < 12 then 0 else 8)

/-- USABLE of a controller before the halving of R330 (R320). -/
def Hw.usable (h : Hw) (mc : Nat) : Nat :=
  if mc < 12 then
    let ranks := (List.range 8).filterMap fun r => let w := h.reg (mcReg mc (0x200 + 8 * r)); if Word.bit w 63 then some w else none
    let cls := ranks.foldl (fun n w => max n (Word.fld w 51 50)) 0
    256 - ([8, 16, 32].getD cls 32 + 8 + 1 + 2 + if ranks.any fun w => Word.fld w 61 57 != 31 then 24 else 0)
  else 240

/-- USABLE is recorded anew; a change is a change of survey figure (R310, R330, R374). -/
def Hw.setUsable (h : Hw) (mc : Nat) : Hw :=
  let u := h.usable mc
  let v := if (h.mc mc).hot then u / 2 else u
  let h1 := h.updMc mc fun x => { x with usableFull := u }
  if h.regF (surveyReg mc) 31 24 = v then h1
  else ((h1.setRegF (surveyReg mc) 31 24 v).event (mcReg mc 0x10) 0).survGen.surveyChanged

/-! ### Activations (R331, R332) -/

/-- A row is opened where it is not open already: the activation counts in the bank's tracker, and at the threshold the row's victims are
refreshed. Whether a row that was opened has been closed since depends on the scheduling, which the spec leaves open (log 43). -/
def Hw.openRow (h0 : Hw) (mc row rank : Nat) : Hw :=
  let h := h0.tick
  let x := h.mc mc
  let bk := row / 2 ^ 18
  if sfind bk x.opened = some row ∧ (Config.freeWord h0.fresh).getLsbD 0 then h
  else
    let bank := x.trackers.filter fun p => p.1 / 2 ^ 18 == bk
    let tr := match sfind row x.trackers, bank with
      | some n, _ => sset row (n + 1) x.trackers
      | none, p :: ps =>
        if bank.length < 16 then sset row 1 x.trackers
        else
          let low := ps.foldl (fun (a : Nat × Nat) q => if q.2 < a.2 then q else a) p
          sset row (low.2 + 1) (sdel low.1 x.trackers)
      | none, [] => sset row 1 x.trackers
    let th := if mc < 12 then h.regF (mcReg mc 0x100) 11 0 else Config.poolActth
    let atLimit := decide (th ≤ sget 0 row tr)
    let n := sget 0 rank x.acts + 1
    let h1 := h.updMc mc fun x => { x with
      opened := sset bk row x.opened, trackers := if atLimit then sset row 0 tr else tr, acts := sset rank (n % 2 ^ 20) x.acts
      refreshed := if atLimit then some (x.drfm, if x.drfm then row else bk) else x.refreshed }
    let h2 := if atLimit then h1.lifeUp (mcReg mc (0x340 + 8 * rank)) 63 0 1 else h1
    if n = 2 ^ 20 then h2.lifeUp (mcReg mc (0x300 + 8 * rank)) 63 0 1 else h2

/-- The LOC word of the spare row with a number (R317): 256 lines of the spare region. -/
def Hw.spareLoc (h : Hw) (mc s : Nat) : Nat := locAt mc (h.spareBase mc + 256 * s)

/-- The LOC word of the row that a line's data is in: a spare's once the remap has switched (R333). -/
def Hw.rowOf (h : Hw) (p : MPlace) : Nat :=
  match sfind (locRow p.loc) (h.mc p.mc).remap with
  | some s => h.spareLoc p.mc s
  | none => p.loc

/-- An access to a line opens its row. -/
def Hw.activate (h : Hw) (p : MPlace) : Hw := let l := h.rowOf p; h.openRow p.mc (locRow l) (locRank p.mc l)

/-- The row of a line is open: a command for it is ready (R321). -/
def Hw.rowOpen (h : Hw) (p : MPlace) : Bool := let r := locRow (h.rowOf p); sfind (r / 2 ^ 18) (h.mc p.mc).opened == some r

/-! ### Run-time row repair (R333 to R335) -/

def Hw.spareFree (x : Mc) : Option Nat :=
  (List.range 64).find? fun s => !(x.remap.any fun p => p.2 == s) && (match x.copy with | some c => c.spare != s | none => true)

def Hw.setSpares (h : Hw) (mc : Nat) : Hw :=
  if mc < 12 then
    let x := h.mc mc
    h.setRegF (mcReg mc 0x400) 6 0 (x.remap.length + (match x.copy with | some c => if c.back then 0 else 1 | none => 0))
  else h

/-- The next waiting row begins its copy into the lowest free spare; without one it is not repaired (R333). A Pool stack repairs by its
own means and uses no spare (R334). -/
def Hw.nextRepair (h : Hw) (mc : Nat) : Hw :=
  let x := h.mc mc
  match x.copy, x.repairs with
  | none, row :: rest =>
    if 12 ≤ mc then h.updMc mc fun x => { x with repairs := rest, copy := some ⟨row, 0, false⟩ }
    else match Hw.spareFree x with
      | some s => (h.updMc mc fun x => { x with repairs := rest, copy := some ⟨row, s, false⟩ }).setSpares mc
      | none => ((h.updMc mc fun x => { x with repairs := rest }).memRecord mc 0x0C onesW (row * 2 ^ 37 + 31 * 2 ^ 21)).event (mcReg mc 0x10) 4
  | _, _ => h

/-- A row is to be repaired (R333). -/
def Hw.repairRow (h : Hw) (mc row : Nat) : Hw :=
  let x := h.mc mc
  if x.repairs.contains row || (sfind row x.remap).isSome || (match x.copy with | some c => c.row == row | none => false) then h
  else (h.updMc mc fun x => { x with repairs := x.repairs ++ [row] }).nextRepair mc

/-- The repair log entry of a row, STATE 1 (R335). -/
def logEntry (row : Nat) : Word :=
  w64 (2 ^ 60 + fld row 26 26 * 2 ^ 59 + fld row 24 23 * 2 ^ 57 + fld row 22 20 * 2 ^ 54 + fld row 19 18 * 2 ^ 52 + fld row 17 0 * 2 ^ 34)

/-- The repair log that a controller's rows are entered in, with the key of its first entry (R335): the DIMM's, or for a Pool stack Keeper's. -/
def Hw.repairLogOf (h : Hw) (mc row : Nat) : SMap Word × Nat :=
  if mc < 12 then ((h.mc mc).repairLog, 48 * fld row 25 25) else (h.keeper.poolLog, 48 * (mc - 12))

def Hw.setRepairLog (h : Hw) (mc : Nat) (l : SMap Word) : Hw :=
  if mc < 12 then h.updMc mc fun x => { x with repairLog := l } else { h with keeper := { h.keeper with poolLog := l } }

/-- A row is entered in its repair log as queued; a full log is recorded (R334, R335). An entry of the row that stands becomes queued. A log that
cannot be written is left alone. -/
def Hw.logRepair (h : Hw) (mc row : Nat) : Hw :=
  let q := h.repairLogOf mc row
  let e := logEntry row
  let at_ := fun (k : Nat) => sget 0 (q.2 + k) q.1
  if decide (mc < 12) && (h.mc mc).wprot.contains (fld row 25 25) then h
  else match (List.range 48).find? fun k => Word.fld (at_ k) 63 60 != 0 && (at_ k).toNat % 2 ^ 60 == e.toNat % 2 ^ 60 with
    | some k => h.setRepairLog mc (sset (q.2 + k) e q.1)
    | none => match (List.range 48).find? fun k => Word.fld (at_ k) 63 60 == 0 with
      | some k => h.setRepairLog mc (sset (q.2 + k) e q.1)
      | none => (h.memRecord mc 0x0C onesW (row * 2 ^ 37 + noDevice mc)).event (mcReg mc 0x10) 4

/-! ### Decoding a line (R322, R323, R325, R326) -/

/-- What decoding a line gives: nothing wrong; corrected, with the device, the codewords, and whether that is all of them; taken for another
line that looks correctable, with the summary it seems to have; an uncorrectable line; an unreadable summary. -/
inductive Decoded where
  | clean
  | fixed (dev : Nat) (cws : List Nat) (whole : Bool)
  | wrong (dev : Nat) (cws : List Nat) (whole : Bool) (summary : Nat)
  | lost
  | dark
deriving DecidableEq, Repr

/-- A device number of a rank: those of subchannel B follow those of A (R341; log 159). Two symbols of an x8 device follow each other. -/
def symDevice (x8 paired : Bool) (sub k : Nat) : Nat := (k + if paired then 0 else 10 * sub) / if x8 then 2 else 1

/-- The wrong symbols of one codeword can be corrected (R322): one symbol; with a device marked failed only that device's in the normal layout
of x4, and in the paired layout that device's and one further symbol, of the second failed device if there is one. -/
def codewordOk (x8 paired : Bool) (f1 f2 sub : Nat) (ks : List Nat) : Bool :=
  let dev := symDevice x8 paired sub
  let rest := ks.filter fun k => dev k != f1
  if paired then decide (rest.length ≤ 1) && (f2 == 31 || rest.all fun k => dev k == f2)
  else
    let per := if x8 then 5 else 10
    match [f1, f2].find? fun f => f != 31 && f / per == sub with
    | some f => if x8 then decide (ks.length ≤ 1) else ks.all fun k => dev k == f
    | none => decide (ks.length ≤ 1)

/-- The decode of a DDR line under the four values of its summary (R323): a value counts when no codeword places an error on the implied symbol,
and the value with the fewest corrected symbols is taken. Another value than the line's puts an error there in every codeword that has none
of its own. -/
def decodeDdr (x8 paired : Bool) (f1 f2 sub summary : Nat) (e : ReadErr) : Decoded :=
  let n := if paired then 4 else 8
  let syms := (e.syms.filter fun p => decide (p.1 < n ∧ p.2 < if paired then 20 else 10)).eraseDups
  let inCw := fun (c : Nat) => (syms.filter fun p => p.1 == c).map (·.2)
  let hit := (List.range n).filter fun c => !(inCw c).isEmpty
  let good := (List.range n).all fun c => codewordOk x8 paired f1 f2 sub (inCw c)
  let devs := (syms.map fun p => symDevice x8 paired sub p.2).eraseDups
  let rest := devs.filter fun d => !(paired && d == f1)
  let own := if good then [(summary, syms.length, if rest.length ≤ 1 then (rest ++ devs).headD 31 else 31)] else []
  let cs := own ++ e.mis.filter fun c => decide (c.1 < 4) && (if c.1 = summary then !good else decide (hit.length = n))
  let few := cs.foldl (fun a c => min a c.2.1) (cs.headD (0, 0, 0)).2.1
  if syms.isEmpty then .clean
  else match cs.filter fun c => c.2.1 == few with
    | [(v, _, d)] =>
      if d = 31 then .lost
      else if v = summary ∧ good then .fixed d hit (decide (hit.length = n))
      else .wrong d (if v = summary then hit else List.range n) (v != summary || decide (hit.length = n)) v
    | _ => .dark

/-- The decode of a Pool line (R326): SEC-DED over each of two codewords, after the stack's own correction. -/
def decodePool (summary : Nat) (e : ReadErr) : Decoded :=
  let syms := e.syms.eraseDups
  let n := fun (c : Nat) => (syms.filter fun p => p.1 == c).length
  if syms.isEmpty then .clean
  else if syms.contains (2, 1) then .lost
  else if n 0 ≤ 1 ∧ n 1 ≤ 1 then .fixed 31 ((List.range 2).filter fun c => n c == 1) false
  else match e.mis with
    | c :: _ => if (List.range 2).all fun c => decide (n c ≠ 2) then .wrong 31 [0, 1] false (c.1 % 4) else .lost
    | [] => .lost

/-- The rank of a line is in the paired layout where the line stands: the whole rank is, or its conversion has passed the line's pair (R325). -/
def Hw.pairedAt (h : Hw) (p : MPlace) : Bool :=
  let w := h.reg (mcReg p.mc (0x200 + 8 * p.rank))
  Word.bit w 62 || (Word.fld w 61 57 != 31 && decide (Config.pairOf p.mc p.idx < Word.fld w 31 0))

/-- The decode of a line as it stands (R322, R325, R326). -/
def Hw.decode (h : Hw) (p : MPlace) (e : ReadErr) : Decoded :=
  let summary := match p.line with | some l => sget 0 l h.dirMem | none => 0
  if p.mc < 12 then
    let w := h.reg (mcReg p.mc (0x200 + 8 * p.rank))
    let x8 := match sfind (p.rank / 4) (h.mc p.mc).dimms with | some d => d.width == 8 | none => false
    decodeDdr x8 (h.pairedAt p) (Word.fld w 61 57) (Word.fld w 56 52) (locSub p.loc) summary e
  else decodePool summary e

/-! ### Corrections and failed devices (R324, R333) -/

def day : Nat := 24 * 3600 * 25000000

def distinct (l : List Nat) : Nat := l.eraseDups.length

/-- A device is marked failed: the first puts its rank on the way to the paired layout (R324). -/
def Hw.failDevice (h : Hw) (p : MPlace) (dev : Nat) : Hw :=
  let a := mcReg p.mc (0x200 + 8 * p.rank)
  let w := h.reg a
  let hit := fun (h : Hw) => (h.memRecord p.mc 6 p.pa (p.loc + dev * 2 ^ 21)).event (mcReg p.mc 0x10) 1
  if Word.fld w 61 57 = dev ∨ Word.fld w 56 52 = dev then h
  else if Word.fld w 61 57 = 31 then (hit ((h.setRegF a 61 57 dev).setRegF a 31 0 0)).setUsable p.mc
  else if Word.fld w 56 52 = 31 then hit (h.setRegF a 56 52 dev)
  else h

/-- A correction at a line by a device: counted, recorded, and held against the tests of R324, the second of which has no time limit, and of R333. -/
def Hw.correctAt (h : Hw) (p : MPlace) (dev : Nat) (cws : List Nat) (whole : Bool) : Hw :=
  let loc := p.loc
  let mc := p.mc
  let rank := p.rank
  let recent := fun (c : Corr) => decide (h.time.toNat < c.time + day)
  let h1 := ((h.lifeUp (mcReg mc (0x380 + 8 * rank)) 31 0 1).memRecord mc 1 p.pa
    (loc + (if mc < 12 then dev % 32 * 2 ^ 21 + cws.foldl (fun n c => n + 2 ^ c) 0 * 2 ^ 13 else 0))).updMc mc fun x =>
      { x with corrs := (x.corrs.filter fun c => c.whole || recent c) ++ [⟨loc, dev, whole, h.time.toNat⟩] }
  let own := (h1.mc mc).corrs.filter fun c => c.device == dev && locRank mc c.loc == rank
  let late := own.filter recent
  if mc < 12 ∧ (16 ≤ distinct (late.map fun c => locRow c.loc) ∨ 2 ≤ distinct (late.map fun c => locBank c.loc)
      ∨ 2 ≤ distinct ((own.filter (·.whole)).map fun c => locRow c.loc)) then h1.failDevice p dev
  else if 4 ≤ ((h1.mc mc).corrs.filter fun c => recent c && locRow c.loc == locRow loc).length then h1.repairRow mc (locRow loc)
  else h1

/-- An uncorrectable error at a line: recorded with a TYPE, held against the refresh class, and its row is to be repaired (R329, R333). -/
def Hw.uncorrectable (h : Hw) (p : MPlace) (type : Nat) : Hw :=
  ((h.memRecord p.mc type p.pa (p.loc + noDevice p.mc)).updMc p.mc fun x =>
    { x with uncTimes := x.uncTimes ++ [(p.rank, h.time.toNat)] }).repairRow p.mc (locRow p.loc)

/-- A line is written back poisoned (R327), unless a cache holds a newer value of it. -/
def Hw.spoil (h : Hw) (p : MPlace) : Hw :=
  match p.line with
  | some l => if (sfind l h.newest).isSome then h else h.setPoison l true
  | none => h.updMc p.mc fun x => { x with badHidden := if x.badHidden.contains p.idx then x.badHidden else x.badHidden ++ [p.idx] }

/-- A line that reads as another one: what it then holds is not stated (R322). -/
def spoilValue (p : MPlace) (summary : Nat) (q : List Host.Cell × Hw) : List Host.Cell × Hw :=
  match p.line with
  | none => q
  | some l =>
    let h := { q.2 with dirMem := if summary = 0 then sdel l q.2.dirMem else sset l summary q.2.dirMem }
    if (sfind l h.newest).isSome then (q.1, h)
    else (memPut (lineLocal l) (vbytes (Config.freeVec h.fresh) 0 64) q.1, h.tick)

/-- A controller reads a line of its medium, by demand, by scrub or for a conversion (R322 to R324, R327, R339): 0 good, 5 uncorrectable and now
poisoned, 6 so with an unreadable summary. `keep` tells that a good copy elsewhere replaces it (R340). -/
def readAt (p : MPlace) (e : ReadErr) (keep : Bool) (q : List Host.Cell × Hw) : List Host.Cell × Hw × Nat :=
  let h := q.2
  let bad := fun (type n : Nat) =>
    if keep then (q.1, h.uncorrectable p 3, 0) else (q.1, (h.uncorrectable p type).spoil p, n)
  match h.decode p e with
  | .clean => (q.1, h, 0)
  | .fixed d c w => (q.1, h.correctAt p d c w, 0)
  | .wrong d c w v => let r := spoilValue p v (q.1, h.correctAt p d c w); (r.1, r.2, 0)
  | .lost => bad 4 5
  | .dark => bad 5 6

/-- The secondary copy of a line can be read (R340). -/
def Hw.secondGood (h : Hw) (q : MPlace) (e : ReadErr) : Bool :=
  !(h.mc q.mc).failed && !h.placeBad q && (match h.decode q e with | .lost | .dark => false | _ => true)

/-- A line is read: from the primary, and where that is uncorrectable, or its channel has failed, from the secondary (R328, R340). Besides the
outcomes of `readAt`, 7 says that a failed channel returns poison. -/
def readLine (p : MPlace) (e second : ReadErr) (q : List Host.Cell × Hw) : List Host.Cell × Hw × Nat :=
  let h := q.2
  let two := if p.mc < 12 then p.line.bind h.secondary else none
  if (h.mc p.mc).failed then
    match two with
    | none => (q.1, h, 7)
    | some s =>
      if (h.mc s.mc).failed || h.placeBad s then (q.1, h, 7)
      else
        let r := readAt s second false (q.1, h.activate s)
        (r.1, if r.2.2 = 0 then r.2.1 else r.2.1.spoil p, r.2.2)
  else if h.placeBad p then (q.1, h, 0)
  else match h.decode p e, two with
    | .lost, some s | .dark, some s =>
      let r := if (h.mc s.mc).failed || h.placeBad s then (q.1, h, 0) else readAt s second false (q.1, h.activate s)
      readAt p e (h.secondGood s second) (r.1, r.2.1)
    | _, _ => readAt p e false q

/-- A write of a line is lost with its channels (R328, R340). -/
def Hw.lostWrite (h : Hw) (mc line : Nat) : Bool :=
  (h.mc mc).failed && (match (if mc < 12 then h.secondary line else none) with | some s => (h.mc s.mc).failed | none => true)

/-- A write also goes to the secondary copy (R340). -/
def Hw.writeSecond (h : Hw) (mc line : Nat) (bad : Bool) : Hw :=
  match if mc < 12 then h.secondary line else none with
  | none => h
  | some s =>
    (h.activate s).updMc s.mc fun x => { x with badHidden := if bad then x.badHidden ++ [s.idx] else x.badHidden.filter (· != s.idx) }

/-- The lines that a failed stack in cache mode alone held are lost (R328; DESIGN CHOICE, log 141). -/
def Hw.poolLost (h : Hw) (mc : Nat) : Hw :=
  ((h.mc mc).pool.filter fun p => p.2.2).foldl (fun (g : Hw) p =>
    let l := h.poolLine (mc - 12) p.1 p.2.1
    if (sfind l g.newest).isSome then g else g.setPoison l true) h

/-- A channel fails with reason 6, a Pool stack with reason 4 (R328, R343, R442). -/
def Hw.failChannel (h : Hw) (mc : Nat) : Hw :=
  let a := surveyReg mc
  let h0 := if mc < 12 then h else h.poolLost mc
  let h1 := ((h0.updMc mc fun x => { x with failed := true, retries := 0 }).setRegF a 47 32 0).setRegF a 3 0 (if mc < 12 then 6 else 4)
  (((h1.event (mcReg mc 0x10) 2).event (mcReg mc 0x10) 0).memRecord mc 0x0D onesW (noDevice mc)).survGen.surveyChanged

end Sys2Proof.Machine
end

