-- ==== Sys2Proof/Machine/LinkCtl.lean ====
section
/-! DEFINITION. Links going up and down (R344 to R348, R352, R353, R356 to R358, R364, R393). -/

namespace Sys2Proof.Machine

/-- The width of the link that begins at lane j of port k, 0 when none does (R344), under the BIF and SPLIT that the port last trained
with (R345). -/
def Hw.formed (h : Hw) (k j : Nat) : Nat :=
  let cfg := w64 (sget 0 k h.linkCfg)
  let bifv := Word.fld cfg 14 0
  if k < 8 then
    if j = 0 ∨ (j < 16 ∧ bifv / 2 ^ (j - 1) % 2 = 1) then
      match (List.range 16).find? fun e => decide (j ≤ e) && (e == 15 || decide (bifv / 2 ^ e % 2 = 1)) with
      | some e => e + 1 - j
      | none => 0
    else 0
  else if k < 14 then (if j = 0 then 16 else 0)
  else if Word.bit cfg 16 then (if j % 4 = 0 ∧ j < 16 then 4 else 0)
  else if j = 0 then 16 else 0

/-- The difference of positions that Gallery link i joins (R357); link 5 joins what the link named by GALLERY.SPARE.COVER does. -/
def linkDiff (i : Nat) : Nat := if i < 4 then 2 ^ i else 15

def Hw.diffOf (h : Hw) (i : Nat) : Nat := linkDiff (if i = 5 then h.regF (linkReg 8 0x3000) 2 0 else i)

/-- The largest width of a link that is at most n (R344). -/
def widthFloor (n : Nat) : Nat := ([16, 8, 4, 2, 1].find? fun w => decide (w ≤ n)).getD 0

/-- The width at which link j of port k comes up, of `width` lanes that it has in common with its partner, with failed lanes `lf` (R344, R346): a
Gallery or Passage link keeps an aligned healthy part of 16, 8 or 4 lanes; 0 when there is none. PCIe and CXL have degraded already. -/
def linkWidth (k j full width lf : Nat) : Nat :=
  if k < 8 then widthFloor (min width full)
  else ([16, 8, 4].find? fun w => decide (w ≤ min width full) && (List.range (full / w)).any fun i =>
    (List.range w).all fun l => decide (lf / 2 ^ (j + i * w + l) % 2 = 0)).getD 0

/-! ### Link-state messages (R358) -/

/-- The links up here, one bit each. -/
def Hw.galMask (h : Hw) : Nat := (List.range 6).foldl (fun n i => if h.linkUp (8 + i) 0 then n + 2 ^ i else n) 0

/-- A link-state message goes out on every link that is up but one. -/
def Hw.flood (h : Hw) (pos mask chg : Nat) (but : Option Nat) : Hw :=
  (List.range 6).foldl (fun (h : Hw) i =>
    if h.linkUp (8 + i) 0 && some (8 + i) != but then h.linkSend (8 + i) 0 (.ls pos mask chg) else h) h

/-- A change of the links up at this socket is told to every other. -/
def Hw.linkStateChange (h : Hw) : Hw :=
  match h.ownPos with
  | none => h
  | some p =>
    let old := sget (0, 0) p h.lsMap
    let mk := h.galMask
    if old.1 = mk then h
    else ({ h with lsMap := sset p (mk, old.2 + 1) h.lsMap }).flood p mk (old.2 + 1) none

/-! ### LINK.STAT and what follows its changes -/

/-- LINK.LTR_j is recorded; a change sets the LTR event (R353, R374). -/
def Hw.setLtr (h : Hw) (k j v : Nat) : Hw :=
  let a := linkReg k (0x200 + 8 * j)
  if h.reg a = w64 v then h else (h.setReg a (w64 v)).event (linkReg k 0x10) 1

/-- LINK.STAT_j is recorded: the STATE event, the tolerance of R353, the survey (R346, R451), the link-state map. -/
def Hw.setStat (h : Hw) (k j : Nat) (w : Word) : Hw :=
  let old := h.reg (statReg k j)
  let was := decide (2 ≤ Word.fld old 63 61)
  let now := decide (2 ≤ Word.fld w 63 61)
  let h1 := h.setReg (statReg k j) w
  let h2 := if Word.fld old 63 61 ≠ Word.fld w 63 61 then h1.event (linkReg k 0x10) 0 else h1
  let h3 := if now && !was then h2.setLtr k j 0 else if !now then h2.setLtr k j 0xFFFFFFFF else h2
  let h4 := if old = w then h3 else h3.survGen
  let h5 := if was != now || (now && decide (Word.fld old 56 48 ≠ Word.fld w 56 48)) then h4.surveyChanged else h4
  if 8 ≤ k ∧ k < 14 then h5.linkStateChange else h5

/-- STATE and REASON. -/
def Hw.setLinkState (h : Hw) (k j st reason : Nat) : Hw :=
  h.setStat k j (Word.setFld (Word.setFld (h.reg (statReg k j)) 63 61 st) 60 57 reason)

/-- The record of a link that is down or held down (R481). -/
def Hw.linkRecord (h : Hw) (k j : Nat) (w : Word) : Hw := h.incident 0x40 (k + 32 * j) 0 w (blockId 4 k) (h.portSecure k)

/-- Posted writes of a root port are discarded: the store has ended, with an incident of their number (R352, R374). -/
def Hw.postDrop (h : Hw) (k n : Nat) : Hw :=
  if n = 0 then h else (h.event (linkReg k 0x10) 3).incident 0x41 k 0 (w64 n) (blockId 4 k) (h.portSecure k)

/-- The accesses of a root port that no link of it can complete end (R352): reads as all ones with a record; writes without an Ack are
discarded. -/
def Hw.mmioFail (h : Hw) (k : Nat) : Hw :=
  let rs := h.mmio.filter fun r => r.port == k
  let h1 := rs.foldl (fun (h : Hw) r => h.answerCore (portStop k) false r.who r.pa 0 (b2n !r.wr)) { h with mmio := h.mmio.filter fun r => r.port != k }
  let h2 := if rs.any (!·.wr) then h1.event (linkReg k 0x10) 2 else h1
  h2.postDrop k (rs.filter (·.wr)).length

/-- A Gallery link failed: its retry buffer is frozen, and messages to the positions it leads to are held (R364). -/
def Hw.startFailover (h : Hw) (k : Nat) : Hw :=
  let pos := (List.range 16).filter fun d => h.route d == some k
  (h.updLink k 0 fun l => { l with failing := true, heldPos := pos }).event (linkReg k 0x10) 7

/-- A link goes down (R348, R352, R356, R364, R393). Which links of a port serve which requests the device knows from its bus numbers;
here reads end, and reservations of the port are revoked, with the port's last link (log 44). -/
def Hw.linkFall (h : Hw) (k j reason : Nat) : Hw :=
  if !h.linkUp k j then
    (if (h.link k j).training then (h.updLink k j fun l => { l with training := false }).setLinkState k j 1 reason else h)
  else
    let h1 := ((h.linkRecord k j (h.reg (statReg k j))).setLinkState k j 1 reason).updLink k j fun l => { l with training := false }
    if k < 8 then
      if (List.range 16).any fun i => h1.linkUp k i then h1 else (h1.mmioFail k).revokeFunc k fun _ => true
    else if k < 14 then h1.startFailover k
    else h1

/-- A link retrains with its lanes and sequence numbers kept; the third retrain within 1 s takes it down (R356). -/
def Hw.retrain (h : Hw) (k j : Nat) : Hw :=
  let now := h.time.toNat
  let ts := ((h.link k j).retrains.filter fun t => decide (now < t + 25000000)) ++ [now]
  let h1 := (h.updLink k j fun l => { l with retrains := ts, replays := 0, training := true }).event (linkReg k 0x10) 6
  if 3 ≤ ts.length then h1.linkFall k j 7 else h1.setLinkState k j 3 0

/-- BIF and SPLIT take effect at a port's next training (R345): a link whose width they change falls, and a lane where no link begins is not
formed. -/
def Hw.latchCfg (h : Hw) (k : Nat) : Hw :=
  let c := (h.reg (linkReg k 0)).toNat % 2 ^ 17
  if sget 0 k h.linkCfg = c then h
  else
    let h1 := { h with linkCfg := sset k c h.linkCfg }
    (List.range 16).foldl (fun (g : Hw) j =>
      if h.formed k j = h1.formed k j then g
      else
        let g1 := g.linkFall k j 1
        if h1.formed k j = 0 then g1.setStat k j 0 else g1) h1

/-- Training starts (R344 to R346, R356, R357, R363, R371): a lane where no link begins is not formed; a disabled port stays down; a device in
reset by PERST# does not train; a socket without a group position trains no Gallery link, and link 5 is not trained in MODE 0. A Gallery or Passage
link that is up retrains. Several valid entries with its own node make an incident (its TYPE is not stated: log 45). -/
def Hw.startTraining (h0 : Hw) (k j : Nat) : Hw :=
  let h := h0.latchCfg k
  if 18 ≤ k ∨ 16 ≤ j then h0
  else if h.formed k j = 0 then h.setStat k j 0
  else if h.regF (linkReg k 0) 18 18 = 1 then
    (if h.linkUp k j then h.linkFall k j 9 else h.setLinkState k j 1 9)
  else if k < 8 ∧ sget false k h.pins.perst then h
  else if 8 ≤ k ∧ k < 14 ∧ (h.ownPos.isNone ∨ (k = 13 ∧ h.regF (linkReg 8 0x3000) 5 4 = 0)) then h
  else
    let many := 8 ≤ k ∧ k < 14 ∧ 1 < (h.group.filter fun g => g.2 == h.node).length
    let h1 := (if many then h.incident 0x50 5 onesW 0 (blockId 4 k) false else h).updLink k j fun l => { l with since := h.time.toNat }
    if h.linkUp k j then (if k < 8 then (h1.updLink k j fun l => { l with training := true }).setLinkState k j 3 0 else h1.retrain k j)
    else
      let h2 := h1.updLink k j fun l => { l with training := true }
      if h.linkState k j = 0 then h2.setLinkState k j 1 1 else h2

/-- The links of a port. -/
def Hw.portLinks (h : Hw) (k : Nat) : List Nat := (List.range 16).filter fun j => decide (h.formed k j ≠ 0)

/-- Every link of a port goes down. -/
def Hw.portDown (h : Hw) (k reason : Nat) : Hw := (List.range 16).foldl (fun (h : Hw) j => h.linkFall k j reason) h

/-- Every link of a port starts training. -/
def Hw.portTrain (h : Hw) (k : Nat) : Hw := (List.range 16).foldl (fun (h : Hw) j => h.startTraining k j) h

/-- LINK.CFG was written: DISABLE keeps every link of the port down (R371). -/
def Hw.cfgWritten (h : Hw) (k : Nat) : Hw :=
  if h.regF (linkReg k 0) 18 18 = 1 then
    (h.portLinks k).foldl (fun (h : Hw) j => if h.linkUp k j then h.linkFall k j 9 else
      (h.updLink k j fun l => { l with training := false }).setLinkState k j 1 9) h
  else h

/-- A function entry was written: reservations of a requester ID that is cleared or replaced are revoked (R393). -/
def Hw.funcWritten (h : Hw) (k : Nat) (old new : Word) : Hw :=
  if Word.bit old 63 && (!Word.bit new 63 || decide (Word.fld old 15 0 ≠ Word.fld new 15 0)) then
    h.revokeFunc k fun r => r == Word.fld old 15 0
  else h

end Sys2Proof.Machine
end

