-- ==== Sys2Proof/Machine/PowerOps.lean ====
section
/-! DEFINITION. What software and other requesters start in the power controller and the region-checker block (R4, R411 to R415, R421 to
R427, R444, R447): frequency changes, the power limit, block requests, package control, hand-overs. -/

namespace Sys2Proof.Machine

/-! ### Rails and clocks (R418 to R427) -/

def railReg (r : Nat) : Nat := pwrReg (0x600 + 8 * r)
def freqReg (c : Nat) : Nat := pwrReg (0x100 + 8 * c)

/-- The rail of a chamber (R418). -/
def railOf (c : Nat) : Nat := c / 6

def Hw.rail (h : Hw) (r : Nat) : Rail := sget Rail.reset r h.rails
def Hw.updRail (h : Hw) (r : Nat) (f : Rail → Rail) : Hw := { h with rails := supd Rail.reset r f h.rails }

/-- The ceiling of R422 at the next listed clock. -/
def ceilMv (f : Nat) : Nat :=
  if f ≤ 400 then 600 else if f ≤ 1000 then 630 else if f ≤ 1500 then 670 else if f ≤ 2100 then 720
  else if f ≤ 2600 then 780 else if f ≤ 3000 then 860 else 950

/-- The fused voltage of a chamber at a clock, rounded up to 5 mV, within the rail's range and the ceiling (R418, R422; log 40). -/
def mvAt (c f : Nat) : Nat := min (max ((Config.fusedMv c f + 4) / 5 * 5) 600) (ceilMv f)

/-- The clock that R423 grants a chamber. -/
def Hw.freqWanted (h : Hw) (c : Nat) : Nat :=
  min (h.regF (freqReg c) 15 0) (min h.pkgCeil (min (h.chamber c).ceiling h.binMax))

/-- The key of a scope: 0 a core, 1 a chamber, 2 a die, 3 the package, which is number 0. -/
def scopeKey (scope n : Nat) : Nat := scope * 1024 + n

/-- The set-point of a rail: the largest fused voltage among its chambers in Run, in Drip or on their way back, at the clock they run at or
rise to (R423). -/
def Hw.railMv (h : Hw) (r : Nat) : Nat :=
  (List.range 6).foldl (fun n i =>
    let c := 6 * r + i
    let x := h.chamber c
    let f := match x.change with
      | some y => if y.up then y.target else x.freq
      | none => x.freq
    let waking := match sfind (scopeKey 1 c) h.trans with
      | some y => y.step != 0
      | none => false
    if x.pstate = .run ∨ x.pstate = .drip ∨ waking = true then max n (mvAt c f) else n) 600

def Hw.degraded (h : Hw) (r : Nat) : Bool := Word.bit (h.reg (railReg r)) 0

/-- A rail's set-point follows its chambers (R423), never upward while DEGRADED (R421). -/
def Hw.railFollow (h : Hw) (r : Nat) : Hw :=
  let v := h.railMv r
  let old := h.regF (railReg r) 63 48
  if v = old ∨ (h.degraded r ∧ old < v) then h else (h.setRegF (railReg r) 63 48 v).updRail r fun y => { y with want := some v }

/-- A change of a chamber begins: BUSY, then a new set-point or a glide down (R424). -/
def Hw.freqStart (h : Hw) (c f : Nat) : Hw :=
  let r := railOf c
  let x := h.chamber c
  let h1 := h.setRegF (freqReg c) 63 63 1
  if x.freq < f then
    let h2 := h1.updChamber c fun y => { y with change := some ⟨f, true, false⟩ }
    let v := if h.degraded r then h.regF (railReg r) 63 48 else h2.railMv r
    (h2.setRegF (railReg r) 63 48 v).updRail r fun y => { y with want := some v }
  else h1.updChamber c fun y => { y with change := some ⟨f, false, true⟩ }

/-- A rail takes the next change of its chambers, one at a time (R425); while DEGRADED no clock is granted whose voltage exceeds the set-point
in force (R421). -/
def Hw.freqKick (h : Hw) (r : Nat) : Hw :=
  let cs := (List.range 6).map (6 * r + ·)
  if cs.any fun c => (h.chamber c).change.isSome then h
  else match cs.find? fun c =>
      let f := h.freqWanted c
      f != (h.chamber c).freq && (!h.degraded r || decide (mvAt c f ≤ h.regF (railReg r) 63 48) || decide (f < (h.chamber c).freq)) with
    | some c => h.freqStart c (h.freqWanted c)
    | none => h

def Hw.freqKickAll (h : Hw) : Hw := (List.range 12).foldl (fun (h : Hw) r => h.freqKick r) h

/-- A change ends without being granted (R424, R425). -/
def Hw.freqCancel (h : Hw) (c : Nat) : Hw :=
  ((h.updChamber c fun y => { y with change := none }).setRegF (freqReg c) 63 63 0).updRail (railOf c) fun y => { y with want := none }

/-- REQ was written (R424, R425): a lower request during step 3 ends the raise. -/
def Hw.freqWritten (h : Hw) (c : Nat) : Hw :=
  let h1 := match (h.chamber c).change with
    | some y => if y.up && !y.gliding && decide (h.freqWanted c < y.target) then h.freqCancel c else h
    | none => h
  h1.freqKick (railOf c)

/-- A rail becomes DEGRADED (R420, R421); a raise that waits for its set-point ends. -/
def Hw.degrade (h : Hw) (r : Nat) : Hw :=
  if h.degraded r then h
  else
    let h1 := (h.setRegF (railReg r) 0 0 1).event (pwrReg 0x20) 3
    let h2 := h1.incident 0x60 r 0 (h1.reg (railReg r)) (blockId 10 r) false
    (List.range 6).foldl (fun (h : Hw) i => match (h.chamber (6 * r + i)).change with
      | some y => if y.up && !y.gliding then h.freqCancel (6 * r + i) else h
      | none => h) h2

/-- A power limit is asked for (R4): outside 400 W to the bin's top it is refused, with an incident. -/
def Hw.limitReq (h : Hw) (watts : Nat) : Hw × Bool :=
  if 400 ≤ watts ∧ watts ≤ h.binTop then (h.setRegF (pwrReg 0) 15 0 watts, true)
  else (h.incident 0x56 (watts % 65536) 0 0 (blockId 9 0) false, false)

/-- Every clock stops and the core rails go to 0.60 V, until PWROK is asserted again (R447, R501). -/
def Hw.powerStop (h : Hw) : Hw :=
  (List.range 12).foldl (fun (h : Hw) r => h.setRegF (railReg r) 63 48 600)
    { h with off := true, bootWait := none, wdFire := none, pins := { h.pins with pwrok := false } }

/-- A power failure (R420, R447, R501): cause 2 is written, and the device waits for PWROK. -/
def Hw.powerFail (h : Hw) : Hw := if h.off then h else (h.causeWrite 2 0 0 false).powerStop

/-! ### Leaving a power state (R430, R435, R439, R441 to R443) -/

def PState.num : PState → Nat
  | .run => 0
  | .drip => 1
  | .still => 2
  | .sump => 3
  | .deep => 4

def Hw.scopeState (h : Hw) (scope n : Nat) : PState :=
  match scope with
  | 0 => sget .run (n % 4) (h.chamber (n / 4)).cstate
  | 1 => (h.chamber n).pstate
  | 2 => h.dieState n
  | _ => h.pkg.state

/-- A scope is in a state; a chamber's rail follows (R423), and PWR.STAT.PKG shows the package's. -/
def Hw.setScope (h : Hw) (scope n : Nat) (st : PState) : Hw :=
  match scope with
  | 0 => h.updChamber (n / 4) fun x => { x with cstate := sset (n % 4) st x.cstate }
  | 1 => (h.updChamber n fun x => { x with pstate := st }).railFollow (railOf n)
  | 2 => { h with dies := sset n st h.dies }
  | _ => { h with pkg := { h.pkg with state := st, since := h.time } }.setRegF (pwrReg 8) 31 28 st.num

/-- The steps of R442 that a state of a scope stopped (R430, R438). -/
def wakeSteps (scope : Nat) : PState → List Nat
  | .still => if scope = 1 then [2, 4] else if scope = 3 then [2, 3, 4] else []
  | .sump => if scope = 0 then [1, 4] else if scope = 1 then [1, 2, 4] else if scope = 3 then [1, 2, 3, 4] else []
  | .deep => if scope = 3 then [1, 2, 3, 4] else []
  | _ => []

/-- Every line of a cache is invalid and its INV bit is 1; the enable bit stays (R210). -/
def Cache.afterSump (c : Cache) (places : Nat) : Cache := { c with lines := [], cov := 2 ^ places - 1 }

/-- The caches of a core, or of a chamber, after Sump (R210, R431). -/
def Hw.cachesInvalid (h : Hw) (scope n : Nat) : Hw :=
  let core := fun (h : Hw) (c : Nat) => (h.updL1i c fun x => x.afterSump 1024).updL1d c fun x => x.afterSump 1024
  if scope = 0 then core h n
  else ((List.range 4).foldl (fun (h : Hw) i => core h (4 * n + i)) h).updL2 n fun x => x.afterSump 65536

/-- An exit of a core, chamber or die begins (R435, R442); a state that stopped nothing is left at once. -/
def Hw.startExit (h : Hw) (scope n : Nat) (target : PState) : Hw :=
  match wakeSteps scope (h.scopeState scope n) with
  | [] => h.setScope scope n target
  | k :: _ =>
    let h1 := { h with trans := sset (scopeKey scope n) ⟨target, k, 0, false⟩ h.trans }
    if scope = 1 then h1.railFollow (railOf n) else h1

/-- The last step of an exit is ready: the scope is in its new state. -/
def Hw.endExit (h : Hw) (scope n : Nat) (target : PState) : Hw :=
  let h1 := if h.scopeState scope n = .sump then h.cachesInvalid scope n else h
  { h1 with trans := sdel (scopeKey scope n) h1.trans }.setScope scope n target

/-- A last-wake record enters the ring (R443). -/
def Hw.lastWake (h : Hw) (x : WakeRec) : Hw :=
  let n := (h.regF (pwrReg 0x2100) 2 0 + 1) % 8
  let a := pwrReg (0x2000 + 0x20 * n)
  let w := w64 (x.cause * 2 ^ 56 + x.state * 2 ^ 52 + x.step * 2 ^ 48 + x.block % 2 ^ 16 * 2 ^ 32 + x.source % 2 ^ 24)
  let h1 := (((h.setReg a w).setReg (a + 8) x.time).setReg (a + 16)
    (w64 ((h.time - x.time).toNat % 2 ^ 32 * 2 ^ 32 + x.held % 2 ^ 32))).setReg (a + 24) 0
  ((h1.setRegF (pwrReg 0x2100) 63 32 (min (h1.regF (pwrReg 0x2100) 63 32 + 1) (2 ^ 32 - 1))).setRegF (pwrReg 0x2100) 2 0 n).event
    (pwrReg 0x20) 2

/-- A step of a package exit begins: step 1 releases SLP_DEEP# and commands the core rails to their set-points (R442). -/
def Hw.pkgStep (h : Hw) (k : Nat) : Hw :=
  let h1 := { h with pkg := { h.pkg with wstep := k, tries := 0 } }
  if k = 1 then (List.range 12).foldl (fun (h : Hw) r => h.railFollow r) { h1 with pins := { h1.pins with slpDeep := false } } else h1

/-- The package runs again: the record of the exit or abort is written, and PCIe links that Deep Sump turned off retrain (R436, R443). -/
def Hw.pkgDone (h : Hw) : Hw :=
  let p := h.pkg
  let h1 := match p.wake with
    | some x => h.lastWake x
    | none => h
  let h2 := { h1 with pkg := PkgPower.reset }.setScope 3 0 .run
  if p.state = .deep ∨ p.target = some .deep then
    (List.range 8).foldl (fun (h : Hw) k => h.portTrain k) h2
  else h2

/-- A refusal in prepare ends the attempt with nothing stopped (R438). -/
def Hw.refuseAttempt (h : Hw) : Hw :=
  ({ h with pkg := { h.pkg with target := none, step := 0, ready := [], acks := [], refused := true } }).bump (pwrReg 0x918) 1

/-- A wake event reaches the package (R438, R439, R441): it refuses in prepare, aborts an entry after COMMIT, undoing the stops made in
wake order (of several aborts in one tick the lowest block is recorded), or starts the exit. The package leaves a state towards Run, and the choice of R434 is then made again. -/
def Hw.pkgExit (h : Hw) (cause block source : Nat) : Hw :=
  let p := h.pkg
  if p.stuck then h
  else match p.wake with
  | some x =>
    if x.cause = 6 ∧ cause = 6 ∧ x.time = h.time ∧ block < x.block then
      { h with pkg := { p with wake := some { x with block := block, source := source } } }
    else h
  | none => match p.target with
    | some s =>
      if p.step < 2 then h.refuseAttempt
      else { h with pkg := { p with wake := some ⟨6, block, source, s.num, 6 - p.step, h.time, 0⟩, ready := [] } }.pkgStep (6 - p.step)
    | none =>
      match wakeSteps 3 p.state with
      | [] => h.setScope 3 0 .run
      | k :: _ =>
        let held := min (h.time - p.since).toNat (2 ^ 32 - 1)
        { h with pkg := { p with wake := some ⟨cause, block, source, p.state.num, 0, h.time, held⟩ } }.pkgStep k

/-- A wake event for a core, chamber or die (R435): an entry under way finishes first; a parked chamber takes no interrupt (R444). -/
def Hw.scopeWake (h : Hw) (scope n : Nat) (target : PState) : Hw :=
  let parked : Bool := match scope with
    | 0 => (h.chamber (n / 4)).park.isSome
    | 1 => (h.chamber n).park.isSome
    | _ => false
  match sfind (scopeKey scope n) h.trans with
  | some t => if t.step = 0 then { h with trans := sset (scopeKey scope n) { t with woken := true } h.trans } else h
  | none => if parked ∨ h.scopeState scope n = .run then h else h.startExit scope n target

/-- A thread's wake event: its core, chamber, die and the package wake (R437, R441). -/
def Hw.wakeThread (h : Hw) (t cause source : Nat) : Hw :=
  (((h.scopeWake 0 (t / 4) .run).scopeWake 1 (t / 16) .run).scopeWake 2 (t / 288) .run).pkgExit cause (blockId 0 (t / 16)) source

/-! ### Secure-held blocks (R413) -/

/-- The block of a hand-over in progress, as a block ID; an instance or a source is no block of R413. -/
def Hw.handBlock (h : Hw) : Option Nat :=
  match h.hand with
  | some x => if Word.fld x.word 61 60 = 0 then some (blockId 4 (Word.fld x.word 11 0)) else none
  | none => none

def Hw.chamberSecure (h : Hw) (c : Nat) : Bool :=
  (List.range 16).any fun i =>
    let x := h.thread (16 * c + i)
    x.run != .stopped && (x.a.secure || x.a.level == .m)

def Hw.sliceSecure (h : Hw) (s : Nat) : Bool :=
  h.insts.any fun p =>
    let w := h.reg (rinstReg p.1)
    Word.bit w 60 && decide (Word.fld w 63 61 = 2 ∨ Word.fld w 63 61 = 3) && decide (h.regF (instReg p.1 0) 6 0 = s)

/-- A block, by its ID (R443), is secure-held. -/
def Hw.secureHeld (h : Hw) (b : Nat) : Bool :=
  let n := b % 4096
  h.handBlock == some b || (match b / 4096 with
    | 0 => h.chamberSecure n
    | 1 => h.sliceSecure n
    | 2 | 3 => h.mcSecure
    | 4 => h.portSecure n
    | _ => false)

/-- Some block of the package is secure-held (R415). -/
def Hw.anySecure (h : Hw) : Bool :=
  h.handBlock.isSome || h.mcSecure || (List.range 8).any h.portSecure
    || h.threads.any (fun p => p.2.run != .stopped && (p.2.a.secure || p.2.a.level == .m)) || (List.range numSlices).any h.sliceSecure

/-! ### Block requests (R414, R444) -/

def blkReg : Nat := pwrReg 0x800

/-- The save area is valid and lies in populated DDR (R431). -/
def Hw.saveOk (h : Hw) : Bool :=
  let w := h.reg (pwrReg 0x910)
  Word.bit w 63 && decide (Word.fld w 47 12 * 4096 + numThreads * 4096 ≤ h.ddrTop)

/-- Rows of R444 that are INVALID. A park that needs the save area without a valid one is taken as INVALID (DESIGN CHOICE, log 49). -/
def Hw.blkInvalid (h : Hw) (b a : Nat) : Bool :=
  let n := b % 4096
  match b / 4096 with
  | 0 => decide (numChambers ≤ n) || (decide (2 ≤ a) && !h.saveOk)
  | 1 => decide (numSlices ≤ n) || a == 3
  | 4 => decide (8 ≤ n) || a == 1 || a == 2
  | _ => true

/-- A slot's power, in bit 16 of the port's slot status: 1 while it is off. -/
def Hw.slotPower (h : Hw) (k : Nat) (on : Bool) : Hw :=
  { h with slotStat := supd 0 k (fun n => n - n / 2 ^ 16 % 2 * 2 ^ 16 + b2n (!on) * 2 ^ 16) h.slotStat }

/-- A request that is neither INVALID nor HELD begins; BUSY until the block has reached the state. -/
def Hw.blkBegin (h : Hw) (b a : Nat) : Hw :=
  let n := b % 4096
  let h1 := ({ h with blkreq := some ⟨b, a⟩ }.setRegF blkReg 62 62 1).setRegF blkReg 61 60 0
  match b / 4096, a with
  | 0, 0 => (h1.updChamber n fun x => { x with park := none }).scopeWake 1 n .run
  | 0, 1 => h1.updChamber n fun x => { x with park := some .drip }
  | 0, 2 => h1.updChamber n fun x => { x with park := some .still }
  | 0, 3 => h1.updChamber n fun x => { x with park := some .sump }
  | 1, 0 => h1.updSlice n fun x => { x with engineOff := false }
  | 1, 1 | 1, 2 => h1.updSlice n fun x => { x with engineOff := true }
  | 4, 0 => (h1.slotPower n true).portTrain n
  | 4, 3 => h1.portDown n 1
  | _, _ => h1

/-- A HELD request becomes the block's deferred one; an earlier one is discarded (R414). -/
def Hw.deferReq (h : Hw) (b a : Nat) : Hw :=
  let h1 := if (sfind b h.deferred).isSome then h.event (pwrReg 0x20) 1 else h
  { h1 with deferred := sset b a h1.deferred }

/-- GO was written to PWR.BLKREQ (R444): the checks of ANSWER in order. -/
def Hw.blkGo (h : Hw) (lvl : Level) : Hw :=
  let w := h.reg blkReg
  let b := Word.fld w 15 0
  let a := Word.fld w 57 56
  if h.blkreq.isSome then h
  else if h.blkInvalid b a then h.setRegF blkReg 61 60 2
  else if lvl ≠ .m ∧ h.secureHeld b then (h.deferReq b a).setRegF blkReg 61 60 1
  else h.blkBegin b a

/-- The number that stands for the package among deferred requests. -/
def pkgBlock : Nat := blockId 9 0

/-- PWR.PKGCTL was written: DEEPOK := 1 from H is a package-level request (R415, R444). -/
def Hw.pkgWritten (h : Hw) (lvl : Level) (old : Word) : Hw :=
  let a := pwrReg 0x900
  if Word.bit (h.reg a) 63 && !Word.bit old 63 then
    (if lvl ≠ .m ∧ h.anySecure ∧ !Word.bit (h.reg (chkReg 0x20020)) 0 then
      ((h.deferReq pkgBlock 0).setRegF a 63 63 0).setRegF a 62 61 1
    else h.setRegF a 62 61 0)
  else h

/-! ### Hand-overs (R411, R412) -/

def handReg : Nat := chkReg 0x20010

/-- The STATUS with which a hand-over is not started: 1 a state that forbids it, 2 already held by the receiving world. -/
def Hw.handRefused (h : Hw) (kind : Nat) (toNormal : Bool) (index : Nat) : Option Nat :=
  match kind with
  | 0 => if 8 ≤ index then some 1 else if h.portSecure index = !toNormal then some 2 else none
  | 1 =>
    if 512 ≤ index then some 1
    else
      let st := h.regF (rinstReg index) 63 61
      if st ≠ 1 ∧ st ≠ 4 then some 1 else if Word.bit (h.reg (rinstReg index)) 60 = !toNormal then some 2 else none
  | 2 => if 4096 ≤ index then some 1 else if wireSecure (h.reg (wireReg index)) = !toNormal then some 2 else none
  | _ => some 1

/-- GO starts a hand-over of the block that the register names; `forced` tells that outstanding transfers will be ended (STATUS 3). Written with
the reserved KIND 3 it acts on the KIND that stands, which R10 keeps (DESIGN CHOICE, log 169: R412 gives STATUS 1 for a KIND that is wrong). -/
def Hw.handGo (h : Hw) (forced : Bool) (frame : Option Frame) : Hw :=
  let w := h.reg handReg
  let kind := Word.fld w 61 60
  let index := Word.fld w 11 0
  if h.hand.isSome then h
  else match h.handRefused kind (Word.bit w 59) index with
    | some st => h.setRegF handReg 58 56 st
    | none =>
      let h1 := { h with hand := some ⟨w, if forced ∧ kind = 0 then 3 else 0, frame⟩ }.setRegF handReg 62 62 1
      if kind = 1 then h1.setRegF (rinstReg index) 63 61 5 else h1

/-- The event register whose pending event a wired source reports (R373, R374). -/
def evtOf (n : Nat) : Option Nat :=
  if n < 0x12 then some (linkReg n 0x10)
  else if 0x20 ≤ n ∧ n < 0x2C then some (mcReg (n - 0x20) 0x10)
  else if 0x30 ≤ n ∧ n < 0x34 then some (mcReg (n - 0x30 + 12) 0x10)
  else if n = 0x50 then some (pwrReg 0x20)
  else if n = 0x51 then some (kprReg 0x120)
  else if 0x100 ≤ n ∧ n < 0x148 then some (vatReg (n - 0x100) 0x80)
  else if 0x200 ≤ n ∧ n < 0x248 then some (chamberReg (n - 0x200) 0x1000)
  else none

/-- Every queued, spilled and claimed record of a wired source goes (R412); the second result is their number. -/
def Hw.dropWire (h : Hw) (n : Nat) : Hw × Nat :=
  let hit := fun (r : IntRec) => !r.message && r.source == n
  let q := h.threads.foldl (fun a p => p.2.inbox.foldl (fun a b => a + (b.2.queued.filter hit).length) a) 0
  let sp := (h.router.spill.filter fun x => hit x.2.2).length
  let h1 := { h with
    threads := h.threads.map fun (p : Nat × Thread) => (p.1, { p.2 with inbox := p.2.inbox.map fun (b : Nat × Inbox) =>
      (b.1, { b.2 with queued := b.2.queued.filter fun r => !hit r }) })
    router := { h.router with spill := h.router.spill.filter fun x => !hit x.2.2 } }
  let cl := (List.range (4 * numThreads)).filter fun i =>
    match sfind (intrReg (i / 4) (8 * (i % 4))) h.regs with
    | some w => Word.bit w 63 && !Word.bit w 62 && decide (Word.fld w 35 24 = n)
    | none => false
  (cl.foldl (fun (h : Hw) i => h.setReg (intrReg (i / 4) (8 * (i % 4))) 0) h1, q + sp + cl.length)

/-- The device's registers for what lies below a root port return to their reset values (R412). -/
def Hw.portRegsReset (h : Hw) (k : Nat) : Hw :=
  { h with regs := h.regs.filter fun p =>
      !((linkReg k 0x300 ≤ p.1 && p.1 < linkReg k 0x320) || (linkReg k 0x400 ≤ p.1 && p.1 < linkReg k 0x440)
        || (linkReg k 0x1000 ≤ p.1 && p.1 < linkReg k 0x1800)) }

/-- The page of an instance at its reset values, and its binding cleared (R391). -/
def Hw.instClear (h : Hw) (i st : Nat) : Hw :=
  let p := instReg i
  let h1 := [0, 8, 0x10, 0x18, 0x20, 0xC0].foldl (fun (h : Hw) o => h.setReg (p o) 0) h
  let h2 := forN 0 8 (fun k h => (h.setReg (p (0x40 + 8 * k)) 0).setReg (p (0x80 + 8 * k)) 0) h1
  let sec := h.reg (rinstReg i) &&& w64 (2 ^ 60)
  { h2 with insts := sdel i h2.insts }.setReg (rinstReg i) ((if st = 0 then 0 else sec) ||| w64 (st * 2 ^ 61))

/-- The last step of a hand-over: its effects, BUSY, STATUS and the incident (R412). -/
def Hw.handFinish (h : Hw) : Hw :=
  match h.hand with
  | none => h
  | some x =>
    let w := x.word
    let i := Word.fld w 11 0
    let normal := Word.bit w 59
    let h1 : Hw := match Word.fld w 61 60 with
      | 0 =>
        let h1 := ((h.mmioFail i).portRegsReset i).revokeFunc i fun _ => true
        let h2 := h1.setRegF (chkReg 0x20018) i i (b2n (!normal))
        (List.range 16).foldl (fun (h : Hw) j => if h.linkUp i j then h.startTraining i j else h) h2
      | 1 => ((h.revokeInst i).instClear i 1).setRegF (rinstReg i) 60 60 (b2n (!normal))
      | _ =>
        let d := h.dropWire i
        let h1 := d.1.bump (routerReg 0x100018) d.2
        let h2 := match evtOf i with | some a => h1.setReg a 0 | none => { h1 with wired := sdel i h1.wired }
        h2.setReg (wireReg i) (w64 ((if normal then 2 else 3) * 2 ^ 59))
    let h2 := (({ h1 with hand := none }).setRegF handReg 62 62 0).setRegF handReg 58 56 x.status
    h2.incident 0x54 0 0 (h2.reg handReg) (blockId 9 0) false

end Sys2Proof.Machine
end

