-- ==== Sys2Proof/Machine/KeeperOps.lean ====
section
/-! DEFINITION. What software starts in the Keeper mailbox (R452, R459, R471), and how a thread starts (R34, R448). -/

namespace Sys2Proof.Machine

/-- A stopped thread starts at M in the secure world with its registers as R34 gives (R448); records that wait for it stay. -/
def Hw.startThread (h : Hw) (t : Nat) (pc : Word) : Hw :=
  h.updThread t fun x =>
    { x with a := { Arch.reset with pc := pc }, f := Front.reset.discard Arch.reset pc, b := Back.reset, run := .running }

/-- A write of KPR.RELEASE with GO; one that names a running thread is ignored (R448). -/
def Hw.release (h : Hw) (v : Word) : Hw :=
  let t := Word.fld v 10 0
  if Word.bit v 63 ∧ t < numThreads ∧ (h.thread t).run = .stopped then h.startThread t (h.reg (kprReg 0x100)) else h

/-- A survey on demand starts, or is merged into the one that runs (R452). -/
def Hw.surveyGo (h : Hw) : Hw := h.setRegF (kprReg 0x200) 62 62 1

/-- A measurement index: its 48 bytes, all zero after a reset (R459). -/
def Hw.meas (h : Hw) (i : Nat) : Bytes := sget (List.replicate 48 0) i h.keeper.meas

/-- A measurement is extended with MEASDATA: value := H(value ‖ data) (R459). -/
def Hw.measExtend (h : Hw) (i : Nat) : Hw :=
  if i < 0x10 ∨ 0xEF < i then h
  else
    let data := (List.range 6).flatMap fun k => leBytes 8 (h.reg (kprReg (0x340 + 8 * k))).toNat
    { h with keeper := { h.keeper with meas := sset i (Config.sha384 (h.meas i ++ data)) h.keeper.meas } }

/-- A write of KPR.MEASIDX: INDEX is stored unless reserved, and GO extends the index that then stands (R10, R471). -/
def Hw.measGo (h : Hw) (v : Word) : Hw := if Word.bit v 63 then h.measExtend (h.regF (kprReg 0x300) 7 0) else h

end Sys2Proof.Machine
end

