-- ==== Sys2Proof/Machine/RegStore.lean ====
section
/-! DEFINITION. Stores and loads of memory-mapped registers with all that they start (R9, R27, R507 and the register tables). -/

namespace Sys2Proof.Machine

/-- The bits of an event register whose condition persists: after a write that cleared one it is set again (R374; which conditions persist is
DEDUCED, log 177): a USED bit, a stop or a REFUSED bit in a chamber, a stopped slice, a failed channel or a hot DIMM. -/
def Hw.eventStays (h : Hw) (b : Block) (i o : Nat) : List Nat :=
  let bits := fun (xs : List (Nat × Bool)) => (xs.filter (·.2)).map (·.1)
  match b with
  | .chamber => if o = 0x1000 then bits [(0, (List.range 16).any fun t => Word.bit (h.reg (rescueReg (16 * i + t) 0x50)) 0),
      (1, (h.chamber i).stopped), (2, (List.range 4).any fun c => (h.core (4 * i + c)).refused)] else []
  | .vat => if o = 0x80 then bits [(0, (h.slice i).stopped)] else []
  | .mc | .pool =>
    let c := if b = .pool then 12 + i else i
    if o = 0x10 then bits [(2, (h.mc c).failed), (3, (h.mc c).dimmTemps.any fun p => decide (95 < p.2))] else []
  | _ => []

/-- What a write starts in its block once its fields are stored: `v` is the doubleword with the stored bytes in their lanes, `old` the
register before. -/
def Hw.regEffect (h : Hw) (acc : Acc) (b : Block) (i o : Nat) (v lanes old : Word) : Hw :=
  let bits := v &&& lanes
  match b with
  | .chamber =>
    if 0x80000 ≤ o ∧ o < 0x81000 ∧ o % 0x100 = 0x50 then
      (if Word.bit bits 0 then h.setReg (rescueReg (16 * i + (o - 0x80000) / 0x100) 0x50) 0 else h)
    else if 0x90000 ≤ o ∧ o < 0x90800 then
      let t := 16 * i + (o - 0x90000) / 0x80
      let k := o % 0x80
      if k < 0x20 then h.releaseClaim t (k / 8) else if k = 0x20 then h.vctlWritten t old bits else h
    else h
  | .mc => if 0x200 ≤ o ∧ o < 0x240 then h.setUsable i else h
  | .link =>
    if o = 0 then h.cfgWritten i
    else if 0x1000 ≤ o ∧ o < 0x1800 then h.funcWritten i old (h.reg (linkReg i o)) else h
  | .router =>
    if o < 0x8000 then h.wireWritten (o / 8) old else if o = 0x100010 then h.routerInval bits else h
  | .adm => if o = 0 then h.surveyChanged else h
  | .pwr =>
    if o = 0 then (if Word.fld lanes 15 0 ≠ 0 then (h.limitReq (Word.fld ((old &&& ~~~lanes) ||| bits) 15 0)).1 else h)
    else if 0x100 ≤ o ∧ o < 0x340 then h.freqWritten ((o - 0x100) / 8)
    else if o = 0x800 then (if Word.bit bits 63 then h.blkGo acc.lvl else h)
    else if o = 0x900 then h.pkgWritten acc.lvl old
    else h
  | .regchk => if o = 0x20010 ∧ Word.bit bits 63 = true then h.handGo false none else h
  | .log =>
    if o = 0x18 then h.writePeek ((old &&& ~~~lanes) ||| bits)
    else if o = 0x20 then h.writeRd ((old &&& ~~~lanes) ||| bits)
    else h
  | .kpr =>
    if o = 0x108 then h.release bits
    else if o = 0x110 then (if Word.bit bits 63 then h.warmTrigger 5 0 else h)
    else if o = 0x200 then (if Word.bit bits 63 then h.surveyGo else h)
    else if o = 0x300 then h.measGo bits
    else h
  | _ => h

/-- A store of n bytes (4 or 8) of a register by a requester (R9, R27, R507). The counters PEEK and RD of the log take their value by the
rule of R485 alone. -/
def Hw.regStore (_m : List Host.Cell) (h : Hw) (acc : Acc) (_bank : Bool) (_vmid a n val : Nat) : Hw :=
  let a8 := a / 8 * 8
  match blockAt a8, regDefAt a8 with
  | some (b, i, o), some d =>
    let lanes := lanesOf a n
    let v := w64 (val * 256 ^ (a % 8))
    let old := h.reg a8
    if h.mayWrite b i o d acc ((old &&& ~~~lanes) ||| (v &&& lanes)) && d.wmin != 9 then
      let h0 := if b = .log ∧ (o = 0x18 ∨ o = 0x20) then h else h.storeFields acc a n val
      let h1 := (h0.eventStays b i o).foldl (fun (h : Hw) k => h.event a8 k) h0
      h1.regEffect acc b i o v (Hw.maskLanes b o acc lanes) old
    else h
  | _, _ => h

/-- A load of n bytes of a register by a requester: ADM.LOAD is computed (R311); a read of LOG.STAT acknowledges the changes of LOG.DROP
(R486). -/
def Hw.regLoad (_m : List Host.Cell) (h : Hw) (acc : Acc) (bank : Bool) (vmid a n : Nat) : Hw × Nat :=
  let a8 := a / 8 * 8
  if admReg 0x80000 ≤ a8 ∧ a8 < admReg 0x100000 then
    (h, (h.admLoad ((a8 - admReg 0x80000) / 8)).toNat / 256 ^ (a % 8) % 256 ^ n)
  else
    (if a8 = logReg 8 ∧ 2 ≤ Level.num acc.lvl then { h with dropNew := false } else h, h.readBytes acc bank vmid a n)

end Sys2Proof.Machine
end

