-- ==== Sys2Proof/Machine/CoreMem.lean ====
section
/-! DEFINITION. The memory path of a core: checks at X2 (R45, R46, R52, R67, R68, R116), lookups at M1 (R122 to R127), miss
registers and requests to L2 and the home slice (R200 to R202, R206, R211 to R213), and the draining of stores (R119 to R121,
R128). -/

namespace Sys2Proof.Machine

/-! ### Checks at X2 -/

/-- A piece of an access that has passed X2: where it goes, its type, its bytes in the operand. -/
structure Piece where
  pa : Word
  mt : MemType
  tg : Target
  len : Nat
  off : Nat

/-- What X2 finds: pieces to perform, a fault with the virtual address of its piece, or a micro-TLB miss (R116). -/
inductive X2 where
  | ok (ps : List Piece)
  | flt (f : Flt) (va : Word)
  | miss (va : Word)

/-- What an access asks for at X2: its kind, its size in bytes, whether register space takes it (R23), whether Device memory does
(R46, R84), and whether it is a local atomic (R52) or a far one (R55). -/
structure Want where
  acc : Access
  size : Nat
  plain : Bool
  devOk : Bool
  atomic : Bool
  far : Bool

/-- Step 4 of R68 for one piece after translation. A CMO takes register space, inside and outside the block windows, as a Device-strict
address on which it acts on nothing (R23, R99). -/
def x2Decode (h : Hw) (w : Want) (va pa : Word) (mt : MemType) (len off : Nat) : X2 :=
  let strict := match h.decodePA pa with | .ok .reg | .error 3 => true | _ => false
  if w.acc == .cmo && strict then .ok [⟨pa, .strict, .reg, len, off⟩]
  else match decodeX2 h pa mt w.size w.plain va with
  | .error f => .flt f va
  | .ok (tg, mt) =>
    if (w.atomic && (mt != .wb || (match tg with | .remote => true | _ => false))) || (w.far && mt.device) then
      .flt ⟨9, 0, va, false⟩ va
    else if mt.device && !w.devOk then .flt ⟨2, 0, va, false⟩ va
    else .ok [⟨pa, mt, tg, len, off⟩]

/-- The check of one piece: physical regime, micro-TLB hit, a fault that the walk found, or a miss (R116, R176, R187). -/
def x2One (m : List Host.Cell) (h : Hw) (t : Nat) (w : Want) (va : Word) (len off : Nat) : X2 :=
  match h.xlate m t false (h.thread t).regime w.acc va with
  | .miss => .miss va
  | .flt f => .flt f va
  | .ok pa mt _ => x2Decode h w va pa mt len off

/-- All pieces in order; the first that does not pass decides (R68, R83, R126). -/
def x2All (m : List Host.Cell) (h : Hw) (t : Nat) (w : Want) : List (Word × Nat × Nat) → X2
  | [] => .ok []
  | (va, len, off) :: r =>
    match x2One m h t w va len off with
    | .ok p =>
      match x2All m h t w r with
      | .ok q => .ok (p ++ q)
      | e => e
    | e => e

/-- The halves of an access of n bytes (R45): virtual address, length, offset in the operand. -/
def halves (va : Word) (n : Nat) : List (Word × Nat × Nat) :=
  let o := va.toNat % 64
  if o + n ≤ 64 then [(va, n, 0)] else [(va, 64 - o, 0), (va + w64 (64 - o), n - (64 - o), 64 - o)]

/-- A scalar load or store at X2 (R43, R45, R46). -/
def x2Scalar (m : List Host.Cell) (h : Hw) (t : Nat) (acc : Access) (va : Word) (n : Nat) : X2 :=
  x2All m h t ⟨acc, n, decide ((halves va n).length = 1), decide (va.toNat % n = 0), false, false⟩ (halves va n)

/-- A cancelled access of the thread waits for its translation (R116): the thread's younger work is none, and it replays. -/
def Hw.cancel (h : Hw) (t : Nat) (va : Word) (acc : Access) : Hw := h.cancelAs t va acc (h.thread t).regime

/-! ### Walk reads (R183, R211) -/

/-- What a walk translates. -/
def Walker.cfg (h : Hw) (w : Walker) : Wcfg := ⟨h, w.reg.acc, w.reg.ctx, w.wc, w.access, w.va⟩

/-- The table read that a walk makes next, if it makes one. -/
def Walker.next (h : Hw) (w : Walker) : Option Word :=
  match walkBoth (w.cfg h) (w.answers, []) with
  | .need pa _ => some pa
  | _ => none

/-- A walk's next read goes out through an L1D miss register, when one is there for it. -/
def Hw.walkSend (h : Hw) (core k : Nat) : Hw :=
  match sfind k (h.core core).walkers with
  | none => h
  | some w =>
    if w.sent then h
    else match w.next h with
      | none => h
      | some pa =>
        match h.l1dMiss w.thread (lineNo pa) false .walk w.reg.acc (h.homePos (lineNo pa)) with
        | some h1 => h1.updCore core fun x => { x with walkers := sset k { w with sent := true } x.walkers }
        | none => h

/-- A line that has come is delivered to the walks that wait for it (R218): the doubleword, or none when it is bad or refused (R182). -/
def Hw.walkServe (m : List Host.Cell) (h : Hw) (core line err : Nat) (bad : Bool) : Hw :=
  h.updCore core fun x =>
    { x with walkers := x.walkers.map fun p =>
        if p.2.sent ∧ p.2.data.isNone then
          match p.2.next h with
          | some pa => if lineNo pa = line then
              (p.1, { p.2 with data := some (if err ≠ 0 then none else tableRead m h p.2.reg.acc bad pa) }) else p
          | none => p
        else p }

/-- Walks whose next read found no register try again. -/
def Hw.walkPump (h : Hw) (core : Nat) : Hw := ((h.core core).walkers.map (·.1)).foldl (fun h k => h.walkSend core k) h

/-- The line is held writable where a core's stores go: L1D, or L2 while L1D is disabled, unless another L1D owns it there or has it on its way
to L2 (R201, R202, R206). -/
def Hw.writable (h : Hw) (core line : Nat) : Bool :=
  let ok := fun (l : Option CLine) => match l with | some l => l.st == .m || l.st == .e | none => false
  let c := chamberOf core
  if (h.core core).l1d.en then ok (h.l1dLine core line)
  else (h.chamber c).l2.en && ok (h.l2Line c line) && !h.otherOwner core line false && !h.inL1Wb c line

/-- The owner tag of the copy that serves a core's access (R399). -/
def Hw.copyOwner (h : Hw) (core line : Nat) : Owner :=
  match h.l1dLine core line with
  | some l => l.own
  | none => match h.l2Line (chamberOf core) line with
    | some l => l.own
    | none => .normal

/-- The poison of the copy that serves a core's access (R219). -/
def Hw.copyBad (h : Hw) (core line : Nat) : Bool :=
  match h.l1dLine core line with
  | some l => l.bad
  | none => (h.l2Line (chamberOf core) line).any (·.bad)

/-- What lies under an L1D copy that is about to become dirty, with its poison: what an invalidate by address at L1D leaves (R215). -/
def Hw.keepUnder (m : List Host.Cell) (h : Hw) (core line : Nat) : Hw :=
  match h.l1dLine core line with
  | some l => if l.st = .m then h else { h with under := sset line (lineVal m h line, l.bad) h.under }
  | none => h

/-- A line that a core holds writable gets bytes (R121, R201): the copy becomes M, other copies of the chamber go, the tree takes it for a hit
(R205). A whole line clears poison (R327). -/
def Hw.storeHere (m : List Host.Cell) (h : Hw) (core line : Nat) (data : Vec) (mask : BitVec 64) : Hw :=
  let h1 := ((h.ownInChamber core line).keepUnder m core line).mergeNewest m line data mask
  let full := decide (mask = BitVec.allOnes 64)
  if (h.core core).l1d.en && (h.l1dKey core line).isSome then
    let h2 := (h1.setL1d core line .m).touchL1d core line
    if full then h2.markL1d core line false else h2
  else
    ((h1.l1dDrop core line).setL2 (chamberOf core) line fun l => { l with st := .m, bad := l.bad && !full }).touchL2 (chamberOf core) line

/-! ### Results of loads -/

/-- The new value of a local atomic (R51), on size bytes; none when a CAS does not write. -/
def amoNew (op : AmoOp) (size : Nat) (old : Nat) : Option Nat :=
  let w := 8 * size
  let b := op.operand.toNat % 2 ^ w
  let sl := decide (toS w old < toS w b)
  if op.isCas then (if old = op.expected.toNat % 2 ^ w then some b else none)
  else some (match op.op with
    | 0 => (old + b) % 2 ^ w
    | 1 => old &&& b
    | 2 => old ||| b
    | 3 => old ^^^ b
    | 4 => if sl then old else b
    | 5 => if sl then b else old
    | 6 => if old < b then old else b
    | 7 => if old < b then b else old
    | _ => b)

/-- The tree of the cache that serves a core's accesses takes a line for a demand hit (R205). -/
def Hw.touchHit (h : Hw) (core line : Nat) : Hw :=
  if (h.l1dKey core line).isSome then h.touchL1d core line else h.touchL2 (chamberOf core) line

/-- A local atomic performed on the newest value of its line (R125); `bad` is the poison of the copy it is performed on, `store` puts the bytes
where they belong. One that does not write is a demand hit all the same (R205). -/
def Hw.doAmo (m : List Host.Cell) (h : Hw) (t id : Nat) (o : LongOp) (a : AmoOp) (p : Part) (bad : Bool)
    (store : Hw → Vec → BitVec 64 → Hw) : Hw :=
  let l := lineNo p.pa
  let off := p.pa.toNat % 64
  if bad then (h.touchHit (coreOf t) l).failPart t id 0 1
  else
    let old := leNat (vbytes (lineVal m h l) off p.len)
    let h1 := match amoNew a o.size old with
      | some n => store h (vput 0 off (leBytes p.len n)) (maskOf off p.len)
      | none => h.touchHit (coreOf t) l
    h1.putPart t id 0 (leBytes p.len old)

/-! ### Lookup at M1 (R122 to R127, R213, R214) -/

/-- What the store buffer says of a part: forwarded bytes, a park (true under row 3 of R122), or nothing. -/
inductive Fwd where
  | none
  | data (bs : Bytes)
  | park (row3 : Bool)

/-- The entries that are older than operation `id` decide (R122). -/
def forward (sb : List SbEntry) (id : Nat) (pa : Word) (len : Nat) (device : Bool) : Fwd :=
  let l := lineNo pa
  let off := pa.toNat % 64
  let need := maskOf off len
  let old := sb.filter fun e => e.line == l && decide (e.ord ≤ id)
  let cmo := old.any fun e => match e.kind with | .cmo _ sw _ _ => !sw | _ => false
  let hold := old.filter fun e => (e.mask &&& need) != 0
  if cmo then .park false
  else match hold.getLast? with
    | none => .none
    | some e => if device then .park false
      else if e.mask &&& need = need then .data (vbytes e.data off len) else .park true

/-- One part of a load: the state after, and whether it parks (R122 to R127, R199, R206, R213, R214, R352, R369, R399). A line of which the thread
has a store or an atomic far away under way is not looked up before it is performed (R59, R61 row 1). -/
def Hw.loadPart (m : List Host.Cell) (h : Hw) (t id i : Nat) (o : LongOp) (p : Part) : Hw × Option Bool :=
  let core := coreOf t
  let x := h.thread t
  let b := x.b
  let line := lineNo p.pa
  let off := p.pa.toNat % 64
  let who := Waiter.load t id i
  let pend := b.pendingOn id line (maskOf off p.len)
  let far := b.longs.any fun q => decide (q.id < id) && q.kind == .farAtomic && !q.ready && q.parts.any fun r => lineNo r.pa == line
  let or := fun (r : Option Hw) => match r with | some h1 => (h1, none) | none => (h, some false)
  match forward b.sb id p.pa p.len p.mt.device with
  | .park r => (h, some r)
  | .data bs => if pend || far then (h, some false) else (h.putPart t id i bs, none)
  | .none =>
    if b.outOn line || far || (decide (2 ≤ p.mt.rank) && pend)
        || (p.mt.device && b.sb.any fun e => e.mtype.device && decide (e.ord ≤ id)) then (h, some false)
    else match p.tg with
    | .reg | .mmio _ => (h.devSend who p.tg o.acc x.bank x.vmid p.pa p.len none 0, none)
    | tg =>
      if p.mt.device then
        match tg with
        | .group g => if (h.route g).isNone then (h.failPart t id i 3, none) else or (h.galReq who 0x01 g (line % 2 ^ 42) 0 false 0 0)
        | .remote => if h.passUp.isEmpty then (h.failPart t id i 3, none) else or (h.passReq who 0 0 p.len false p.pa 0)
        | _ => (h.devSend who tg o.acc x.bank x.vmid p.pa p.len none 0, none)
      else if 2 ≤ p.mt.rank ∨ tg = .remote then or (h.coreReq t who (.read off p.len) line false o.acc tg.home)
      else if (h.core core).wbuf.contains line then (h, some false)
      else match (if (h.core core).l1d.en && !pend then h.l1dLine core line else none) with
        | some l =>
          if !o.acc.admits l.own && !h.judgePA o.acc p.pa 1 then ((h.touchL1d core line).failPart t id i 2, none)
          else if l.bad then ((h.touchL1d core line).failPart t id i 1, none)
          else ((h.touchL1d core line).putPart t id i (vbytes (lineVal m h line) off p.len), none)
        | none => or (h.l1dMiss t line false .load o.acc tg.home)

/-- Stores and maintenance operations of a thread that have left its store buffer and are not performed (R63). -/
def Hw.storesOut (h : Hw) (t : Nat) : Bool :=
  !(h.thread t).b.outs.isEmpty || h.gtags.any fun p => p.2.who == .cmo t

/-- No access of the thread before number `before` is outstanding besides its stores: loads, atomics, far atomics, posts to an engine (R63,
R121). -/
def Hw.loadsDone (h : Hw) (t before : Nat) : Bool :=
  (h.thread t).b.longs.all fun o =>
    o.ready || decide (before ≤ o.id) || !(o.kind == .load || o.kind == .vload || o.kind == .farAtomic || o.kind == .churn)

/-- An access of the thread with release order before number `before` is not performed: an access with acquire order waits for it (R61 row 7).
Stores that are on their way count whatever their order. -/
def Hw.releaseOut (h : Hw) (t before : Nat) : Bool :=
  let b := (h.thread t).b
  b.sb.any (fun e => e.release && decide (e.ord ≤ before)) || b.longs.any (fun o => o.release && !o.ready && decide (o.id < before))
    || h.storesOut t

/-- A local atomic at M1 (R125): it parks behind older entries; with release order behind every older access, with acquire order behind
older releases (R61 rows 6 and 7). -/
def Hw.amoPart (m : List Host.Cell) (h : Hw) (t id : Nat) (o : LongOp) (a : AmoOp) (p : Part) : Hw × Option Bool :=
  let core := coreOf t
  let line := lineNo p.pa
  let b := (h.thread t).b
  if b.sb.any (fun e => decide (e.ord ≤ id)) || (o.release && (!h.loadsDone t id || h.storesOut t)) || (o.acquire && h.releaseOut t id)
      || b.outOn line || b.pendingOn id line (maskOf (p.pa.toNat % 64) p.len) || (h.core core).wbuf.contains line then
    (h, some false)
  else if h.writable core line then
    if !o.acc.admits (h.copyOwner core line) && !h.judgePA o.acc p.pa 3 then ((h.touchHit core line).failPart t id 0 2, none)
    else (h.doAmo m t id o a p (h.copyBad core line) fun h d k => h.storeHere m core line d k, none)
  else match h.l1dMiss t line true .load o.acc p.tg.home with
    | some h1 => (h1, none)
    | none => (h, some false)

/-- The parts of an operation from number `k` on are looked up in order; the operation parks at the first that does (R123, R127). -/
def Hw.lookup (m : List Host.Cell) (h : Hw) (t id k : Nat) : Hw :=
  match h.longOf t id with
  | none => h
  | some o =>
    let go := fun (s : Hw × Option (Bool × Nat)) (ip : Nat × Part) =>
      if s.2.isSome || ip.2.done then s
      else
        let r := match o.amo with
          | some a => Hw.amoPart m s.1 t id o a ip.2
          | none => Hw.loadPart m s.1 t id ip.1 o ip.2
        (r.1, r.2.map fun row3 => (row3, ip.1))
    let r := ((o.parts.zipIdx.map fun p => (p.2, p.1)).drop k).foldl go (h, none)
    match r.2 with
    | some (row3, i) => r.1.updBack t fun b => { b with parked := some ⟨id, row3, i⟩ }
    | none => r.1

/-- How many of an operation's parts have been looked up (R123). -/
def Back.entered (b : Back) (o : LongOp) : Nat :=
  match b.parked with
  | some p => if p.id = o.id then p.next else o.parts.length
  | none => o.parts.length

/-- What a delivered line gives an access that waits for it: an error of the fill, a refusal, poison, or the data (R171, R400); none when it must ask
again, its line having been refused for another. -/
def Hw.lineErr (h : Hw) (acc : Acc) (pa : Word) (need : Nat) (err : Option Nat) (bad : Bool) : Option (Option Nat) :=
  let ok := h.judgePA acc pa need
  match err with
  | some 2 => if ok then none else some (some 2)
  | some e => some (some e)
  | none => some (if !ok then some 2 else if bad then some 1 else none)

/-- A line has come: every load part, atomic and block read of the core's threads that waits for it is served (R211, R218), but for those behind
an earlier access of the same bytes (R61 row 1). `err` is the ERR of the fill, if any, `bad` its poison; `store` is where an atomic's bytes go,
none while the line is not writable. -/
def Hw.serveLine (m : List Host.Cell) (h : Hw) (core line : Nat) (err : Option Nat) (bad : Bool)
    (store : Option (Hw → Vec → BitVec 64 → Hw)) : Hw :=
  forN 0 4 (fun i h =>
    let t := 4 * core + i
    let b := (h.thread t).b
    let h1 := b.ext.foldl (fun (h : Hw) (e : ExtRead) =>
      if e.done || lineNo e.pa != line then h
      else match (if e.unique ∧ err.isNone ∧ store.isNone then none else h.lineErr e.acc e.pa (if e.unique then 3 else 1) err bad) with
        | none => h
        | some (some n) => h.extDone t false e.id (n + 1) []
        | some none => h.extDone t false e.id 0 (vbytes (lineVal m h line) (e.pa.toNat % 64) e.len)) h
    b.longs.foldl (fun (h : Hw) (o : LongOp) =>
      (o.parts.zipIdx.take (b.entered o)).foldl (fun (h : Hw) (pi : Part × Nat) =>
        let p := pi.1
        if p.done || decide (2 ≤ p.mt.rank) || lineNo p.pa != line
            || (h.thread t).b.pendingOn o.id line (maskOf (p.pa.toNat % 64) p.len) then h
        else match h.lineErr o.acc p.pa (if o.amo.isSome then 3 else 1) err bad, o.amo, store with
          | none, _, _ => h
          | some (some e), _, _ => h.failPart t o.id pi.2 e
          | some none, some a, some st => h.doAmo m t o.id o a p false st
          | some none, some _, none => h
          | some none, none, _ => h.putPart t o.id pi.2 (vbytes (lineVal m h line) (p.pa.toNat % 64) p.len)) h) h1) h

/-- What still waits for a line that has come and gone asks for it again: parts of loads and atomics, and block reads, that were not served. -/
def Hw.rewait (h : Hw) (core line : Nat) : Hw :=
  forN 0 4 (fun i h =>
    let t := 4 * core + i
    let b := (h.thread t).b
    let ask := fun (h : Hw) (unique : Bool) (acc : Acc) (home : Option Nat) => (h.l1dMiss t line unique .load acc home).getD h
    let h1 := b.longs.foldl (fun (h : Hw) (o : LongOp) =>
      match (o.parts.take (b.entered o)).find? fun p => !p.done && decide (p.mt.rank < 2) && lineNo p.pa == line with
      | some p => ask h o.amo.isSome o.acc p.tg.home
      | none => h) h
    b.ext.foldl (fun (h : Hw) (e : ExtRead) => if !e.done && lineNo e.pa == line then ask h e.unique e.acc (h.homePos line) else h) h1) h

/-! ### The store buffer (R119 to R121, R128) -/

/-- The kind of R171 an entry's error has. -/
def SbKind.errKind : SbKind → Nat
  | .half => 1
  | .push | .save => 2
  | .scatter => 3
  | _ => 0

/-- Free entries of a thread's store buffer. -/
def Back.sbFree (b : Back) : Nat := 16 - b.sb.length

/-- R120: whether a store merges into the youngest entry. A half of a split store takes no later store either (DESIGN CHOICE, log 72: the
five conditions leave it open, and the sentence after them says that the halves never merge). -/
def Back.merges (b : Back) (line : Nat) (mt : MemType) (release split : Bool) : Bool :=
  match b.sb.getLast? with
  | some e => e.line == line && e.mtype == .wb && mt == .wb && !release && !e.release && !split
      && (match e.kind with | .store | .scatter => true | _ => false)
  | none => false

/-- An entry for bytes of one line. -/
def mkEntry (pa : Word) (mt : MemType) (bs : Bytes) (release : Bool) (k : SbKind) (acc : Acc) (tg : Target) (ord : Nat) : SbEntry :=
  let o := pa.toNat % 64
  ⟨lineNo pa, pa, mt, vput 0 o bs, maskOf o bs.length, release, k, acc, some tg, ord⟩

/-- A store merges into the youngest entry or takes a new one (R119, R120). Merged stores make one record of R171, with the kind of the
first and the lowest address among them (DESIGN CHOICE, log 73: the spec does not say). -/
def Hw.sbStore (h : Hw) (t : Nat) (merge : Bool) (e : SbEntry) : Hw :=
  h.updBack t fun b =>
    match merge, b.sb.getLast? with
    | true, some y =>
      { b with sb := b.sb.dropLast ++ [{ y with data := vmerge y.data e.data e.mask, mask := y.mask ||| e.mask, ord := e.ord,
                                                pa := if e.pa.toNat < y.pa.toNat then e.pa else y.pa }] }
    | _, _ => { b with sb := b.sb ++ [e] }

def Hw.sbPop (h : Hw) (t : Nat) : Hw := h.updBack t fun b => { b with sb := b.sb.tail, popped := b.popped + 1 }

/-- An entry leaves with an error of R171; a save line's damages its slot (R407). -/
def Hw.sbFail (m : List Host.Cell) (h : Hw) (t : Nat) (e : SbEntry) (err : Nat) : Hw :=
  let h1 := (h.sbPop t).asyncErr t e.kind.errKind err e.pa e.acc.secure
  if e.kind = .save then h1.slotDamaged m t e.pa else h1

/-- The ones of a number from bit 0 up to the first zero. -/
def onesRun : Nat → Nat → Nat
  | 0, _ => 0
  | n + 1, v => if v % 2 = 1 then 1 + onesRun n (v / 2) else 0

/-- The lowest addressed byte of an entry, and how many bytes follow it without a gap: one message's worth. -/
def SbEntry.span (e : SbEntry) : Nat × Nat :=
  let lo := (lowBit 64 e.mask.toNat).getD 0
  (lo, onesRun 64 (e.mask.toNat / 2 ^ lo))

/-- Bytes of the head entry are on their way: the store is out until its answer (R63); the entry leaves with its last bytes. -/
def Hw.sbSent (h : Hw) (t : Nat) (e : SbEntry) (sent : BitVec 64) : Hw :=
  let left := e.mask &&& ~~~sent
  let h1 := h.updBack t fun b => { b with outs := b.outs ++ [(e.line, e.mtype, b.popped)] }
  if left = 0 then h1.sbPop t
  else h1.updBack t fun b => { b with sb := { e with mask := left } :: b.sb.tail }

/-- The write of a whole entry, gaps and all, as a slice performs it. -/
def SbEntry.op (e : SbEntry) : LineOp :=
  let lo := e.span.1
  ⟨w64 (e.line * 64 + lo), 64 - lo, BitVec.ofNat 512 (e.data.toNat / 256 ^ lo), false, 0, 0, e.mtype, e.mask⟩

/-- The head entry of a thread's store buffer drains (R61, R121, R186, R206, R352, R355, R400). Write-back stores go into the line held writable;
other Normal stores to the slice of their line, with a credit; Device stores to their target, over a link one run of bytes a message. `err` is
what the target of a Device store reports: 0 for success, n + 1 for the ERR n of R172. A Device-posted store of this node is performed as it
leaves (R63). The entry stays while its line, a tag, a credit or an earlier access is awaited. -/
def Hw.drainStore (m : List Host.Cell) (h : Hw) (t err : Nat) (e : SbEntry) : Hw :=
  let core := coreOf t
  let x := h.thread t
  let s := e.span
  let pa := w64 (e.line * 64 + s.1)
  let who := Waiter.store t e.kind.errKind e.acc.secure e.mtype
  if (e.release && (!h.loadsDone t e.ord || h.storesOut t)) || x.b.pendingOn e.ord e.line e.mask || x.b.outOn e.line then h
  else match e.tg with
    | none => h.sbFail m t e 0
    | some tg =>
      let dev := match tg with | .reg | .mmio _ => true | .remote | .group _ => false | _ => e.mtype.device
      if dev then
        let h1 := h.devSend who tg e.acc x.bank x.vmid pa s.2 (some (BitVec.ofNat 512 (e.data.toNat / 256 ^ s.1), e.mask)) err
        let run := maskOf s.1 s.2
        if e.mtype = .posted then (if e.mask &&& ~~~run = 0 then h1.sbPop t
          else h1.updBack t fun b => { b with sb := { e with mask := e.mask &&& ~~~run } :: b.sb.tail })
        else h1.sbSent t e run
      else if e.mtype.device then
        match tg with
        | .group g =>
          let r := h.memberStore m g who pa (vbytes e.data s.1 s.2)
          if r.2 then r.1.sbSent t e (maskOf s.1 s.2)
          else if (h.route g).isNone then h.sbFail m t e 3 else h
        | _ => match h.passReq who 1 0 s.2 false pa e.data with
          | some h1 => h1.sbSent t e (maskOf s.1 s.2)
          | none => if h.passUp.isEmpty then h.sbFail m t e 3 else h
      else if e.mtype = .wb ∧ tg ≠ .remote then
        if h.writable core e.line then
          if !e.acc.admits (h.copyOwner core e.line) && !h.judgePA e.acc e.pa 2 then h.sbFail m t e 2
          else (h.storeHere m core e.line e.data e.mask).sbPop t
        else if (h.core core).wbuf.contains e.line then h
        else (h.l1dMiss t e.line true .store e.acc tg.home).getD h
      else
        let o := if tg = .remote then lineWrite pa s.2 (BitVec.ofNat 512 (e.data.toNat / 256 ^ s.1)) false e.mtype else e.op
        match h.coreReq t who (.write o) e.line false e.acc tg.home with
        | some h1 => h1.sbSent t e o.mask
        | none => h

/-- The oldest entry of a thread may drain (R119, R121): an entry with release order only once every earlier access is performed. -/
def Hw.drainable (h : Hw) (t : Nat) : Bool :=
  match (h.thread t).b.sb with
  | e :: _ => !(e.release && (!h.loadsDone t e.ord || h.storesOut t))
  | [] => false

/-- It is the thread's turn in its core's round-robin order: no thread between the one that drained last and this one has an entry that may
drain (R121). -/
def Hw.drainTurn (h : Hw) (t : Nat) : Bool :=
  let last := (h.core (coreOf t)).lastDrain
  let d := fun u : Nat => (u + 3 - last % 4) % 4
  (List.range 4).all fun u => decide (d (t % 4) ≤ d u) || !h.drainable (4 * coreOf t + u)

/-! ### Descriptors that an instruction reads at X2 (R94, R96, R97) -/

/-- What the read of a 64-byte descriptor gives: a micro-TLB miss, an exception, data that is refused, poisoned or met by a bus error with
its ERR, something to be waited for, or the bytes. -/
inductive DescRead where
  | miss (va : Word)
  | flt (f : Flt) (va : Word)
  | bad (err : Nat) (pa : Word)
  | wait (f : Hw → Hw)
  | ok (v : Vec)

/-- The descriptor at an aligned address as the thread reads it (R68, R94). -/
def Hw.descRead (m : List Host.Cell) (h : Hw) (t : Nat) (va : Word) : DescRead :=
  match x2All m h t ⟨.desc, 64, false, false, false, false⟩ [(va, 64, 0)] with
  | .miss va => .miss va
  | .flt f va => .flt f va
  | .ok ps =>
    match ps with
    | [] => .bad 0 va
    | p :: _ =>
      match h.blockRead m t false (h.thread t).acc p.mt p.tg p.pa 64 with
      | .got err bs => if err = 0 then .ok (vput 0 0 bs) else .bad (err - 1) p.pa
      | .out => .wait id
      | .send f => .wait f

/-- The eight doublewords of a line. -/
def vwords (v : Vec) : List Word := (List.range 8).map (vword v)

/-- A long operation that waits for an answer from outside the core. -/
def LongOp.awaits (k : LongKind) (d : Dest) (acc : Acc) : LongOp := { LongOp.known k d 0 with ready := false, acc := acc }

/-- A long operation whose descriptor could not be read ends as a load does: all ones, and a record of kind 5 (DEDUCED from R171 and
R400, log 37). -/
def Hw.descBad (h : Hw) (t : Nat) (k : LongKind) (d : Dest) (err : Nat) (pa : Word) : Hw :=
  let acc := (h.thread t).acc
  ((h.addLong t (LongOp.known k d (BitVec.allOnes 512))).asyncErr t 5 err pa acc.secure).complete t .seq

/-- An answer reaches a thread's long operation (R95). -/
def Hw.answerLong (h : Hw) (t id : Nat) (v : Word) : Hw :=
  h.updLong t id fun o => { o with val := v.setWidth 512, ready := true }

end Sys2Proof.Machine
end

