-- ==== Sys2Proof/Machine/CmoOps.lean ====
section
/-! DEFINITION. Cache maintenance at the caches it acts on (R207, R214 to R218): by address at one L1, by set and way, and to the
point of coherence at the home slice. Operations: 0 clean, 1 invalidate, 2 clean and invalidate. -/

namespace Sys2Proof.Machine

/-- The miss registers of a line are marked "deliver, do not allocate" (R212, R217). -/
def markDna (line : Nat) (ms : SMap Miss) : SMap Miss :=
  ms.map fun p => (p.1, if p.2.line = line then { p.2 with alloc := false, dna := true } else p.2)

/-- The dirty L1D copy of a core is written to L2 and kept clean (R215). -/
def Hw.l1dClean (h : Hw) (core line : Nat) : Hw :=
  match h.l1dLine core line with
  | some l =>
    if l.st = .m then
      ({ h.setL1d core line .e with under := sdel line h.under }).setL2 (chamberOf core) line fun x => { x with st := .m, bad := l.bad }
    else h
  | none => h

/-- The L1D copy goes; its dirty data is discarded: what lay under it is the newest value again (R215). -/
def Hw.l1dDiscard (h : Hw) (core line : Nat) : Hw :=
  match h.l1dKey core line, h.l1dLine core line with
  | some k, some l =>
    let h1 := if l.st = .m then (match sfind line h.under with
        | some v => { h.setNewest line v.1 with under := sdel line h.under }
        | none => h) else h
    (h1.updL1d core fun c => c.drop k).setL2 (chamberOf core) line fun x => { x with pres := presSet x.pres (core % 4) false }
  | _, _ => h

/-- A line of L2 is written to the Vat and kept clean: S, because the Vat now holds it as the owner (R215, R225); false while the Vat does
not accept it. -/
def Hw.l2Clean (m : List Host.Cell) (h : Hw) (c line : Nat) : Hw × Bool :=
  let h1 := forN 0 4 (fun i h => (h.l1Wb (4 * c + i) line).l1dShare (4 * c + i) line) h
  match h1.l2Line c line with
  | some l =>
    if l.st = .m ∨ l.st = .o then
      let h2 := (h1.setL2 c line fun x => { x with st := .s }).carry line l.bad
      let s := sliceOf line
      let h3 := match h2.sfForm s line with
        | some (.one a _) => h2.sfSet s line (some (.one a false))
        | some (.two a b _) => h2.sfSet s line (some (.two a b none))
        | _ => h2
      let r := h3.takeDirty m s line
      if r.2 then r else (h, false)
    else (h1, true)
  | none => (h1, true)

/-- An L2 line is dropped after being written to the Vat; the Vat hears of it (R215); false while the Vat does not accept it. -/
def Hw.l2CleanInv (m : List Host.Cell) (h : Hw) (c line : Nat) : Hw × Bool :=
  let r := h.l2Remove c line
  let q := r.1.takeWriteback m (sliceOf line) c line r.2
  if q.2 then q else (h, false)

/-- A CMO by address at this core's L1D or L1I (R215, R217). -/
def Hw.cmoL1 (h : Hw) (core op target line : Nat) : Hw :=
  if target = 0 then
    let h1 := h.updCore core fun x => { x with dmiss := markDna line x.dmiss }
    match op with
    | 0 => h1.l1dClean core line
    | 1 => h1.l1dDiscard core line
    | _ => h1.l1dDrop core line
  else
    let h1 := h.updCore core fun x => { x with imiss := markDna line x.imiss }
    if op = 0 then h1 else h1.l1iDrop core line

/-- A bit of a coverage bitmap (R207). -/
def covSet (cov k : Nat) : Nat := cov ||| 2 ^ k

/-- A CMO by set and way (R99, R207, R215, R216): a disabled cache only takes invalidates, which cover the line. False while the
next level does not accept the line. -/
def Hw.cmoSetWay (m : List Host.Cell) (h : Hw) (core op target : Nat) (arg : Word) : Hw × Bool :=
  let set := Word.fld arg 11 0
  let way := Word.fld arg 19 16
  let g := if target = 0 then geoL1D else if target = 1 then geoL1I else geoL2
  let c := chamberOf core
  let k := set * g.ways + way
  if g.sets ≤ set ∨ g.ways ≤ way then (h, true)
  else
    let x := if target = 0 then (h.core core).l1d else if target = 1 then (h.core core).l1i else (h.chamber c).l2
    let upd := fun (f : Cache → Cache) =>
      if target = 0 then h.updL1d core f else if target = 1 then h.updL1i core f else h.updL2 c f
    if !x.en then (if op = 0 then h else upd fun y => { y.drop k with cov := covSet y.cov k }, true)
    else match sfind k x.lines with
      | none => (h, true)
      | some l =>
        if target = 0 then (if op = 0 then h.l1dClean core l.line else h.l1dDrop core l.line, true)
        else if target = 1 then
          (if op = 0 then h
           else
            let h1 := upd fun y => y.drop k
            if (l1iKeys (h1.core core).l1i l.line).isEmpty then
              h1.setL2 c l.line fun y => { y with pres := presSet y.pres (4 + core % 4) false }
            else h1, true)
        else if op = 0 then h.l2Clean m c l.line
        else h.l2CleanInv m c l.line

/-- A CMO to the point of coherence acts on every copy of this node and on memory (R215, R217): the values that are written
leave for memory at once, copies are kept clean or dropped. A line of another member is kept as S, since its home goes on to count this node
as a sharer (log 77). -/
def cmoHome (op line : Nat) (p : List Host.Cell × Hw) : List Host.Cell × Hw :=
  let s := sliceOf line
  let h0 := p.2.poolDrop line
  let dna := { h0 with
    chambers := h0.chambers.map fun q => (q.1, { q.2 with miss := markDna line q.2.miss })
    cores := h0.cores.map fun q => (q.1, { q.2 with dmiss := markDna line q.2.dmiss, imiss := markDna line q.2.imiss }) }
  let hs := match dna.sfForm s line with | some f => f.holders.filter (· < 72) | none => []
  let v := lineVal p.1 dna line
  let clean := fun (st : LSt) => if st = .m then (if dna.localLine line then .e else .s) else if st = .o then .s else st
  let dropWbb := fun (h : Hw) => h.updSlice s fun x => { x with wbb := x.wbb.filter fun e => e.2.line != line || e.2.issued }
  let kept := op = 1 ∨ !dna.localLine line
  let mem := if kept then p.1 else memPut (lineLocal line) (vbytes v 0 64) p.1
  let home := if kept then dna else dna.setPoison line (dna.poisoned line)
  if op = 0 then
    let h1 := hs.foldl (fun (h : Hw) c =>
      let h1 := forN 0 4 (fun i h => (h.l1Wb (4 * c + i) line).l1dClean (4 * c + i) line) h
      let h2 := h1.setL2 c line fun x => { x with st := clean x.st }
      if (h2.l2Line c line).any fun x => x.st == .s then forN 0 4 (fun i h => h.l1dShare (4 * c + i) line) h2 else h2) home
    let h2 := match h1.vatLine s line with
      | some w => h1.vatSetSt s line (clean w.st)
      | none => h1
    (mem, if h2.localLine line then { (dropWbb h2).landed line with newest := sdel line h2.newest } else h2)
  else
    let h1 := hs.foldl (fun (h : Hw) c => (h.l2Remove c line).1) home
    let h2 := (dropWbb ((h1.sfSet s line none).vatDrop s line)).landed line
    (mem, { h2 with newest := sdel line h2.newest, under := sdel line h2.under })

/-- A cache of this node holds a line dirty, or its write-back buffer does (R215). -/
def Hw.nodeDirty (h : Hw) (line : Nat) : Bool :=
  let s := sliceOf line
  let d := fun (st : LSt) => st == .m || st == .o
  let hs := match h.sfForm s line with | some f => f.holders.filter (· < 72) | none => []
  (h.wbbEntry s line).isSome || (match h.vatLine s line with | some w => d w.st | none => false)
    || hs.any fun c => (match h.l2Line c line with | some l => d l.st | none => false)
      || (List.range 4).any fun i => (h.core (4 * c + i)).wbuf.contains line
        || (match h.l1dLine (4 * c + i) line with | some l => d l.st | none => false)

/-- What a CMO to the point of coherence meets on its way and waits for: a writeback of the line between a chamber and its slice, an entry of
the write-back buffer that is issued (R215, R234, R236). -/
def Hw.cmoHeld (h : Hw) (line : Nat) : Bool :=
  (h.chambers.any fun p => p.2.wbuf.any fun q => q.1 == line) || (match h.wbbEntry (sliceOf line) line with | some e => e.issued | none => false)

/-- A CMO to the point of coherence acts on this node (R215): dirty data of another member's line goes to its home, with STATE 3 where copies
are kept and 4 where none is (log 77). None while it must wait. -/
def cmoNode (op line : Nat) (p : List Host.Cell × Hw) : Option (List Host.Cell × Hw) :=
  if p.2.cmoHeld line then none
  else
    let v := lineVal p.1 p.2 line
    let q := cmoHome op line p
    match (if op ≠ 1 ∧ p.2.nodeDirty line then p.2.homePos line else none) with
    | none => some q
    | some g => (q.2.askAll [g] fun h g =>
        h.galReq (.line (sliceOf line) line) 0x20 g (line % 2 ^ 42) 0 (p.2.poisoned line) (if op = 0 then 3 else 4) v).map fun h => (q.1, h)

/-- The head entry, a CMO, drains: it acts at once, or is sent to its home slice and waits for the answer (R214, R215). By address it is a store
to every byte of its line: it waits for the thread's older accesses to that line (R61 row 1), and at this core's L1D for a copy that is on its
way to L2 (R202). A combined type of Device, and register space, make it act on nothing (R99, R215). -/
def Hw.drainCmo (m : List Host.Cell) (h : Hw) (t : Nat) (e : SbEntry) : Hw :=
  match e.kind with
  | .cmo op sw target arg =>
    let core := coreOf t
    let b := (h.thread t).b
    if sw then (let r := h.cmoSetWay m core op target arg; if r.2 then r.1.sbPop t else h)
    else if e.mtype.device || e.tg == some .reg || e.tg.isNone then h.sbPop t
    else if b.pendingOn e.ord e.line (BitVec.allOnes 64) || b.outOn e.line then h
    else if target < 2 then
      (if target = 0 ∧ (h.core core).wbuf.contains e.line then h else (h.cmoL1 core op target e.line).sbPop t)
    else if target = 2 then
      let c := t / 16
      let s := sliceOf e.line
      if h.hasCredit 0 c s then
        (h.postReq s ⟨.cmo op, e.line, .thread t, e.acc, false, h.weightOf t, false, e.tg.bind Target.home⟩).updBack t fun b =>
          { b with sb := match b.sb with | e :: r => { e with kind := .cmo op sw 8 arg } :: r | [] => [] }
      else h
    else h
  | _ => h

end Sys2Proof.Machine
end

