-- ==== Sys2Proof/Machine/ExecMem.lean ====
section
/-! DEFINITION. Loads, stores, ordered accesses and atomics of a thread (R43 to R47, R51 to R55, R125), and the commands of the
store buffer and of pending loads (R121, R123, R115). -/

namespace Sys2Proof.Machine

def mkParts (ps : List Piece) : List Part := ps.map fun p => ⟨p.pa, p.mt, p.len, p.off, false, p.tg⟩

/-- The id that the next long operation of a thread gets. -/
def Hw.nextLong (h : Hw) (t : Nat) : Nat := (h.thread t).b.fresh

/-- A load of `size` bytes at `va` (R43 to R46): checked at X2, looked up at M1, pending when its data is not there at M2
(R110). -/
def Hw.loadOp (m : List Host.Cell) (h : Hw) (t : Nat) (rd ra : Reg) (off : Word) (size : Nat) (signed acquire : Bool) : Hw :=
  if !h.ready t [destG ra] .mem then h
  else
    let x := h.thread t
    let va := x.a.rg ra + off
    if acquire && va.toNat % size ≠ 0 then h.raise m t .s 2 0 va x.a.pc
    else match x2Scalar m h t .load va size with
      | .flt f va => h.raiseFlt m t f va x.a.pc
      | .miss va => h.cancel t va .load
      | .ok ps =>
        if ps.any fun p => x.b.deviceWaits p.mt then h
        else
          let id := h.nextLong t
          let o : LongOp := { LongOp.known .load (destG rd) 0 with
            ready := false, size := size, signed := signed, parts := mkParts ps, acquire := acquire, acc := x.acc }
          let h1 := h.addLong t o
          let h2 := if acquire && h.releaseOut t id then h1.updBack t fun b => { b with parked := some ⟨id, false, 0⟩ }
            else h1.lookup m t id 0
          let h3 := if acquire then h2.updBack t fun b => { b with acqHold := some id } else h2
          (h3.writeback t id).complete t .seq

/-- A store of the low `size` bytes of a register at `va` (R43 to R46, R119, R120, R128). -/
def Hw.storeOp (m : List Host.Cell) (h : Hw) (t : Nat) (rs ra : Reg) (off : Word) (size : Nat) (release : Bool) : Hw :=
  if !h.ready t [destG rs, destG ra] .mem then h
  else
    let x := h.thread t
    let va := x.a.rg ra + off
    if release && va.toNat % size ≠ 0 then h.raise m t .s 2 0 va x.a.pc
    else match x2Scalar m h t .store va size with
      | .flt f va => h.raiseFlt m t f va x.a.pc
      | .miss va => h.cancel t va .store
      | .ok ps =>
        let split := decide (1 < ps.length)
        let bs := leBytes size (x.a.rg rs).toNat
        let mg := match ps with | [p] => x.b.merges (lineNo p.pa) p.mt release split | _ => false
        if (ps.any fun p => x.b.deviceWaits p.mt) || (!mg && decide (x.b.sbFree < ps.length)) then h
        else
          let h1 := ps.foldl (fun h p =>
            h.sbStore t mg (mkEntry p.pa p.mt ((bs.drop p.off).take p.len) release (if split then .half else .store) x.acc p.tg x.b.fresh)) h
          h1.complete t .seq

/-- Sizes of a size field: 1, 2, 4, 8 (R44). -/
def sizeOf2 (s : BitVec 2) : Nat := 2 ^ s.toNat

/-- A local CAS of a page whose dirty mark is clear (R190): once the older stores have drained it reads its location with the line held
writable, and compares. On equality it raises the trap and writes nothing; else it completes as a load. Refused or poisoned data, or a fill in
error, is all ones with a record of kind 5 (R171). -/
def Hw.casClean (m : List Host.Cell) (h : Hw) (t : Nat) (rd : Reg) (o : LongOp) (amo : AmoOp) (p : Piece) (f : Flt) (va : Word) : Hw :=
  let x := h.thread t
  let core := coreOf t
  let line := lineNo p.pa
  let off := p.pa.toNat % 64
  let done := fun (h : Hw) (w : Word) => (h.writeG t rd w).complete t .seq
  let bad := fun (h : Hw) (err : Nat) => done (h.asyncErr t 5 err p.pa x.acc.secure) onesW
  let read := fun (h : Hw) (old : Nat) =>
    if (amoNew amo o.size old).isSome then h.raiseFlt m t f va x.a.pc else done h (extend o.size true (BitVec.ofNat 512 old))
  match x.b.ext.find? fun e => e.unique && e.pa == p.pa && e.len == o.size with
  | some e => if !e.done then h else if e.err = 0 then read h (leNat e.data) else bad h (e.err - 1)
  | none =>
    if !x.b.sb.isEmpty || (o.release && (!h.loadsDone t x.b.fresh || h.storesOut t)) || (o.acquire && h.releaseOut t x.b.fresh)
        || x.b.outOn line || x.b.pendingOn x.b.fresh line (maskOf off o.size) || (h.core core).wbuf.contains line then h
    else if h.writable core line then
      let h1 := h.touchHit core line
      if !x.acc.admits (h.copyOwner core line) && !h.judgePA x.acc p.pa 3 then bad h1 2
      else if h.copyBad core line then bad h1 1
      else read h1 (leNat (vbytes (lineVal m h line) off o.size))
    else match h.l1dMiss t line true .load x.acc p.tg.home with
      | some h1 => h1.extBegin t false x.acc p.pa o.size true
      | none => h

/-- A local AMO or CAS (R51, R52, R125, R190). -/
def Hw.amoOp (m : List Host.Cell) (h : Hw) (t : Nat) (rd ra rb : Reg) (op : Nat) (isCas : Bool) (size ord : BitVec 2) : Hw :=
  if !h.ready t ([destG ra, destG rb] ++ if isCas then [destG rd] else []) .mem then h
  else
    let x := h.thread t
    let va := x.a.rg ra
    let n := sizeOf2 size
    let w : Want := ⟨.atomic, n, false, false, true, false⟩
    let acquire := ord.getLsbD 0
    let release := ord.getLsbD 1
    let amo : AmoOp := ⟨isCas, op, x.a.rg rb, x.a.rg rd, release⟩
    let o : LongOp := { LongOp.known .load (destG rd) 0 with
      ready := false, size := n, signed := true, acquire := acquire, release := release, acc := x.acc, amo := some amo }
    if n < 4 ∨ 9 ≤ op then h.illegal m t
    else if va.toNat % n ≠ 0 then h.raise m t .s 2 0 va x.a.pc
    else match x2All m h t { w with acc := if isCas then .casLoad else .atomic } [(va, n, 0)] with
      | .miss va => h.cancel t va (if isCas then .casLoad else .atomic)
      | .flt f va => h.raiseFlt m t f va x.a.pc
      | .ok ps =>
        match (if isCas then x2All m h t w [(va, n, 0)] else .ok ps), ps with
        | .flt f va, p :: _ => h.casClean m t rd o amo p f va
        | _, _ =>
          let id := h.nextLong t
          let h1 := (h.addLong t { o with parts := mkParts ps }).lookup m t id 0
          let h2 := if acquire then h1.updBack t fun b => { b with acqHold := some id } else h1
          (h2.writeback t id).complete t .seq

/-! ### Instructions -/

/-- LB (R43). -/
def execLb (t : Nat) (rd ra : Reg) (imm : BitVec 16) (s : State) : Host.Outcome State Fault Refusal :=
  s.onHw fun m h => h.loadOp m t rd ra (sx imm) 1 true false

/-- LH (R43). -/
def execLh (t : Nat) (rd ra : Reg) (imm : BitVec 16) (s : State) : Host.Outcome State Fault Refusal :=
  s.onHw fun m h => h.loadOp m t rd ra (sx imm) 2 true false

/-- LW (R43). -/
def execLw (t : Nat) (rd ra : Reg) (imm : BitVec 16) (s : State) : Host.Outcome State Fault Refusal :=
  s.onHw fun m h => h.loadOp m t rd ra (sx imm) 4 true false

/-- LD (R43). -/
def execLd (t : Nat) (rd ra : Reg) (imm : BitVec 16) (s : State) : Host.Outcome State Fault Refusal :=
  s.onHw fun m h => h.loadOp m t rd ra (sx imm) 8 true false

/-- LBU (R43). -/
def execLbu (t : Nat) (rd ra : Reg) (imm : BitVec 16) (s : State) : Host.Outcome State Fault Refusal :=
  s.onHw fun m h => h.loadOp m t rd ra (sx imm) 1 false false

/-- LHU (R43). -/
def execLhu (t : Nat) (rd ra : Reg) (imm : BitVec 16) (s : State) : Host.Outcome State Fault Refusal :=
  s.onHw fun m h => h.loadOp m t rd ra (sx imm) 2 false false

/-- LWU (R43). -/
def execLwu (t : Nat) (rd ra : Reg) (imm : BitVec 16) (s : State) : Host.Outcome State Fault Refusal :=
  s.onHw fun m h => h.loadOp m t rd ra (sx imm) 4 false false

/-- SB (R43). -/
def execSb (t : Nat) (rs ra : Reg) (imm : BitVec 16) (s : State) : Host.Outcome State Fault Refusal :=
  s.onHw fun m h => h.storeOp m t rs ra (sx imm) 1 false

/-- SH (R43). -/
def execSh (t : Nat) (rs ra : Reg) (imm : BitVec 16) (s : State) : Host.Outcome State Fault Refusal :=
  s.onHw fun m h => h.storeOp m t rs ra (sx imm) 2 false

/-- SW (R43). -/
def execSw (t : Nat) (rs ra : Reg) (imm : BitVec 16) (s : State) : Host.Outcome State Fault Refusal :=
  s.onHw fun m h => h.storeOp m t rs ra (sx imm) 4 false

/-- SD (R43). -/
def execSd (t : Nat) (rs ra : Reg) (imm : BitVec 16) (s : State) : Host.Outcome State Fault Refusal :=
  s.onHw fun m h => h.storeOp m t rs ra (sx imm) 8 false

/-- LD.AQ (R44): zero-extended, with acquire order. -/
def execLdAq (t : Nat) (rd ra : Reg) (size : BitVec 2) (s : State) : Host.Outcome State Fault Refusal :=
  s.onHw fun m h => h.loadOp m t rd ra 0 (sizeOf2 size) false true

/-- ST.RL (R44): the low bytes of g[rb], with release order. -/
def execStRl (t : Nat) (ra rb : Reg) (size : BitVec 2) (s : State) : Host.Outcome State Fault Refusal :=
  s.onHw fun m h => h.storeOp m t rb ra 0 (sizeOf2 size) true

/-- AMO (R51). -/
def execAmo (t : Nat) (rd ra rb : Reg) (op : BitVec 4) (size ord : BitVec 2) (s : State) : Host.Outcome State Fault Refusal :=
  s.onHw fun m h => h.amoOp m t rd ra rb op.toNat false size ord

/-- CAS (R51). -/
def execCas (t : Nat) (rd ra rb : Reg) (size ord : BitVec 2) (s : State) : Host.Outcome State Fault Refusal :=
  s.onHw fun m h => h.amoOp m t rd ra rb 8 true size ord

/-- Whether a combination of AMO.FAR's fields is reserved (R53). -/
def farReserved (op : Nat) (ret : Bool) (rd : Reg) : Bool :=
  decide (op = 6 ∨ op = 7 ∨ 11 ≤ op) || (decide (op = 9) && !ret) || (!ret && decide (rd ≠ 0))

/-- The level that a vector instruction traps to while it is disabled (R72); none while it may run. -/
def Arch.vecDisabled (a : Arch) : Option Level :=
  let hen := Word.bit (a.crAt 0x800) 3
  let sen := Word.bit (a.crAt (sKey a.secure 0x400)) 3
  match a.level with
  | .m => none
  | .h => if hen then none else some .h
  | _ => if !hen then some .h else if !sen then some .s else none

/-- A line an AMO.FAR aims at still waits for an earlier access of the thread: stores of the line, buffered or on their way, an earlier AMO.FAR, loads and atomics of its bytes; with release order every earlier access, with acquire order earlier releases (R61,
R255). -/
def Hw.farWaits (h : Hw) (t id : Nat) (p : Piece) (acquire release : Bool) : Bool :=
  let b := (h.thread t).b
  let line := lineNo p.pa
  b.sb.any (fun e => e.line == line) || b.outOn line
    || b.longs.any (fun o => o.kind == .farAtomic && !o.ready && o.parts.any fun q => lineNo q.pa == line)
    || b.pendingOn id line (maskOf (p.pa.toNat % 64) p.len)
    || (release && (!b.sb.isEmpty || !h.loadsDone t id || h.storesOut t)) || (acquire && h.releaseOut t id)

/-- A far atomic leaves for the slice of its line, whose Churn engine applies it or which sends it on to the line's home (R53, R224, R251); none
while it must wait for a credit. A reservation matches it as a write (DESIGN CHOICE, log 157). -/
def Hw.farSend (h : Hw) (t id : Nat) (ret : Bool) (p : Piece) (acc : Acc) (o : LineOp) : Option Hw :=
  let c := t / 16
  let line := lineNo p.pa
  let sl := sliceOf line
  let g := h.regulateT c (h.thread t).resvVmid false line
  let r : SReq := ⟨.far o, line, .far t id ret, acc, false, h.weightOf t, g.2, p.tg.home⟩
  if h.hasCredit r.credit.1 r.credit.2 sl then some (g.1.postReq sl r) else none

/-- AMO.FAR (R53 to R55): one far atomic leaves for the Churn engine of its home as a long operation, which the answer ends. -/
def execAmoFar (t : Nat) (rd ra rb : Reg) (op : BitVec 4) (size ord : BitVec 2) (ret : Bool) (s : State) :
    Host.Outcome State Fault Refusal :=
  s.onHw fun m h =>
    let x := h.thread t
    let n := 8 * 2 ^ size.toNat
    let vec := decide (8 < n)
    let o := op.toNat
    let regOf := fun r : Reg => if vec then Dest.v r.toNat else destG r
    let isCas := decide (o = 9)
    if !h.ready t ([destG ra, regOf rb] ++ if isCas then [regOf rd] else []) .memLong then h
    else if farReserved o ret rd then h.illegal m t
    else
      let va := x.a.rg ra
      if va.toNat % n ≠ 0 then h.raise m t .s 2 0 va x.a.pc
      else match x2All m h t ⟨.atomic, n, false, false, false, true⟩ [(va, n, 0)] with
        | .miss va => h.cancel t va .atomic
        | .flt f va => h.raiseFlt m t f va x.a.pc
        | .ok [] => h
        | .ok (p :: _) =>
          let acquire := ord.getLsbD 0
          let release := ord.getLsbD 1
          let id := h.nextLong t
          if h.farWaits t id p acquire release then h
          else
            let val := fun r : Reg => if vec then x.a.rv r else (x.a.rg r).setWidth 512
            let d := if ret then regOf rd else Dest.none
            let l : LongOp := { LongOp.known .farAtomic d 0 with
              ready := false, size := n, acc := x.acc, release := release, acquire := acquire, parts := [⟨p.pa, p.mt, n, 0, false, p.tg⟩] }
            match h.farSend t id ret p x.acc (farOp p.pa n (val rb) o (if isCas then val rd else 0) p.mt) with
            | none => h
            | some h0 =>
              let h1 := h0.addLong t l
              let h2 := if acquire then h1.updBack t fun b => { b with acqHold := some id } else h1
              h2.complete t .seq

/-! ### Commands of the store buffer and pending loads -/

/-- LONG_OPERATION_WRITEBACK (R110, R114, R115): a finished long operation writes its result. -/
def execLongOperationWriteback (t id : Nat) (s : State) : Host.Outcome State Fault Refusal :=
  s.onHw fun _ h => h.writeback t id

/-- STORE_BUFFER_DRAIN (R121): the oldest entry of a thread drains, when it is the thread's turn in its core. A CMO entry acts on the caches
of its core; one to the point of coherence is sent to its home slice (R214, R215). -/
def execStoreBufferDrain (t err : Nat) (s : State) : Host.Outcome State Fault Refusal :=
  s.onHw fun m h =>
    match (h.thread t).b.sb with
    | [] => h
    | e :: _ =>
      if !h.drainTurn t then h
      else
        let r := match e.kind with
          | .cmo .. => h.drainCmo m t e
          | _ => h.drainStore m t err e
        r.updCore (coreOf t) fun x => { x with lastDrain := t % 4 }

/-- PARKED_LOAD_REENTRY (R123, R125, R213, R214): the parked load of a thread enters M1 again when nothing it waited for in the store
buffer remains; it parks again when its lookup says so. -/
def execParkedLoadReentry (t : Nat) (s : State) : Host.Outcome State Fault Refusal :=
  s.onHw fun m h =>
    let b := (h.thread t).b
    match b.parked with
    | none => h
    | some p =>
      match h.longOf t p.id with
      | none => h
      | some o =>
        if o.acquire && o.amo.isNone && h.releaseOut t o.id then h
        else (h.updBack t fun b => { b with parked := none }).lookup m t p.id p.next

/-- ASYNC_STORE_ERROR_RECORD (R171, R172): a record of an asynchronous error is made for a thread. -/
def execAsyncStoreErrorRecord (t kind err : Nat) (pa : Word) (secure : Bool) (s : State) : Host.Outcome State Fault Refusal :=
  s.onHw fun _ h => if t < numThreads ∧ kind < 6 ∧ err < 6 then h.asyncErr t kind err pa secure else h

end Sys2Proof.Machine
end

