-- ==== Sys2Proof/Machine/ExecAdm.lean ====
section
/-! DEFINITION. QRESV, QREL and QQUERY (R94, R95) and the admission controller's commands (R305, R309 to R311). -/

namespace Sys2Proof.Machine

/-- A request of the admission controller leaves with a long operation that its answer ends (R305). -/
def Hw.admSend (h : Hw) (t : Nat) (rd : Reg) (op : Nat) (handle : Word) (ws : List Word) : Hw :=
  let id := h.nextLong t
  let h1 := h.addLong t (LongOp.awaits .adm (destG rd) (h.thread t).acc)
  (h1.send vcReq (chamberStop (t / 16)) (blockStop .admission) (.adm ⟨t, id, op, handle, ws⟩)).complete t .seq

/-- QRESV (R94): the descriptor is read at X2 and sent. H and above. -/
def execQresv (t : Nat) (rd ra : Reg) (s : State) : Host.Outcome State Fault Refusal :=
  s.onHw fun m h =>
    if !h.ready t [destG ra] .memLong then h
    else
      let x := h.thread t
      let va := x.a.rg ra
      if Level.num x.a.level < 2 then h.illegal m t
      else if va.toNat % 64 ≠ 0 then h.raise m t .s 2 0 va x.a.pc
      else match h.descRead m t va with
        | .miss va => h.cancel t va .desc
        | .flt f va => h.raiseFlt m t f va x.a.pc
        | .bad err pa => h.descBad t .adm (destG rd) err pa
        | .wait f => f h
        | .ok v => h.tick.admSend t rd 0 0 (vwords v)

/-- QREL and QQUERY (R94): a handle is sent. H and above. -/
def Hw.handleOp (m : List Host.Cell) (h : Hw) (t : Nat) (rd ra : Reg) (op : Nat) : Hw :=
  if !h.ready t [destG ra] .memLong then h
  else if Level.num (h.thread t).a.level < 2 then h.illegal m t
  else h.admSend t rd op ((h.thread t).a.rg ra) []

/-- QREL (R94, R309). -/
def execQrel (t : Nat) (rd ra : Reg) (s : State) : Host.Outcome State Fault Refusal :=
  s.onHw fun m h => h.handleOp m t rd ra 1

/-- QQUERY (R94, R309). -/
def execQquery (t : Nat) (rd ra : Reg) (s : State) : Host.Outcome State Fault Refusal :=
  s.onHw fun m h => h.handleOp m t rd ra 2

/-- The oldest request is done and its answer leaves for the thread. -/
def Hw.admDone (h : Hw) (v : Word) : Hw :=
  match h.admQ with
  | [] => h
  | q :: r => { h with admQ := r }.send vcRsp (blockStop .admission) (chamberStop (q.thread / 16)) (.answer q.thread q.id v)

/-- ADMISSION_REQUEST (R305, R309): the oldest request is served; a QREL of a live handle stops its regulators and waits for its charges'
removal. -/
def execAdmissionRequest (s : State) : Host.Outcome State Fault Refusal :=
  s.onHw fun _ h =>
    match h.admQ with
    | [] => h
    | q :: _ =>
      if h.resvs.any fun p => p.2.retire then h
      else match q.op with
        | 0 => let r := h.qresv q.words; r.1.admDone r.2
        | 1 =>
          match h.resvOf q.handle with
          | none => h.admDone 1
          | some (i, r) =>
            if r.live then { h with resvs := sset i { r with retire := true, tok := [] } h.resvs }
            else ({ h with resvs := sdel i h.resvs }.admStat).admDone 0
        | _ =>
          match h.resvOf q.handle with
          | none => h.admDone 0
          | some (_, r) => h.admDone (w64 ((if r.live then 1 else 2) * 2 ^ 62 + min r.lat 0xFFFF * 2 ^ 32 + r.overCnt))

/-- QREL_CHARGE_REMOVAL (R309): a frame after the QREL its charges are removed and 0 is answered. -/
def execQrelChargeRemoval (s : State) : Host.Outcome State Fault Refusal :=
  s.onHw fun _ h =>
    match h.resvs.find? fun p => p.2.retire with
    | none => h
    | some p => (({ h with resvs := sdel p.1 h.resvs }.admStat).surveyChanged).admDone 0

/-- ADM_CAP (R310, R311): a write of ADM.CAP, ignored from U and S and for 154 to 255; lowering it revokes. -/
def execAdmCap (lvl : Level) (value : Word) (s : State) : Host.Outcome State Fault Refusal :=
  s.onHw fun _ h => (h.storeFields ⟨lvl, decide (lvl = .m), 0⟩ (admReg 0) 8 value.toNat).surveyChanged

end Sys2Proof.Machine
end

