-- ==== Sys2Proof/Machine/ExecBranch.lean ====
section
/-! DEFINITION. Branches and jumps (R48 to R50), hardware loops (R56), fences (R62, R65), SYNC.CTX (R93), WAIT (R101), and solo
instructions held at RD (R109). -/

namespace Sys2Proof.Machine

/-! ### Branches and jumps -/

/-- A conditional branch (R48). -/
def Hw.branch (h : Hw) (t : Nat) (ra rb : Reg) (hint : Bool) (disp : BitVec 15) (cond : Word → Word → Bool) : Hw :=
  if !h.ready t [destG ra, destG rb] .mem then h
  else
    let a := (h.thread t).a
    let tg := a.pc + 4 * sx disp
    let taken := cond (a.rg ra) (a.rg rb)
    (h.resolve t a.pc (.cond hint tg) taken (if taken then tg else a.pc + 4)).complete t (if taken then .to tg else .seq)

/-- BEQ (R48). -/
def execBeq (t : Nat) (ra rb : Reg) (hint : Bool) (disp : BitVec 15) (s : State) : Host.Outcome State Fault Refusal :=
  s.onHw fun _ h => h.branch t ra rb hint disp fun a b => a == b

/-- BNE (R48). -/
def execBne (t : Nat) (ra rb : Reg) (hint : Bool) (disp : BitVec 15) (s : State) : Host.Outcome State Fault Refusal :=
  s.onHw fun _ h => h.branch t ra rb hint disp fun a b => a != b

/-- BLT (R48). -/
def execBlt (t : Nat) (ra rb : Reg) (hint : Bool) (disp : BitVec 15) (s : State) : Host.Outcome State Fault Refusal :=
  s.onHw fun _ h => h.branch t ra rb hint disp fun a b => a.slt b

/-- BGE (R48). -/
def execBge (t : Nat) (ra rb : Reg) (hint : Bool) (disp : BitVec 15) (s : State) : Host.Outcome State Fault Refusal :=
  s.onHw fun _ h => h.branch t ra rb hint disp fun a b => b.sle a

/-- BLTU (R48). -/
def execBltu (t : Nat) (ra rb : Reg) (hint : Bool) (disp : BitVec 15) (s : State) : Host.Outcome State Fault Refusal :=
  s.onHw fun _ h => h.branch t ra rb hint disp fun a b => a.ult b

/-- BGEU (R48). -/
def execBgeu (t : Nat) (ra rb : Reg) (hint : Bool) (disp : BitVec 15) (s : State) : Host.Outcome State Fault Refusal :=
  s.onHw fun _ h => h.branch t ra rb hint disp fun a b => b.ule a

/-- JAL (R50). -/
def execJal (t : Nat) (rd : Reg) (disp : BitVec 21) (s : State) : Host.Outcome State Fault Refusal :=
  s.onHw fun _ h =>
    if !h.ready t [] .mem then h
    else
      let a := (h.thread t).a
      let tg := a.pc + 4 * sx disp
      ((h.resolve t a.pc (.jal (rd != 0) tg) true tg).writeG t rd (a.pc + 4)).complete t (.to tg)

/-- JALR (R50): a target that is not a multiple of 4 raises an instruction-alignment fault. -/
def execJalr (t : Nat) (rd ra : Reg) (kind : BitVec 2) (imm : BitVec 14) (s : State) : Host.Outcome State Fault Refusal :=
  s.onHw fun m h =>
    if !h.ready t [destG ra] .mem then h
    else
      let a := (h.thread t).a
      let tg := a.rg ra + sx imm
      if tg.toNat % 4 ≠ 0 then h.raise m t .s 1 0 tg a.pc
      else ((h.resolve t a.pc (.jalr kind.toNat) true tg).writeG t rd (a.pc + 4)).complete t (.to tg)

/-! ### Solo instructions (R109) -/

/-- A solo instruction completes, and fetch resumes at its successor with the loop copy loaded (R105, R109, R144). -/
def Hw.completeSolo (h : Hw) (t : Nat) (n : Next) : Hw :=
  let h1 := h.complete t n
  h1.updFront t fun f => f.discard (h1.thread t).a (h1.thread t).a.pc

/-- A solo instruction that has issued runs, or is held at RD while its condition fails (R109). -/
def Hw.soloGo (h : Hw) (t : Nat) (i : Instr) (cond : Bool) (run : Hw → Hw) : Hw :=
  if cond then run (h.updBack t fun b => { b with solo := none }) else h.updBack t fun b => { b with solo := some i }

/-- A solo instruction that may be held at RD: it issues and is held, or runs (R109). -/
def Hw.soloHold (h : Hw) (t : Nat) (i : Instr) (cond : Bool) (run : Hw → Hw) : Hw :=
  if !h.ready t [] .solo then h
  else if cond then run h
  else h.updBack t fun b => { b with solo := some i }

/-- LOOP.SET (R56): reserved with soff 0 or eoff below soff. -/
def execLoopSet (t : Nat) (ra : Reg) (soff : BitVec 5) (eoff : BitVec 11) (s : State) : Host.Outcome State Fault Refusal :=
  s.onHw fun m h =>
    if !h.ready t [] .solo then h
    else
      let a := (h.thread t).a
      let count := a.rg ra
      if soff = 0 ∨ eoff.toNat < soff.toNat then h.illegal m t
      else if count = 0 then (h.updArch t fun a => a.setCr 1 0).completeSolo t (.to (a.pc + 4 * zx eoff + 4))
      else (h.updArch t fun a =>
        ((a.setCr 1 count).setCr 2 (a.pc + 4 * zx soff)).setCr 3 (a.pc + 4 * zx eoff)).completeSolo t .noTest

/-- LOOP.CLR (R56). -/
def execLoopClr (t : Nat) (s : State) : Host.Outcome State Fault Refusal :=
  s.onHw fun _ h =>
    if !h.ready t [] .solo then h else (h.updArch t fun a => a.setCr 1 0).completeSolo t .noTest

/-- Every earlier store of a thread is performed: buffered ones, those on their way over a link, and those of atomics (R63, R65). -/
def Hw.storesDone (h : Hw) (t : Nat) : Bool :=
  let b := (h.thread t).b
  b.sb.isEmpty && b.vstWait.isEmpty && !h.storesOut t && b.longs.all fun o => o.amo.isNone || o.ready

def SbEntry.isCmo (e : SbEntry) : Bool :=
  match e.kind with
  | .cmo .. => true
  | _ => false

/-- Whether every earlier access of the kinds in pred is performed (R62, R63); bits 3 to 0 are L, S, D, F. Every CMO is of kind S
(R214). -/
def Hw.fenceDone (h : Hw) (t : Nat) (pred : BitVec 4) : Bool :=
  let b := (h.thread t).b
  let out := fun (o : LongOp) (dev : Bool) => !o.ready && o.parts.any fun p => !p.done && p.mt.device == dev
  let dev := fun (e : SbEntry) => e.mtype.device && !e.isCmo
  let l := b.longs.all fun o => o.kind == .farAtomic || !out o false
  let s := b.sb.all dev && b.vstWait.all dev && b.outs.all (fun o => o.2.1.device) && !h.gtags.any (fun p => p.2.who == .cmo t)
    && b.longs.all fun o => o.amo.isNone || o.ready
  let d := b.sb.all (fun e => !dev e) && b.vstWait.all (fun e => !dev e) && b.outs.all (fun o => !o.2.1.device)
    && b.longs.all fun o => o.kind == .farAtomic || !out o true
  let f := b.longs.all fun o => !(o.kind == .farAtomic || o.kind == .churn) || o.ready
  (!pred.getLsbD 3 || l) && (!pred.getLsbD 2 || s) && (!pred.getLsbD 1 || d) && (!pred.getLsbD 0 || f)

/-- The condition that FENCE waits for (R62, R109). -/
def Hw.fenceOk (h : Hw) (t : Nat) (pred succ : BitVec 4) : Bool := decide (succ = 0) || h.fenceDone t pred

/-- FENCE (R62): no younger instruction issues before every earlier access of a kind in pred is performed. -/
def execFence (t : Nat) (pred succ : BitVec 4) (s : State) : Host.Outcome State Fault Refusal :=
  s.onHw fun _ h => h.soloHold t (.fence t pred succ) (h.fenceOk t pred succ) fun h => h.completeSolo t .seq

/-- FENCE.I (R65). -/
def execFenceI (t : Nat) (s : State) : Host.Outcome State Fault Refusal :=
  s.onHw fun _ h => h.soloHold t (.fenceI t) (h.storesDone t) fun h => h.completeSolo t .seq

/-- No write of CACHECTL_M by the thread is still unfinished (R93, R209). -/
def Hw.cleanOver (h : Hw) (t : Nat) : Bool := (h.chamber (t / 16)).clean.all fun c => c.thread != t

/-- SYNC.CTX (R91, R93): no earlier instruction of the thread is unfinished when a solo instruction issues; it waits for a write of CACHECTL_M
that cleans (R209). -/
def execSyncCtx (t : Nat) (s : State) : Host.Outcome State Fault Refusal :=
  s.onHw fun _ h => h.soloHold t (.syncCtx t) (h.cleanOver t) fun h => (h.applyCtx t).completeSolo t .seq

/-- WAIT (R101): below S it is illegal; WTRAP traps it at normal-world S; it completes at once when an interrupt is pending; else the
thread stops issuing. The model lets the pc pass the WAIT as it begins, so that an interrupt's frame has the address after it. -/
def execWait (t : Nat) (s : State) : Host.Outcome State Fault Refusal :=
  s.onHw fun m h =>
    if !h.ready t [] .solo then h
    else
      let a := (h.thread t).a
      if a.level = .u then h.illegal m t
      else if a.level = .s ∧ !a.secure ∧ Word.bit (a.crAt 0x807) 2 then h.raise m t .h 16 0 0 a.pc
      else
        let h1 := h.completeSolo t .seq
        if (h.pendingInts t).isEmpty then h1.updThread t fun x => { x with run := .waiting a.level a.secure } else h1

/-- WAIT_RESUME (R101): a waiting thread goes on when an interrupt is pending for it, and takes it when it is enabled. -/
def execWaitResume (t : Nat) (s : State) : Host.Outcome State Fault Refusal :=
  s.onHw fun m h =>
    match (h.thread t).run with
    | .waiting .. =>
      if (h.pendingInts t).isEmpty || !h.threadUp t then h
      else
        let h1 := h.updThread t fun x => { x with run := .running }
        if (h1.takable t).isEmpty then h1 else h1.takeInterrupt m t
    | _ => h

end Sys2Proof.Machine
end

