-- ==== Sys2Proof/Machine/ExecPipe.lean ====
section
/-! DEFINITION. The front of the pipeline and what goes on beside it: fetch (R104, R105, R133, R193), the end of a predictor clear
(R148), micro-TLB refills and walks (R116, R181 to R185), store-buffer allocation for vector stores (R509), exception and
interrupt entry (R154, R158), the rescue area (R167), and enabling and disabling caches (R206 to R209). -/

namespace Sys2Proof.Machine

/-! ### Fetch -/

/-- What the front sees of an instruction (R133). -/
def flowOf (pc : Word) : Instr → Option Flow
  | .beq _ _ _ h d | .bne _ _ _ h d | .blt _ _ _ h d | .bge _ _ _ h d | .bltu _ _ _ h d | .bgeu _ _ _ h d =>
    some (.cond h (pc + 4 * sx d))
  | .jal _ rd d => some (.jal (rd != 0) (pc + 4 * sx d))
  | .jalr _ _ _ k _ => some (.jalr k.toNat)
  | _ => none

/-- A fetched block enters the instruction queue from the fetch address on, with guesses and the loop's fetch copy (R104, R105,
R133). A branch or jump that finds 8 checkpoints held is discarded with what follows it (R141). -/
def Hw.fetchPush (h : Hw) (t : Nat) : List (BitVec 32) → Hw
  | [] => h
  | w :: r =>
    let f := (h.thread t).f
    let pc := f.fetchPc
    if 16 ≤ f.iq.length then h
    else
      let fl := (insnDecode t w).bind (flowOf pc)
      if fl.isSome && decide (8 ≤ f.held) then h.updFront t fun f => { f with cpWait := true }
      else
        let g := fl.map (guessOf (h.core (coreOf t)) f pc)
        let f1 : Front := match fl, g with
          | some fl, some g => f.actFlow pc fl g.taken
          | _, _ => f
        let f2 : Front := { f1 with iq := f1.iq ++ [⟨pc, w, none, g⟩], cpWait := false }
        let taken := match g with | some g => g.taken | none => false
        if taken then
          h.updFront t fun _ => { f2 with fetchPc := (g.bind (·.next)).getD 0, fetchStop := (g.bind (·.next)).isNone }
        else if f2.fcount ≠ 0 ∧ pc = f2.fend then
          if 1 < f2.fcount.toNat then h.updFront t fun _ => { f2 with fetchPc := f2.fstart, fcount := f2.fcount - 1 }
          else Hw.fetchPush (h.updFront t fun _ => { f2 with fetchPc := pc + 4, fcount := 0 }) t r
        else Hw.fetchPush (h.updFront t fun _ => { f2 with fetchPc := pc + 4 }) t r

/-- A fetch fault enters the queue with the instruction at the fetch address (R67, R116). -/
def Hw.fetchFault (h : Hw) (t : Nat) (f : Flt) : Hw :=
  h.updFront t fun x => { x with iq := x.iq ++ [⟨x.fetchPc, 0, some f, none⟩], fetchStop := true }

/-- The words of a 32-byte block from an address on. -/
def blockWords (v : Vec) (pa : Word) : List (BitVec 32) :=
  let o := pa.toNat % 64 / 4
  (List.range (8 - o % 8)).map fun i => v.extractLsb' (32 * (o + i)) 32

/-- The translation of a fetch address: its one piece, a fault, or a miss. -/
def fetchXlate (m : List Host.Cell) (h : Hw) (t : Nat) : X2 :=
  let x := h.thread t
  let va := x.f.fetchPc
  match h.xlate m t true x.regime .fetch va with
  | .miss => .miss va
  | .flt f => .flt f va
  | .ok pa mt _ =>
    match decodeX2 h pa mt 4 false va with
    | .error f => .flt f va
    | .ok (tg, mt) => .ok [⟨pa, mt, tg, 4, 0⟩]

/-- A block's line, judged for the fetching thread (R399, R400): its words, or all ones when it is refused, or poisoned (DESIGN CHOICE, log 160).
`own` and `bad` are the tag and the poison of the copy. -/
def fetchLine (m : List Host.Cell) (h : Hw) (acc : Acc) (pa : Word) (own : Owner) (bad : Bool) : Vec :=
  if !bad && (acc.admits own || h.judgePA acc pa 4) then lineVal m h (lineNo pa) else BitVec.allOnes 512

/-- An L1I fill register for a line: a new one, whose request goes to the core port, or the one that is there, which the thread joins; a demand
fetch that joins with L1I enabled has the line allocated (R211, R212). Its l1s tells the threads that wait in it. -/
def Hw.l1iMiss (h : Hw) (t line idx : Nat) (acc : Acc) (home : Option Nat) : Hw :=
  let core := coreOf t
  let x := h.core core
  match missOf x.imiss line with
  | some r => h.updCore core fun x =>
      { x with imiss := supd Miss.free r (fun q =>
          { q with l1s := presSet q.l1s (t % 4) true, alloc := q.alloc || (x.l1i.en && !q.dna) }) x.imiss }
  | none =>
    match sfree x.imiss 0 4 with
    | none => h
    | some r => (h.updCore core fun x =>
        { x with portSeq := x.portSeq + 1
                 imiss := sset r { Miss.free with
                                        line := line, fetch := true, alloc := x.l1i.en, idx := idx, acc := acc,
                                        weight := h.weightOf t, resv := (h.thread t).resvVmid,
                                        l1s := presSet 0 (t % 4) true, atPort := true, seq := x.portSeq, home := home }
                          x.imiss }).toPort core

/-- A thread waits in an L1I fill register of a line, or for a marked one to go (R104, R218). -/
def Hw.fillHolds (h : Hw) (t line : Nat) : Bool :=
  match missOf (h.core (coreOf t)).imiss line with
  | some r => let q := sget Miss.free r (h.core (coreOf t)).imiss
              q.dna || presBit q.l1s (t % 4)
  | none => false

/-- The address of the 32-byte block that holds an instruction (R104). -/
def blockPa (pa : Word) : Word := pa &&& ~~~(31 : Word)

/-- A fetch block that no cache of the core keeps: of a type other than Normal write-back and write-through, of a port or of a remote node
(R186, R193). -/
def Piece.uncached (p : Piece) : Bool :=
  match p.tg with
  | .mmio _ | .remote => true
  | _ => decide (2 ≤ p.mt.rank)

/-- A thread is eligible at F1 (R104, R141): among others no miss of it is outstanding. -/
def Hw.fetches (m : List Host.Cell) (h : Hw) (t : Nat) : Bool :=
  let x := h.thread t
  decide (x.run = .running) && !x.f.fetchStop && !(x.f.cpWait && decide (8 ≤ x.f.held)) && decide (x.f.iq.length ≤ 8) && x.b.solo.isNone && x.b.tlbi.isNone
    && h.threadUp t && (match fetchXlate m h t with
      | .miss _ => false
      | .flt .. => true
      | .ok ps => ps.all fun p => !h.fillHolds t (lineNo p.pa) && x.b.fext.all fun e => e.done || e.pa != blockPa p.pa)

/-- A fetch block that no cache keeps (R186, R193, R400): it is sent for, and delivered once it has come; refused or in error it is all ones. -/
def Hw.fetchOut (m : List Host.Cell) (h : Hw) (t : Nat) (p : Piece) : Hw :=
  match h.blockRead m t true (h.thread t).acc p.mt p.tg (blockPa p.pa) 32 with
  | .out => h
  | .send f => f h
  | .got err bs =>
    (h.updExt t true fun _ => []).fetchPush t
      (blockWords (if err = 0 then vput 0 ((blockPa p.pa).toNat % 64) bs else BitVec.allOnes 512) p.pa)

/-- The fetch of one thread's block (R104, R186, R193, R206). Device memory is fetched when nothing older is in the queue. -/
def Hw.fetchOne (m : List Host.Cell) (h : Hw) (t : Nat) : Hw :=
  let core := coreOf t
  let x := h.thread t
  match fetchXlate m h t with
  | .miss _ | .ok [] => h
  | .flt f _ => if x.f.iq.isEmpty then h.fetchFault t f else h
  | .ok (p :: _) =>
    let line := lineNo p.pa
    let idx := Word.fld x.f.fetchPc 13 6
    if p.mt.device && !x.f.iq.isEmpty then h
    else if p.uncached then h.fetchOut m t p
    else
      let c := (h.core core).l1i
      match (if c.en then c.look geoL1I idx line else none) with
      | some k =>
        let l := sget ⟨line, .s, .normal, 0, false⟩ k c.lines
        (h.updL1i core fun c => c.touch geoL1I k).fetchPush t (blockWords (fetchLine m h x.acc p.pa l.own l.bad) p.pa)
      | none => h.l1iMiss t line idx x.acc p.tg.home

/-- FETCH_BLOCK (R104, R143): F1 selects the next eligible thread of a core in round-robin order, one that a misprediction redirected ahead
of the others, and fetches its block; while the predictors are cleared DE passes none (R148). -/
def execFetchBlock (core : Nat) (s : State) : Host.Outcome State Fault Refusal :=
  s.onHw fun m h =>
    let c := h.core core
    if numCores ≤ core ∨ c.clearing then h
    else
      let ts := c.redirect.map (4 * core + ·) ++ (List.range 4).map fun i => 4 * core + (c.lastF1 + 1 + i) % 4
      match ts.find? (h.fetches m) with
      | none => h
      | some t => (h.fetchOne m t).updCore core fun c => { c with lastF1 := t % 4, redirect := c.redirect.filter (· != t % 4) }

/-- PREDICTOR_CLEAR_END (R148). -/
def execPredictorClearEnd (core : Nat) (s : State) : Host.Outcome State Fault Refusal :=
  s.onHw fun _ h =>
    if core < numCores then h.updCore core fun c => { c with clearing := false, second := [], indirect := [] } else h

/-- A line that is not allocated in L1I is delivered once to the threads that joined its register and still want it (R218). -/
def Hw.fetchDeliver (m : List Host.Cell) (h : Hw) (core : Nat) (q : Miss) : Hw :=
  forN 0 4 (fun i h1 =>
    let t := 4 * core + i
    match (if presBit q.l1s i then fetchXlate m h t else .ok []) with
    | .ok (p :: _) =>
      if lineNo p.pa = q.line ∧ (h.thread t).run = .running ∧ !(h.thread t).f.fetchStop then
        h1.fetchPush t (blockWords (if q.err ≠ 0 then BitVec.allOnes 512 else fetchLine m h (h.thread t).acc p.pa .nobody q.bad) p.pa)
      else h1
    | _ => h1) h

/-- L1I_FILL (R148, R211, R212, R218): the line is allocated, or its block is delivered once to the threads that wait for it, which DE takes
only while no clear runs; a refused or failed fetch delivers all ones (R400). -/
def execL1iFill (core reg : Nat) (s : State) : Host.Outcome State Fault Refusal :=
  s.onHw fun m h =>
    match sfind reg (h.core core).imiss with
    | none => h
    | some q =>
      if !q.ready then h
      else
        let h1 := h.updCore core fun x => { x with imiss := sdel reg x.imiss }
        let inL2 := (h.l2Key (chamberOf core) q.line).isSome
        if q.err ≠ 0 ∨ !q.alloc ∨ !(h.core core).l1i.en ∨ !inL2 then
          if (h.core core).clearing then h else h1.fetchDeliver m core q
        else match (h.core core).l1i.pick geoL1I q.idx with
          | none => h
          | some w =>
            let k := q.idx * 4 + w
            let old := sfind k (h.core core).l1i.lines
            let h2 := h1.updL1i core fun c => (c.put k ⟨q.line, .s, q.own, 0, q.bad⟩).touch geoL1I k
            let h3 := match old with
              | some l => if (l1iKeys (h2.core core).l1i l.line).isEmpty then
                  h2.setL2 (chamberOf core) l.line fun y => { y with pres := presSet y.pres (4 + core % 4) false } else h2
              | none => h2
            h3.setL2 (chamberOf core) q.line fun y => { y with pres := presSet y.pres (4 + core % 4) true }

/-! ### Translation -/

/-- A TLB entry is made; `n` is the core's register of R185, which names the victim of a full array (R184, R185). -/
def Core.tlbInsert (c : Core) (n : BitVec 16) (e : TlbEntry) : Core :=
  { c with tlb := sset ((sfree c.tlb 0 256).getD (n.toNat % 256)) e c.tlb }

/-- A walk-cache entry is made unless it is there (R183, R185). -/
def Core.wcInsert (c : Core) (n : BitVec 16) (e : WcEntry) : Core :=
  if c.wcache.any fun p => p.2 == e then c
  else { c with wcache := sset ((sfree c.wcache 0 32).getD (n.toNat % 32)) e c.wcache }

/-- What a walk found for its access is kept for the replay: a fault, or the entry of a page that no buffer may hold (R116, R185). -/
def Hw.walkEnded (h : Hw) (w : Walker) (f : Option Flt) (e : Option TlbEntry) : Hw :=
  let k : WalkEnd := ⟨w.va.toNat / 4096, w.access, w.reg.acc.lvl, f, e⟩
  h.updBack w.thread fun b =>
    { b with walkEnds := k :: b.walkEnds.filter fun x => !(x.page == k.page && x.access == k.access && x.lvl == k.lvl) }

/-- A walk goes on: its next read is sent for, or it has ended with its entry or its fault, unless it is discarded (R181, R185, R196). The
pointers it has read enter the walk cache. An entry is made only when both stages' A marks are 1 (R185). -/
def Hw.walkStep (h : Hw) (core k : Nat) (w : Walker) : Hw :=
  let c := w.cfg h
  let put := fun (h : Hw) (ps : List WcEntry) => if w.discard then h else
    h.updCore core fun x => ps.foldl (fun x e => x.wcInsert (h.coreLfsr core) e) x
  let done := fun (h : Hw) => h.updCore core fun x => { x with walkers := sdel k x.walkers }
  match walkBoth c (w.answers, []) with
  | .need _ ps => ((put h ps).updCore core fun x => { x with walkers := sset k w x.walkers }).walkSend core k
  | .flt f ps =>
    let h1 := done (put h ps)
    if w.discard then h1 else h1.walkEnded w (some f) none
  | .ok (l1, l2) st =>
    let h1 := done (put h st.2)
    let e := tlbEntry c l1 l2
    if w.discard then h1
    else if l1.a && l2.a then h1.updCore core fun x => x.tlbInsert (h.coreLfsr core) e
    else h1.walkEnded w none (some e)

/-- A walk starts when a walker is free and the thread has none (R183). Its walks of stage 2 start from the pointers cached when it began, not from
those that it caches itself (DESIGN CHOICE, log 171). -/
def Hw.startWalk (h : Hw) (t : Nat) (va : Word) (access : Access) (r : Regime) : Hw :=
  let core := coreOf t
  if (h.core core).walkers.any fun p => p.2.thread == t then h
  else match sfree (h.core core).walkers 0 2 with
    | none => h
    | some k => h.walkStep core k ⟨t, va, access, r, (h.core core).wcache.map (·.2), [], false, none, false⟩

/-- MICRO_TLB_REFILL (R116): the address that missed is looked up in the TLB. A hit fills the micro-TLB and the thread replays; what
its walk found lets it replay too; else its walk starts. -/
def execMicroTlbRefill (t : Nat) (fetch : Bool) (s : State) : Host.Outcome State Fault Refusal :=
  s.onHw fun _ h =>
    let core := coreOf t
    let x := h.thread t
    let want : Option Replay := if fetch then
        (if x.run = .running ∧ !x.f.fetchStop ∧ !physRegime x.acc x.a.ctx then some ⟨x.f.fetchPc, .fetch, x.regime⟩ else none)
      else x.b.replay
    match want with
    | none => h
    | some ⟨va, access, r⟩ =>
      let c : Wcfg := ⟨h, r.acc, r.ctx, [], access, va⟩
      let ready := fun (h : Hw) => if fetch then h else h.updBack t fun b => { b with replay := none }
      let ended := x.b.walkEnds.any fun w => w.page == va.toNat / 4096 && w.access == access && w.lvl == r.acc.lvl
      let hit := fun e : TlbEntry => e.hits r.acc.secure c.vmid c.asid va
      if ended then ready h
      else if (if fetch then (h.core core).itlb else (h.core core).dtlb).any hit then ready h
      else match pickEntry (((h.core core).tlb.map (·.2)).filter hit) with
        | some e => ready (h.updCore core fun c =>
            if fetch then { c with itlb := (e :: c.itlb).take 32 } else { c with dtlb := (e :: c.dtlb).take 48 })
        | none => h.startWalk t va access r

/-- WALK_READ_RETURN (R181, R183): a walk's outstanding table read returns; `bad` is a bus error or bad data (R182 reason 3). A read that
found no miss register is sent for first. -/
def execWalkReadReturn (core w : Nat) (bad : Bool) (s : State) : Host.Outcome State Fault Refusal :=
  s.onHw fun _ h =>
    match sfind w (h.core core).walkers with
    | none => h
    | some k =>
      match k.data with
      | some a => h.walkStep core w { k with answers := k.answers ++ [if bad then none else a], sent := false, data := none }
      | none => h.walkSend core w

/-! ### Stores of vectors and frames, entries, rescue -/

/-- VECTOR_STORE_ENTRY_ALLOCATE (R509, R407): the next waiting entry takes a free place of the store buffer. -/
def execVectorStoreEntryAllocate (t : Nat) (s : State) : Host.Outcome State Fault Refusal :=
  s.onHw fun _ h =>
    let b := (h.thread t).b
    match b.vstWait with
    | [] => h
    | e :: r => if b.sb.length < 16 then h.updBack t fun b => { b with sb := b.sb ++ [e], vstWait := r } else h

/-- EXCEPTION_ENTRY (R118, R154, R158): the thread takes the interrupt that comes first, or the fetch fault that the instruction at its pc
carries; an instruction that has issued and is held at RD is completed first. -/
def execExceptionEntry (t : Nat) (s : State) : Host.Outcome State Fault Refusal :=
  s.onHw fun m h =>
    let x := h.thread t
    if numThreads ≤ t ∨ x.run ≠ .running ∨ !h.threadUp t ∨ x.b.tlbi.isSome ∨ x.b.solo.isSome then h
    else if !(h.takable t).isEmpty then h.takeInterrupt m t
    else match x.f.iq with
      | e :: _ => match e.flt with
        | some f => if e.pc = x.a.pc then h.raiseFlt m t f e.pc e.pc else h
        | none => h
      | [] => h

/-- RESCUE_USED (R167): a 1 written to USED from M consumes the rescue frame of a thread. -/
def execRescueUsed (t : Nat) (lvl : Level) (value : Word) (s : State) : Host.Outcome State Fault Refusal :=
  s.onHw fun _ h =>
    if t < numThreads ∧ lvl = .m ∧ Word.bit value 0 then h.setReg (rescueReg t 0x50) 0 else h

/-! ### Enabling and disabling caches -/

/-- Caches of a core and its chamber are enabled: bits 0 L1I, 1 L1D, 2 L2. -/
def Hw.enable (h : Hw) (core sets : Nat) : Hw :=
  let h1 := if sets / 4 % 2 = 1 then h.updL2 (chamberOf core) fun k => { k with en := true } else h
  let h2 := if sets % 2 = 1 then h1.updL1i core fun k => { k with en := true } else h1
  if sets / 2 % 2 = 1 then h2.updL1d core fun k => { k with en := true } else h2

/-- A write of CACHECTL_M by a thread (R208, R209): forbidden enables are refused one by one; clearing a bit starts a clean, and
every enable of the write changes when it ends. REFUSED is W1C. -/
def Hw.writeCachectl (h : Hw) (t : Nat) (v : Word) : Hw :=
  let core := coreOf t
  let c := chamberOf core
  let x := h.core core
  let ch := h.chamber c
  let h0 := if Word.bit v 6 then h.updCore core fun x => { x with refused := false } else h
  let l1On := fun k : Nat => (h.core k).l1i.en || (h.core k).l1d.en
  let othersOn := (List.range 4).any fun i => 4 * c + i != core && l1On (4 * c + i)
  let setL2 := Word.bit v 2 && !ch.l2.en
  let okL2 := setL2 && ch.l2.inv 65536
  let l2After := ch.l2.en || okL2
  let okI := Word.bit v 0 && !x.l1i.en && x.l1i.inv 1024 && l2After
  let okD := Word.bit v 1 && !x.l1d.en && x.l1d.inv 1024 && l2After
  let iAfter := x.l1i.en && Word.bit v 0 || okI
  let dAfter := x.l1d.en && Word.bit v 1 || okD
  let clrL2 := ch.l2.en && !Word.bit v 2
  let noClr := clrL2 && (iAfter || dAfter || othersOn)
  let bad := (setL2 && !okL2) || (Word.bit v 0 && !x.l1i.en && !okI) || (Word.bit v 1 && !x.l1d.en && !okD) || noClr
  let sets := b2n okI + 2 * b2n okD + 4 * b2n okL2
  let h4 := if bad then
      ((h0.updCore core fun x => { x with refused := true }).event (chamberReg c 0x1000) 2).incident 0x51 0 0 v (blockId 13 t)
        (h.thread t).a.secure
    else h0
  let ci := x.l1i.en && !Word.bit v 0
  let cd := x.l1d.en && !Word.bit v 1
  let c2 := clrL2 && !noClr
  if ci || cd || c2 then h4.updChamber c fun y => { y with clean := some ⟨t, h.readCr t 0xC06, core, ci, cd, c2, sets⟩ } else h4.enable core sets

/-- CACHECTL_M (R208): thread t at M writes its core's CACHECTL_M. A clean in progress holds the write back. -/
def execCachectlM (t : Nat) (value : Word) (s : State) : Host.Outcome State Fault Refusal :=
  s.onHw fun _ h =>
    if t < numThreads ∧ (h.thread t).a.level = .m ∧ (h.chamber (t / 16)).clean.isNone then h.writeCachectl t value else h

/-- Every line of a core's L1 caches goes, dirty ones to L2 (R209). -/
def Hw.cleanL1 (h : Hw) (core : Nat) (i d : Bool) : Hw :=
  let h1 := if d then ((h.core core).l1d.lines.map fun p => p.2.line).foldl (fun h l => h.l1dDrop core l)
      ((h.core core).wbuf.foldl (fun h l => h.l1Wb core l) h) else h
  if i then ((h1.core core).l1i.lines.map fun p => p.2.line).foldl (fun h l => h.l1iDrop core l) h1 else h1

/-- Every line of a chamber's L2 goes, dirty ones to the Vat (R209): false while the Vat does not accept one. -/
def Hw.cleanL2 (m : List Host.Cell) (h : Hw) (c : Nat) : Hw × Bool :=
  ((h.chamber c).l2.lines.map fun p => p.2.line).foldl (fun r l => let q := r.1.l2CleanInv m c l; (q.1, r.2 && q.2)) (h, true)

/-- The write that started a clean completes with the clean: it gives the value read before (R92, R209). -/
def Hw.cleanDone (h : Hw) (w : CleanWait) : Hw :=
  let t := w.thread
  let go := fun (rd : Reg) => ((h.updBack t fun b => { b with solo := none }).writeG t rd w.old).completeSolo t .seq
  match (h.thread t).b.solo with
  | some (.crw _ rd _ n) | some (.crs _ rd _ n) | some (.crc _ rd _ n) => if n.toNat = 0xC06 then go rd else h
  | _ => h

/-- A disabled cache: its coverage is clear (R207, R209). -/
def Cache.disable (c : Cache) : Cache := { c with en := false, cov := 0, lines := [] }

/-- CACHE_DISABLE_CLEAN_COMPLETE (R209): the cleaning ends once every dirty line has been accepted by the next level; the cleared enables
take effect at once, and the write that cleared them completes. -/
def execCacheDisableCleanComplete (chamber : Nat) (s : State) : Host.Outcome State Fault Refusal :=
  s.onHw fun m h =>
    match (h.chamber chamber).clean with
    | none => h
    | some w =>
      let h1 := h.cleanL1 w.core w.l1i w.l1d
      let r := if w.l2 then h1.cleanL2 m chamber else (h1, true)
      if !r.2 then r.1
      else
        let h3 := if w.l1i then r.1.updL1i w.core Cache.disable else r.1
        let h4 := if w.l1d then h3.updL1d w.core Cache.disable else h3
        let h5 := if w.l2 then h4.updL2 chamber Cache.disable else h4
        ((h5.enable w.core w.sets).updChamber chamber fun y => { y with clean := none }).cleanDone w

end Sys2Proof.Machine
end

