-- ==== Sys2Proof/Machine/PowerState.lean ====
section
/-! DEFINITION. Choosing and entering power states (R430 to R439), and writing caches back for a state or a reset (R438, R450). -/

namespace Sys2Proof.Machine

/-! ### Choosing a state (R430, R433, R434) -/

/-- The threads of a scope: first and number. -/
def scopeThreads (scope n : Nat) : Nat × Nat :=
  match scope with
  | 0 => (4 * n, 4)
  | 1 => (16 * n, 16)
  | 2 => (288 * n, 288)
  | _ => (0, numThreads)

/-- The number of components of a scope. -/
def scopeCount (scope : Nat) : Nat := [numCores, numChambers, 4, 1].getD scope 0

/-- MAXST of the level at which a thread waits (R101), as the deepest state's number: 0 permits Drip, 1 Still, 2 Sump and Deep Sump. -/
def Hw.maxst (h : Hw) (t : Nat) (lvl : Level) (secure : Bool) : Nat :=
  let k := match lvl with
    | .h => 0x808
    | .m => 0xC08
    | _ => sKey secure 0x406
  let v := Word.fld ((h.thread t).a.crAt k) 1 0
  if v = 0 then 1 else if v = 1 then 2 else 4

/-- A thread permits its scope a state: it waits with a MAXST that reaches it, or its chamber is parked (R434). -/
def Hw.threadPermits (h : Hw) (t : Nat) (st : PState) : Bool :=
  match (h.thread t).run with
  | .waiting lvl sec => decide (st.num ≤ h.maxst t lvl sec)
  | _ => (h.chamber (t / 16)).park.isSome

/-- The tolerance of a scope in ns (R433); none means no limit. Deep Sump does not consult LTR. -/
def Hw.tolerance (h : Hw) (scope n : Nat) (deep : Bool) : Option Nat :=
  let r := scopeThreads scope n
  let le := fun (a : Option Nat) (v : Nat) => match a with
    | none => some v
    | some x => some (min x v)
  let a := forN r.1 r.2 (fun t (a : Option Nat) =>
    let v := ((h.thread t).a.crAt 4).toNat % 2 ^ 32
    if v = 2 ^ 32 - 1 then a else le a v) none
  let ign := Word.bit (h.reg (pwrReg 0x900)) 2
  let b := if scope < 2 ∨ deep then a else
    (List.range 128).foldl (fun (a : Option Nat) i =>
      let v := (h.reg (linkReg (i / 16) (0x200 + 8 * (i % 16)))).toNat
      if h.linkState (i / 16) (i % 16) = 2 ∧ v ≠ 2 ^ 32 - 1 ∧ !(v == 0 && ign) then le a v else a) a
  if scope = 3 ∧ (List.range 6).any (fun i => h.linkUp (8 + i) 0) then le b (h.regF (pwrReg 0x908) 31 0) else b

/-- Worst-case exit latency in ns (R430). -/
def wxl (scope : Nat) (st : PState) : Nat :=
  match st with
  | .run => 0
  | .drip => if scope = 1 then 40 else 20
  | .still => if scope = 1 then 6000 else 25000
  | .sump => if scope = 0 then 3000 else if scope = 1 then 25000 else 100000
  | .deep => 6000000

/-- A slice and its engine hold no message and no work. -/
def Slice.idle (x : Slice) : Bool :=
  x.intake.isEmpty && x.txns.isEmpty && x.wbIn.isEmpty && x.answers.isEmpty && x.fills.isEmpty && x.instIn.isEmpty && x.rwbIn.isEmpty
    && x.snps.isEmpty && x.ctxs.isEmpty && x.wbb.isEmpty

/-- An up link has nothing on its way, so that it can be in its low-power state (DEDUCED, log 50). -/
def Hw.linkIdle (h : Hw) (k j : Nat) : Bool :=
  let l := h.link k j
  l.retry.isEmpty && l.wait.isEmpty && l.fwd.isEmpty && l.held.isEmpty && l.mnt.isEmpty

def Hw.linksIdle (h : Hw) : Bool :=
  h.gtags.isEmpty && h.ptags.isEmpty && h.mmio.isEmpty && h.maint.isEmpty
    && h.posts.isEmpty && h.links.all fun p => !h.linkUp (p.1 / 16) (p.1 % 16) || h.linkIdle (p.1 / 16) (p.1 % 16)

/-- The conditions of R430 for entering a state. -/
def Hw.entryOk (h : Hw) (scope n : Nat) (st : PState) : Bool :=
  let low := fun (c : Nat) (least : PState) => decide (least.num ≤ (h.chamber c).pstate.num)
  match scope with
  | 0 => st == .drip || (st == .sump && h.saveOk)
  | 1 =>
    (List.range 4).all (fun i => sget PState.run i (h.chamber n).cstate != .run)
      && (st == .drip || st == .still || (st == .sump && h.saveOk))
  | 2 =>
    st == .drip && (List.range 18).all (fun i => low (18 * n + i) .still && (h.slice (18 * n + i)).idle)
      && h.flits.all fun f => stopDie f.at_ != n
  | _ =>
    (List.range 4).all (fun d => h.dieState d == .drip) && (st == .drip
      || (h.insts.all (fun p => p.2.queue.isEmpty) && h.slices.all (fun p => p.2.ctxs.isEmpty) && h.linksIdle
        && !((List.range 6).any (fun i => h.linkUp (8 + i) 0) && !Word.bit (h.reg (pwrReg 0x900)) 1)
        && (st == .still || ((List.range numChambers).all (fun c => low c .sump)
          && (st == .sump || (st == .deep && Word.bit (h.reg (pwrReg 0x900)) 63))))))

/-- A scope may be in a state now (R434). -/
def Hw.permits (h : Hw) (scope n : Nat) (st : PState) : Bool :=
  let r := scopeThreads scope n
  (match h.tolerance scope n (st == .deep) with
    | none => true
    | some v => decide (wxl scope st ≤ v))
    && h.entryOk scope n st && (List.range r.2).all fun i => h.threadPermits (r.1 + i) st

/-- The deepest state that a scope may be in now. -/
def Hw.deepest (h : Hw) (scope n : Nat) : PState :=
  (([PState.deep, .sump, .still, .drip]).find? fun st => h.permits scope n st).getD .run

/-! ### Writing caches back (R430, R438, R450) -/

/-- The dirty lines of one Vat slice are written to memory; a line of another member is sent home and leaves. Lines of this node stay,
clean (R438). -/
def flushSlice (s : Nat) (p : List Host.Cell × Hw) : List Host.Cell × Hw :=
  ((p.2.slice s).ways.filter fun w => w.2.st == .m || w.2.st == .o).foldl (fun (p : List Host.Cell × Hw) w =>
    let l := w.2.line
    let v := lineVal p.1 p.2 l
    match p.2.homePos l with
    | some i => match p.2.galReq (.line s l) 0x20 i l 0 w.2.bad 4 v with
      | some h1 => (p.1, { (h1.vatDrop s l) with newest := sdel l h1.newest })
      | none => p
    | none => writeMem l v w.2.bad (p.1, p.2.vatSetSt s l (if w.2.st = .m then .e else .s))) p

/-- Every Vat slice is written back. -/
def flushVat (p : List Host.Cell × Hw) : List Host.Cell × Hw := (List.range numSlices).foldl (fun p s => flushSlice s p) p

/-- A dirty line is left in the Vat. -/
def Hw.vatDirty (h : Hw) : Bool := h.slices.any fun p => p.2.ways.any fun w => w.2.st == .m || w.2.st == .o

/-- The caches of a chamber are cleaned and invalidated down to the Vat (R209): false while the Vat does not accept a line. -/
def Hw.cleanChamber (m : List Host.Cell) (h : Hw) (c : Nat) : Hw × Bool :=
  ((List.range 4).foldl (fun (h : Hw) i => h.cleanL1 (4 * c + i) true true) h).cleanL2 m c

/-- A chamber has no miss, no writeback and no cleaning on its way. -/
def Hw.chamberQuiet (h : Hw) (c : Nat) : Bool :=
  let x := h.chamber c
  x.miss.isEmpty && x.wbuf.isEmpty && x.clean.isNone && (List.range 4).all fun i =>
    (h.core (4 * c + i)).dmiss.isEmpty && (h.core (4 * c + i)).imiss.isEmpty && (h.core (4 * c + i)).wbuf.isEmpty

/-- The save areas of threads t to t + n − 1 are written, 48 lines each (R430, R431); where in them each register stands is not specified
(log 51). -/
def saveThreads (t n : Nat) (p : List Host.Cell × Hw) : List Host.Cell × Hw :=
  let base := p.2.regF (pwrReg 0x910) 47 12 * 4096
  forN t n (fun t p => forN 0 48 (fun i (p : List Host.Cell × Hw) =>
    (memPut (base + 4096 * t + 64 * i) (vbytes (Config.freeVec p.2.fresh) 0 64) p.1, p.2.tick)) p) p

/-- What a core keeps in Sump is its threads' state: translations, walk pointers, prediction tables and the L1 trees are lost; the L2's tree
stays (DESIGN CHOICE, log 52: R205, R210 and R430 do not say what the trees hold then). -/
def Hw.corePowerOff (h : Hw) (core : Nat) : Hw :=
  let h1 := h.updCore core fun x =>
    { Core.reset with l1i := { x.l1i with plru := [] }, l1d := { x.l1d with plru := [] }, refused := x.refused, missed := x.missed }
  forN (4 * core) 4 (fun t h => h.updFront t fun f =>
    { Front.reset with fcount := f.fcount, fstart := f.fstart, fend := f.fend, fetchPc := (h.thread t).a.pc }) h1

/-! ### Entering a state of a core, chamber or die -/

/-- What the scope loses as it enters (R430). Lines have left the caches first. -/
def enterScope (scope n : Nat) (st : PState) (p : List Host.Cell × Hw) : List Host.Cell × Hw :=
  match scope, st with
  | 0, .sump =>
    let q := saveThreads (4 * n) 4 (p.1, p.2.cleanL1 n true true)
    (q.1, (q.2.corePowerOff n).setScope 0 n .sump)
  | 1, .still => (p.1, (p.2.cleanChamber p.1 n).1.setScope 1 n .still)
  | 1, .sump =>
    let q := saveThreads (16 * n) 16 (p.1, (p.2.cleanChamber p.1 n).1)
    (q.1, (forN (4 * n) 4 (fun c h => h.corePowerOff c) q.2).setScope 1 n .sump)
  | _, _ => (p.1, p.2.setScope scope n st)

/-- The entry can end: nothing is on its way that the state would cut off, and the Vat accepts what a chamber is to write back (R432). -/
def Hw.scopeQuiet (m : List Host.Cell) (h : Hw) (scope n : Nat) (st : PState) : Bool :=
  match scope with
  | 0 => st == .drip || ((h.core n).dmiss.isEmpty && (h.core n).imiss.isEmpty)
  | 1 => st == .drip || (h.chamberQuiet n && (h.cleanChamber m n).2)
  | _ => true

/-! ### Package entry (R436, R438) -/

/-- Participants: 0 to 71 chambers, 72 to 143 slices, 144 to 159 controllers, 160 to 177 ports, 178 router, 179 admission controller, 180
incident log, 181 Keeper. -/
def numParticipants : Nat := 182

/-- The block ID of a participant (R443). -/
def partBlock (i : Nat) : Nat :=
  if i < 72 then blockId 0 i else if i < 144 then blockId 1 (i - 72) else if i < 156 then blockId 2 (i - 144)
  else if i < 160 then blockId 3 (i - 156) else if i < 178 then blockId 4 (i - 160) else blockId (i - 173) 0

/-- A port refuses in prepare (R436). -/
def Hw.portRefuses (h : Hw) (i : Nat) (st : PState) : Bool :=
  let k := i - 160
  decide (160 ≤ i ∧ i < 178) && ((decide (14 ≤ k) && Word.bit (h.reg (linkReg k 0x2000)) 32 && decide (3 ≤ st.num))
    || (decide (8 ≤ k ∧ k < 14) && h.linkUp k 0 && decide (st = .deep)))

/-- Every up PCIe link of a port has acknowledged PME_Turn_Off, where Deep Sump sent it (R436). -/
def Hw.pmeDone (h : Hw) (i : Nat) (st : PState) : Bool :=
  let k := i - 160
  !(decide (160 ≤ i ∧ i < 168) && decide (st = .deep)) || (List.range 16).all fun j => !h.linkUp k j || h.pkg.acks.contains (k, j)

end Sys2Proof.Machine
end

