-- ==== Sys2Proof/Machine/PatrolOps.lean ====
section
/-! DEFINITION. Patrol (R472 to R478): the units of each die, taking a way out of service and emptying it, repairs and retirement. -/

namespace Sys2Proof.Machine

/-- An array of R472, as ARRAY of R480 numbers its kind. -/
inductive Arr where
  | l1i | l1d | l2 | vat | sf | dir
deriving DecidableEq, Repr

def Arr.num : Arr → Nat
  | .l1i => 0
  | .l1d => 1
  | .l2 => 2
  | .vat => 3
  | .sf => 4
  | .dir => 5

/-- A way of an array: the core, chamber or slice number, and the way. -/
structure WayAt where
  arr : Arr
  inst : Nat
  way : Nat
deriving DecidableEq, Repr

/-- A unit of patrol: a way, or an analogue block by its check row of R473 (0 loopback, 1 PLL, 2 sensor, 3 droop detector, 4 delay line)
and its number on the die. -/
inductive PUnit where
  | way (w : WayAt)
  | analog (row n : Nat)
deriving DecidableEq, Repr

/-- Units of a sequencer's pass (R474): compute dies 0 to 3, I/O dies 4 and 5. -/
def unitCount (b : Nat) : Nat := if b < 4 then 2281 else 21

/-- Unit u of die b, in the order of R474. -/
def unitOf (b u : Nat) : PUnit :=
  if b < 4 then
    if u < 288 then .way ⟨.l1i, 72 * b + u / 4, u % 4⟩
    else if u < 864 then .way ⟨.l1d, 72 * b + (u - 288) / 8, (u - 288) % 8⟩
    else if u < 1152 then .way ⟨.l2, 18 * b + (u - 864) / 16, (u - 864) % 16⟩
    else if u < 1584 then .way ⟨.vat, 18 * b + (u - 1152) / 24, (u - 1152) % 24⟩
    else if u < 1872 then .way ⟨.sf, 18 * b + (u - 1584) / 16, (u - 1584) % 16⟩
    else if u < 2160 then .way ⟨.dir, 18 * b + (u - 1872) / 16, (u - 1872) % 16⟩
    else if u < 2183 then .analog 1 (u - 2160)
    else if u < 2205 then .analog 2 (u - 2183)
    else if u < 2277 then .analog 3 (u - 2205)
    else .analog 4 (u - 2277)
  else if u < 9 then .analog 0 u
  else if u < 19 then .analog 1 (u - 9)
  else .analog 2 (u - 19)

/-- The unit number of a way on its die. -/
def unitNum (w : WayAt) : Nat :=
  match w.arr with
  | .l1i => w.inst % 72 * 4 + w.way
  | .l1d => 288 + w.inst % 72 * 8 + w.way
  | .l2 => 864 + w.inst % 18 * 16 + w.way
  | .vat => 1152 + w.inst % 18 * 24 + w.way
  | .sf => 1584 + w.inst % 18 * 16 + w.way
  | .dir => 1872 + w.inst % 18 * 16 + w.way

/-- The chamber whose scope a way belongs to: cores and L2 have one, slices the package. -/
def WayAt.chamber (w : WayAt) : Option Nat :=
  match w.arr with
  | .l1i | .l1d => some (chamberOf w.inst)
  | .l2 => some w.inst
  | _ => none

/-- A way becomes ineligible, or eligible again (R204, R222, R472). -/
def Hw.holdWay (h : Hw) (w : WayAt) (held : Bool) : Hw :=
  let mark := fun (k : Nat) (o : SMap Bool) => if held then sset k true o else sdel k o
  match w.arr with
  | .l1i => h.updL1i w.inst fun c => { c with offline := mark w.way c.offline }
  | .l1d => h.updL1d w.inst fun c => { c with offline := mark w.way c.offline }
  | .l2 => h.updL2 w.inst fun c => { c with offline := mark w.way c.offline }
  | .vat => h.updSlice w.inst fun x => { x with offline := mark w.way x.offline }
  | .sf => h.updSlice w.inst fun x => { x with offline := mark (100 + w.way) x.offline }
  | .dir => h.updSlice w.inst fun x => { x with offline := mark (200 + w.way) x.offline }

/-- The keys in use in one way of an array of `ways` ways. -/
def wayKeys {α : Type} (ways way : Nat) (m : SMap α) : List Nat := (m.filter fun p => p.1 % ways == way).map (·.1)

/-- An L1I line at a place goes; the presence bit follows once no other alias is there (R199). -/
def Hw.l1iDropKey (h : Hw) (core key : Nat) : Hw :=
  match sfind key (h.core core).l1i.lines with
  | none => h
  | some l =>
    let h1 := h.updL1i core fun c => c.drop key
    if (l1iKeys (h1.core core).l1i l.line).isEmpty then h1.l1iDrop core l.line else h1

/-- A snoop-filter entry goes: its holders in the node are back-invalidated, a dirty copy goes to the Vat (R228). -/
def Hw.sfDropKey (m : List Host.Cell) (h : Hw) (s key : Nat) : Hw :=
  match sfind key (h.slice s).sf with
  | none => h
  | some e =>
    if (h.slice s).busy e.line ∨ (h.slice s).wbbFree.isNone then h
    else
      let r := (e.form.holders.filter (· < 72)).foldl (fun (p : Hw × Bool) c =>
        let q := p.1.l2Remove c e.line; (q.1, p.2 || q.2)) (h, false)
      let h1 := r.1.sfSet s e.line none
      if r.2 then (let q := h1.takeDirty m s e.line; if q.2 then q.1 else h) else h1

/-- A way is emptied (R472). A line in a transaction, and a dirty one for which the write-back buffer has no room, stay; so does a directory
entry of a CXL-window line until the members in its vector have been invalidated (R233). -/
def Hw.emptyWay (m : List Host.Cell) (h : Hw) (w : WayAt) : Hw :=
  match w.arr with
  | .l1i => (wayKeys 4 w.way (h.core w.inst).l1i.lines).foldl (fun (h : Hw) k => h.l1iDropKey w.inst k) h
  | .l1d => (wayKeys 8 w.way (h.core w.inst).l1d.lines).foldl (fun (h : Hw) k =>
      match sfind k (h.core w.inst).l1d.lines with | some l => h.l1dDrop w.inst l.line | none => h) h
  | .l2 => (wayKeys 16 w.way (h.chamber w.inst).l2.lines).foldl (fun (h : Hw) k =>
      match sfind k (h.chamber w.inst).l2.lines with | some l => (h.l2CleanInv m w.inst l.line).1 | none => h) h
  | .vat => (wayKeys 24 w.way (h.slice w.inst).ways).foldl (fun (h : Hw) k =>
      match sfind k (h.slice w.inst).ways with
      | none => h
      | some l =>
        let dirty := l.st == .m || l.st == .o
        if (h.slice w.inst).busy l.line || (dirty && (h.slice w.inst).wbbFree.isNone) then h
        else (if dirty then h.wbbAdd m w.inst l.line l.bad else h).updSlice w.inst fun x => { x with ways := sdel k x.ways }) h
  | .sf => (wayKeys 16 w.way (h.slice w.inst).sf).foldl (fun (h : Hw) k => h.sfDropKey m w.inst k) h
  | .dir => (wayKeys 16 w.way (h.slice w.inst).dir).foldl (fun (h : Hw) k =>
      match sfind k (h.slice w.inst).dir with
      | none => h
      | some e => match (if cxlLine e.line then h.recall e.line true else none) with
        | some h1 => h1
        | none => ({ h with dirMem := sset e.line e.summary h.dirMem }).updSlice w.inst fun x => { x with dir := sdel k x.dir }) h

/-- A way holds no line. -/
def Hw.wayEmpty (h : Hw) (w : WayAt) : Bool :=
  match w.arr with
  | .l1i => (wayKeys 4 w.way (h.core w.inst).l1i.lines).isEmpty
  | .l1d => (wayKeys 8 w.way (h.core w.inst).l1d.lines).isEmpty
  | .l2 => (wayKeys 16 w.way (h.chamber w.inst).l2.lines).isEmpty
  | .vat => (wayKeys 24 w.way (h.slice w.inst).ways).isEmpty
  | .sf => (wayKeys 16 w.way (h.slice w.inst).sf).isEmpty
  | .dir => (wayKeys 16 w.way (h.slice w.inst).dir).isEmpty

/-! ### Slices of the sequencers (R474 to R476) -/

def Hw.patrolOf (h : Hw) (b : Nat) : Patrol := sget Patrol.reset b h.patrol
def Hw.updPatrol (h : Hw) (b : Nat) (f : Patrol → Patrol) : Hw := { h with patrol := supd Patrol.reset b f h.patrol }

def patrolStat (b : Nat) : Nat := logReg (0x1100 + 8 * b)

/-- A field of PATROL.STAT_b advances, saturating. -/
def Hw.statUp (h : Hw) (b hi lo : Nat) : Hw := h.setRegF (patrolStat b) hi lo (min (h.regF (patrolStat b) hi lo + 1) 65535)

/-- The block ID that stands for the sequencer of a die: the sequencers have none of their own in R443 (log 62). -/
def patrolBlock (b : Nat) : Nat := blockId 7 (16 + b)

/-- The slice of die b ends early (R475): the way returns untested, with no line in it, and the skip counts; a third one in consecutive
passes is recorded. -/
def Hw.patrolEnd (m : List Host.Cell) (h : Hw) (b : Nat) : Hw :=
  match (h.patrolOf b).cur with
  | none => h
  | some u =>
    let h1 := match unitOf b u with
      | .way w => (h.emptyWay m w).holdWay w false
      | .analog _ _ => h
    let n := sget 0 u (h.patrolOf b).skipped + 1
    let h2 := (h1.updPatrol b fun x => { x with cur := none, skipped := sset u n x.skipped }).statUp b 47 32
    if n = 3 then
      h2.placeRecord b ⟨w64 (0x27 * 2 ^ 56 + u), 0, 0, h2.time⟩ (patrolBlock b) false 0
    else h2

/-- The chamber that a unit belongs to, if it is one of a chamber. -/
def unitChamber (b u : Nat) : Option Nat :=
  match unitOf b u with
  | .way w => w.chamber
  | .analog 3 n => some (18 * b + n / 4)
  | .analog _ _ => none

/-- A core or chamber of these begins an entry: a slice in it ends early (R475). A core is given with its chamber. -/
def Hw.patrolLeave (m : List Host.Cell) (h : Hw) (c : Nat) (core : Option Nat) : Hw :=
  let b := dieOf c
  match (h.patrolOf b).cur with
  | none => h
  | some u =>
    let mine : Bool := match core with
      | none => unitChamber b u == some c
      | some k => (match unitOf b u with
        | .way w => (w.arr == .l1i || w.arr == .l1d) && w.inst == k
        | .analog _ _ => false)
    if mine then h.patrolEnd m b else h

/-! ### Repairs (R477, R478) -/

def Hw.repairsOf (h : Hw) (d : Nat) : Repairs := sget Repairs.reset d h.repairs
def Hw.updRepairs (h : Hw) (d : Nat) (f : Repairs → Repairs) : Hw := { h with repairs := supd Repairs.reset d f h.repairs }

def hqReg (d : Nat) : Nat := logReg (0x1200 + 8 * d)

/-- The repairs queued on a die are shown in PATROL.HQ_d; its count of free fuse entries is read at cold reset (R490). -/
def Hw.setHq (h : Hw) (d : Nat) : Hw := h.setRegF (hqReg d) 6 0 (h.repairsOf d).queue.length

/-- Fuse entries of a die that can still be blown (R478). -/
def Repairs.free (r : Repairs) : Nat := 128 - r.fuses.length - r.spoiled

/-- Spare rows, and as many spare columns, of a way (R477). -/
def spareCount (a : Arr) : Nat := if a = .l1i ∨ a = .l1d then 1 else 2

/-- The choices of at most n among some rows, the larger ones first. -/
def rowChoices (n : Nat) (rs : List Nat) : List (List Nat) :=
  (if 2 ≤ n then rs.flatMap fun a => (rs.filter (a < ·)).map fun b => [a, b] else []) ++ (if 1 ≤ n then rs.map fun a => [a] else []) ++ [[]]

/-- The fewest spares that cover failing bits, given by row and column, out of r spare rows and c spare columns: rows first (R477). -/
def coverOf (r c : Nat) (bits : List (Nat × Nat)) : Option (Nat × Nat) :=
  (rowChoices r (bits.map (·.1)).eraseDups).foldl (fun best rs =>
    let cols := ((bits.filter fun b => !rs.contains b.1).map (·.2)).eraseDups.length
    if c < cols then best
    else match best with
      | some b => if rs.length + cols < b.1 + b.2 then some (rs.length, cols) else best
      | none => some (rs.length, cols)) none

/-- The block that a way's records come from: its core's chamber, or its slice (R443, R482). -/
def WayAt.source (w : WayAt) : Nat :=
  match w.chamber with
  | some c => blockId 0 c
  | none => blockId 1 w.inst

/-- A record of patrol on an array (R479, R480): `repair` is the REPAIR field. Set, bit and march element are what the test found. -/
def Hw.arrayRecord (h0 : Hw) (type : Nat) (w : WayAt) (repair failing : Nat) : Hw :=
  let h := h0.tick
  let found := (Config.freeWord h0.fresh).toNat
  let place := if failing = 0 then 0 else found % 2 ^ 12 * 2 ^ 20 + found / 2 ^ 12 % 2 ^ 10 * 2 ^ 5
  let r : Record := ⟨w64 (type * 2 ^ 56 + (w.arr.num * 2 ^ 12 + w.inst) * 2 ^ 32 + place + w.way * 2 ^ 15 + repair * 2 ^ 2),
    onesW, w64 ((if failing = 0 then 0 else found / 2 ^ 22 % 10) * 2 ^ 56 + failing % 2 ^ 32), h.time⟩
  h.placeRecord (bankOf w.source) r w.source false (Record.sev r)

/-- REPAIR of R480: 1 spare rows, 2 spare columns, 3 both, 4 way retired. -/
def Repair.kind (x : Repair) : Nat := if x.retired then 4 else if x.cols = 0 then 1 else if x.rows = 0 then 2 else 3

/-- A soft repair or retirement is queued for fusing; when the queue or the fuse entries are exhausted it stays soft (R478). -/
def Hw.queueFuse (h : Hw) (d : Nat) (x : Repair) (w : WayAt) (failing : Nat) : Hw :=
  let r := h.repairsOf d
  if 64 ≤ r.queue.length ∨ r.free ≤ r.queue.length then h.arrayRecord 0x25 w 5 failing
  else (h.updRepairs d fun r => { r with queue := r.queue ++ [x] }).setHq d

/-- A repair is in force: its spares are taken, or its way is retired. -/
def Repairs.apply (r : Repairs) (x : Repair) : Repairs :=
  if x.retired then { r with retired := sset x.unit true r.retired }
  else { r with rows := supd 0 x.unit (· + x.rows) r.rows, cols := supd 0 x.unit (· + x.cols) r.cols }

/-- The fused repairs of every die apply: spares are taken, retired ways stay out of service (R448 step 5, R478). -/
def Hw.applyFuses (h : Hw) : Hw :=
  (List.range 4).foldl (fun (h : Hw) d =>
    let h1 := (h.repairsOf d).fuses.foldl (fun (h : Hw) (x : Repair) =>
      let h1 := h.updRepairs d fun r => r.apply x
      match unitOf d x.unit with
      | .way w => if x.retired then h1.holdWay w true else h1
      | .analog _ _ => h1) h
    (h1.setHq d).setRegF (hqReg d) 23 16 (h1.repairsOf d).free) h

/-- The soft repairs and retirements of every die, kept over a warm reset, apply again (R477). -/
def Hw.keepRetired (h : Hw) : Hw :=
  (List.range 4).foldl (fun (h : Hw) d =>
    (h.repairsOf d).retired.foldl (fun (h : Hw) (x : Nat × Bool) =>
      match unitOf d x.1 with
      | .way w => if x.2 then h.holdWay w true else h
      | .analog _ _ => h) h) h

/-- Keeper fuses the queued repairs of every die (R478): one entry each, with a record. Where the fuses fail the first entry is left with some bits
blown and no valid bit, and the repairs stay queued. -/
def Hw.fuseQueue (h : Hw) : Hw :=
  (List.range 4).foldl (fun (h : Hw) d =>
    let q := (h.repairsOf d).queue
    if q.isEmpty then h
    else if h.keeper.fuseBad then h.updRepairs d fun r => { r with spoiled := min (r.spoiled + 1) (128 - r.fuses.length) }
    else
      let h1 := (h.updRepairs d fun r => { r with fuses := r.fuses ++ q, queue := [] }).setHq d
      q.foldl (fun (h : Hw) (x : Repair) => match unitOf d x.unit with
        | .way w => h.arrayRecord 0x23 w x.kind 0
        | .analog _ _ => h) h1) h

end Sys2Proof.Machine
end

