-- ==== Sys2Proof/Machine/BootOps.lean ====
section
/-! DEFINITION. Boot (R314 to R317, R336, R337, R340, R448, R449, R453 to R459, R467): the flash and its images, the fuses, memory
training, and the steps of a cold reset. -/

namespace Sys2Proof.Machine

/-! ### The flash (R453) -/

def Hw.flashByte (h : Hw) (a : Nat) : Byte := sget 0xFF a h.keeper.flash

def Hw.flashBytes (h : Hw) (a n : Nat) : Bytes := (List.range n).map fun i => h.flashByte (a + i)

def flashPut (a : Nat) : Bytes → SMap Byte → SMap Byte
  | [], f => f
  | b :: r, f => flashPut (a + 1) r (sset a b f)

/-- A directory entry (R453), with its number. -/
structure DirEnt where
  type : Nat
  slot : Nat
  pref : Nat
  off : Nat
  len : Nat
  idx : Nat
deriving DecidableEq, Repr

def Hw.dirEnt (h : Hw) (i : Nat) : DirEnt :=
  let f := fun k n => leNat (h.flashBytes (16 * i + k) n)
  ⟨f 0 1, f 1 1, f 2 1, f 8 4, f 12 4, i⟩

def Hw.dirEnts (h : Hw) : List DirEnt := (List.range 8).map h.dirEnt

/-- The slots of a type, the preferred one first. -/
def Hw.slotsOf (h : Hw) (type : Nat) : List DirEnt :=
  let es := h.dirEnts.filter fun e => e.type == type
  (es.filter fun e => e.pref == 1) ++ es.filter fun e => e.pref != 1

/-! ### Images (R449, R454 to R456) -/

/-- Consecutive ones from bit 0, among n bits. -/
def lowOnes : Nat → Nat → Nat
  | 0, _ => 0
  | n + 1, v => if v % 2 = 1 then 1 + lowOnes n (v / 2) else 0

/-- The rollback counter of a type (R456). -/
def Hw.rollback (h : Hw) (type : Nat) : Nat := lowOnes 64 (sget 0 type h.keeper.fuses.svn).toNat

def poolBase (p : Nat) : Nat := 0x080000000000 + p * 0x800000000

/-- The die of the Pool window that holds n bytes from a local address. -/
def Hw.poolHolding (h : Hw) (a n : Nat) : Option Nat :=
  (List.range 4).find? fun p => h.poolBacked p 0 && decide (poolBase p ≤ a) && decide (a + n ≤ poolBase p + 24 * 2 ^ 30)

/-- The monitor lies in populated DDR, or without any in a backed part of a Pool window (R449). -/
def Hw.loadOk (h : Hw) (a n : Nat) : Bool :=
  let l := a % 2 ^ 48
  decide (a / 2 ^ 48 = h.node) && (if h.ddrTop ≠ 0 then decide (l + n ≤ h.ddrTop) else (h.poolHolding l n).isSome)

/-- A field of an image, as a number. -/
def Hw.imgNat (h : Hw) (e : DirEnt) (o n : Nat) : Nat := leNat (h.flashBytes (e.off + o) n)

def Hw.imgLen (h : Hw) (e : DirEnt) : Nat := h.imgNat e 0x20 8
def Hw.imgLoad (h : Hw) (e : DirEnt) : Nat := h.imgNat e 0x10 8
def Hw.imgPayload (h : Hw) (e : DirEnt) : Bytes := h.flashBytes (e.off + 0x900) (h.imgLen e)
/-- The signed message: the header (R454). -/
def Hw.imgHeader (h : Hw) (e : DirEnt) : Bytes := h.flashBytes e.off 256

/-- Check 1 of R455 but for LOAD. -/
def Hw.imgShape (h : Hw) (e : DirEnt) : Bool :=
  let f := h.imgNat e
  let t := f 6 1
  let n := f 0x20 8
  let x := f 0x18 8
  f 0 4 == 0x52444D52 && f 4 2 == 1 && t == e.type && decide (1 ≤ t ∧ t ≤ 3) && f 0x28 1 / 16 == 0 && f 0x29 7 == 0 && f 0xF8 8 == 0
    && f 0x84C 180 == 0 && decide (n ≤ [0, 524288, 4096, 67108864].getD t 0)
    && (if t = 3 then decide (x < n) && decide (x % 4 = 0) else x == 0)

/-- Check 2 of R455: fused hash k, not revoked, is that of the key (0 to 3 ECDSA, 4 to 7 LMS). -/
def Hw.imgKeyOk (h : Hw) (k : Nat) (pub : Bytes) : Bool :=
  sfind k h.keeper.fuses.ihash == some (Config.sha384 pub) && !sget false k h.keeper.fuses.irevoked

/-- The check code of an image (R455): 0 when every check passes. -/
def Hw.imageCode (h : Hw) (e : DirEnt) : Nat :=
  let part := fun o n => h.flashBytes (e.off + o) n
  let slot := h.imgNat e 0x28 1
  let ecc := part 0x60 96
  let lms := part 0xC0 56
  let ec := Config.ecdsaOk ecc (Config.sha384 (h.imgHeader e)) (part 0x100 96)
  let lm := Config.lmsOk lms (h.imgHeader e) (part 0x160 1772)
  if !h.imgShape e then 1
  else if !(if e.type = 3 then h.loadOk (h.imgLoad e) (h.imgLen e) else h.imgLoad e == 0) then 8
  else if !(h.imgKeyOk (slot % 4) ecc && h.imgKeyOk (4 + slot / 4 % 4) lms) then 2
  else if h.imgNat e 7 1 < h.rollback e.type then 3
  else if !ec ∧ !lm then 6
  else if !ec then 4
  else if !lm then 5
  else if Config.sha384 (h.imgPayload e) ≠ part 0x30 48 then 7
  else 0

def bootReg : Nat := kprReg 0x10

/-- The slots of a type are tried in order; each leaves its check code, the one that passes its slot and SVN (R453, R455, R471). -/
def Hw.tryImage (h : Hw) (type : Nat) : Hw × Option DirEnt :=
  (h.slotsOf type).foldl (fun (p : Hw × Option DirEnt) e =>
    if p.2.isSome then p
    else
      let c := p.1.imageCode e
      let h1 := p.1.setRegF bootReg (4 * type - 1) (4 * type - 4) c
      if c ≠ 0 then (h1, none)
      else
        let h2 := h1.setRegF bootReg (11 + type) (11 + type) e.slot
        ({ h2 with keeper := { h2.keeper with svn := sset type (h2.imgNat e 7 1) h2.keeper.svn } }, some e)) (h, none)

/-! ### Memory training (R314 to R317, R335 to R337, R340) -/

/-- A channel without a DIMM. -/
def trainAbsent : TrainResult := ⟨none, none, [], 0, [], false, false⟩

def bootChannel (b : Boot) (c : Nat) : TrainResult := b.channels.getD c trainAbsent

/-- The DIMMs of a channel by slot. -/
def trainDimms (t : TrainResult) : SMap Dimm := (t.slot0.map fun d => (0, d)).toList ++ (t.slot1.map fun d => (1, d)).toList

/-- A module of R312. -/
def dimmSupported (d : Dimm) : Bool :=
  d.rdimm && (d.width == 4 || d.width == 8) && (d.density == 16 || d.density == 24 || d.density == 32)
    && (d.ranks == 1 || d.ranks == 2 || d.ranks == 4) && decide (16 ≤ d.capacity ∧ d.capacity ≤ 256)

/-- What the channels of a configuration share (R314 step 4): capacity, ranks, width and density of the DIMM in each slot. -/
def trainConfig (t : TrainResult) : List (Nat × Nat × Nat × Nat × Nat) :=
  (trainDimms t).map fun d => (d.1, d.2.capacity, d.2.ranks, d.2.width, d.2.density)

/-- The highest rate that a channel's population allows (R312, R313). -/
def trainCap (t : TrainResult) : Nat :=
  match t.slot0, t.slot1 with
  | some d, none => if d.ranks = 4 then 7200 else 8800
  | some d, some e => if d.ranks = 4 ∨ e.ranks = 4 then 5600 else 6400
  | none, _ => 0

/-- The target rate of R314 step 2: the lowest of the population's, the SPDs' and the board's limits. -/
def trainTarget (b : Boot) (t : TrainResult) : Nat := (trainDimms t).foldl (fun n d => min n d.2.rate) (min (trainCap t) b.ddrLimit)

/-- The rate that a channel reaches (R314 step 3): its target, or the first below it in the list, at which training passes; 0 where there is none. -/
def trainRate (b : Boot) (t : TrainResult) : Nat :=
  let n := trainTarget b t
  ((n :: [8800, 8000, 7200, 6400, 5600, 4800].filter (· < n)).find? fun r => t.passes.contains r).getD 0

/-- What steps 1 to 3 of R314 end with for a channel. -/
def trainReason (b : Boot) (t : TrainResult) : Nat :=
  let ds := trainDimms t
  if ds.isEmpty then 1
  else if ds.any fun d => !d.2.readable || !d.2.crcOk then 3
  else if t.slot0.isNone ∨ ds.any fun d => !dimmSupported d.2 then 2
  else if trainRate b t = 0 then 4 else 0

/-- The channels that passed steps 1 to 3. -/
def bootPassed (b : Boot) : List Nat := (List.range 12).filter fun c => trainReason b (bootChannel b c) == 0

/-- How many passed channels share the configuration of channel c. -/
def bootSharers (b : Boot) (c : Nat) : Nat := ((bootPassed b).filter fun x => trainConfig (bootChannel b x) == trainConfig (bootChannel b c)).length

/-- The lowest-numbered channel of the reference configuration (R314 step 4). -/
def bootReference (b : Boot) : Option Nat :=
  match (bootPassed b) with
  | [] => none
  | c :: cs => some (cs.foldl (fun a x => if bootSharers b a < bootSharers b x then x else a) c)

/-- The reason that a channel ends training with (R314). -/
def bootReason (b : Boot) (c : Nat) : Nat :=
  let t := bootChannel b c
  if trainReason b t ≠ 0 then trainReason b t
  else match bootReference b with
    | some r => if trainConfig t ≠ trainConfig (bootChannel b r) then 5 else if !t.retrainOk then 4 else 0
    | none => 0

/-- The channels left after step 5, and their lowest rate (R314 step 6). -/
def bootRate (b : Boot) : Nat :=
  let cs := (List.range 12).filter fun c => decide (trainReason b (bootChannel b c) = 0) && bootReason b c != 5
  match cs with
  | [] => 0
  | c :: r => r.foldl (fun n x => min n (trainRate b (bootChannel b x))) (trainRate b (bootChannel b c))

/-- TRA in ns (R315): tRP + tRCD + CL, 8 tCK of 2 transfers and 16 controller cycles of 8 transfers each, rounded up. -/
def trainTra (rate missPs : Nat) : Nat := (missPs * rate + 144 * 10 ^ 6 + 1000 * rate - 1) / (1000 * rate)

/-- The ranks that a channel's DIMMs hold, as rank numbers 4 × DIMM + rank (R341). -/
def trainRanks (t : TrainResult) : List Nat := (trainDimms t).flatMap fun d => (List.range d.2.ranks).map (4 * d.1 + ·)

/-- A row as the repair log names it: the inverse of `logEntry` on DIMM d (R335, R341). -/
def logRow (d : Nat) (w : Word) : Nat :=
  Word.fld w 59 59 * 2 ^ 26 + d * 2 ^ 25 + Word.fld w 58 57 * 2 ^ 23 + Word.fld w 56 54 * 2 ^ 20 + Word.fld w 53 52 * 2 ^ 18 + Word.fld w 51 34

/-- STATE of a repair-log entry (R335). -/
def logState (w : Word) : Nat := let n := Word.fld w 63 60; if 5 ≤ n then 2 else n

/-- An entry takes a state: only its top byte changes (R335). -/
def Hw.setLogState (h : Hw) (c k n : Nat) : Hw :=
  h.updMc c fun x => { x with repairLog := supd 0 k (fun w => Word.setFld w 63 60 n) x.repairLog }

/-- An entry of STATE 2 is re-tested (R337): where its row passes it is repaired; else it stays, and is handled as queued in this boot. The flag says
whether the boot goes on: power may be lost during the test. -/
def Hw.retest (b : Boot) (c : Nat) (q : Hw × Bool) (k : Nat) : Hw × Bool :=
  let h := q.1
  let w := sget 0 k (h.mc c).repairLog
  if !q.2 ∨ logState w ≠ 2 ∨ (h.mc c).wprot.contains (k / 48) then q
  else if b.cut = some (c, k) then (h, false)
  else ((if b.testOk.contains (c, k) then h.setLogState c k 3 else h).memRecord c 0x0B onesW (logRow (k / 48) w * 2 ^ 37 + 31 * 2 ^ 21), true)

/-- Hard PPR of an entry (R336): it becomes STATE 2, and is skipped where that does not read back; then the outcome's STATE is written. Power that is
lost between leaves STATE 2 (R337). -/
def Hw.hardPpr (b : Boot) (c : Nat) (q : Hw × Bool) (k : Nat) : Hw × Bool :=
  let h := q.1
  let w := sget 0 k (h.mc c).repairLog
  if !q.2 ∨ b.pprStuck.contains (c, k) then q
  else if b.cut = some (c, k) then (h.setLogState c k 2, false)
  else ((h.setLogState c k (if b.pprOk.contains (c, k) then 3 else if b.pprFree.contains (c, k) then 1 else 4)).memRecord c 0x0A onesW
    (logRow (k / 48) w * 2 ^ 37 + 31 * 2 ^ 21), true)

/-- The queued entries of a channel that hard PPR takes: at most 8, in entry order, of DIMMs whose log can be read and written (R335 to R337). -/
def Hw.pprList (h : Hw) (c : Nat) : List Nat :=
  (((h.mc c).repairLog.filter fun p => (logState p.2 == 1 || logState p.2 == 2) && !(h.mc c).wprot.contains (p.1 / 48)).map (·.1)).take 8

/-- A row of a state that lasts only while it is repaired at every boot, or is still queued, is taken onto a spare (R335, R337). -/
def Hw.bootSpare (c : Nat) (h : Hw) (p : Nat × Word) : Hw :=
  let n := logState p.2
  if (n = 1 ∨ n = 2 ∨ n = 4) ∧ !(h.mc c).wprot.contains (p.1 / 48) then
    match Hw.spareFree (h.mc c) with
    | some s => h.updMc c fun x => { x with remap := sset (logRow (p.1 / 48) p.2) s x.remap }
    | none => (h.memRecord c 0x0C onesW (logRow (p.1 / 48) p.2 * 2 ^ 37 + 31 * 2 ^ 21)).event (mcReg c 0x10) 4
  else h

/-- The repair log at a cold boot (R335 to R337): re-tests, hard PPR where enabled, and rows onto spares. -/
def Hw.bootRepairs (b : Boot) (h : Hw) (c : Nat) : Hw × Bool :=
  let q1 := ((h.mc c).repairLog.map (·.1)).foldl (Hw.retest b c) (h, true)
  let q2 := if b.hardPpr then (q1.1.pprList c).foldl (Hw.hardPpr b c) q1 else q1
  if q2.2 then (((q2.1.mc c).repairLog.foldl (Hw.bootSpare c) q2.1).setSpares c, true) else q2

/-- A DDR channel after training: its survey, ranks of class B with no failed device, and its repairs (R314, R315, R329). The flag says
whether the boot goes on. -/
def Hw.trainChannel (b : Boot) (q : Hw × Bool) (c : Nat) : Hw × Bool :=
  let h := q.1
  let t := bootChannel b c
  let n := bootReason b c
  if !q.2 then q
  else if n ≠ 0 then ((h.setReg (mcReg c 0) (w64 n)).memRecord c 0x0E onesW (31 * 2 ^ 21), true)
  else
    let h1 := (trainRanks t).foldl (fun (h : Hw) r => h.setReg (mcReg c (0x200 + 8 * r)) (w64 (2 ^ 63 + 31 * 2 ^ 57 + 31 * 2 ^ 52 + 2 ^ 50))) h
    let h2 := h1.updMc c fun x =>
      { x with
        capacity := (trainDimms t).foldl (fun n d => n + d.2.capacity) 0 * 2 ^ 30, dimms := trainDimms t, usableFull := h1.usable c, eyes := t.eyes
        dimmTemps := (trainDimms t).map fun d => (d.1, d.2.temp.getD 86), drfm := t.drfm
        wprot := (List.range 2).filter fun d => b.wprot.contains (c, d) }
    Hw.bootRepairs b (h2.setReg (mcReg c 0) (w64 (bootRate b * 2 ^ 32 + h1.usable c * 2 ^ 24 + trainTra (bootRate b) t.missPs % 256 * 2 ^ 16))) c

/-- A Pool stack after training (R315, R343). -/
def Hw.trainPool (b : Boot) (h : Hw) (p : Nat) : Hw :=
  let a := mcReg (12 + p) 8
  let t := b.pools.getD p ⟨false, 0, 0, false⟩
  if t.passed then
    (h.updMc (12 + p) fun x => { x with usableFull := 240, dimmTemps := sset 0 t.temp [], drfm := t.drfm }).setReg a
      (w64 (9375 * 2 ^ 32 + 240 * 2 ^ 24 + t.tra % 256 * 2 ^ 16))
  else (h.setReg a (w64 4)).memRecord (12 + p) 0x0E onesW 0

/-- TOP of R317 in GiB for n channels of C bytes with M mirrored granules. -/
def ddrTopOf (n c m : Nat) : Nat :=
  if n = 0 then 0
  else
    let hi := c / 64 - 16384 - (m * 2 ^ 30 + n - 1) / n
    min (n * hi * 64 / 2 ^ 30) 6144

/-- The largest M up to the one asked for that R340 permits. -/
def mirrorFit (n c : Nat) : Nat → Nat
  | 0 => 0
  | m + 1 => if 2 ≤ n ∧ 64 * (m + 1) ≤ ddrTopOf n c (m + 1) then m + 1 else mirrorFit n c m

/-- Step 9 of R448: every channel and stack is trained, and REGCHK.DDR_TOP is written. The device stays off where power was lost meanwhile (R337). What
R340 takes off M is recorded beside the M asked for. -/
def Hw.train (b : Boot) (h : Hw) : Hw :=
  let q := (List.range 12).foldl (Hw.trainChannel b) (h, true)
  if !q.2 then { q.1 with off := true, bootWait := none }
  else
    let h2 := (List.range 4).foldl (Hw.trainPool b) q.1
    let e := h2.included
    let c := (h2.mc (e.headD 0)).capacity
    let m := mirrorFit e.length c b.mirror
    { h2 with mirror := m, mirrorAsked := b.mirror, off := false }.setReg (chkReg 0x10008) (w64 (ddrTopOf e.length c m * 2 ^ 30))

/-! ### The steps of R448 -/

/-- A step fails: BOOTERR, and the boot stops there with every clock beyond the always-on domain at rest. -/
def Hw.bootStop (h : Hw) (n : Nat) : Hw := { h with off := true, bootWait := none }.setRegF bootReg 63 56 n

/-- A boot waits at step 1, 3 or 4. -/
def Hw.bootHold (h : Hw) (step cause : Nat) (b : Boot) : Hw := { h with off := true, bootWait := some ⟨step, cause, b⟩ }

/-- 48 bytes that the spec does not give (R459: measurement blocks 1, 5 and 6). -/
def Hw.freeMeas (h : Hw) (i : Nat) : Hw :=
  { h.tick with keeper := { h.keeper with meas := sset i (Config.sha384 (vbytes (Config.freeVec h.fresh) 0 48)) h.keeper.meas } }

def Hw.setMeas (h : Hw) (i : Nat) (v : Bytes) : Hw := { h with keeper := { h.keeper with meas := sset i v h.keeper.meas } }

/-- Step 8: REGCHK.NODE_ID, whose write-once field is locked by it (R9, R27), and the REGCHK.GROUP entries come from the boot
configuration. -/
def Hw.bootConfig (b : Boot) (h : Hw) : Hw :=
  let h0 := h.setRegF (chkReg 0x10000) 15 0 b.node.toNat
  let h1 := { h0 with locks := sset (lockKey (chkReg 0x10000) 0) true h0.locks }
  (List.range 16).foldl (fun (h : Hw) i => match b.group[i]? with
    | some n => h.setReg (chkReg (0x10100 + 8 * i)) (w64 (2 ^ 63 + n.toNat))
    | none => h) h1

/-- Step 10: every port trains. PERST# stands for 100 ms after the reference clock was accepted, and a PCIe port trains after that (R346). -/
def Hw.bootLinks (h : Hw) : Hw :=
  (List.range 18).foldl (fun (h : Hw) k => h.portTrain k) { h with perstLeft := 2500000 }

/-- The measurements are fixed (R459): blocks 2 to 4 are the headers' digests. -/
def Hw.bootMeasure (h : Hw) (e1 e2 e3 : DirEnt) : Hw :=
  (((h.freeMeas 1).freeMeas 5).setMeas 2 (Config.sha384 (h.imgHeader e1))).setMeas 3 (Config.sha384 (h.imgHeader e2))
    |>.setMeas 4 (Config.sha384 (h.imgHeader e3))

/-- Steps 11 and 12 (R34, R448, R449): the monitor is placed, with a copy of the boot configuration's payload, and thread 0 starts. -/
def bootMonitor (b : Boot) (e1 e2 : DirEnt) (p : List Host.Cell × Hw) : List Host.Cell × Hw :=
  let h0 := p.2.freeMeas 6
  if h0.ddrTop = 0 ∧ (List.range 4).all (fun i => !h0.poolBacked i 0) then (p.1, { h0 with bootWait := none }.setRegF bootReg 63 56 7)
  else match h0.tryImage 3 with
    | (h1, none) => (p.1, { h1 with bootWait := none }.setRegF bootReg 63 56 8)
    | (h1, some e3) =>
      let at_ := h1.imgLoad e3
      let l := at_ % 2 ^ 48
      let h2 : Hw := if h1.ddrTop ≠ 0 then h1 else match h1.poolHolding l (h1.imgLen e3) with
        | some q => { h1.setRegF (mcReg (12 + q) 0) 0 0 0 with locks := sset (lockKey (mcReg (12 + q) 0) 0) true h1.locks }
        | none => h1
      let m1 := memPut (b.cfgAddr.toNat % 2 ^ 48) (h2.imgPayload e2) (memPut l (h2.imgPayload e3) p.1)
      let h3 := ((h2.bootMeasure e1 e2 e3).setRegF bootReg 55 52 2).startThread 0 (w64 (at_ + h2.imgNat e3 0x18 8))
      (m1, { h3 with bootWait := none }.updArch 0 fun a => { a with g := sset 1 b.cfgAddr (sset 2 (w64 (h2.imgLen e2)) []) })

/-- Steps 7 and 8 with what follows them: `mid` stands for step 9 and the links. -/
def bootImages (b : Boot) (mid : Hw → Hw) (p : List Host.Cell × Hw) : List Host.Cell × Hw :=
  if p.2.keeper.flashBad then (p.1, p.2.bootStop 5)
  else match p.2.tryImage 1 with
    | (h1, none) => (p.1, h1.bootStop 5)
    | (h1, some e1) =>
      match (h1.setRegF bootReg 55 52 1).tryImage 2 with
      | (h2, none) => (p.1, h2.bootStop 6)
      | (h2, some e2) =>
        let h3 := mid (Hw.bootConfig b h2)
        if h3.off then (p.1, h3) else bootMonitor b e1 e2 (p.1, h3.bootLinks)

/-- Steps 5 to 12 of a cold reset. -/
def bootFrom5 (b : Boot) (p : List Host.Cell × Hw) : List Host.Cell × Hw :=
  if !b.fusesOk then (p.1, p.2.bootStop 3)
  else
    let h1 := (List.range 12).foldl (fun (h : Hw) r => h.setRegF (railReg r) 63 48 780) p.2.applyFuses
    if !b.railsOk then (p.1, h1.bootStop 4)
    else bootImages b (Hw.train b) (p.1, h1)

/-- Step 4: edges counted in 1 ms; 100,000 ± 30 are accepted, and the deviation is written in ppm (R448, R471). -/
def Hw.refCount (h : Hw) (edges : Nat) : Hw × Bool :=
  let ok := decide (99970 ≤ edges ∧ edges ≤ 100030)
  let ppm : Int := ((edges : Int) - 100000) * 10
  ((h.setRegF (kprReg 0x18) 31 0 (BitVec.ofInt 32 ppm).toNat).setRegF (kprReg 0x18) 62 62 (b2n ok), ok)

def bootFrom4 (cause edges : Nat) (b : Boot) (p : List Host.Cell × Hw) : List Host.Cell × Hw :=
  let r := p.2.refCount edges
  if r.2 then bootFrom5 b (p.1, { r.1 with bootWait := none }.setRegF bootReg 63 56 0)
  else (p.1, (r.1.bootHold 4 cause b).setRegF bootReg 63 56 2)

def bootFrom3 (cause : Nat) (b : Boot) (p : List Host.Cell × Hw) : List Host.Cell × Hw :=
  if !p.2.pins.pwrok then (p.1, p.2.bootHold 3 cause b) else bootFrom4 cause b.refEdges b p

/-- Step 2: a crystal that is not accepted leaves Keeper on the internal oscillator. -/
def bootFrom2 (cause : Nat) (b : Boot) (p : List Host.Cell × Hw) : List Host.Cell × Hw :=
  if !b.xtalOk then (p.1, p.2.bootStop 1) else bootFrom3 cause b (p.1, p.2.setRegF (kprReg 0x18) 63 63 1)

/-- Step 1: the device stays here while COLDRST# is low (R492). -/
def bootFrom1 (cause : Nat) (b : Boot) (p : List Host.Cell × Hw) : List Host.Cell × Hw :=
  if !p.2.pins.coldrst then (p.1, p.2.bootHold 1 cause b) else bootFrom2 cause b p

end Sys2Proof.Machine
end

