-- ==== Sys2Proof/Machine/Flags.lean ====
section
/-! DEFINITION. Floating-point results and their flags (R85 to R87): formats, the one rounding of an exact value, and the flags it sets.
Everything is computed exactly on integers and narrowed once. -/

namespace Sys2Proof.Machine

/-- The flags of VCSR[4:0]. -/
def fNV : BitVec 5 := 16
def fDZ : BitVec 5 := 8
def fOF : BitVec 5 := 4
def fUF : BitVec 5 := 2
def fNX : BitVec 5 := 1

/-- A binary interchange format: exponent bits and fraction bits. -/
structure Fmt where
  e : Nat
  f : Nat
deriving DecidableEq, Repr

def Fmt.w (t : Fmt) : Nat := 1 + t.e + t.f
def Fmt.bias (t : Fmt) : Nat := 2 ^ (t.e - 1) - 1
def Fmt.half : Fmt := ⟨5, 10⟩
def Fmt.single : Fmt := ⟨8, 23⟩
def Fmt.double : Fmt := ⟨11, 52⟩

/-- The format of a width in bits. -/
def fmtOf (w : Nat) : Fmt := if w = 16 then Fmt.half else if w = 32 then Fmt.single else Fmt.double

/-- The canonical quiet NaN (R86), an infinity, a zero, the largest finite number. -/
def Fmt.qnan (t : Fmt) : Nat := (2 ^ t.e - 1) * 2 ^ t.f + 2 ^ (t.f - 1)
def Fmt.inf (t : Fmt) (s : Bool) : Nat := (if s then 2 ^ (t.e + t.f) else 0) + (2 ^ t.e - 1) * 2 ^ t.f
def Fmt.zero (t : Fmt) (s : Bool) : Nat := if s then 2 ^ (t.e + t.f) else 0
def Fmt.maxFin (t : Fmt) (s : Bool) : Nat := t.inf s - 1

/-- A datum: a NaN (signalling when true), an infinity, or (−1)^s × m × 2^e. -/
inductive Fp where
  | nan (sig : Bool)
  | inf (s : Bool)
  | fin (s : Bool) (m : Nat) (e : Int)
deriving DecidableEq, Repr

/-- The exponent of the last bit of a subnormal. -/
def Fmt.emin (t : Fmt) : Int := 1 - (t.bias : Int) - (t.f : Int)

def Fmt.decode (t : Fmt) (n : Nat) : Fp :=
  let s := decide (n / 2 ^ (t.e + t.f) % 2 = 1)
  let x := n / 2 ^ t.f % 2 ^ t.e
  let m := n % 2 ^ t.f
  if x = 2 ^ t.e - 1 then (if m = 0 then .inf s else .nan (decide (m / 2 ^ (t.f - 1) = 0)))
  else if x = 0 then .fin s m t.emin
  else .fin s (2 ^ t.f + m) (t.emin + (x : Int) - 1)

/-- Bits of a number, counted to its highest one. -/
def numBits (n : Nat) : Nat := if n = 0 then 0 else Nat.log2 n + 1

/-- VCSR.RM: 0 to nearest, ties to even; 1 toward zero; 2 toward negative; 3 toward positive. -/
def roundsUp (rm : Nat) (s odd : Bool) (above : Nat) : Bool :=
  -- above: 0 exact, 1 below the half, 2 the half, 3 above the half
  match rm with
  | 0 => decide (above = 3) || (decide (above = 2) && odd)
  | 1 => false
  | 2 => s && decide (above ≠ 0)
  | _ => !s && decide (above ≠ 0)

/-- A magnitude m (with a remainder below its last bit when `sticky`) shortened by k bits and rounded; whether it was exact. -/
def shorten (rm : Nat) (s : Bool) (m : Nat) (sticky : Bool) (k : Int) : Nat × Bool :=
  if k ≤ 0 then
    let q := m * 2 ^ (-k).toNat
    if sticky then (if roundsUp rm s (q % 2 = 1) 1 then q + 1 else q, false) else (q, true)
  else
    let d := 2 ^ k.toNat
    let q := m / d
    let r := m % d
    let above := if 2 * r < d then (if r = 0 ∧ !sticky then 0 else 1)
      else if 2 * r = d ∧ !sticky then 2 else 3
    (if roundsUp rm s (q % 2 = 1) above then q + 1 else q, above == 0)

/-- The exact value (−1)^s × m × 2^e, with a remainder below its last bit when `sticky`, rounded once: the datum and its flags.
Tininess is judged after rounding (R85). -/
def Fmt.round (t : Fmt) (rm : Nat) (s : Bool) (m : Nat) (e : Int) (sticky : Bool) : Nat × BitVec 5 :=
  if m = 0 ∧ !sticky then (t.zero s, 0)
  else
    let p := t.f + 1
    let ku : Int := (numBits m : Int) - p
    let k := max ku (t.emin - e)
    let r := shorten rm s m sticky k
    let bits := ((e + k - t.emin).toNat) * 2 ^ t.f + r.1
    if (2 ^ t.e - 1) * 2 ^ t.f ≤ bits then
      let toMax := rm == 1 || (rm == 2 && !s) || (rm == 3 && s)
      (if toMax then t.maxFin s else t.inf s, fOF ||| fNX)
    else
      let u := shorten rm s m sticky ku
      let tiny := decide (e + ku < t.emin) && !(decide (u.1 = 2 ^ p) && decide (e + ku = t.emin - 1))
      (t.zero s + bits, if r.2 then 0 else if tiny then fUF ||| fNX else fNX)

end Sys2Proof.Machine
end

