-- ==== Sys2Proof/Machine/Float.lean ====
section
/-! DEFINITION. Floating-point operations on single elements (R75 to R80, R85, R86): a result and the flags it sets. -/

namespace Sys2Proof.Machine

/-- A result with its flags. -/
abbrev FRes := Nat × BitVec 5

def Fp.isNan : Fp → Bool
  | .nan _ => true
  | _ => false

def Fp.isSig : Fp → Bool
  | .nan s => s
  | _ => false

def Fp.sign : Fp → Bool
  | .nan _ => false
  | .inf s => s
  | .fin s _ _ => s

def Fp.neg : Fp → Fp
  | .nan s => .nan s
  | .inf s => .inf !s
  | .fin s m e => .fin (!s) m e

/-- NV when any operand is signalling (R86). -/
def sigFlag (xs : List Fp) : BitVec 5 := if xs.any Fp.isSig then fNV else 0

/-- A datum as an integer multiple of 2^e, for e at most its own exponent. -/
def scaled (s : Bool) (m : Nat) (d : Int) : Int :=
  let v : Int := ((m * 2 ^ d.toNat : Nat) : Int)
  if s then -v else v

/-- The exact sum of two finite data, rounded; an exact zero has the sign of IEEE 754. -/
def Fmt.addFin (t : Fmt) (rm : Nat) (s1 : Bool) (m1 : Nat) (e1 : Int) (s2 : Bool) (m2 : Nat) (e2 : Int) : FRes :=
  let e := min e1 e2
  let v := scaled s1 m1 (e1 - e) + scaled s2 m2 (e2 - e)
  if v = 0 then (t.zero (if s1 = s2 then s1 else rm == 2), 0)
  else t.round rm (decide (v < 0)) v.natAbs e false

/-- The sum of two data that are not NaN. -/
def Fmt.addFp (t : Fmt) (rm : Nat) (a b : Fp) : FRes :=
  match a, b with
  | .inf s, .inf r => if s = r then (t.inf s, 0) else (t.qnan, fNV)
  | .inf s, _ => (t.inf s, 0)
  | _, .inf s => (t.inf s, 0)
  | .fin s1 m1 e1, .fin s2 m2 e2 => t.addFin rm s1 m1 e1 s2 m2 e2
  | _, _ => (t.qnan, 0)

def Fmt.add (t : Fmt) (rm : Nat) (a b : Nat) : FRes :=
  let x := t.decode a
  let y := t.decode b
  if x.isNan || y.isNan then (t.qnan, sigFlag [x, y]) else t.addFp rm x y

def Fmt.sub (t : Fmt) (rm : Nat) (a b : Nat) : FRes :=
  let x := t.decode a
  let y := t.decode b
  if x.isNan || y.isNan then (t.qnan, sigFlag [x, y]) else t.addFp rm x y.neg

def Fmt.mul (t : Fmt) (rm : Nat) (a b : Nat) : FRes :=
  match t.decode a, t.decode b with
  | .inf s, .inf r => (t.inf (s != r), 0)
  | .inf s, .fin r m _ => if m = 0 then (t.qnan, fNV) else (t.inf (s != r), 0)
  | .fin s m _, .inf r => if m = 0 then (t.qnan, fNV) else (t.inf (s != r), 0)
  | .fin s1 m1 e1, .fin s2 m2 e2 => t.round rm (s1 != s2) (m1 * m2) (e1 + e2) false
  | x, y => (t.qnan, sigFlag [x, y])

def Fmt.div (t : Fmt) (rm : Nat) (a b : Nat) : FRes :=
  match t.decode a, t.decode b with
  | .inf _, .inf _ => (t.qnan, fNV)
  | .inf s, .fin r _ _ => (t.inf (s != r), 0)
  | .fin s _ _, .inf r => (t.zero (s != r), 0)
  | .fin s1 m1 e1, .fin s2 m2 e2 =>
    if m2 = 0 then (if m1 = 0 then (t.qnan, fNV) else (t.inf (s1 != s2), fDZ))
    else
      let k := t.f + 4 + numBits m2
      t.round rm (s1 != s2) (m1 * 2 ^ k / m2) (e1 - e2 - (k : Int)) (m1 * 2 ^ k % m2 != 0)
  | x, y => (t.qnan, sigFlag [x, y])

/-- The integer square root, bit by bit from bit n − 1 down. -/
def isqrt (m : Nat) : Nat → Nat → Nat
  | 0, r => r
  | n + 1, r => isqrt m n (if (r + 2 ^ n) * (r + 2 ^ n) ≤ m then r + 2 ^ n else r)

def Fmt.sqrt (t : Fmt) (rm : Nat) (a : Nat) : FRes :=
  match t.decode a with
  | .nan g => (t.qnan, if g then fNV else 0)
  | .inf s => if s then (t.qnan, fNV) else (t.inf false, 0)
  | .fin s m e =>
    if m = 0 then (t.zero s, 0)
    else if s then (t.qnan, fNV)
    else
      let k := 2 * (t.f + 4) + (if (e - 2 * (t.f + 4 : Nat)) % 2 = 0 then 0 else 1)
      let v := m * 2 ^ k
      let r := isqrt v (numBits v / 2 + 1) 0
      t.round rm false r ((e - (k : Int)) / 2) (r * r != v)

/-- (−1)^np × a × b + (−1)^nd × d with one rounding (R76). -/
def Fmt.fma (t : Fmt) (rm : Nat) (np nd : Bool) (a b d : Nat) : FRes :=
  let x := t.decode a
  let y := t.decode b
  let z := t.decode d
  let z' := if nd then z.neg else z
  let zeroInf := match x, y with
    | .inf _, .fin _ m _ => m == 0
    | .fin _ m _, .inf _ => m == 0
    | _, _ => false
  let ps := (x.sign != y.sign) != np
  if x.isNan || y.isNan || z.isNan then
    (t.qnan, sigFlag [x, y, z] ||| (if zeroInf && Config.fmaInvalid then fNV else 0))
  else if zeroInf then (t.qnan, fNV)
  else match x, y with
    | .fin _ m1 e1, .fin _ m2 e2 =>
      (match z' with
      | .fin s3 m3 e3 => t.addFin rm ps (m1 * m2) (e1 + e2) s3 m3 e3
      | .inf s => (t.inf s, 0)
      | .nan _ => (t.qnan, 0))
    | _, _ =>
      match z' with
      | .inf s => if s = ps then (t.inf ps, 0) else (t.qnan, fNV)
      | _ => (t.inf ps, 0)

/-- a < b for data that are not NaN; −0 and +0 are equal. -/
def Fp.lt (a b : Fp) : Bool :=
  match a, b with
  | .inf s, .inf r => s && !r
  | .inf s, _ => s
  | _, .inf r => !r
  | .fin s1 m1 e1, .fin s2 m2 e2 =>
    let e := min e1 e2
    decide (scaled s1 m1 (e1 - e) < scaled s2 m2 (e2 - e))
  | _, _ => false

def Fp.eqv (a b : Fp) : Bool := !(a.isNan || b.isNan) && !a.lt b && !b.lt a

/-- minimumNumber and maximumNumber (R75): a number beats a NaN, and −0 is below +0. -/
def Fmt.minMax (t : Fmt) (isMax : Bool) (a b : Nat) : FRes :=
  let x := t.decode a
  let y := t.decode b
  let fl := sigFlag [x, y]
  if x.isNan && y.isNan then (t.qnan, fl)
  else if x.isNan then (b, fl)
  else if y.isNan then (a, fl)
  else
    let below := if x.eqv y then x.sign && !y.sign else x.lt y
    ((if below != isMax then a else b), fl)

/-- Comparisons (R80): equal, less, less or equal, unordered. -/
inductive FCmp where
  | eq | lt | le | un

def Fmt.cmp (t : Fmt) (c : FCmp) (a b : Nat) : Bool × BitVec 5 :=
  let x := t.decode a
  let y := t.decode b
  let nan := x.isNan || y.isNan
  match c with
  | .eq => (x.eqv y, sigFlag [x, y])
  | .lt => (!nan && x.lt y, if nan then fNV else 0)
  | .le => (!nan && !y.lt x, if nan then fNV else 0)
  | .un => (nan, sigFlag [x, y])

/-- An integer as floating point (R79). -/
def Fmt.ofInt (t : Fmt) (rm : Nat) (i : Int) : FRes := t.round rm (decide (i < 0)) i.natAbs 0 false

/-- Floating point to an integer in [lo, hi] (R79): rounded to integral, NV and the bound when out of range. -/
def Fmt.toInt (t : Fmt) (rm : Nat) (lo hi : Int) (a : Nat) : Int × BitVec 5 :=
  match t.decode a with
  | .nan _ => (hi, fNV)
  | .inf s => (if s then lo else hi, fNV)
  | .fin s m e =>
    let r := shorten rm s m false (-e)
    let v : Int := if s then -(r.1 : Int) else r.1
    if v < lo then (lo, fNV) else if hi < v then (hi, fNV) else (v, if r.2 then 0 else fNX)

/-- A datum of one format rounded to another (R79). -/
def Fmt.convert (t u : Fmt) (rm : Nat) (a : Nat) : FRes :=
  match t.decode a with
  | .nan g => (u.qnan, if g then fNV else 0)
  | .inf s => (u.inf s, 0)
  | .fin s m e => u.round rm s m e false

end Sys2Proof.Machine
end

