-- ==== Sys2Proof/Machine/ChurnOps.lean ====
section
/-! DEFINITION. Churn engines (chapter 10): far atomics, descriptors and their checks, units, progress and ends; instances as the queue
slices hold them (R388 to R393). -/

namespace Sys2Proof.Machine

/-! ### Far atomics (R252, R253) -/

/-- fadd64 (R252). -/
def fadd64 (x y : Nat) : Nat := (Fmt.double.add 0 x y).1

/-- One lane of R252: x the old value, y the operand. -/
def farLane (op x y : Nat) : Nat :=
  match op with
  | 0 => (x + y) % 2 ^ 64
  | 4 => if toS 64 x < toS 64 y then x else y
  | 5 => if toS 64 x < toS 64 y then y else x
  | _ => fadd64 x y

/-- The lanes from the lowest. -/
def farLanes (op : Nat) : Nat → Nat → Nat → Nat
  | 0, _, _ => 0
  | n + 1, x, y => farLane op (x % 2 ^ 64) (y % 2 ^ 64) + 2 ^ 64 * farLanes op n (x / 2 ^ 64) (y / 2 ^ 64)

/-- The new value of size bytes (R252); 4-byte operations are those of R253. -/
def farApply (op size old b e : Nat) : Nat :=
  if size = 4 then
    (match op with
    | 0 => (old + b) % 2 ^ 32
    | 8 => b % 2 ^ 32
    | _ => if old = e % 2 ^ 32 then b % 2 ^ 32 else old)
  else
    let w := 2 ^ (8 * size)
    match op with
    | 1 => old &&& b % w
    | 2 => old ||| b % w
    | 3 => old ^^^ b % w
    | 8 => b % w
    | 9 => if old = e % w then b % w else old
    | _ => farLanes op (size / 8) old (b % w)

/-- The operand buffer after a line was used: the four most recent, the latest first (R246). -/
def opbufUse (l : Nat) (b : List Nat) : List Nat := (l :: b.filter (· != l)).take 4

/-! ### Descriptors (R258 to R261) -/

def dOp (w : List Word) : Nat := Word.fld (wd w 0) 59 56
def dFn (w : List Word) : Nat := Word.fld (wd w 0) 55 52
def dEs (w : List Word) : Nat := 2 ^ Word.fld (wd w 0) 51 50
def dIrq (w : List Word) : Bool := Word.bit (wd w 0) 49
def dSeeded (w : List Word) : Bool := Word.bit (wd w 0) 48
def dTag (w : List Word) : Nat := Word.fld (wd w 0) 47 32
def dSrc (w : List Word) : Nat := (wd w 1).toNat
def dDst (w : List Word) : Nat := (wd w 2).toNat
def dLen (w : List Word) : Nat := Word.fld (wd w 3) 32 0
def dStride (w : List Word) : Int := (wd w 4).toInt
def dBins (w : List Word) : Nat := Word.fld (wd w 4) 12 8
def dShift (w : List Word) : Nat := Word.fld (wd w 4) 5 0
def dValue (w : List Word) : Word := wd w 5
def dSeed (w : List Word) : Word := wd w 6
def dCmpl (w : List Word) : Word := wd w 7

/-- Whether an operation works through elements, one a unit (R262). -/
def dElems (w : List Word) : Bool := dOp w == 4 || dOp w == 6

/-- Whether the destination drives (R262). -/
def dByDst (w : List Word) : Bool := dOp w == 1 || dOp w == 2 || dOp w == 3

/-- The words of R260's columns that an operation uses: SRC 1, DST 2, PARAM 4, VALUE 5, SEED 6. -/
def dUses (op : Nat) : List Nat :=
  match op with
  | 1 => [2, 5]
  | 2 => [1, 2]
  | 3 => [1, 2, 5]
  | 4 => [1, 4, 6]
  | 5 => [1, 5, 6]
  | 6 => [1, 2, 4]
  | 7 | 8 => [1, 6]
  | _ => []

/-- The address of element k, as an integer. -/
def dElemAddr (w : List Word) (k : Nat) : Int :=
  if dOp w = 4 then (dSrc w : Int) + (k : Int) * dStride w else (dSrc w : Int) + (k * dEs w : Nat)

/-- The ranges of a descriptor with LEN ≠ 0: first and end (R261). -/
def dSpans (w : List Word) : List (Int × Int) :=
  let n := dLen w
  let one := fun (a n : Nat) => ((a : Int), ((a + n : Nat) : Int))
  match dOp w with
  | 1 => [one (dDst w) n]
  | 2 | 3 => [one (dSrc w) n, one (dDst w) n]
  | 4 =>
    let a := dElemAddr w 0
    let b := dElemAddr w (n - 1)
    [(min a b, max a b + (dEs w : Nat))]
  | 5 | 7 | 8 => [one (dSrc w) n]
  | 6 => [one (dSrc w) (n * dEs w), one (dDst w) (8 * 2 ^ dBins w)]
  | _ => []

/-- The checks of R261 in order: the code of the first that fails. -/
def dCheck (w : List Word) : Option Nat :=
  let op := dOp w
  let fn := dFn w
  let es := Word.fld (wd w 0) 51 50
  let c := wd w 0
  let shape := match op with
    | 0 | 1 | 2 | 3 | 7 | 8 => fn == 0 && es == 0
    | 4 => decide (fn ≤ 8) && (fn != 8 || es == 3)
    | 5 => decide (fn ≤ 1) && es == 3
    | 6 => fn == 0 && decide (es ≤ 2) && decide (dBins w ≤ 20)
    | _ => false
  if !shape then some 0x10
  else if Word.fld c 63 60 ≠ 0 ∨ Word.fld c 31 0 ≠ 0 ∨ Word.fld (wd w 3) 63 33 ≠ 0 ∨ (dSeeded w ∧ op ≠ 4)
      ∨ Word.fld (dCmpl w) 5 0 ≠ 0 ∨ (op = 0 ∧ dLen w ≠ 0)
      ∨ ([1, 2, 4, 5, 6].any fun i => !(dUses op).contains i && wd w i != 0)
      ∨ (op = 6 ∧ (Word.fld (wd w 4) 63 13 ≠ 0 ∨ Word.fld (wd w 4) 7 6 ≠ 0)) then some 0x11
  else if 2 ^ 32 < dLen w ∨ (dLen w ≠ 0 ∧ (dSpans w).any fun s => decide (s.1 < 0) || decide ((2 ^ 64 : Nat) < s.2)) then some 0x12
  else if (op = 4 ∧ (dSrc w % dEs w ≠ 0 ∨ (dStride w) % (dEs w : Nat) ≠ 0)) ∨ (op = 5 ∧ (dSrc w % 8 ≠ 0 ∨ dLen w % 8 ≠ 0))
      ∨ (op = 6 ∧ (dSrc w % dEs w ≠ 0 ∨ dDst w % 8 ≠ 0)) then some 0x13
  else if (op = 2 ∨ op = 3) ∧ dLen w ≠ 0 ∧ dSrc w < dDst w + dLen w ∧ dDst w < dSrc w + dLen w then some 0x14
  else none

/-- Byte (x mod 8) of a pattern for each address x of a range (R263). -/
def patternAt (v : Word) (a n : Nat) : Bytes := (List.range n).map fun i => v.extractLsb' (8 * ((a + i) % 8)) 8

/-- The length of the unit at a driven offset (R262). -/
def unitLen (w : List Word) (p : Nat) : Nat :=
  if dElems w then 1
  else
    let a := (if dByDst w then dDst w else dSrc w) + p
    min (64 - a % 64) (dLen w - p)

/-- A range cut at line boundaries: address and length. -/
def cutLines (a n : Nat) : List (Nat × Nat) :=
  if n = 0 then [] else if a % 64 + n ≤ 64 then [(a, n)] else [(a, 64 - a % 64), (a + (64 - a % 64), n - (64 - a % 64))]

/-- The source bytes of a unit (R262, R271). -/
def unitSrc (w : List Word) (p n : Nat) : List (Nat × Nat) :=
  match dOp w with
  | 0 | 1 => []
  | 4 | 6 => [((dElemAddr w p).toNat, dEs w)]
  | _ => cutLines (dSrc w + p) n

/-- The identity of a REDUCE function (R264). -/
def reduceId (fn : Nat) : Word :=
  match fn with
  | 1 => w64 (2 ^ 63 - 1)
  | 2 => w64 (2 ^ 63)
  | 3 | 5 => onesW
  | _ => 0

/-- One step of REDUCE (R264). -/
def reduceStep (fn es : Nat) (acc : Word) (x : Nat) : Word :=
  let s := BitVec.ofInt 64 (toS (8 * es) x)
  let z := w64 x
  match fn with
  | 0 => acc + s
  | 1 => if s.slt acc then s else acc
  | 2 => if acc.slt s then s else acc
  | 3 => if z < acc then z else acc
  | 4 => if acc < z then z else acc
  | 5 => acc &&& z
  | 6 => acc ||| z
  | 7 => acc ^^^ z
  | _ => w64 (fadd64 acc.toNat x)

/-- Eight steps of the Castagnoli CRC (R267). -/
def crcBits : Nat → BitVec 32 → BitVec 32
  | 0, c => c
  | n + 1, c => crcBits n ((c >>> 1) ^^^ (if c.getLsbD 0 then 0x82F63B78 else 0))

def crcBytes (bs : Bytes) (c : BitVec 32) : BitVec 32 := bs.foldl (fun c d => crcBits 8 (c ^^^ d.setWidth 32)) c

/-- One word of CSUM64 (R267). -/
def csumStep (s w : Nat) : Nat := let t := s + w; t % 2 ^ 64 + t / 2 ^ 64

/-- CSUM64 over bytes with a tail of fewer than 8 bytes carried over: sum, tail bytes. -/
def csumBytes : Nat → Nat → Bytes → Nat × Bytes
  | 0, s, bs => (s, bs)
  | n + 1, s, bs => if bs.length < 8 then (s, bs) else csumBytes n (csumStep s (leNat (bs.take 8))) (bs.drop 8)

/-- ACC as the record and CHURN.PACC show it (R273, R281); a csum's tail of done mod 8 bytes stands in `result`. -/
def ChCtx.accOut (x : ChCtx) : Word :=
  match dOp x.desc.words with
  | 3 => w64 x.sdone
  | 4 | 7 => x.acc
  | 8 => if x.done % 8 = 0 then x.acc else w64 (csumStep x.acc.toNat x.result.toNat)
  | _ => 0

/-- A context at its start (R264, R265, R267). -/
def ChCtx.init (i : Nat) (d : Desc) (stop : Option ChStop) : ChCtx :=
  let w := d.words
  let acc : Word := match dOp w with
    | 4 => if dSeeded w then dSeed w else reduceId (dFn w)
    | 7 => w64 (Word.fld (dSeed w) 31 0)
    | 8 => dSeed w
    | _ => 0
  ⟨i, d, 0, [], 0, 0, acc, if dOp w = 5 then onesW else 0, false, stop, none, 0, [], false⟩

/-- A unit's source bytes are folded (R264, R265, R267): the context with them counted. A match of SCAN ends it. -/
def ChCtx.fold (x : ChCtx) (p : Nat) (bs : Bytes) : ChCtx :=
  let w := x.desc.words
  let n := bs.length
  match dOp w with
  | 4 => { x with acc := reduceStep (dFn w) (dEs w) x.acc (leNat bs), done := p + 1 }
  | 5 =>
    let hit := (List.range (n / 8)).find? fun j =>
      let d := w64 (leNat ((bs.drop (8 * j)).take 8))
      ((d &&& dSeed w) == (dValue w &&& dSeed w)) == (dFn w == 0)
    match hit with
    | some j => { x with result := w64 (p + 8 * j), done := p + 8 * j + 8, units := [], stop := some ⟨1, 0, 0⟩ }
    | none => { x with done := p + n }
  | 7 => { x with acc := ((crcBytes bs (x.acc.setWidth 32 ^^^ BitVec.allOnes 32)) ^^^ BitVec.allOnes 32).setWidth 64, done := p + n }
  | 8 =>
    let r := csumBytes 16 x.acc.toNat (leBytes (x.done % 8) x.result.toNat ++ bs)
    { x with acc := w64 r.1, result := w64 (leNat r.2), done := p + n }
  | _ => { x with done := p + n }

/-- Whether an operation only reads (R271). -/
def dReadOnly (w : List Word) : Bool := dOp w == 4 || dOp w == 5 || dOp w == 7 || dOp w == 8

/-- RESULT of the record (R273). -/
def ChCtx.resultOut (x : ChCtx) (code : Nat) : Word :=
  if code ≠ 1 then 0
  else match dOp x.desc.words with
    | 4 | 7 | 8 => x.accOut
    | 5 => x.result
    | _ => 0

/-! ### Contexts -/

def Hw.chCtx (h : Hw) (e c : Nat) : Option ChCtx := sfind c (h.slice e).ctxs

/-- The registers of the instance page follow the context (R281). `valid` from the first access until the end. -/
def Hw.chProg (h : Hw) (x : ChCtx) (valid : Bool) : Hw :=
  let w := x.desc.words
  let p := instReg x.inst
  let h1 := ((h.setReg (p 0x10) (w64 (b2n valid * 2 ^ 63 + dOp w * 2 ^ 56 + x.done))).setReg (p 0x18) x.accOut).setReg
    (p 0x20) (w64 x.desc.seq)
  forN 0 8 (fun i h => h.setReg (p (0x40 + 8 * i)) (wd w i)) h1

/-- A context changes; the page shows it while its descriptor has made an access. -/
def Hw.setCtx (h : Hw) (e c : Nat) (x : ChCtx) : Hw :=
  let h1 := h.updSlice e fun s => { s with ctxs := sset c x s.ctxs }
  if x.next = 0 then h1 else h1.chProg x true

/-- The unit at a driven offset fails (R277): no further unit starts, and neither it nor a later one is written or counted. -/
def ChCtx.fail (x : ChCtx) (p : Nat) (s : ChStop) : ChCtx :=
  { x with units := x.units.filter fun u => decide (u.pos < p), stop := some s }

/-- A unit fails, in the state of its engine. -/
def Hw.failUnit (h : Hw) (e c : Nat) (x : ChCtx) (p : Nat) (s : ChStop) : Hw := h.setCtx e c (x.fail p s)

/-- The codes of R274 for a fault of translation or decoding. -/
def chCode (f : Flt) : Nat :=
  match f.code with
  | 3 => 0x20
  | 4 => 0x21
  | 5 => 0x22
  | 6 => 0x23
  | 7 => 0x24
  | _ => 0x25

/-- The code of an ERR of R172 (R274). -/
def errCode (err : Nat) : Nat := if err = 1 then 0x30 else if err = 2 then 0x27 else if err = 3 ∨ err = 4 then 0x32 else 0x31

/-- How an access at `a` that ended with an ERR of R172 stops a descriptor (R274). -/
def errStop (err : Nat) (a : Word) : ChStop := ⟨errCode err, a, if err = 2 then 0 else err⟩

/-- A line request of an engine leaves for the slice of its address with a CHR credit, or the credit of a Cream entry (R238, R243, R246). -/
def Hw.engPost (h : Hw) (e : Nat) (why : EngFor) (acc : Acc) (pa : Word) (kind : ReqKind) (weight : Nat) (cream : Bool) : Hw :=
  h.postReq (sliceOf (lineNo pa)) ⟨kind, lineNo pa, .eng e why, acc, false, weight, cream, h.homePos (lineNo pa)⟩

/-- A walker of an engine goes on (R181, R246): its next table read leaves as a coherent CHR-class read; a walk that has ended with an entry
puts it into the translation cache, in place of the entry that R185 names when 64 are held; a fault is kept with the context that waits for it.
Either frees the walker. -/
def Hw.engWalkStep (h : Hw) (e k : Nat) (w : Walker) : Hw :=
  let c : Wcfg := ⟨h, w.reg.acc, w.reg.ctx, [], w.access, w.va⟩
  let put := fun (w : Walker) (h : Hw) => h.updSlice e fun s => { s with walkers := sset k w s.walkers }
  match walkBoth c (w.answers, []) with
  | .need pa _ => (put { w with sent := true } h).engPost e (.walk k) w.reg.acc pa (.read (pa.toNat % 64) 8) 16 false
  | .flt f _ => h.updSlice e fun s => { s with
      walkers := sdel k s.walkers
      ctxs := s.ctxs.map fun p => if p.1 = w.thread then (p.1, { p.2 with flts := p.2.flts ++ [(w.access, w.va.toNat / 4096, f)] }) else p }
  | .ok (l1, l2) _ =>
    h.updSlice e fun s =>
      let i := (sfree s.ttlb 0 64).getD (h.engLfsr.toNat % 64)
      { s with ttlb := sset i (tlbEntry c l1 l2) s.ttlb, walkers := sdel k s.walkers }

/-- What an engine's translation gives: an address and its type, a fault, or a wait, with what the engine does meanwhile. -/
inductive EngX where
  | ok (pa : Word) (mt : MemType)
  | flt (f : Flt)
  | wait (f : Hw → Hw)

/-- Translation by an engine under a captured regime (R268, R269): the physical regime, an entry of its translation cache, what a walk of the
context has found, or a walk when one of the 2 walkers is free. -/
def Hw.engXlate (m : List Host.Cell) (h : Hw) (e c : Nat) (r : Regime) (access : Access) (va : Word) : EngX :=
  if physRegime r.acc r.ctx then .ok va (match h.decodePA va with | .ok tg => tg.physType | .error _ => .wb)
  else
    let w : Wcfg := ⟨h, r.acc, r.ctx, [], access, va⟩
    match pickEntry (((h.slice e).ttlb.map (·.2)).filter fun x => x.hits r.acc.secure w.vmid w.asid va) with
    | some x => match x.fault access r.acc.lvl va (w.ia m) with
      | some f => .flt f
      | none => .ok (x.pa va) x.mtype
    | none =>
      let mine := (sfind c (h.slice e).ctxs).bind fun x => x.flts.find? fun f => f.1 == access && f.2.1 == va.toNat / 4096
      if let some f := mine then .flt f.2.2
      else match (h.slice e).walkers.find? fun p => p.2.thread == c && p.2.access == access && p.2.va.toNat / 4096 == va.toNat / 4096 with
      | some _ => .wait id
      | none => match sfree (h.slice e).walkers 0 2 with
        | some k => .wait fun h => h.engWalkStep e k ⟨c, va, access, r, [], [], false, none, false⟩
        | none => .wait id

/-- What the check of an engine's access gives. -/
inductive EngChk where
  | ok (pa : Word)
  | stop (s : ChStop)
  | wait (f : Hw → Hw)

/-- An access of an engine is translated, decoded, and found to be of Normal memory (R25, R192, R268 to R270); the region checkers judge it at
its home slice (R396). Register space, under any page, has the subcodes of R23. -/
def Hw.engCheck (m : List Host.Cell) (h : Hw) (e c : Nat) (r : Regime) (access : Access) (va : Nat) : EngChk :=
  let a := w64 va
  match h.engXlate m e c r access a with
  | .wait f => .wait f
  | .flt f => .stop ⟨chCode f, a, f.sub⟩
  | .ok pa mt =>
    match h.decodePA pa with
    | .error s => .stop ⟨0x25, a, s⟩
    | .ok .reg => .stop ⟨0x25, a, 4⟩
    | .ok tg =>
      if (tg.fixType mt).device || (match tg with | .mmio _ => true | _ => false) then .stop ⟨0x26, a, 0⟩ else .ok pa

/-- An answer to a context's line request: one less is out. -/
def Hw.ctxAns (h : Hw) (e c : Nat) (f : ChCtx → ChCtx) : Hw :=
  match h.chCtx e c with
  | none => h
  | some x => h.setCtx e c (f { x with out := x.out - 1 })

def ChCtx.updUnit (x : ChCtx) (p : Nat) (f : ChUnit → ChUnit) : ChCtx :=
  { x with units := x.units.map fun u => if u.pos = p then f u else u }

/-- A line request of an engine has been answered (R271, R274, R275, R277): `err` is 0, or n + 1 for ERR n; `bad` marks poison. -/
def Hw.engAns (h : Hw) (e : Nat) (why : EngFor) (v : Vec) (bad : Bool) (err : Nat) : Hw :=
  match why with
  | .read c p i => h.ctxAns e c fun x => x.updUnit p fun u => { u with reads := u.reads.modify i fun r =>
      if err ≠ 0 then { r with err := some (err - 1) }
      else if bad then { r with err := some 1 }
      else { r with data := some (vbytes v (r.pa.toNat % 64) r.len) } }
  | .write c p => h.ctxAns e c fun x =>
      if err = 0 then x.updUnit p fun u => { u with perf := true }
      else (match x.units.find? fun u => u.pos == p with
        | some u => x.fail p (errStop (err - 1) u.dva)
        | none => x)
  | .fill c p i => h.ctxAns e c fun x =>
      let mark := fun (f : ChRead → ChRead) => x.updUnit p fun u => { u with reads := u.reads.modify i f }
      match err, (x.units.find? fun u => u.pos == p).bind fun u => u.reads[i]? with
      | n + 1, some r =>
        let y := mark fun r => { r with err := some n }
        { y with units := y.units.filter (fun u => u.issued), stop := some (if x.noFill then x.stop.getD (errStop n r.va) else errStop n r.va),
                 noFill := true }
      | _, _ => mark fun r => { r with data := none }
  | .record c => h.ctxAns e c fun x => { x with recd := some (some err) }
  | .walk k => match sfind k (h.slice e).walkers with
    | none => h
    | some w =>
      if w.discard then h.updSlice e fun s => { s with walkers := sdel k s.walkers }
      else
        match walkBoth ⟨h, w.reg.acc, w.reg.ctx, [], w.access, w.va⟩ (w.answers, []) with
        | .need pa _ => h.engWalkStep e k { w with answers := w.answers ++ [if err ≠ 0 ∨ bad then none else some (vword v (pa.toNat % 64 / 8))] }
        | _ => h

/-- Whether some tag of this node still waits for what it was sent for. -/
def Hw.tagOut (h : Hw) (w : Waiter) : Bool := h.gtags.any (fun p => p.2.who == w) || h.ptags.any fun p => p.2.who == some w

/-! ### Instances (R247, R388 to R393) -/

def Hw.instState (h : Hw) (i : Nat) : Nat := h.regF (rinstReg i) 63 61
def Hw.setInstState (h : Hw) (i n : Nat) : Hw := h.setRegF (rinstReg i) 63 61 n
def Hw.instEngine (h : Hw) (i : Nat) : Nat := h.regF (instReg i 0) 6 0

/-- QSTAT.QUEUED follows the queue. -/
def Hw.setQueue (h : Hw) (i : Nat) (q : List Desc) : Hw :=
  (h.updInst i fun x => { x with queue := q }).setRegF (instReg i 8) 5 0 q.length

/-- An instance has a descriptor executing, or a record that another node has not answered. -/
def Hw.executing (h : Hw) (i : Nat) : Bool := h.slices.any fun s => s.2.ctxs.any fun c => c.2.inst == i

/-- A signal of an instance: presented when its message ID is valid, else an incident (R276, R389). -/
def Hw.signal (h : Hw) (e i : Nat) (id : Option Nat) (sec : Bool) : Hw :=
  match id with
  | some n => { h with router := { h.router with signals := h.router.signals ++ [(i, n)] } }
  | none => h.incident 0x52 0 onesW 0 (blockId 1 e) sec

/-- ISTAT in [63:56]. -/
def istat (n : Nat) : Word := w64 (n * 2 ^ 56)

/-- The checks of a binding descriptor (R389). -/
def bindBad (w : List Word) : Bool :=
  let a := wd w 0
  decide (Word.fld a 37 35 ≠ 0) || decide (Word.fld a 15 0 ≠ 0) || decide (72 ≤ Word.fld a 34 28)
    || decide (Word.fld (wd w 1) 62 24 ≠ 0) || decide (Word.fld (wd w 2) 62 24 ≠ 0)
    || [3, 4, 5, 6, 7].any fun i => wd w i != 0

/-- A binding takes effect (R389, R391, R393). -/
def Hw.bind (h : Hw) (i : Nat) (w : List Word) : Hw :=
  let a := wd w 0
  let eng := Word.fld a 34 28
  let msg := fun (x : Word) => if Word.bit x 63 then some (Word.fld x 23 0) else none
  let h1 := if eng = h.instEngine i then h else h.revokeInst i
  let h2 := h1.updInst i fun x =>
    { x with weight := Word.fld a 47 40, uok := Word.bit a 39, sok := Word.bit a 38, geode := Word.fld a 27 16,
             vmid := Word.fld a 63 48, cmsg := msg (wd w 1), emsg := msg (wd w 2), promoted := false, deficit := 0, waited := 0 }
  let h3 := h2.setRegF (instReg i 0) 6 0 eng
  let r := ((Word.setFld (Word.setFld (h3.reg (rinstReg i)) 47 40 (Word.fld a 47 40)) 34 28 eng))
  (h3.setReg (rinstReg i) (Word.setFld r 15 0 (Word.fld a 63 48))).setInstState i 2

/-- Whether an INST instruction's issuer acts on an instance's world (R388). -/
def InstReq.sec (r : InstReq) : Bool := decide (r.acc.lvl = .m) && r.bank

/-- The transition of an INST instruction (R391): the state after and the answer; no answer while INST.QUIESCE runs. -/
def Hw.instDo (h : Hw) (r : InstReq) : Hw × Option Word :=
  let i := r.inst
  let st := h.instState i
  let sec := Word.bit (h.reg (rinstReg i)) 60
  let bad := match r.op with
    | 0 => decide (2 ≤ r.opnd.toNat)
    | 3 => false
    | _ => r.opnd != 0
  if bad then (h, some (istat 5))
  else if st = 0 then
    (if r.op = 2 then ((h.setInstState i 1).setRegF (rinstReg i) 60 60 (b2n r.sec), some 0) else (h, some (istat 1)))
  else if sec != r.sec || st == 5 then (h, some (istat 6))
  else match r.op with
    | 2 => (h, some (istat 2))
    | 0 =>
      if st = 2 then
        ((h.setInstState i 3).updInst i fun x =>
          { x with quiesce := some (r.thread, r.id), abandonQ := r.opnd == 1, ended := 0, abandoned := 0 }, none)
      else if st = 3 then (h, some (istat 3))
      else (h, some 0)
    | 3 =>
      if st = 2 ∨ st = 3 then (h, some (istat 3))
      else match r.bytes with
        | none => (h, some (istat 4))
        | some w => if bindBad w then (h, some (istat 4)) else (h.bind i w, some 0)
    | n =>
      if st = 2 ∨ st = 3 then (h, some (istat 3))
      else ((h.revokeInst i).instClear i (if n = 1 then 1 else 0), some 0)

end Sys2Proof.Machine
end

