-- ==== Sys2Proof/Machine/ExecChurn.lean ====
section
/-! DEFINITION. CHURN.POST and the INST instructions (R96, R97), and the commands of Churn engines and instances (chapter 10,
R388 to R393). -/

namespace Sys2Proof.Machine

/-! ### Instructions -/

/-- A request to an instance's queue slice, as a core request of class LREQ (R248, R390). -/
def Hw.instSend (h : Hw) (t : Nat) (rd : Reg) (k : LongKind) (op i : Nat) (opnd : Word) (bytes : Option (List Word)) : Hw :=
  let x := h.thread t
  let c := t / 16
  let s := i / 8
  if !h.hasCredit 0 c s then h
  else
    let id := h.nextLong t
    let r : InstReq := ⟨t, id, op, i, opnd, bytes, x.acc, x.bank, ⟨x.acc, x.a.ctx⟩⟩
    let h1 := (h.useCredit 0 c s).send vcReq (chamberStop c) (chamberStop s) (.instReq s r)
    (h1.addLong t (LongOp.awaits k (destG rd) x.acc)).complete t .seq

/-- CHURN.POST (R96, R248): the descriptor is read at X2 and sent to the queue slice. -/
def execChurnPost (t : Nat) (rd ra rb : Reg) (s : State) : Host.Outcome State Fault Refusal :=
  s.onHw fun m h =>
    if !h.ready t [destG ra, destG rb] .memLong then h
    else
      let x := h.thread t
      let va := x.a.rg rb
      if va.toNat % 64 ≠ 0 then h.raise m t .s 2 0 va x.a.pc
      else match h.descRead m t va with
        | .miss va => h.cancel t va .desc
        | .flt f va => h.raiseFlt m t f va x.a.pc
        | .bad err pa => h.descBad t .churn (destG rd) err pa
        | .wait f => f h
        | .ok v => h.tick.instSend t rd .churn 5 (Word.fld (x.a.rg ra) 8 0) 0 (some (vwords v))

/-- An INST instruction other than BIND (R97): H and above. Operations: 0 QUIESCE, 1 RESET, 2 CREATE, 4 REMOVE. -/
def Hw.instOp (m : List Host.Cell) (h : Hw) (t : Nat) (rd ra rb : Reg) (op : Nat) : Hw :=
  if !h.ready t [destG ra, destG rb] .memLong then h
  else
    let x := h.thread t
    if Level.num x.a.level < 2 then h.illegal m t
    else h.instSend t rd .inst op (Word.fld (x.a.rg ra) 8 0) (x.a.rg rb) none

/-- INST.QUIESCE (R97). -/
def execInstQuiesce (t : Nat) (rd ra rb : Reg) (s : State) : Host.Outcome State Fault Refusal :=
  s.onHw fun m h => h.instOp m t rd ra rb 0

/-- INST.RESET (R97). -/
def execInstReset (t : Nat) (rd ra rb : Reg) (s : State) : Host.Outcome State Fault Refusal :=
  s.onHw fun m h => h.instOp m t rd ra rb 1

/-- INST.CREATE (R97). -/
def execInstCreate (t : Nat) (rd ra rb : Reg) (s : State) : Host.Outcome State Fault Refusal :=
  s.onHw fun m h => h.instOp m t rd ra rb 2

/-- INST.REMOVE (R97). -/
def execInstRemove (t : Nat) (rd ra rb : Reg) (s : State) : Host.Outcome State Fault Refusal :=
  s.onHw fun m h => h.instOp m t rd ra rb 4

/-- INST.BIND (R97, R389, R391): a misaligned address and Device memory are the alignment fault; another fault on the descriptor, a
refusal or poison answers ISTAT 4. -/
def execInstBind (t : Nat) (rd ra rb : Reg) (s : State) : Host.Outcome State Fault Refusal :=
  s.onHw fun m h =>
    if !h.ready t [destG ra, destG rb] .memLong then h
    else
      let x := h.thread t
      let va := x.a.rg rb
      let i := Word.fld (x.a.rg ra) 8 0
      if Level.num x.a.level < 2 then h.illegal m t
      else if va.toNat % 64 ≠ 0 then h.raise m t .s 2 0 va x.a.pc
      else match h.descRead m t va with
        | .miss va => h.cancel t va .desc
        | .flt f va => if f.code = 2 then h.raiseFlt m t f va x.a.pc else h.instSend t rd .inst 3 i 0 none
        | .bad err pa => (if err = 2 then h.refusalT t x.a.secure pa else h).instSend t rd .inst 3 i 0 none
        | .wait f => f h
        | .ok v => h.tick.instSend t rd .inst 3 i 0 (some (vwords v))

/-! ### The queue slice -/

/-- An answer leaves for the thread, and the request's entry is free (R390). -/
def Hw.instAnswer (h : Hw) (s : Nat) (r : InstReq) (v : Word) : Hw :=
  let c := r.thread / 16
  (h.freeEntry 0 c s).send vcRsp (chamberStop s) (chamberStop c) (.answer r.thread r.id v)

/-- CHURN_POST_ACCEPT (R248, R389, R390): the oldest request of a queue slice, when it is a post, is checked and answered. -/
def execChurnPostAccept (slice : Nat) (s : State) : Host.Outcome State Fault Refusal :=
  s.onHw fun _ h =>
    match (h.slice slice).instIn with
    | [] => h
    | r :: rest =>
      if r.op ≠ 5 then h
      else
        let i := r.inst
        let h1 := h.updSlice slice fun x => { x with instIn := rest }
        let st := h.instState i
        let q := (h.inst i).queue
        if st = 0 then h1.instAnswer slice r (istat 2)
        else if !h.mayPost i r.acc r.bank r.regime.ctx.vmid then h1.instAnswer slice r (istat 3)
        else if st ≠ 2 then h1.instAnswer slice r (istat 4)
        else if 32 ≤ q.length then h1.instAnswer slice r (istat 1)
        else
          let seq := h.regF (instReg i 8) 63 32
          let h2 := (h1.setQueue i (q ++ [⟨seq, r.bytes.getD [], r.regime⟩])).setRegF (instReg i 8) 63 32 (seq + 1)
          h2.instAnswer slice r (w64 seq)

/-- INSTANCE_REQUEST (R390, R391): the oldest request of a queue slice, when it is an INST instruction, is performed and answered;
INST.RESET and INST.REMOVE wait until the router has accepted every signal of the instance. -/
def execInstanceRequest (slice : Nat) (s : State) : Host.Outcome State Fault Refusal :=
  s.onHw fun _ h =>
    match (h.slice slice).instIn with
    | [] => h
    | r :: rest =>
      if r.op = 5 ∨ ((r.op = 1 ∨ r.op = 4) ∧ h.router.signals.any fun p => p.1 == r.inst) then h
      else
        let q := (h.updSlice slice fun x => { x with instIn := rest }).instDo r
        match q.2 with
        | some v => q.1.instAnswer slice r v
        | none =>
          let drop := fun (x : ChCtx) => if x.inst = r.inst ∧ r.opnd = 1 ∧ x.recd.isNone then
              { x with abandon := true, stop := if x.stop.isSome then x.stop else some ⟨0x40, 0, 0⟩,
                       units := x.units.filter fun u => u.issued || decide (u.pos < x.done) }
            else x
          let q1 := { q.1 with slices := q.1.slices.map fun (p : Nat × Slice) =>
            if p.2.ctxs.isEmpty then p else (p.1, { p.2 with ctxs := p.2.ctxs.map fun (c : Nat × ChCtx) => (c.1, drop c.2) }) }
          q1.freeEntry 0 (r.thread / 16) slice

/-- QUIESCE_COMPLETE (R278, R391): an instance whose descriptors have all ended is QUIESCED, and INST.QUIESCE answers its counts. -/
def execQuiesceComplete (inst : Nat) (s : State) : Host.Outcome State Fault Refusal :=
  s.onHw fun _ h =>
    let x := h.inst inst
    if h.instState inst ≠ 3 ∨ !x.queue.isEmpty ∨ h.executing inst then h
    else
      let h1 := (h.setInstState inst 4).updInst inst fun x => { x with quiesce := none, abandonQ := false }
      match x.quiesce with
      | none => h1
      | some (t, id) =>
        h1.send vcRsp (chamberStop (inst / 8)) (chamberStop (t / 16)) (.answer t id (w64 (x.ended % 256 * 256 + x.abandoned % 256)))

/-! ### Choice of a descriptor (R250, R294, R296) -/

/-- The instances that take part at an engine: bound to it, with a queued descriptor and none executing. -/
def Hw.candidates (h : Hw) (e : Nat) : List Nat :=
  (h.insts.filter fun p => !p.2.queue.isEmpty && h.instEngine p.1 == e && (h.instState p.1 == 2 || h.instState p.1 == 3)
    && !h.executing p.1).map (·.1)

/-- An instance has a Cream token at an engine's regulator. -/
def Hw.instCream (h : Hw) (e i : Nat) : Bool :=
  h.resvs.any fun p => p.2.live && !p.2.retire && resvKind p.2.words == 1 && resvBind p.2.words == i
    && p.2.tok.any fun k => k.1 / 2 == 0x8000 + e && decide (65536 ≤ k.2)

/-- Whether an instance is served as Whole. -/
def Inst.whole (x : Inst) : Bool := x.weight != 0 || x.promoted

/-- The weight an instance is served with: of a Skim instance 0, and 1 once it is promoted (R294, R295). -/
def Inst.quantum (x : Inst) : Nat := if x.weight = 0 then b2n x.promoted else x.weight

/-- The next of some instances after the last one served, in ascending order (R250). -/
def nextAfter (last : Nat) (is : List Nat) : Option Nat :=
  match is.find? fun i => decide (last < i) with
  | some i => some i
  | none => is.head?

/-- The choice of R296: Cream, then Whole by deficit round-robin counting units, then Skim. -/
def Hw.chooseInst (h : Hw) (e : Nat) : Hw × Option Nat :=
  let cs := h.candidates e
  let seq := fun i => ((h.inst i).queue.head?.map (·.seq)).getD 0
  match cs.filter (h.instCream e) with
  | c :: r => (h, some (r.foldl (fun a b => if seq b < seq a then b else a) c))
  | [] =>
    let ws := cs.filter fun i => (h.inst i).whole
    if ws.isEmpty then (h, nextAfter (h.slice e).rr cs)
    else
      let rounds := fun i => let x := h.inst i
        ((1 - x.deficit).toNat + x.quantum - 1) / x.quantum
      let k := ws.foldl (fun n i => min n (rounds i)) (rounds (ws.headD 0))
      let h1 := ws.foldl (fun (h : Hw) i => h.updInst i fun x => { x with deficit := x.deficit + (k * x.quantum : Nat) }) h
      (h1, nextAfter (h.slice e).rr (ws.filter fun i => decide (0 < (h1.inst i).deficit)))

/-- DESCRIPTOR_START (R250, R261, R278): a free context of an engine takes the next descriptor and checks it; one that is abandoned
before its start only ends. -/
def execDescriptorStart (engine : Nat) (s : State) : Host.Outcome State Fault Refusal :=
  s.onHw fun _ h =>
    if numSlices ≤ engine ∨ (h.slice engine).engineOff then h
    else match sfree (h.slice engine).ctxs 0 4 with
      | none => h
      | some c =>
        let r := h.chooseInst engine
        match r.2 with
        | none => h
        | some i =>
          let x := r.1.inst i
          match x.queue with
          | [] => h
          | d :: q =>
            let stop : Option ChStop := if x.abandonQ then some ⟨0x40, 0, 0⟩ else (dCheck d.words).map fun n => ⟨n, 0, 0⟩
            let h1 := (r.1.setQueue i q).updInst i fun x => { x with waited := 0, deficit := if q.isEmpty then 0 else x.deficit }
            (h1.updSlice engine fun y => { y with rr := i }).setCtx engine c (ChCtx.init i d stop)

/-! ### Units -/

/-- What the checks of a unit give: its reads, a stop, or a wait. -/
inductive UnitChk where
  | ok (rs : List ChRead)
  | stop (s : ChStop)
  | wait (f : Hw → Hw)

/-- The checks of a unit's source, line by line; a MOVE's source is to be written too (R269). -/
def Hw.checkReads (m : List Host.Cell) (h : Hw) (e c : Nat) (r : Regime) (move : Bool) : List (Nat × Nat) → UnitChk
  | [] => .ok []
  | (va, n) :: rest =>
    match h.engCheck m e c r .load va with
    | .stop s => .stop s
    | .wait f => .wait f
    | .ok pa =>
      match (if move then h.engCheck m e c r .store va else .ok pa) with
      | .stop s => .stop s
      | .wait f => .wait f
      | .ok _ =>
        match Hw.checkReads m h e c r move rest with
        | .ok rs => .ok (⟨w64 va, pa, n, none, none⟩ :: rs)
        | x => x

/-- Every Skim instance that waits at an engine has waited one unit more; after 4,096 it is promoted (R294, R296), until it is bound again
(DESIGN CHOICE, log 174: the rules do not say when the promotion ends). -/
def Hw.ageSkim (h : Hw) (e : Nat) : Hw :=
  (h.candidates e).foldl (fun (h : Hw) i => h.updInst i fun x =>
    if x.whole then x else { x with waited := x.waited + 1, promoted := decide (4096 ≤ x.waited + 1) }) h

/-- A line request of a context leaves, with the class and weight of its instance (R293, R297, R298). -/
def Hw.ctxPost (h : Hw) (e : Nat) (x : ChCtx) (why : EngFor) (pa : Word) (kind : ReqKind) : Hw :=
  let rd := match kind with | .read _ _ => true | _ => false
  let r := h.regulate (0x8000 + e) rd (pa.toNat / 64 * 64) 1 x.inst
  r.1.engPost e why x.desc.regime.acc pa kind (h.inst x.inst).quantum r.2

/-- UNIT_START (R271): a context translates and checks its next unit and issues its reads, within the window of 16; while a translation is
walked for, it waits. A unit is charged to its
instance's deficit, also where the instance was chosen as Cream or Skim (DESIGN CHOICE, log 175). -/
def execUnitStart (engine ctx : Nat) (s : State) : Host.Outcome State Fault Refusal :=
  s.onHw fun m h =>
    match h.chCtx engine ctx with
    | none => h
    | some x =>
      let w := x.desc.words
      let p := x.next
      let reg := x.desc.regime
      if x.stop.isSome ∨ x.abandon ∨ dLen w ≤ p ∨ 16 ≤ (x.units.filter fun u => decide (x.done ≤ u.pos)).length then h
      else
        let n := unitLen w p
        let dva := dDst w + p
        match h.checkReads m engine ctx reg (dOp w == 3) (unitSrc w p n) with
        | .stop st => h.failUnit engine ctx x p st
        | .wait f => f h
        | .ok rs =>
          match (if dByDst w then h.engCheck m engine ctx reg .store dva else .ok 0) with
          | .stop st => h.failUnit engine ctx x p st
          | .wait f => f h
          | .ok dpa =>
            let u : ChUnit := ⟨p, n, rs, w64 dva, dpa, if dOp w = 1 then some (patternAt (dValue w) dva n) else none, false, false⟩
            let h1 := rs.zipIdx.foldl (fun (h : Hw) (r : ChRead × Nat) =>
              h.ctxPost engine x (.read ctx p r.2) r.1.pa (.read (r.1.pa.toNat % 64) r.1.len)) h
            let h2 := (h1.ageSkim engine).updInst x.inst fun y => { y with deficit := y.deficit - 1 }
            h2.setCtx engine ctx { x with next := p + n, units := x.units ++ [u], out := x.out + rs.length }

/-- The bytes of a read once they are here, or the stop they cause (R274). `err` is what reading a CXL device reports for it: 0 nothing, n + 1
for ERR n. -/
def readData (r : ChRead) (err : Nat) : Except ChStop Bytes :=
  match r.err with
  | some n => .error (errStop n r.va)
  | none =>
    if err ≠ 0 then .error (errStop (err - 1) r.va)
    else .ok (r.data.getD [])

/-- UNIT_READ_RETURN (R264 to R267, R271, R277): the oldest unit whose reads are out has its data, once all of them have been answered: it is
folded, or ready to be written. -/
def execUnitReadReturn (engine ctx err : Nat) (s : State) : Host.Outcome State Fault Refusal :=
  s.onHw fun _ h =>
    match h.chCtx engine ctx with
    | none => h
    | some x =>
      match x.units.find? fun u => u.data.isNone && !u.issued with
      | none => h
      | some u =>
        if u.reads.any fun r => r.data.isNone && r.err.isNone then h
        else
          let bs := u.reads.foldl (fun (a : Except ChStop Bytes) r =>
            match a with
            | .error e => .error e
            | .ok b => match readData r err with
              | .error e => .error e
              | .ok c => .ok (b ++ c)) (.ok [])
          match bs with
          | .error st => h.failUnit engine ctx x u.pos st
          | .ok b =>
            if dReadOnly x.desc.words then
              h.setCtx engine ctx ({ x with units := x.units.filter fun v => v.pos != u.pos }.fold u.pos b)
            else h.setCtx engine ctx (x.updUnit u.pos fun v => { v with data := some b })

/-- The counter of a HIST element (R266). -/
def histCounter (w : List Word) (bs : Bytes) : Nat := dDst w + 8 * (leNat bs / 2 ^ dShift w % 2 ^ dBins w)

def ChCtx.setUnit (x : ChCtx) (u : ChUnit) : ChCtx := { x with units := x.units.map fun v => if v.pos = u.pos then u else v }

/-- The unit whose write is issued next: every earlier one is issued and its own data is complete (R271). -/
def ChCtx.toWrite (x : ChCtx) : Option ChUnit :=
  match x.units.find? fun u => decide (x.done ≤ u.pos) && !u.issued with
  | some u => if u.data.isSome then some u else none
  | none => none

/-- UNIT_WRITE (R263, R266, R271): the next write of a context leaves for its slice. A HIST counter is translated here, and its increment
leaves as a far add. -/
def execUnitWrite (engine ctx : Nat) (s : State) : Host.Outcome State Fault Refusal :=
  s.onHw fun m h =>
    match h.chCtx engine ctx with
    | none => h
    | some x =>
      match x.toWrite with
      | none => h
      | some u =>
        let w := x.desc.words
        let bs := u.data.getD []
        let hist := dOp w == 6
        let va := if hist then histCounter w bs else u.dva.toNat
        match (if hist then h.engCheck m engine ctx x.desc.regime .atomic va else .ok u.dpa) with
        | .stop st => h.failUnit engine ctx x u.pos st
        | .wait f => f h
        | .ok pa =>
          let op : ReqKind := if hist then .far (farOp pa 8 1 0 0 .wb) else .write (lineWrite pa bs.length (vput 0 0 bs) false .wb)
          (h.ctxPost engine x (.write ctx u.pos) pa op).setCtx engine ctx
            { x.setUnit { u with issued := true, dva := w64 va, dpa := pa } with out := x.out + 1 }

/-- A write unit is counted (R271): it leaves, unless a MOVE fill of its source is still to be made (R277). -/
def ChCtx.count (x : ChCtx) (u : ChUnit) : ChCtx :=
  let x1 := { x with done := u.pos + u.len }
  if dOp x.desc.words = 3 ∧ !x.noFill then x1.setUnit { u with issued := false, perf := false }
  else { x1 with units := x1.units.filter fun v => v.pos != u.pos }

/-- UNIT_WRITE_PERFORMED (R263, R266, R271): the oldest write that is out has been performed at its home, and DONE advances over it. -/
def execUnitWritePerformed (engine ctx : Nat) (s : State) : Host.Outcome State Fault Refusal :=
  s.onHw fun _ h =>
    match h.chCtx engine ctx with
    | none => h
    | some x =>
      match x.units.find? fun u => decide (x.done ≤ u.pos) with
      | none => h
      | some u => if u.issued ∧ u.perf then h.setCtx engine ctx (x.count u) else h

/-- The bytes of a unit's source as they were before its fill: of its part i. -/
def ChUnit.before (u : ChUnit) (i : Nat) : Bytes :=
  ((u.data.getD []).drop ((u.reads.take i).foldl (fun n r => n + r.len) 0)).take (u.reads[i]?.map (·.len) |>.getD 0)

/-- MOVE_SOURCE_FILL (R263, R271, R277): the source fill of the oldest unit that DONE has passed is made; once it is performed, SDONE advances
over it. When one line of it fails and the other is filled, that one is given its bytes back, and the descriptor stops: no further fill is made. -/
def execMoveSourceFill (engine ctx : Nat) (s : State) : Host.Outcome State Fault Refusal :=
  s.onHw fun _ h =>
    match h.chCtx engine ctx with
    | none => h
    | some x =>
      match x.units.find? fun u => decide (u.pos + u.len ≤ x.done) with
      | none => h
      | some u =>
        let w := x.desc.words
        if u.issued then
          let back := u.reads.zipIdx.filter fun r => r.1.data.isNone
          let fresh := { x with units := x.units.filter fun v => v.pos != u.pos }
          if u.reads.any fun r => r.data.isSome && r.err.isNone then h
          else if u.reads.all fun r => r.err.isNone then h.setCtx engine ctx { fresh with sdone := u.pos + u.len }
          else if u.perf ∨ back.isEmpty then h.setCtx engine ctx fresh
          else
            let h1 := back.foldl (fun (h : Hw) (r : ChRead × Nat) =>
              h.ctxPost engine x (.fill ctx u.pos r.2) r.1.pa
                (.write (lineWrite r.1.pa r.1.len (vput 0 0 (u.before r.2)) false .wb))) h
            h1.setCtx engine ctx { x.setUnit { u with perf := true, reads := u.reads.map fun r => if r.data.isNone then { r with data := some [] } else r }
                                   with out := x.out + back.length }
        else if x.noFill then h
        else
          let h1 := u.reads.zipIdx.foldl (fun (h : Hw) (r : ChRead × Nat) =>
            h.ctxPost engine x (.fill ctx u.pos r.2) r.1.pa
              (.write (lineWrite r.1.pa r.1.len (vput 0 0 (patternAt (dValue w) r.1.va.toNat r.1.len)) false .wb))) h
          h1.setCtx engine ctx { x.setUnit { u with issued := true } with out := x.out + u.reads.length }

/-! ### The end of a descriptor (R273 to R278) -/

/-- How a descriptor ends, once nothing of it is in flight. -/
def ChCtx.ending (x : ChCtx) : Option ChStop :=
  if !x.units.isEmpty then none
  else match x.stop with
    | some st => some st
    | none => if dLen x.desc.words ≤ x.next then some ⟨1, 0, 0⟩ else none

/-- The completion record (R273). -/
def ChCtx.record (x : ChCtx) (st : ChStop) : List Word :=
  let w := x.desc.words
  [w64 (st.code * 2 ^ 56 + dOp w * 2 ^ 52 + dTag w * 2 ^ 32 + x.desc.seq % 2 ^ 32), w64 x.done, x.resultOut st.code, x.accOut, st.addr,
   w64 (st.sub % 2 ^ 16), 0, 0]

/-- What becomes of a record: what is to be done before it is written, written, or lost, with the fault of its own address (R274, R275). -/
inductive RecDone where
  | wait (f : Hw → Hw)
  | ok
  | lost (st : Option ChStop)

/-- The record is written to Normal memory under the captured regime (R269, R275), and its answer awaited. -/
def Hw.recWrite (m : List Host.Cell) (h : Hw) (e c : Nat) (x : ChCtx) (rec : List Word) : RecDone :=
  let a := (dCmpl x.desc.words).toNat
  if a = 0 then .ok
  else if a % 64 ≠ 0 then .lost none
  else match x.recd with
    | some (some n) => if n = 0 then .ok else .lost none
    | some none => .wait id
    | none =>
      match h.engCheck m e c x.desc.regime .record a with
      | .stop st => .lost (if 0x20 ≤ st.code ∧ st.code ≤ 0x24 then some st else none)
      | .wait f => .wait f
      | .ok pa => .wait fun h => (h.engPost e (.record c) x.desc.regime.acc pa (.write (lineWrite pa 64 (lineOf rec) false .wb)) (h.inst x.inst).quantum false).setCtx e c
          { x with recd := some none, out := x.out + 1 }

/-- A lost record goes to the instance page (R275). -/
def Hw.loseRec (h : Hw) (i : Nat) (rec : List Word) : Hw :=
  let h1 := forN 0 8 (fun k h => h.setReg (instReg i (0x80 + 8 * k)) (rec.getD k 0)) h
  (h1.bump (instReg i 0xC0) 1).event (vatReg (i / 8) 0x80) 2

/-- COMPLETION_RECORD (R273 to R276): a descriptor that has ended, and none of whose line requests is out, is recorded; its incident and
signals follow, and its context is free. The lost record of a descriptor that completed shows the fault of its own address, with KIND 5
(DEDUCED from R274 and R275, log 80). -/
def execCompletionRecord (engine ctx : Nat) (s : State) : Host.Outcome State Fault Refusal :=
  s.onHw fun m h =>
    match h.chCtx engine ctx with
    | none => h
    | some x =>
      let walking := (h.slice engine).walkers.any fun w => w.2.thread == ctx && w.2.sent
      match (if (x.out ≠ 0 ∧ x.recd ≠ some none) ∨ walking then none else x.ending) with
      | none => h
      | some st0 =>
        let rec0 := x.record st0
        match h.recWrite m engine ctx x rec0 with
        | .wait f => f h
        | d =>
          let i := x.inst
          let lost : Bool := match d with | .lost _ => true | _ => false
          let st := match d with | .lost (some f) => (if st0.code = 1 then f else st0) | _ => st0
          let sec := x.desc.regime.acc.secure
          let w := x.desc.words
          let h1 := if lost then h.loseRec i (x.record st) else h
          let h2 := if 1 < st.code ∨ lost then
              h1.incident 0x31 i st.addr (w64 (st.code * 2 ^ 56 + dTag w * 2 ^ 32 + b2n lost)) (blockId 1 engine) sec
            else h1
          let y := h.inst i
          let h3 := if st0.code = 1 ∧ dIrq w then h2.signal engine i y.cmsg sec else h2
          let h4 := if st0.code ≠ 1 ∨ lost then h3.signal engine i y.emsg sec else h3
          let h5 := h4.updInst i fun y =>
            if st0.code = 0x40 then { y with abandoned := y.abandoned + 1 } else { y with ended := y.ended + 1 }
          let h6 := h5.updSlice engine fun z => { z with ctxs := sdel ctx z.ctxs, walkers := z.walkers.filter fun w => w.2.thread != ctx }
          if x.next = 0 then h6 else h6.chProg x false

/-! ### Far atomics (R251 to R257) -/

/-- The value that a far atomic leaves, and the old value of its bytes (R252, R253). -/
def farNew (o : LineOp) (v : Vec) : Vec × Vec :=
  let off := o.pa.toNat % 64
  let old := leNat (vbytes v off o.len)
  (vput v off (leBytes o.len (farApply o.op o.len old o.data.toNat o.exp.toNat)), BitVec.ofNat 512 old)

/-- A far atomic whose line its home slice has is applied (R225, R226, R235, R251, R256); `err` is what a CXL device reports: 0 nothing, n + 1
for ERR n. It is performed on the line's entry of the write-back buffer; else on the Vat copy, by type; the result of a write-through or
non-cacheable one has to reach memory first. Unchanged while it must wait. -/
def Hw.farPerform (m : List Host.Cell) (h : Hw) (s : Nat) (x : Txn) (o : LineOp) (err : Nat) : Hw :=
  let l := x.req.line
  let e := if h.poisoned l then 2 else err
  if e ≠ 0 then h.finish m s { x with err := e }
  else
    let r := farNew o (lineVal m h l)
    let y := { x with old := r.2 }
    let h1 := ((h.setNewest l r.1).landed l).updSlice s fun z => { z with opbuf := opbufUse l z.opbuf }
    let out := fun (h : Hw) => h.updTxn s l fun x => { x with old := r.2, wr := true }
    match h.wbbEntry s l with
    | some _ => (match h1.toMemory s l r.1 false with
      | some h2 => h2.finish m s y
      | none => h)
    | none =>
      match o.mt with
      | .wb =>
        let a := match x.req.src with
          | .pass k _ => h1.ioAlloc m s l k false
          | _ => h1.vatAlloc m s l .m 1 0 false
        if a.2 then a.1.finish m s y
        else (match a.1.toMemory s l r.1 false with
          | some h2 => h2.finish m s y
          | none => h)
      | .wt => (match h1.toMemory s l r.1 false with
        | some h2 => out (h2.vatAlloc m s l .e 1 0 false).1
        | none => h)
      | _ => (match h1.toMemory s l r.1 false with
        | some h2 => out h2
        | none => h)

/-- FAR_ATOMIC (R251, R252, R254, R256): the home engine, unless it is gated, applies the oldest far atomic that has its line, and answers;
with none, its slice takes the oldest of its intake. -/
def execFarAtomic (slice err : Nat) (s : State) : Host.Outcome State Fault Refusal :=
  s.onHw fun m h =>
    if numSlices ≤ slice ∨ (h.slice slice).engineOff then h
    else
      let due := (h.slice slice).txns.find? fun x => x.came && x.settled && match x.req.kind with
        | .far _ => h.localLine x.req.line
        | _ => false
      match due with
      | some x => (match x.req.kind with
        | .far o => h.farPerform m slice x o err
        | _ => h)
      | none => h.takeReq m slice fun r => match r.kind with
        | .far _ => true
        | _ => false

/-- FAR_ATOMIC_RESPONSE (R255, R256): the response or acknowledgement of a thread's oldest answered far atomic reaches it; an error makes a
record of kind 4 and writes all ones to the bytes of R54. -/
def execFarAtomicResponse (t : Nat) (s : State) : Host.Outcome State Fault Refusal :=
  s.onHw fun _ h =>
    match (h.thread t).b.longs.find? fun o => o.kind == .farAtomic && !o.ready && o.parts.all (·.done) with
    | none => h
    | some o =>
      match o.parts with
      | [] => h
      | p :: _ =>
        if p.off = 0 then h.updLong t o.id fun o => { o with ready := true }
        else
          (h.updLong t o.id fun o => { o with ready := true, val := BitVec.ofNat 512 (2 ^ (8 * o.size) - 1) }).asyncErr t 4 (p.off - 1)
            p.pa o.acc.secure

/-- The accessor of a root port's requests: the world that holds it, outside every geode (R396, R411). -/
def Hw.portAcc (h : Hw) (k : Nat) : Acc := ⟨.s, h.portSecure k, 0⟩

/-- A Cream line of a device waits for the next frame of its port's ingress (R292, R293). -/
def Hw.ingressFull (h : Hw) (port : Nat) (rid : BitVec 16) (rd : Bool) (pa : Word) : Bool :=
  decide (h.cap ≤ sget 0 (ingressKey port) h.frames) && (h.matching (0xA000 + port) rd (pa.toNat / 64 * 64) 2 rid.toNat).isSome

/-- An access of a device has a target in memory, of this node, a member or another node (R25). -/
def Hw.portReaches (h : Hw) (pa : Word) : Bool :=
  match h.decodePA pa with
  | .error _ | .ok .reg | .ok (.mmio _) => false
  | _ => true

/-- An access of a device is turned away (R25, R510). -/
def Hw.portRefuse (h : Hw) (port : Nat) (pa : Word) : Hw := h.incident 0x50 1 pa 0 (blockId 4 port) (h.portSecure port)

/-- A part of a device's request, within one line, leaves its port for the line's slice with a credit, with the class and weight of its function
(R224, R238, R294, R295, R298). -/
def Hw.portRequest (h : Hw) (port : Nat) (rid : BitVec 16) (pa : Word) (kind : ReqKind) : Hw :=
  let rd := match kind with | .read _ _ => true | _ => false
  let r0 := h.regulate (0xA000 + port) rd (pa.toNat / 64 * 64) 2 rid.toNat
  let r := (if r0.2 then { r0.1 with frames := supd 0 (ingressKey port) (· + 1) r0.1.frames } else r0.1, r0.2)
  r.1.postReq (sliceOf (lineNo pa)) ⟨kind, lineNo pa, .port port, h.portAcc port, false, (h.funcWeight port rid.toNat).getD 16, r.2,
    h.homePos (lineNo pa)⟩

/-- A root port holds requests of a class that have no credit yet: it returns no flow-control credit of their type, and the device sends none
(R241; DESIGN CHOICE, log 164: how many it advertises is not given). -/
def Hw.portBusy (h : Hw) (port cls : Nat) : Bool := h.posts.any fun p => p.cls == cls && p.snd == port

/-- ATOMICOP (R25, R253, R256, R349): a naturally aligned FetchAdd (0), Swap (8) or CAS (9) of 4 or 8 bytes from a root port is performed
by the home engine of its address and completes to the device with the old value. It completes with Completer Abort where it is not
aligned or where an error of R256 ends it, and as an Unsupported Request where the address has no target or is no memory, or where the
port has no such operation. -/
def execAtomicop (port : Nat) (rid : BitVec 16) (pa : Word) (size op : Nat) (operand compare : Word) (s : State) :
    Host.Outcome State Fault Refusal :=
  s.onHw fun _ h =>
    if 8 ≤ port ∨ h.portBusy port 2 ∨ h.ingressFull port rid false pa then h
    else if !(size = 4 ∨ size = 8) ∨ !(op = 0 ∨ op = 8 ∨ op = 9) then h.sendCpl port 1 false []
    else if pa.toNat % size ≠ 0 then h.sendCpl port 4 false []
    else if !h.portReaches pa then (h.portRefuse port pa).sendCpl port 1 false []
    else h.portRequest port rid pa (.far (farOp pa size (operand.setWidth 512) op (compare.setWidth 512) .wb))

end Sys2Proof.Machine
end

