-- ==== Sys2Proof/Machine/ExecPower.lean ====
section
/-! DEFINITION. Commands of the power controller (chapter 16): readings, clocks, limits, droop, power states, requests from software. -/

namespace Sys2Proof.Machine

/-! ### Readings (R420, R421, R499, R501) -/

/-- The raise of a rail's chamber may glide once the rail reports its set-point (R424 steps 3 and 4). -/
def Hw.railReached (h : Hw) (r : Nat) : Hw :=
  let h1 := h.updRail r fun y => { y with want := none }
  (List.range 6).foldl (fun (h : Hw) i => h.updChamber (6 * r + i) fun x =>
    match x.change with
    | some y => { x with change := some { y with gliding := true } }
    | none => x) h1

/-- A transaction with a core rail fails; the fourth in a row degrades the rail (R420). -/
def Hw.railFail (h : Hw) (r : Nat) : Hw :=
  let n := (h.rail r).fails + 1
  if n < 4 then h.updRail r fun y => { y with fails := n } else (h.updRail r fun y => { y with fails := 0 }).degrade r

/-- CORE_RAIL_READ (R420): a reading of core rail r: `ok` for an acknowledged frame with a good CRC, mV, tenths of an ampere, and whether
AVSBus status shows the commanded set-point reached. -/
def execCoreRailRead (r : Nat) (ok : Bool) (mv da : Nat) (reached : Bool) (s : State) : Host.Outcome State Fault Refusal :=
  s.onHw fun _ h =>
    if 12 ≤ r then h
    else if !ok then h.railFail r
    else
      let h1 := ((h.updRail r fun y => { y with fails := 0 }).setRegF (railReg r) 47 32 mv).setRegF (railReg r) 31 16 da
      if (h.rail r).want.isNone then h1 else if reached then h1.railReached r else h1.degrade r

/-- The set-point in mV of PMBus rail r, 16 to 35 in the order of R418. -/
def pmbusMv (r : Nat) : Nat :=
  if r < 22 then 800 else if r < 24 then 750 else if r < 26 then 1200 else if r < 30 then 1100 else if r < 35 then 750 else 1800

/-- A rail that is kept on in Deep Sump (R418). -/
def pmbusKept (r : Nat) : Bool := decide (26 ≤ r ∧ r < 30) || decide (34 ≤ r)

/-- PMBUS_RAIL_READ (R420): a reading of another rail; `good` is its POWER_GOOD. In Deep Sump the board may have switched it off (R430). -/
def execPmbusRailRead (r : Nat) (ok : Bool) (mv : Nat) (good : Bool) (s : State) : Host.Outcome State Fault Refusal :=
  s.onHw fun _ h =>
    let v := pmbusMv r
    let rec60 := fun (h : Hw) (n : Nat) => h.incident 0x60 r 0 (w64 n) (blockId 11 (r - 16)) false
    if r < 16 ∨ 36 ≤ r then h
    else if !ok then
      let n := (h.rail r).fails + 1
      if n < 4 then h.updRail r fun y => { y with fails := n } else rec60 (h.updRail r fun y => { y with fails := 0 }) (h.rail r).mv
    else
      let h1 := h.updRail r fun y => { y with fails := 0, mv := mv }
      if h.pkg.state = .deep ∧ !pmbusKept r then h1
      else
        let h2 := if mv * 20 < v * 19 ∨ v * 21 < mv * 20 then rec60 h1 mv else h1
        if mv * 10 < v * 9 ∨ !good then h2.powerFail else h2

/-- PMB_ALERT (R499): PMB_ALERT# starts a status read of every rail; the readings come as commands of their own. -/
def execPmbAlert (s : State) : Host.Outcome State Fault Refusal := s.onHw fun _ h => h

/-! ### Clocks (R423 to R427) -/

/-- PWR_FREQ (R424, R445): a write of PWR.FREQ_c. -/
def execPwrFreq (c : Nat) (lvl : Level) (req : Nat) (s : State) : Host.Outcome State Fault Refusal :=
  s.onHw fun m h => if c < numChambers then h.regStore m ⟨lvl, decide (lvl = .m), 0⟩ false 0 (freqReg c) 8 (req % 2 ^ 16) else h

/-- AVS_SETPOINT_POLL (R420, R424 step 3): the status of a rail that was given a set-point. -/
def execAvsSetpointPoll (r : Nat) (reached ok : Bool) (s : State) : Host.Outcome State Fault Refusal :=
  s.onHw fun _ h =>
    if 12 ≤ r ∨ (h.rail r).want.isNone then h
    else if !ok then h.railFail r
    else
      let h1 := h.updRail r fun y => { y with fails := 0 }
      if reached then h1.railReached r else h1

/-- FREQ_GLIDE_COMPLETE (R424 steps 6 and 7): the new clock is granted, and the rail takes its next change. -/
def execFreqGlideComplete (c : Nat) (s : State) : Host.Outcome State Fault Refusal :=
  s.onHw fun _ h =>
    match (h.chamber c).change with
    | some y =>
      if y.gliding then
        let h1 := h.updChamber c fun x => { x with freq := y.target, change := none }
        let h2 := (h1.setRegF (freqReg c) 47 32 y.target).setRegF (freqReg c) 63 63 0
        (h2.railFollow (railOf c)).freqKick (railOf c)
      else h
    | none => h

/-- PWR_LIMIT (R4): a write of WATTS from M. -/
def execPwrLimit (lvl : Level) (watts : Nat) (s : State) : Host.Outcome State Fault Refusal :=
  s.onHw fun _ h => if lvl = .m then (h.limitReq watts).1 else h

/-- PACKAGE_LIMITER_TICK (R426): the power summed over all rails joins the average over TAU ms, ten samples a ms; the ceiling moves by
25 MHz. -/
def execPackageLimiterTick (watts : Nat) (s : State) : Host.Outcome State Fault Refusal :=
  s.onHw fun _ h =>
    let keep := 10 * h.regF (pwrReg 0) 31 24
    let xs := (watts :: h.limiter).take keep
    let avg := xs.foldl (· + ·) 0 / xs.length
    let lim := h.regF (pwrReg 0) 15 0
    let sum := xs.foldl (· + ·) 0
    let c := if lim * xs.length < sum then max 400 (h.pkgCeil - 25)
      else if sum * 100 < 98 * lim * xs.length then min h.binMax (h.pkgCeil + 25) else h.pkgCeil
    let h1 := { h with limiter := xs, pkgCeil := c }
    let h2 := (h1.setRegF (pwrReg 8) 63 48 (min avg 65535)).setRegF (pwrReg 8) 47 32 c
    (if lim * xs.length < sum ∧ c = 400 then h2.event (pwrReg 0x20) 4 else h2).freqKickAll

/-- Distance of two chambers of a die over the mesh. -/
def chamberDist (a b : Nat) : Nat :=
  let d := fun x y : Nat => max x y - min x y
  d (stopX (chamberStop a)) (stopX (chamberStop b)) + d (stopY (chamberStop a)) (stopY (chamberStop b))

/-- Sensors are numbered 0 to 71 for the chambers, 72 + 4d + i for the mesh and the controllers of compute die d, 88 + 2e + i for I/O die e
(R473): the die of one, I/O dies being 4 and 5. -/
def sensorDie (n : Nat) : Nat := if n < 72 then dieOf n else if n < 88 then (n - 72) / 4 else 4 + (n - 88) / 2

def numSensors : Nat := 92

def Hw.goodSensors (h : Hw) : List Nat := (List.range numSensors).filter fun x => !sget false x h.badSensor

/-- The reading a chamber's block uses (R473): its own, or, where its sensor is marked bad, that of the nearest good sensor of the die plus 5
°C (other chambers first: the places of the other sensors are not given), or the highest of the other dies plus 10 °C. None when no sensor
is good. -/
def Hw.tempOf (h : Hw) (c temp : Nat) : Option Nat :=
  if !sget false c h.badSensor then some temp
  else
    let good := h.goodSensors
    match good.filter fun x => sensorDie x == sensorDie c with
    | x :: xs =>
      let n := xs.foldl (fun a b => if decide (b < 72) && decide (chamberDist c b < chamberDist c a) then b else a) x
      some (sget 0 n h.temps + 5)
    | [] => match good with
      | [] => none
      | _ => some (good.foldl (fun a b => max a (sget 0 b h.temps)) 0 + 10)

/-- The trip action (R501). -/
def Hw.thermTrip (h : Hw) : Hw := let h1 := h.powerFail; { h1 with pins := { h1.pins with thermtrip := true } }

/-- THERMAL_READ (R427, R473, R501): a reading in °C of sensor c; a second one in a row of 110 °C trips. A chamber's reading moves its
ceiling, which has a floor of 400 MHz (DESIGN CHOICE, log 54). -/
def execThermalRead (c temp : Nat) (s : State) : Host.Outcome State Fault Refusal :=
  s.onHw fun _ h =>
    if numSensors ≤ c then h
    else match h.tempOf c temp with
      | none => h.thermTrip
      | some v =>
        let h1 := { h with
          temps := if sget false c h.badSensor then h.temps else sset c temp h.temps
          tooHot := if 110 ≤ v then supd 0 c (· + 1) h.tooHot else sdel c h.tooHot }
        let h2 := if numChambers ≤ c then h1
          else ({ h1 with hottest := supd 0 (dieOf c) (max · v) h1.hottest }).updChamber c fun x =>
            { x with ceiling := if 100 < v then max 400 (x.ceiling - 100) else if v < 100 then min h.binMax (x.ceiling + 25)
                                else x.ceiling }
        if 2 ≤ sget 0 c h2.tooHot then h2.thermTrip else if numChambers ≤ c then h2 else h2.freqKick (railOf c)

/-! ### Droop (R428, R429) -/

/-- The detectors of a chamber act: some detector is enabled (R473). -/
def Hw.droops (h : Hw) (c : Nat) : Bool := decide (c < numChambers) && (h.chamber c).detectOff != 15

def Hw.droopCount (h : Hw) (c hi lo : Nat) : Hw :=
  let a := pwrReg (0x1000 + 8 * c)
  h.setRegF a hi lo (min (h.regF a hi lo + 1) (2 ^ 32 - 1))

/-- DROOP_LEVEL1 (R428, R429). -/
def execDroopLevel1 (c : Nat) (s : State) : Host.Outcome State Fault Refusal :=
  s.onHw fun _ h =>
    if h.droops c ∧ (h.chamber c).droop = 0 then (h.updChamber c fun x => { x with droop := 1 }).droopCount c 31 0 else h

/-- DROOP_LEVEL2 (R428, R429, R374). -/
def execDroopLevel2 (c : Nat) (s : State) : Host.Outcome State Fault Refusal :=
  s.onHw fun _ h =>
    if h.droops c ∧ (h.chamber c).droop < 2 then
      (((h.updChamber c fun x => { x with droop := 2 }).droopCount c 63 32).event (pwrReg 0x20) 5).event (chamberReg c 0x1000) 4
    else h

/-- DROOP_RECOVERY (R428): level 1 applies. -/
def execDroopRecovery (c : Nat) (s : State) : Host.Outcome State Fault Refusal :=
  s.onHw fun _ h => if (h.chamber c).droop = 2 then h.updChamber c fun x => { x with droop := 1 } else h

/-- DROOP_LEVEL1_END (R428). -/
def execDroopLevel1End (c : Nat) (s : State) : Host.Outcome State Fault Refusal :=
  s.onHw fun _ h => if (h.chamber c).droop = 1 then h.updChamber c fun x => { x with droop := 0 } else h

/-! ### Entering power states (R430 to R439) -/

/-- Prepare begins (R436, R438); patrol's slices end early (R475). -/
def Hw.prepare (m : List Host.Cell) (h : Hw) (st : PState) : Hw :=
  (List.range 6).foldl (fun (h : Hw) b => h.patrolEnd m b)
    { h with pkg := { h.pkg with target := some st, step := 1, ready := [], acks := [], refused := false } }

/-- An entry of a core, chamber or die begins; patrol's slices in it end early (R475). -/
def Hw.entryStart (m : List Host.Cell) (h : Hw) (scope n : Nat) (st : PState) : Hw :=
  let h1 := match scope with
    | 0 => h.patrolLeave m (n / 4) (some n)
    | 1 => h.patrolLeave m n none
    | _ => h.patrolEnd m n
  { h1 with trans := sset (scopeKey scope n) ⟨st, 0, 0, false⟩ h1.trans }

/-- POWER_STATE_ENTRY (R434, R435): the choice for a scope (0 core, 1 chamber, 2 die, any other the package) is made again: a deeper state
starts its entry; the package enters Drip at once and deeper states by prepare and commit. -/
def execPowerStateEntry (scope n : Nat) (s : State) : Host.Outcome State Fault Refusal :=
  s.onHw fun m h =>
    if scope < 3 then
      let key := scopeKey scope n
      let parked := match scope with
        | 0 => (h.chamber (n / 4)).park.isSome
        | 1 => (h.chamber n).park.isSome
        | _ => false
      let st := h.deepest scope n
      if scopeCount scope ≤ n ∨ parked = true ∨ (sfind key h.trans).isSome ∨ st.num ≤ (h.scopeState scope n).num then h
      else h.entryStart m scope n st
    else
      let p := h.pkg
      let st := h.deepest 3 0
      if p.stuck ∨ p.target.isSome ∨ p.wake.isSome ∨ st.num ≤ p.state.num then h
      else if st = .drip then h.setScope 3 0 .drip
      else h.prepare m st

/-- POWER_STATE_ENTRY_COMPLETE (R430, R431, R435): a core, chamber or die is in its state; a wake event that came meanwhile starts its exit
from there. -/
def execPowerStateEntryComplete (scope n : Nat) (s : State) : Host.Outcome State Fault Refusal :=
  s.onAll fun m h =>
    match sfind (scopeKey scope n) h.trans with
    | none => (m, h)
    | some t =>
      if t.step ≠ 0 ∨ 3 ≤ scope ∨ !h.scopeQuiet m scope n t.target then (m, h)
      else
        let p := enterScope scope n t.target (m, { h with trans := sdel (scopeKey scope n) h.trans })
        (p.1, if t.woken then p.2.startExit scope n .run else p.2)

/-- PREPARE_ANSWER (R436, R438, R439): a participant answers 0 READY or 1 REFUSE; any other answer withdraws its READY. -/
def execPrepareAnswer (participant answer : Nat) (s : State) : Host.Outcome State Fault Refusal :=
  s.onHw fun _ h =>
    match h.pkg.target with
    | none => h
    | some st =>
      if numParticipants ≤ participant then h
      else if 2 ≤ h.pkg.step then
        (if answer = 0 ∨ answer = 1 then h
          else h.pkgExit 6 (partBlock participant) (if 160 ≤ participant ∧ participant < 178 then participant - 160 else 0))
      else if answer ≠ 0 ∨ h.portRefuses participant st then h.refuseAttempt
      else if !h.pmeDone participant st ∨ h.pkg.ready.contains participant then h
      else
        let ready := participant :: h.pkg.ready
        { h with pkg := { h.pkg with ready := ready, step := if ready.length = numParticipants then 2 else 1 } }

/-- PREPARE_TIMEOUT (R438): a missing answer counts as REFUSE. -/
def execPrepareTimeout (s : State) : Host.Outcome State Fault Refusal :=
  s.onHw fun _ h => if h.pkg.target.isSome ∧ h.pkg.step = 1 then h.refuseAttempt else h

/-- PREPARE_RETRY (R438): the next attempt, 1 ms after a refusal. -/
def execPrepareRetry (s : State) : Host.Outcome State Fault Refusal :=
  s.onHw fun m h =>
    let p := h.pkg
    let st := h.deepest 3 0
    if !p.refused ∨ p.stuck ∨ p.target.isSome ∨ p.wake.isSome ∨ st.num ≤ max p.state.num 1 then h else h.prepare m st

/-- PME_TO_ACK (R436): link j of root port k acknowledges PME_Turn_Off. -/
def execPmeToAck (port j : Nat) (s : State) : Host.Outcome State Fault Refusal :=
  s.onHw fun _ h =>
    if h.pkg.target = some .deep ∧ h.pkg.step = 1 ∧ h.linkUp port j ∧ !h.pkg.acks.contains (port, j) then
      { h with pkg := { h.pkg with acks := (port, j) :: h.pkg.acks } }
    else h

/-- The directory caches are written to memory (R232). -/
def Hw.flushDirs (h : Hw) : Hw :=
  h.slices.foldl (fun (h : Hw) p => p.2.dir.foldl (fun (h : Hw) e => { h with dirMem := sset e.2.line e.2.summary h.dirMem }) h) h

/-- Entries of CXL-window lines go only once every node in their vectors has been invalidated (R233). None when no such node is left; else the
state with the snoops out. -/
def Hw.flushCxl (h : Hw) : Option Hw :=
  (h.slices.flatMap fun p => (p.2.dir.filter fun e => cxlLine e.2.line).map fun e => e.2.line).foldl (fun (o : Option Hw) l =>
    ((o.getD h).recall l true).or o) none

/-- The Vat loses power (R430): its arrays are empty when it comes back; the router's remap cache is emptied too (R431). -/
def Hw.vatOff (h : Hw) : Hw :=
  { h with slices := h.slices.map fun (p : Nat × Slice) =>
             (p.1, { p.2 with ways := [], sf := [], sfPtr := [], dir := [], dirPtr := [], ttlb := [], tokens := [] })
           router := { h.router with cache := [] } }

/-- What a stop step does (R438): C1 writes the Vat back for Sump and Deep Sump; C4 commands the core rails to 0.60 V and asserts SLP_DEEP#
for Deep Sump, and the state is reached. -/
def commitStep (st : PState) (p : List Host.Cell × Hw) : List Host.Cell × Hw :=
  let next := fun (h : Hw) => { h with pkg := { h.pkg with step := h.pkg.step + 1 } }
  if p.2.pkg.step = 2 then
    if st = .still then (p.1, next p.2)
    else
      let q := flushVat p
      if q.2.vatDirty then q
      else match q.2.flushCxl with
      | some h => (q.1, h)
      | none =>
        let h1 := q.2.flushDirs
        (q.1, next (if st = .deep then
          { h1 with mcs := h1.mcs.map fun (x : Nat × Mc) => (x.1, { x.2 with pool := x.2.pool.map fun (e : Nat × Nat × Bool) => (e.1, e.2.1, false) }) }
          else h1))
  else if p.2.pkg.step < 5 then (p.1, next p.2)
  else
    let h1 := if st = .still then p.2 else
      ((List.range 12).foldl (fun (h : Hw) r => h.setRegF (railReg r) 63 48 600) p.2).vatOff
    let h2 := if st = .deep then { h1 with pins := { h1.pins with slpDeep := true } } else h1
    (p.1, ({ h2 with pkg := { h2.pkg with target := none, step := 0, ready := [], acks := [] } }).setScope 3 0 st)

/-- COMMIT_STEP_DONE (R438). -/
def execCommitStepDone (s : State) : Host.Outcome State Fault Refusal :=
  s.onAll fun m h =>
    match h.pkg.target with
    | some st => if 2 ≤ h.pkg.step ∧ h.pkg.wake.isNone then commitStep st (m, h) else (m, h)
    | none => (m, h)

/-- COMMIT_STEP_TIMEOUT (R439): the entry aborts; the event arises in the wake logic. -/
def execCommitStepTimeout (s : State) : Host.Outcome State Fault Refusal :=
  s.onHw fun _ h => if h.pkg.target.isSome ∧ 2 ≤ h.pkg.step then h.pkgExit 6 (blockId 9 0) 0 else h

/-! ### Wake (R437, R441 to R443) -/

/-- WAKE_EVENT (R435, R441): a wake event for a scope, with the CAUSE, BLOCK and SOURCE of R443. After a change of tolerance a core, chamber or
die goes to the deepest state now permitted. -/
def execWakeEvent (scope n cause block source : Nat) (s : State) : Host.Outcome State Fault Refusal :=
  s.onHw fun _ h =>
    if scope < 3 then
      (if scopeCount scope ≤ n then h
        else
          let st := h.deepest scope n
          if cause = 8 ∧ (h.scopeState scope n).num ≤ st.num then h
          else h.scopeWake scope n (if cause = 8 then st else .run))
    else if 1 ≤ cause ∧ cause ≤ 8 then h.pkgExit cause block source else h

/-- WAKE_STEP_READY (R442): the ready signal of the step under way. -/
def execWakeStepReady (scope n : Nat) (s : State) : Host.Outcome State Fault Refusal :=
  s.onHw fun _ h =>
    if scope < 3 then
      match sfind (scopeKey scope n) h.trans with
      | none => h
      | some t =>
        if t.step = 0 ∨ 9 ≤ t.tries then h
        else match (wakeSteps scope (h.scopeState scope n)).find? fun k => t.step < k with
          | some k => { h with trans := sset (scopeKey scope n) { t with step := k, tries := 0 } h.trans }
          | none => h.endExit scope n t.target
    else if h.pkg.wake.isNone ∨ h.pkg.stuck then h
    else if h.pkg.wstep < 4 then h.pkgStep (h.pkg.wstep + 1)
    else h.pkgDone

/-- A last-wake record of a step timeout, made now (R442, R443). -/
def Hw.wakeTimeout (h : Hw) (scope n step : Nat) : Hw :=
  let block := match scope with
    | 0 => blockId 0 (n / 4)
    | 1 => blockId 0 n
    | _ => blockId 9 0
  (h.lastWake ⟨7, block, 0, (h.scopeState scope n).num, step, h.time, 0⟩)

/-- A step that may not be tried again: the package, or the scope, stays stopped, and the board management controller is notified
(R442). -/
def Hw.wakeDead (h : Hw) (scope n step : Nat) : Hw :=
  let h1 := (h.wakeTimeout scope n step).notifyBmc 2
  if scope < 3 then { h1 with trans := supd ⟨.run, step, 0, false⟩ (scopeKey scope n) (fun t => { t with tries := 9 }) h1.trans }
  else { h1 with pkg := { h1.pkg with stuck := true } }

/-- The DPLL of a chamber fails to relock: a fatal chamber error is recorded, the chamber stays stopped (R442, R487), and CHAMBER.EVT.DPLL
is set (R374). -/
def Hw.chamberDead (h : Hw) (c : Nat) : Hw :=
  let h1 := h.updChamber c fun x => { x with stopped := true }
  (h1.placeRecord (bankOf (blockId 0 c)) ⟨w64 (0x13 * 2 ^ 56 + (2 * 2 ^ 12 + c) * 2 ^ 32), onesW, 0, h.time⟩ (blockId 0 c)
    (h.chamberSecure c) 4).event (chamberReg c 0x1000) 3

/-- WAKE_STEP_TIMEOUT (R442): of the step under way; in step 3 of the package n is the controller that did not answer. -/
def execWakeStepTimeout (scope n : Nat) (s : State) : Host.Outcome State Fault Refusal :=
  s.onHw fun _ h =>
    let go := fun (step tries : Nat) (again : Hw) =>
      match step with
      | 1 => if tries = 0 then again else h.wakeDead scope n 1
      | 2 => if tries < 2 then again
             else if scope = 1 then (let h1 := { h with trans := sdel (scopeKey 1 n) h.trans }; h1.chamberDead n)
             else h.wakeDead scope n 2
      | 3 => if n < 16 then h.failChannel n else h
      | 4 => (h.wakeTimeout scope n 4).warmTrigger 8 0 |>.notifyBmc 2
      | _ => h
    if scope < 3 then
      match sfind (scopeKey scope n) h.trans with
      | none => h
      | some t => if 9 ≤ t.tries then h else
          go t.step t.tries { h with trans := sset (scopeKey scope n) { t with tries := t.tries + 1 } h.trans }
    else if h.pkg.wake.isNone ∨ h.pkg.stuck then h
    else go h.pkg.wstep h.pkg.tries { h with pkg := { h.pkg with tries := h.pkg.tries + 1 } }

/-! ### Requests from software (R444) -/

/-- A write of PWR.BLKREQ with GO, from H or M. -/
def Hw.blkWrite (h : Hw) (lvl : Level) (block action : Nat) : Hw :=
  if Level.num lvl < 2 then h else ((h.setRegF blkReg 57 56 action).setRegF blkReg 15 0 block).blkGo lvl

/-- BLKREQ_UNPARK (R444). -/
def execBlkreqUnpark (lvl : Level) (n : Nat) (s : State) : Host.Outcome State Fault Refusal :=
  s.onHw fun _ h => h.blkWrite lvl (blockId 0 (n % 4096)) 0

/-- BLKREQ_PARK_DRIP (R444). -/
def execBlkreqParkDrip (lvl : Level) (n : Nat) (s : State) : Host.Outcome State Fault Refusal :=
  s.onHw fun _ h => h.blkWrite lvl (blockId 0 (n % 4096)) 1

/-- BLKREQ_PARK_STILL (R444). -/
def execBlkreqParkStill (lvl : Level) (n : Nat) (s : State) : Host.Outcome State Fault Refusal :=
  s.onHw fun _ h => h.blkWrite lvl (blockId 0 (n % 4096)) 2

/-- BLKREQ_PARK_SUMP (R444). -/
def execBlkreqParkSump (lvl : Level) (n : Nat) (s : State) : Host.Outcome State Fault Refusal :=
  s.onHw fun _ h => h.blkWrite lvl (blockId 0 (n % 4096)) 3

/-- BLKREQ_ENGINE_RELEASE (R444). -/
def execBlkreqEngineRelease (lvl : Level) (n : Nat) (s : State) : Host.Outcome State Fault Refusal :=
  s.onHw fun _ h => h.blkWrite lvl (blockId 1 (n % 4096)) 0

/-- BLKREQ_ENGINE_GATE (R444): ACTION 1 or 2. -/
def execBlkreqEngineGate (lvl : Level) (n action : Nat) (s : State) : Host.Outcome State Fault Refusal :=
  s.onHw fun _ h => if action = 1 ∨ action = 2 then h.blkWrite lvl (blockId 1 (n % 4096)) action else h

/-- BLKREQ_SLOT_POWER_ON (R444). -/
def execBlkreqSlotPowerOn (lvl : Level) (n : Nat) (s : State) : Host.Outcome State Fault Refusal :=
  s.onHw fun _ h => h.blkWrite lvl (blockId 4 (n % 4096)) 0

/-- BLKREQ_SLOT_POWER_OFF (R444). -/
def execBlkreqSlotPowerOff (lvl : Level) (n : Nat) (s : State) : Host.Outcome State Fault Refusal :=
  s.onHw fun _ h => h.blkWrite lvl (blockId 4 (n % 4096)) 3

/-- The block reaches the state that the request asked for, when nothing holds it (R444). -/
def blkReach (b a : Nat) (p : List Host.Cell × Hw) : Option (List Host.Cell × Hw) :=
  let n := b % 4096
  let h := p.2
  let free := (sfind (scopeKey 1 n) h.trans).isNone
  let park := fun (st : PState) =>
    if !free || !h.scopeQuiet p.1 1 n st then none
    else if st.num ≤ (h.chamber n).pstate.num then some p else some (enterScope 1 n st (p.1, h.patrolLeave p.1 n none))
  match b / 4096, a with
  | 0, 0 => if free && (h.chamber n).pstate == .run then some p else none
  | 0, 1 => park .drip
  | 0, 2 => park .still
  | 0, _ => park .sump
  | 1, 0 => some p
  | 1, _ => if (h.slice n).ctxs.isEmpty then some p else none
  | _, 0 => if (List.range 16).any fun j => (h.link n j).training then none else some p
  | _, _ => some (p.1, h.slotPower n false)

/-- BLKREQ_DONE (R444): ANSWER DONE. -/
def execBlkreqDone (s : State) : Host.Outcome State Fault Refusal :=
  s.onAll fun m h =>
    match h.blkreq with
    | none => (m, h)
    | some q =>
      match blkReach q.block q.action (m, h) with
      | none => (m, h)
      | some p => (p.1, (({ p.2 with blkreq := none }).setRegF blkReg 62 62 0).setRegF blkReg 61 60 0)

/-- PWR_PKGCTL (R444, R445): a write of PWR.PKGCTL. -/
def execPwrPkgctl (lvl : Level) (value : Word) (s : State) : Host.Outcome State Fault Refusal :=
  s.onHw fun m h => h.regStore m ⟨lvl, decide (lvl = .m), 0⟩ false 0 (pwrReg 0x900) 8 value.toNat

/-- POWER_FAILURE (R420, R447, R493): a rail fails, or, from 36 up, PWROK falls, which also ends THERMTRIP# (R501). -/
def execPowerFailure (rail : Nat) (s : State) : Host.Outcome State Fault Refusal :=
  s.onAon fun _ h =>
    let h1 := if 36 ≤ rail then { h with pins := { h.pins with pwrok := false, thermtrip := false } } else h
    h1.powerFail

end Sys2Proof.Machine
end

