-- ==== Sys2Proof/Machine/ExecReset.lean ====
section
/-! DEFINITION. Resets and the boot (R446 to R452, R471): cold and warm triggers, the reference clock, the survey on demand, and the
Keeper mailbox. -/

namespace Sys2Proof.Machine

/-! ### Cold reset -/

/-- The limits and clocks of the bin after a reset (R3, R445). -/
def Hw.binInit (h : Hw) : Hw :=
  if h.bin = 0 then h
  else (List.range numChambers).foldl (fun (h : Hw) c =>
    ((h.setRegF (freqReg c) 47 32 h.binBase).setRegF (freqReg c) 15 0 h.binBase).updChamber c fun x =>
      { x with freq := h.binBase, ceiling := h.binMax }) ({ h with pkgCeil := h.binMax }.setRegF (pwrReg 0) 15 0 h.binTop)

/-- PERST# of the eight ports is asserted. -/
def allPerst : SMap Bool := (List.range 8).map fun k => (k, true)

/-- The cause registers after a cold trigger (R446, R447, R471): causes 2 and 9 were written when they arose; cause 0 has lost what was
there, and PENDING with it. LEVEL takes the pending level. -/
def Hw.coldCause (h : Hw) (cause : Nat) (old : Hw) : Hw :=
  let pend := if cause = 0 then 0 else old.regF (kprReg 0x20) 3 2
  let h1 := h.setReg (kprReg 0x20) (w64 (pend * 4 + pend))
  if cause = 0 then h1
  else
    let h2 := (h1.setReg (kprReg 0) (old.reg (kprReg 0))).setReg (kprReg 8) (old.reg (kprReg 8))
    if cause = 2 ∨ cause = 9 then h2 else h2.causeWrite cause 0 0 false

/-- Everything but what a cold reset leaves (R448, R464, R478): fuses, flash and the DIMMs' repair logs, the pins, the test port, and the
sensors' surroundings. -/
def Hw.coldClear (h : Hw) (cause : Nat) : Hw :=
  let k := h.keeper
  let h0 : Hw := { Hw.reset with
    mcs := h.mcs.map fun (p : Nat × Mc) => (p.1, { Mc.reset with repairLog := p.2.repairLog })
    repairs := h.repairs.map fun (p : Nat × Repairs) => (p.1, { Repairs.reset with fuses := p.2.fuses, spoiled := p.2.spoiled })
    keeper := { Keeper.reset with
      fuses := k.fuses, flash := k.flash, flashBad := k.flashBad, fuseBad := k.fuseBad, persist := k.persist, entries := k.entries, poolLog := k.poolLog }
    tap := if cause = 0 then Tap.reset else h.tap
    pins := { h.pins with slpDeep := false, perst := allPerst }
    bin := h.bin
    temps := h.temps
    fresh := h.fresh }
  ((h0.coldCause cause h).setReg (kprReg 0x408) (k.persist.getD 0)).binInit

/-- Whether a cold trigger stands (R446). -/
def Hw.coldOk (h : Hw) (cause : Nat) : Bool :=
  match cause with
  | 0 | 1 => true
  | 2 => h.off && h.bootWait.isNone && h.regF (kprReg 0) 63 56 == 2
  | 3 => h.keeper.resetDue == some (0, 0)
  | 9 => h.off && h.bootWait.isNone && h.regF (kprReg 0) 63 56 == 9
  | _ => false

/-- COLD_RESET (R446 to R449): a cold trigger runs the boot as far as it goes. VDD_AON rises with COLDRST# and PWROK low (R492), and cause 1
is COLDRST# itself. Memory has lost its contents (log 1). -/
def execColdReset (cause : Nat) (boot : Boot) (s : State) : Host.Outcome State Fault Refusal :=
  s.onAonAll fun m h =>
    if !h.coldOk cause then (m, h)
    else
      let pins := if cause = 0 then { h.pins with coldrst := false, pwrok := false, thermtrip := false }
        else if cause = 1 then { h.pins with coldrst := false } else h.pins
      bootFrom1 cause boot ([], { h with pins := pins }.coldClear cause)

/-- PWROK_ASSERT (R448 step 3, R493, R501): PWROK rises; THERMTRIP# ended when it fell. -/
def execPwrokAssert (s : State) : Host.Outcome State Fault Refusal :=
  s.onAonAll fun m h =>
    let h1 := { h with pins := { h.pins with pwrok := true, thermtrip := false } }
    match h.bootWait with
    | some w => if w.step = 3 then bootFrom4 w.cause w.boot.refEdges w.boot (m, h1) else (m, h1)
    | none => (m, h1)

/-- COLDRST_RELEASE (R492): the device leaves step 1; EXTEST ends but at debug level 2 (R500). -/
def execColdrstRelease (s : State) : Host.Outcome State Fault Refusal :=
  s.onAonAll fun m h =>
    let h1 := { h with pins := { h.pins with coldrst := true }, tap := { h.tap with drives := h.tap.drives && h.regF (kprReg 0x20) 1 0 == 2 } }
    match h.bootWait with
    | some w => if w.step = 1 then bootFrom2 w.cause w.boot (m, h1) else (m, h1)
    | none => (m, h1)

/-- REFCLK_COUNT (R448 step 4, R451): a boot that waits for the clock goes on when the count passes; while the device runs, a count beyond
±300 ppm is only recorded. -/
def execRefclkCount (edges : Nat) (s : State) : Host.Outcome State Fault Refusal :=
  s.onAonAll fun m h =>
    match h.bootWait with
    | some w => if w.step = 4 then bootFrom4 w.cause edges w.boot (m, h) else (m, h)
    | none =>
      if h.off then (m, h)
      else
        let r := h.refCount edges
        let h1 := if r.1.reg (kprReg 0x18) = h.reg (kprReg 0x18) then r.1 else r.1.survGen
        (m, if r.2 then h1 else h1.incident 0x61 0 0 (h1.reg (kprReg 0x18)) (blockId 8 0) false)

/-- REFCLK_LOST (R446, R451): cause 9 is written and every clock made from the reference stops; the cold reset starts once the clock passes
its count. -/
def execRefclkLost (s : State) : Host.Outcome State Fault Refusal :=
  s.onHw fun _ h => { (h.causeWrite 9 0 0 false).setRegF (kprReg 0x18) 62 62 0 with off := true, wdFire := none }

/-! ### Warm reset (R279, R450, R478) -/

/-- A bit of a free value: whether work cut off by a reset was done (R279). -/
def Hw.freeBit (h : Hw) : Bool × Hw := ((Config.freeWord h.fresh).getLsbD 0, h.tick)

/-- Bytes of this node's memory are written by work that a reset cut off. -/
def endBytes (pa : Word) (bs : Bytes) (p : List Host.Cell × Hw) : List Host.Cell × Hw :=
  let o := pa.toNat % 64
  if p.2.localLine (lineNo pa) && inMemRange (lineLocal (lineNo pa)) then cohWrite (lineNo pa) (vput 0 o bs) (maskOf o bs.length) p else p

/-- The source fill of a unit that is out ends whole or not at all (R279): once a part of it is performed the others are too, or where a
part has failed it is given its bytes back. -/
def endFill (e c : Nat) (todo : List SReq) (u : ChUnit) (p : List Host.Cell × Hw) : List Host.Cell × Hw :=
  let mine := fun (i : Nat) => todo.find? fun r => match r.src with
    | .eng e' (.fill c' q j) => e' == e && c' == c && q == u.pos && j == i
    | _ => false
  let parts := u.reads.zipIdx
  let f := p.2.freeBit
  if !u.perf && u.reads.any fun r => r.err.isSome then
    parts.foldl (fun q r => if (mine r.2).isSome || r.1.err.isSome then q else endBytes r.1.pa (u.before r.2) q) (p.1, f.2)
  else if u.perf || f.1 || parts.any fun r => (mine r.2).isNone then
    parts.foldl (fun (q : List Host.Cell × Hw) (r : ChRead × Nat) => match (mine r.2).map SReq.kind with
      | some (ReqKind.write o) => endBytes o.pa (vbytes o.data 0 o.len) q
      | _ => q) (p.1, f.2)
  else (p.1, f.2)

/-- A unit of a context ends (R279): a destination unit whose data was there is written whole or not at all, a source unit of MOVE behind DONE
filled or not. -/
def endUnit (e c : Nat) (todo : List SReq) (x : ChCtx) (u : ChUnit) (p : List Host.Cell × Hw) : List Host.Cell × Hw :=
  let w := x.desc.words
  let f := p.2.freeBit
  if u.issued ∧ u.pos < x.done then endFill e c todo u p
  else if u.issued ∨ !f.1 ∨ (u.pos < x.done ∧ x.noFill) then (p.1, f.2)
  else if u.pos < x.done then
    u.reads.foldl (fun q r => endBytes r.pa (patternAt (dValue w) r.va.toNat r.len) q) (p.1, f.2)
  else match u.data with
    | some bs => if dByDst w then endBytes u.dpa bs (p.1, f.2) else (p.1, f.2)
    | none => (p.1, f.2)

/-- A write or a far atomic on its way to its slice, or not yet performed there, is performed whole or not at all; a completion record is not
written (R279). Source fills end with their unit. -/
def endReq (q : SReq) (p : List Host.Cell × Hw) : List Host.Cell × Hw :=
  let f := p.2.freeBit
  let m := p.1
  let h := f.2
  let own : Bool := match q.src with | .eng _ (.fill _ _ _) | .eng _ (.record _) => true | _ => false
  if own ∨ !f.1 ∨ !h.localLine q.line ∨ !h.judge q.acc (lineLocal q.line) q.need then (m, h)
  else match q.kind with
    | .write o => endBytes o.pa (vbytes o.data 0 o.len) (m, h)
    | .far o => if h.poisoned q.line then (m, h) else cohWrite q.line (farNew o (lineVal m h q.line)).1 (BitVec.allOnes 64) (m, h)
    | _ => (m, h)

/-- The requests that slices have not performed: at their senders, in the mesh, in an intake, in a transaction. -/
def Hw.openReqs (h : Hw) : List SReq :=
  let req := fun (p : Payload) => match p with | .req _ r => some r | _ => none
  h.posts.filterMap (fun p => req p.payload) ++ h.flits.filterMap (fun f => req f.payload)
    ++ h.slices.flatMap fun (s : Nat × Slice) => s.2.intake ++ (s.2.txns.filter fun x => !x.wr && x.err == 0).map (·.req)

/-- A thread's store buffer: some of its entries, the oldest first, are performed (log 57). -/
def endStores (t : Nat) (p : List Host.Cell × Hw) : List Host.Cell × Hw :=
  let sb := (p.2.thread t).b.sb
  let n := (Config.freeWord p.2.fresh).toNat % (sb.length + 1)
  (sb.take n).foldl (fun (q : List Host.Cell × Hw) e =>
    match e.kind with
    | .cmo _ _ _ _ => q
    | _ => if q.2.localLine e.line && inMemRange (lineLocal e.line) && !e.mtype.device then cohWrite e.line e.data e.mask q else q) (p.1, p.2.tick)

/-- Step 2 of R450: what was started ends. -/
def endWork (p : List Host.Cell × Hw) : List Host.Cell × Hw :=
  let a := p.2.threads.foldl (fun q (t : Nat × Thread) => endStores t.1 q) p
  let todo := p.2.openReqs
  let b := todo.foldl (fun q r => endReq r q) a
  p.2.slices.foldl (fun q (s : Nat × Slice) => s.2.ctxs.foldl (fun q (c : Nat × ChCtx) =>
    c.2.units.foldl (fun q u => endUnit s.1 c.1 todo c.2 u q) q) q) b

/-- Step 3 of R450: the newest value of every line of this node is written, but for lines that were lost. -/
def flushAll (flushed : Bool) (lost : List Nat) (p : List Host.Cell × Hw) : List Host.Cell × Hw :=
  let q := p.2.newest.foldl (fun (q : List Host.Cell × Hw) (x : Nat × Vec) =>
    if p.2.localLine x.1 && (flushed || !lost.contains x.1) then
      (memPut (lineLocal x.1) (vbytes x.2 0 64) q.1, q.2.setPoison x.1 (p.2.poisoned x.1))
    else q) p
  (q.1, { q.2 with newest := [], under := [] })

/-- A field that keeps its value over a warm reset (R9). -/
def RField.kept (f : RField) : Bool := f.acc == .rws || f.acc == .ros || f.acc == .w1cs

/-- What a register keeps over a warm reset: its kept fields, the others at their reset values; nothing where no field is kept. -/
def warmWord (a : Nat) (w : Word) : Option Word :=
  match regDefAt a with
  | none => none
  | some d =>
    if d.fields.any RField.kept then
      some (d.fields.foldl (fun (n : Word) f => if f.kept then Word.setFld n f.hi f.lo (Word.fld w f.hi f.lo) else n) d.resetVal)
    else none

/-- Registers that a warm reset leaves as they are beside RWS fields: the survey, DDR_TOP, the always-on records of Keeper, and the
pages of Churn instances, but for QUEUED (R279, R281, R450, R471). -/
def warmKept (a : Nat) : Bool :=
  match blockAt a with
  | some (.kpr, _, o) => o == 0 || o == 8 || o == 0x18 || o == 0x20 || o == 0x408
  | some (.mc, _, o) => o == 0
  | some (.pool, _, o) => o == 8
  | some (.regchk, _, o) => o == 0x10008
  | some (.vat, _, o) => decide (0x8000 ≤ o ∧ o < 0xC000)
  | _ => false

/-- QSTAT.QUEUED becomes 0, because the queue is emptied (R281). -/
def warmQueue (a : Nat) (w : Word) : Word :=
  match blockAt a with
  | some (.vat, _, o) => if 0x8000 ≤ o ∧ o % 0x800 = 8 then Word.setFld w 5 0 0 else w
  | _ => w

/-- A controller over a warm reset: training results, the remap table, the counters below LIFEACT and the history of errors (DESIGN CHOICE, log
107) stay; commands, trackers and copies go (R331, R333, R450). -/
def Mc.warm (x : Mc) : Mc :=
  { Mc.reset with
    acts := x.acts, failed := x.failed, hot := x.hot, usableFull := x.usableFull, remap := x.remap, repairLog := x.repairLog
    capacity := x.capacity, dimms := x.dimms, eyes := x.eyes, dimmTemps := x.dimmTemps, drfm := x.drfm, wprot := x.wprot, badHidden := x.badHidden
    retTimes := x.retTimes, uncTimes := x.uncTimes, corrs := x.corrs }

/-- Steps 4 and 5 of R450. -/
def Hw.warmClear (h : Hw) : Hw :=
  let k := h.keeper
  let h0 : Hw := { Hw.reset with
    regs := h.regs.filterMap fun (p : Nat × Word) => if warmKept p.1 then some (p.1, warmQueue p.1 p.2) else (warmWord p.1 p.2).map fun w => (p.1, w)
    mcs := h.mcs.map fun (p : Nat × Mc) => (p.1, p.2.warm)
    poison := h.poison
    gens := h.gens
    dirMem := h.dirMem
    repairs := h.repairs
    hottest := h.hottest
    badSensor := h.badSensor
    temps := h.temps
    tooHot := h.tooHot
    mirror := h.mirror
    mirrorAsked := h.mirrorAsked
    bin := h.bin
    keeper := { k with resps := [], resetDue := none, svn := [], meas := [], sessions := 0, doe := [], sent := [] }
    tap := h.tap
    pins := { h.pins with slpDeep := false, perst := allPerst }
    time := h.time
    fresh := h.fresh }
  let lv := h0.regF (kprReg 0x20) 3 2
  let h1 := (h.mcs.map (·.1)).foldl (fun (h : Hw) c => if 0 < (h.mc c).capacity then h.setSpares c else h) (h0.setRegF (kprReg 0x20) 1 0 lv)
  ((h1.keepRetired).fuseQueue).binInit

/-- Step 1 of R450: the cause of a watchdog or rescue reset was written already (R417); WARMCNT counts (R471). -/
def Hw.warmCause (h : Hw) (cause thread : Nat) (flushed : Bool) : Hw :=
  let n := min (h.warmCnt + 1) 65535
  (if cause = 6 ∨ cause = 7 then (h.setRegF (kprReg 0) 31 16 n).setRegF (kprReg 0) 55 55 (b2n flushed)
    else h.causeWrite cause thread n flushed).notifyBmc 0

/-- WARM_RESET (R447, R450): the warm reset that was triggered with this cause, and for cause 7 by this thread. `flushed` tells that every
dirty line was written within 20 ms; if not, `lost` are the lines that were not. -/
def execWarmReset (cause thread : Nat) (flushed : Bool) (boot : Boot) (lost : List Nat) (s : State) :
    Host.Outcome State Fault Refusal :=
  s.onAll fun m h =>
    if h.wdFire ≠ some (cause, thread) then (m, h)
    else
      let p := flushAll flushed lost (endWork (m, h.warmCause cause thread flushed))
      let h1 := (List.range 12).foldl (fun (h : Hw) r => h.setRegF (railReg r) 63 48 (h.railMv r)) p.2.flushDirs.warmClear
      bootImages boot (fun h => { h with off := false }) (p.1, h1)

/-! ### The Keeper mailbox (R448, R452, R459, R471) -/

/-- A mailbox register is written. -/
def Hw.kprWrite (m : List Host.Cell) (h : Hw) (o : Nat) (lvl : Level) (value : Word) : Hw :=
  h.regStore m ⟨lvl, decide (lvl = .m), 0⟩ false 0 (kprReg o) 8 value.toNat

/-- KPR_RELEASE (R448): GO releases a stopped thread at STARTPC. -/
def execKprRelease (lvl : Level) (value : Word) (s : State) : Host.Outcome State Fault Refusal :=
  s.onHw fun m h => h.kprWrite m 0x108 lvl value

/-- KPR_RSTREQ (R446, R471): GO requests a warm reset with cause 5. -/
def execKprRstreq (lvl : Level) (value : Word) (s : State) : Host.Outcome State Fault Refusal :=
  s.onHw fun m h => h.kprWrite m 0x110 lvl value

/-- KPR_SURVEY (R452): GO starts a survey on demand. -/
def execKprSurvey (lvl : Level) (value : Word) (s : State) : Host.Outcome State Fault Refusal :=
  s.onHw fun m h => h.kprWrite m 0x200 lvl value

/-- The margin of link n mod 16 of port n / 16, where it is up, as receiver margining finds it: a free value (R452; DESIGN CHOICE, log 180). -/
def Hw.remargin (h : Hw) (n : Nat) : Hw :=
  if h.linkUp (n / 16) (n % 16) then (h.setRegF (statReg (n / 16) (n % 16)) 23 16 ((Config.freeWord h.fresh).toNat % 256)).tick else h

/-- SURVEY_COMPLETE (R374, R451, R452): the survey ends with the margins of the up links; its other figures came as readings of their own. -/
def execSurveyComplete (s : State) : Host.Outcome State Fault Refusal :=
  s.onHw fun _ h =>
    if Word.bit (h.reg (kprReg 0x200)) 62 then
      (((forN 0 288 (fun n h => h.remargin n) h).setRegF (kprReg 0x200) 62 62 0).survGen).event (kprReg 0x120) 0
    else h

/-- KPR_MEASIDX (R459, R471): INDEX is written; GO extends it with MEASDATA. -/
def execKprMeasidx (lvl : Level) (value : Word) (s : State) : Host.Outcome State Fault Refusal :=
  s.onHw fun m h => h.kprWrite m 0x300 lvl value

end Sys2Proof.Machine
end

