-- ==== Sys2Proof/Machine/ExecBasette.lean ====
section
/-! DEFINITION. Keeper's management interface (R456, R458, R460 to R470), the end of a hand-over (R412), and the Lantern port (R500). -/

namespace Sys2Proof.Machine

/-! ### Frames (R461) -/

/-- CRC-32C of bytes (R267). -/
def crc32c (bs : Bytes) : BitVec 32 := crcBytes bs (BitVec.allOnes 32) ^^^ BitVec.allOnes 32

/-- Bytes 0 to 7 of a frame. -/
def frameHead (ver cmd len : Nat) (seq : BitVec 16) (flags status : Nat) : Bytes :=
  leBytes 1 ver ++ leBytes 1 cmd ++ leBytes 2 len ++ leBytes 2 seq.toNat ++ leBytes 1 flags ++ leBytes 1 status

def frameCrit (f : Frame) : Bool := f.flags.getLsbD 0

/-- What TAG covers. -/
def frameTagged (f : Frame) : Bytes := frameHead f.ver f.cmd f.len f.seq f.flags.toNat 0 ++ f.payload ++ leBytes 8 f.counter.toNat

/-- What the CRC covers. -/
def frameCovered (f : Frame) : Bytes :=
  if frameCrit f then frameTagged f ++ leBytes 16 f.tag.toNat else frameHead f.ver f.cmd f.len f.seq f.flags.toNat 0 ++ f.payload

/-- A field of the payload. -/
def payNat (f : Frame) (o n : Nat) : Nat := leNat ((f.payload.drop o).take n)

/-- The commands of R466: the number, and whether it is critical. -/
def basetteCmds : List (Nat × Bool) :=
  [(0x01, false), (0x02, false), (0x03, false), (0x04, false), (0x05, false), (0x06, false), (0x07, false), (0x10, true), (0x11, true),
   (0x12, true), (0x13, true), (0x14, true), (0x15, true)]

/-- K: the lowest-numbered key slot that is valid and not revoked (R461). -/
def Hw.basetteKey (h : Hw) : Option Bytes :=
  (List.range 4).findSome? fun k => if sget false k h.keeper.fuses.brevoked then none else sfind k h.keeper.fuses.bkey

def lastCtr : Nat := kprReg 0x408
def bootErr (h : Hw) : Nat := h.regF bootReg 63 56
def Hw.recovery (h : Hw) : Bool := decide (2 ≤ bootErr h ∧ bootErr h ≤ 5)

/-- The commands that Keeper serves (R470). -/
def Hw.served (h : Hw) (cmd : Nat) : Bool :=
  if bootErr h = 1 then cmd == 1
  else if h.recovery then cmd == 1 || cmd == 7 || cmd == 6 || cmd == 0x10
  else true

/-- A response is ready (R462). -/
def Hw.respond (h : Hw) (f : Frame) (crit : Bool) (status : Nat) (payload : Bytes) : Hw :=
  { h with keeper := { h.keeper with resps := h.keeper.resps ++ [⟨f.cmd, f.seq, crit, status, payload, f.counter⟩] } }

/-- A counter of KPR.BSTCNT advances, saturating. -/
def Hw.bstCount (h : Hw) (lo : Nat) : Hw := h.setRegF (kprReg 0x400) (lo + 15) lo (min (h.regF (kprReg 0x400) (lo + 15) lo + 1) 65535)

/-- A request is refused by R463: counted, and from row 4 on recorded (the classes of STATUS 3, 8 and 10 are DEDUCED, log 55). -/
def Hw.refuseFrame (h : Hw) (f : Frame) (status : Nat) : Hw :=
  let h1 := if status = 2 then h.bstCount 16
    else if status = 3 ∨ status = 4 ∨ status = 10 then h.bstCount 48
    else if status = 5 ∨ status = 8 then h.bstCount 32 else h
  let h2 := if status = 1 ∨ status = 2 then h1
    else h1.incident 0x55 (f.cmd % 256 + f.seq.toNat * 2 ^ 8 + status * 2 ^ 24) (if frameCrit f then f.counter else 0) 0 (blockId 8 0) false
  h2.respond f (frameCrit f && (status == 4 || status == 5 || status == 8)) status []

/-- The persistence rule (R464): a counter at or above PERSIST is accepted once a new record stands; a full sector of 256 entries is erased
first. None when the flash fails. -/
def Hw.persistCtr (h : Hw) (c : Word) : Option Hw :=
  let k := h.keeper
  if c.toNat < (k.persist.getD 0).toNat then some h
  else if k.flashBad then none
  else some { h with keeper := { k with persist := some (c + 65536), entries := if 256 ≤ k.entries then 1 else k.entries + 1 } }

/-- The checks of R463 in order; the state in which the command runs, or the STATUS of the first failure. `keySet` tells that the request is
a key set. -/
def Hw.checkFrame (h : Hw) (f : Frame) (keySet : Bool) : Except Nat Hw :=
  let cmd := basetteCmds.find? fun p => p.1 == f.cmd
  let key := h.basetteKey
  if f.crc ≠ crc32c (frameCovered f) then .error 2
  else if f.ver ≠ 1 ∨ 1024 < f.len ∨ f.payload.length ≠ f.len ∨ f.flags.toNat / 8 ≠ 0 then .error 2
  else match cmd with
    | none => .error 1
    | some (_, critical) =>
      if !h.served f.cmd then .error 1
      else if keySet ∧ key.isNone ∧ !frameCrit f then (if f.session then .ok h else .error 10)
      else if critical ∧ !frameCrit f then .error 3
      else if !frameCrit f then .ok h
      else match key with
        | none => .error 10
        | some k =>
          if f.tag ≠ Config.hmac128 k (frameTagged f) then .error 4
          else if f.counter.toNat ≤ (h.reg lastCtr).toNat then .error 5
          else match h.persistCtr f.counter with
            | none => .error 8
            | some h1 => .ok (h1.setReg lastCtr f.counter)

/-- Another request is running (R462). -/
def Hw.keeperBusy (h : Hw) : Bool := h.keeper.resetDue.isSome || (match h.hand with | some x => x.frame.isSome | none => false)

/-- A request frame arrives (R462, R463): it is checked, runs and is answered; `run` gives the STATUS and payload, or none when the answer
comes later. Keeper answers nothing before the boot has found its clock or failed (R448). -/
def Hw.serve (h : Hw) (f : Frame) (keySet : Bool) (run : Hw → Hw × Option (Nat × Bytes)) : Hw :=
  if h.bootWait.isSome ∧ bootErr h = 0 then h
  else if h.keeperBusy then h.respond f false 7 []
  else match h.checkFrame f keySet with
    | .error n => h.refuseFrame f n
    | .ok h1 =>
      let r := run h1
      let h2 := if (basetteCmds.find? fun p => p.1 == f.cmd).any (·.2) then r.1.event (kprReg 0x120) 1 else r.1
      match r.2 with
      | some (n, bs) => h2.respond f (frameCrit f) n bs
      | none => h2

/-- A row acts on frames of its own command alone. -/
def State.basette (s : State) (f : Frame) (cmd : Nat) (run : Hw → Hw × Option (Nat × Bytes)) : Host.Outcome State Fault Refusal :=
  s.onAon fun _ h => if f.cmd = cmd then h.serve f false run else h

/-! ### Commands that read (R466) -/

/-- GET_STATUS (R466). -/
def execGetStatus (frame : Frame) (s : State) : Host.Outcome State Fault Refusal :=
  s.basette frame 0x01 fun h =>
    (h, some (0, leBytes 8 (h.reg bootReg).toNat ++ leBytes 8 (h.reg (kprReg 0)).toNat ++ leBytes 8 (h.reg (kprReg 8)).toNat
      ++ leBytes 4 (h.regF (kprReg 0x200) 31 0)))

/-- The survey registers of R451 in the order of their addresses (DEDUCED, log 58). -/
def surveyRegs : List Nat :=
  (List.range 12).map (fun m => mcReg m 0) ++ (List.range 4).map (fun p => mcReg (12 + p) 8)
    ++ (List.range 288).map (fun i => linkReg (i / 16) (0x100 + 8 * (i % 16))) ++ (List.range 12).map railReg
    ++ [kprReg 0x10, kprReg 0x18]

/-- GET_SURVEY (R466). -/
def execGetSurvey (frame : Frame) (s : State) : Host.Outcome State Fault Refusal :=
  s.basette frame 0x02 fun h =>
    (h, some (0, ((surveyRegs.flatMap fun a => leBytes 8 (h.reg a).toNat).drop (payNat frame 0 4)).take 1024))

/-- SURVEY_NOW (R452, R466). -/
def execSurveyNow (frame : Frame) (s : State) : Host.Outcome State Fault Refusal :=
  s.basette frame 0x03 fun h => (h.surveyGo, some (0, []))

/-- An entry of the incident log as bytes (R483). -/
def Hw.logEntryBytes (h : Hw) (v : Nat) : Bytes := (List.range 8).flatMap fun i => leBytes 8 (h.reg (logSlot v + 8 * i)).toNat

/-- GET_INCIDENTS (R466, R483): up to 16 entries from the counter value given, as far as they are written and still in the ring. -/
def execGetIncidents (frame : Frame) (s : State) : Host.Outcome State Fault Refusal :=
  s.basette frame 0x05 fun h =>
    let wr := (h.reg (logReg 0x10)).toNat
    let i := payNat frame 0 4
    let n := (wr + 2 ^ 32 - i) % 2 ^ 32
    (h, some (0, if 4096 < n then [] else (List.range (min n 16)).flatMap fun k => h.logEntryBytes (i + k)))

/-- GET_COUNTER (R464, R466). -/
def execGetCounter (frame : Frame) (s : State) : Host.Outcome State Fault Refusal :=
  s.basette frame 0x07 fun h => (h, some (0, leBytes 8 (h.reg lastCtr).toNat))

/-- UNKNOWN_COMMAND (R463, R466): a frame whose CMD is not assigned. -/
def execUnknownCommand (frame : Frame) (s : State) : Host.Outcome State Fault Refusal :=
  s.onAon fun _ h =>
    if (basetteCmds.find? fun p => p.1 == frame.cmd).isNone then h.serve frame false fun h => (h, some (1, [])) else h

/-! ### SPDM (R458, R459) -/

/-- The measurement record: indexes 1 to 6 and 0x10 to 0xEF (R459). -/
def Hw.measRecord (h : Hw) : Bytes :=
  ((List.range 256).filter fun i => decide (1 ≤ i ∧ i ≤ 6) || decide (0x10 ≤ i ∧ i ≤ 0xEF)).flatMap fun i => leBytes 1 i ++ h.meas i

/-- Request codes that are supported (R458; the codes are those of SPDM 1.3: PRESUMED, log 59). -/
def spdmCodes : List Nat := [0x84, 0xE1, 0xE3, 0x81, 0x82, 0x85, 0x86, 0x83, 0xE0, 0xE4, 0xE5, 0xE8, 0xE9, 0xEC]

def spdmError (code : Nat) : Bytes := [0x13, 0x7F, BitVec.ofNat 8 code, 0]

/-- An SPDM message is answered (R458): versions below 1.3 get VersionMismatch, other requests UnsupportedRequest, a fifth session is
refused; the rest is the responder's. -/
def Hw.spdmAnswer (h : Hw) (msg : Bytes) : Hw × Bytes :=
  let ver := leNat (msg.take 1)
  let code := leNat ((msg.drop 1).take 1)
  let n := h.keeper.sessions
  if code ≠ 0x84 ∧ ver < 0x13 then (h, spdmError 0x41)
  else if !spdmCodes.contains code then (h, spdmError 0x07)
  else if code = 0xE4 ∧ 4 ≤ n then (h, spdmError 0x0A)
  else
    let h1 := { h.tick with keeper := { h.keeper with sessions := if code = 0xE4 then n + 1 else if code = 0xEC then n - 1 else n } }
    (h1, Config.spdmAnswer h.fresh h.measRecord msg)

/-- SPDM (R458, R466). -/
def execSpdm (frame : Frame) (s : State) : Host.Outcome State Fault Refusal :=
  s.basette frame 0x04 fun h => let r := h.spdmAnswer frame.payload; (r.1, some (0, r.2))

/-- DOE_SPDM_REQUEST (R458): a request over the DOE instance of a root port. -/
def execDoeSpdmRequest (port : Nat) (msg : Bytes) (s : State) : Host.Outcome State Fault Refusal :=
  s.onHw fun _ h =>
    if 8 ≤ port then h
    else let r := h.spdmAnswer msg; { r.1 with keeper := { r.1.keeper with doe := sset port r.2 r.1.keeper.doe } }

/-! ### Commands that act (R466 to R468) -/

/-- A write that touches bytes from a to a + n − 1 touches those of an entry. -/
def DirEnt.touches (e : DirEnt) (a n : Nat) : Bool := decide (a < e.off + e.len) && decide (e.off < a + n)

/-- Whether FLASH_WRITE may write (R466, R470): within one slot, which in recovery may be a preferred one, and neither in the directory
nor in the counter sector. -/
def Hw.flashMay (h : Hw) (a n : Nat) : Bool :=
  let es := h.dirEnts
  let isSlot := fun (e : DirEnt) => decide (1 ≤ e.type ∧ e.type ≤ 3)
  !h.keeper.flashBad && decide (4096 ≤ a)
    && es.all (fun e => !(e.type == 0xFF && e.touches a n) && !(isSlot e && e.pref == 1 && !h.recovery && e.touches a n))
    && es.any (fun e => isSlot e && decide (e.off ≤ a ∧ a + n ≤ e.off + e.len))

/-- FLASH_WRITE (R466): a 4-byte offset and the data. -/
def execFlashWrite (frame : Frame) (s : State) : Host.Outcome State Fault Refusal :=
  s.basette frame 0x06 fun h =>
    let a := payNat frame 0 4
    let bs := frame.payload.drop 4
    if frame.payload.length < 4 ∨ !h.flashMay a bs.length then (h, some (6, []))
    else ({ h with keeper := { h.keeper with flash := flashPut a bs h.keeper.flash } }, some (0, []))

/-- RESET (R446, R462, R466): takes effect when its response has been read, or 10 ms after it was ready. -/
def execReset (frame : Frame) (s : State) : Host.Outcome State Fault Refusal :=
  s.basette frame 0x10 fun h =>
    let k := payNat frame 0 1
    if frame.payload.isEmpty ∨ 1 < k then (h, some (6, []))
    else ({ h with keeper := { h.keeper with resetDue := some (k, 250000) } }, some (0, []))

/-- POWER_LIMIT (R4, R466). -/
def execPowerLimit (frame : Frame) (s : State) : Host.Outcome State Fault Refusal :=
  s.basette frame 0x11 fun h => let r := h.limitReq (payNat frame 0 2); (r.1, some (if r.2 then 0 else 6, []))

/-- DEBUG_UNLOCK (R467): the level is stored in PENDING. -/
def execDebugUnlock (frame : Frame) (s : State) : Host.Outcome State Fault Refusal :=
  s.basette frame 0x12 fun h =>
    let l := payNat frame 0 1
    if frame.payload.isEmpty ∨ 2 < l then (h, some (6, [])) else (h.setRegF (kprReg 0x20) 3 2 l, some (0, []))

/-- FW_ACTIVATE (R467): the named slot becomes the preferred one of its type when its image passes. -/
def execFwActivate (frame : Frame) (s : State) : Host.Outcome State Fault Refusal :=
  s.basette frame 0x13 fun h =>
    let es := h.dirEnts.filter fun e => decide (1 ≤ e.type ∧ e.type ≤ 3) && e.type == payNat frame 0 1
    match es.find? fun e => e.slot == payNat frame 1 1 with
    | none => (h, some (6, [1]))
    | some e =>
      let c := h.imageCode e
      if c ≠ 0 then (h, some (6, [BitVec.ofNat 8 c]))
      else
        let f := es.foldl (fun (f : SMap Byte) x => sset (16 * x.idx + 2) (if x.idx = e.idx then 1 else 0) f) h.keeper.flash
        ({ h with keeper := { h.keeper with flash := f } }, some (0, []))

/-- HANDOVER (R411, R412, R466): KIND, TO and INDEX, performed without the monitor; the answer comes when it ends. -/
def execHandover (frame : Frame) (s : State) : Host.Outcome State Fault Refusal :=
  s.basette frame 0x14 fun h =>
    let kind := payNat frame 0 1
    let dir := payNat frame 1 1 % 2
    let index := payNat frame 2 2
    if h.hand.isSome then (h, some (7, []))
    else
      let h1 := ((h.setRegF handReg 61 60 kind).setRegF handReg 59 59 dir).setRegF handReg 11 0 index
      match if 2 < kind ∨ 4096 ≤ index then some 1 else h.handRefused kind (decide (dir = 1)) index with
      | some st => (h, some (6, [BitVec.ofNat 8 st]))
      | none => (h1.handGo false (some frame), none)

/-- HANDOVER_COMPLETE (R412): the hand-over's effects, the incident, and the answer to a Basette request. -/
def execHandoverComplete (s : State) : Host.Outcome State Fault Refusal :=
  s.onHw fun _ h =>
    match h.hand with
    | none => h
    | some x =>
      match x.frame with
      | none => h.handFinish
      | some f => h.handFinish.respond f (frameCrit f) 0 [BitVec.ofNat 8 x.status]

/-- A FUSE_OP frame (R466): its OP is payload byte 0. -/
def State.fuseOp (s : State) (f : Frame) (mine : Nat → Bool) (keySet : Bool) (run : Hw → Hw × Option (Nat × Bytes)) :
    Host.Outcome State Fault Refusal :=
  s.onAon fun _ h => if f.cmd = 0x15 ∧ mine (payNat f 0 1) then h.serve f keySet run else h

def Hw.updFuses (h : Hw) (f : Fuses → Fuses) : Hw := { h with keeper := { h.keeper with fuses := f h.keeper.fuses } }

/-- COMMIT_SVN (R456): the bits of a type's field up to the value are blown; a FUSE_OP whose OP is none of R466 is refused. -/
def execCommitSvn (frame : Frame) (s : State) : Host.Outcome State Fault Refusal :=
  s.fuseOp frame (fun op => op == 0 || decide (4 ≤ op)) false fun h =>
    let t := payNat frame 1 1
    let v := payNat frame 2 1
    if payNat frame 0 1 ≠ 0 ∨ frame.payload.length < 3 ∨ t < 1 ∨ 3 < t ∨ v ≤ h.rollback t ∨ sget 0 t h.keeper.svn < v ∨ 64 < v then
      (h, some (6, []))
    else if h.keeper.fuseBad then (h, some (9, []))
    else (h.updFuses fun x => { x with svn := supd 0 t (fun w => w ||| w64 (2 ^ v - 1)) x.svn }, some (0, []))

/-- KEY_SET (R463, R468): the key is written to the lowest blank slot. -/
def execKeySet (frame : Frame) (s : State) : Host.Outcome State Fault Refusal :=
  s.fuseOp frame (· == 1) true fun h =>
    let x := h.keeper.fuses
    match (List.range 4).find? fun k => (sfind k x.bkey).isNone && !sget false k x.brevoked with
    | none => (h, some (6, []))
    | some k =>
      if frame.payload.length ≠ 49 then (h, some (6, []))
      else if h.keeper.fuseBad then (h, some (9, []))
      else (h.updFuses fun x => { x with bkey := sset k (frame.payload.drop 1) x.bkey }, some (0, []))

/-- REVOKE_BASETTE_KEY (R466, R468): payload byte 1 names the slot. -/
def execRevokeBasetteKey (frame : Frame) (s : State) : Host.Outcome State Fault Refusal :=
  s.fuseOp frame (· == 2) false fun h =>
    let k := payNat frame 1 1
    if frame.payload.length < 2 ∨ 4 ≤ k then (h, some (6, []))
    else if h.keeper.fuseBad then (h, some (9, []))
    else (h.updFuses fun x => { x with brevoked := sset k true x.brevoked }, some (0, []))

/-- REVOKE_IMAGE_KEY (R455, R466): payload byte 1 names the slot, 0 to 3 ECDSA and 4 to 7 LMS (DESIGN CHOICE, log 60). -/
def execRevokeImageKey (frame : Frame) (s : State) : Host.Outcome State Fault Refusal :=
  s.fuseOp frame (· == 3) false fun h =>
    let k := payNat frame 1 1
    if frame.payload.length < 2 ∨ 8 ≤ k then (h, some (6, []))
    else if h.keeper.fuseBad then (h, some (9, []))
    else (h.updFuses fun x => { x with irevoked := sset k true x.irevoked }, some (0, []))

/-! ### The bus (R460, R462, R465) -/

/-- DYNAMIC_ADDRESS_ASSIGNMENT (R451, R465, R471): KPR.REFCLK.BMC, and interrupts may be raised again. -/
def execDynamicAddressAssignment (s : State) : Host.Outcome State Fault Refusal :=
  s.onAon fun _ h =>
    let h1 := { h with keeper := { h.keeper with mute := false, naks := 0 } }
    if Word.bit (h.reg (kprReg 0x18)) 61 then h1 else (h1.setRegF (kprReg 0x18) 61 61 1).survGen

/-- Keeper raises an in-band interrupt: a response or a notification is ready, and an address is assigned (R460, R465). -/
def Hw.raises (h : Hw) : Bool :=
  (!h.keeper.resps.isEmpty || h.keeper.notif != 0) && !h.keeper.mute && Word.bit (h.reg (kprReg 0x18)) 61

/-- IN_BAND_INTERRUPT (R465): acknowledged or not; the third that is not ends them, with an incident. -/
def execInBandInterrupt (acked : Bool) (s : State) : Host.Outcome State Fault Refusal :=
  s.onAon fun _ h =>
    let k := h.keeper
    if !h.raises then h
    else if acked then { h with keeper := { k with naks := 0 } }
    else if k.naks < 2 then { h with keeper := { k with naks := k.naks + 1 } }
    else ({ h with keeper := { k with naks := 3, mute := true } }).incident 0x55 (k.notif * 2 ^ 24) 0 0 (blockId 8 0) false

/-- The bytes of a response (R461); `notif` are the notification bits it carries. -/
def Hw.respBytes (h : Hw) (r : Resp) (notif : Nat) : Bytes :=
  let flags := b2n r.crit + 2 + (if notif = 0 then 0 else 4)
  let head := frameHead 1 r.cmd r.payload.length r.seq flags (if notif = 0 then r.status else notif) ++ r.payload
  let tagged := head ++ leBytes 8 r.counter.toNat
  let body := if r.crit then tagged ++ leBytes 16 (Config.hmac128 (h.basetteKey.getD []) tagged).toNat else head
  body ++ leBytes 4 (crc32c body).toNat

/-- The RESET command whose response has been read, or whose time is over, takes effect (R446, R462): a warm one triggers, a cold one stands
until COLD_RESET. -/
def Hw.resetNow (h : Hw) : Hw :=
  match h.keeper.resetDue with
  | none => h
  | some (k, _) =>
    if k = 1 then ({ h with keeper := { h.keeper with resetDue := none } }).warmTrigger 4 0
    else { h with keeper := { h.keeper with resetDue := some (0, 0) } }

/-- RESPONSE_READ (R461, R462, R465): the oldest response is read; with notifications and no response, a frame that carries only them
(DEDUCED, log 61). -/
def execResponseRead (s : State) : Host.Outcome State Fault Refusal :=
  s.onAon fun _ h =>
    let k := h.keeper
    match k.resps with
    | [] =>
      if k.notif = 0 then h
      else { h with keeper := { k with notif := 0, sent := h.respBytes ⟨0, 0, false, 0, [], 0⟩ k.notif } }
    | r :: rest =>
      let h1 := { h with keeper := { k with resps := rest, notif := 0, sent := h.respBytes r k.notif } }
      if r.cmd = 0x10 ∧ r.status = 0 then h1.resetNow else h1

/-! ### The Lantern port (R500) -/

def State.onTap (s : State) (f : Hw → Tap) : Host.Outcome State Fault Refusal := s.onAon fun _ h => { h with tap := f h }

/-- BYPASS selected: its register reads 0. -/
def Tap.bypass (t : Tap) : Tap := { t with ir := 0, dr := [0], drives := false }

/-- BYPASS (R500). -/
def execBypass (s : State) : Host.Outcome State Fault Refusal := s.onTap fun h => h.tap.bypass

/-- IDCODE (R500). -/
def execIdcode (s : State) : Host.Outcome State Fault Refusal :=
  s.onTap fun h => { h.tap with ir := 1, dr := leBytes 4 Config.idcode.toNat, drives := false }

/-- SAMPLE_PRELOAD (R500): what the contacts carry is not the model's; the boundary register takes what was shifted in. -/
def execSamplePreload (bits : Bytes) (s : State) : Host.Outcome State Fault Refusal :=
  s.onAon fun _ h =>
    { h.tick with tap := { h.tap with ir := 2, dr := vbytes (Config.freeVec h.fresh) 0 bits.length, boundary := bits, drives := false } }

/-- EXTEST (R500): drives the contacts only while COLDRST# is low, or at debug level 2, where every instruction acts; else acts as BYPASS. -/
def execExtest (bits : Bytes) (s : State) : Host.Outcome State Fault Refusal :=
  s.onAon fun _ h =>
    if h.pins.coldrst ∧ h.regF (kprReg 0x20) 1 0 ≠ 2 then { h with tap := h.tap.bypass }
    else { h.tick with tap := { h.tap with ir := 3, dr := vbytes (Config.freeVec h.fresh) 0 bits.length, boundary := bits, drives := true } }

/-- LANTERN_EXTENSION (R500): what a level does not open acts as BYPASS; what an extension instruction does where it acts is not stated. -/
def execLanternExtension (_code : Nat) (normal : Bool) (s : State) : Host.Outcome State Fault Refusal :=
  let l := s.hw.regF (kprReg 0x20) 1 0
  if l = 0 ∨ (l = 1 ∧ !normal) then s.onTap fun h => h.tap.bypass else .refused .lanternExtension

/-- TAP_RESET (R500): Test-Logic-Reset. -/
def execTapReset (s : State) : Host.Outcome State Fault Refusal := s.onTap fun h => { Tap.reset with boundary := h.tap.boundary }

end Sys2Proof.Machine
end

