-- ==== Sys2Proof/Machine/ExecCache.lean ====
section
/-! DEFINITION. Fills, snoops and writebacks inside a chamber (R200 to R206, R211, R212, R218), and the end of a CMO (R215). -/

namespace Sys2Proof.Machine

/-- The buffered stores at the heads of a core's store buffers that joined a line's register, one bit of `slots` for each thread, are
performed on the delivered line, which goes back to the next level (R206, R218), or fail with it. -/
def Hw.serveStores (m : List Host.Cell) (h : Hw) (core line slots : Nat) (err : Option Nat) (store : Hw → Vec → BitVec 64 → Hw) : Hw :=
  forN 0 4 (fun i h =>
    let t := 4 * core + i
    match (h.thread t).b.sb with
    | e :: _ =>
      if e.line != line || !presBit slots i || e.mtype != .wb || (match e.kind with | .cmo .. => true | _ => false) then h
      else match err with
        | some 2 => if h.judgePA e.acc e.pa 2 then h else h.sbFail m t e 2
        | some n => h.sbFail m t e n
        | none => if e.release && (!h.loadsDone t e.ord || h.storesOut t) || (h.thread t).b.pendingOn e.ord e.line e.mask then h
          else (store h e.data e.mask).sbPop t
    | [] => h) h

/-- The place of a new line in L1D: the victim goes, a dirty one into the writeback buffer (R202, R204); none when no way is eligible or
that buffer is full. -/
def Hw.l1dMakeRoom (h : Hw) (core line : Nat) : Option (Hw × Nat) :=
  let c := (h.core core).l1d
  let set := line % 128
  match c.pick geoL1D set with
  | none => none
  | some w =>
    let k := set * 8 + w
    match sfind k c.lines with
    | none => some (h, k)
    | some l =>
      if l.st = .m ∧ 4 ≤ (h.core core).wbuf.length then none
      else
        let h1 := (h.updL1d core fun c => c.drop k).setL2 (chamberOf core) l.line fun x =>
          { x with pres := presSet x.pres (core % 4) false, bad := if l.st = .m then l.bad else x.bad }
        some (if l.st = .m then
          { h1.updCore core (fun x => { x with wbuf := x.wbuf ++ [l.line] }) with under := sdel l.line h1.under } else h1, k)

/-- The place of a fill in L1D: the core's own copy, which the fill replaces, or a new one (R201, R204). -/
def Hw.l1dPlace (h : Hw) (core line : Nat) : Option (Hw × Nat) :=
  match h.l1dKey core line with
  | some k => some (h, k)
  | none => h.l1dMakeRoom core line

/-- A chamber's line leaves for its slice without a copy in L2: dirty with bytes that no cache of the chamber keeps, or clean to give up what was
granted (R202, R206, R218). -/
def Hw.giveBack (h : Hw) (c line : Nat) (dirty : Bool) : Hw :=
  if (h.chamber c).wbuf.any fun p => p.1 == line then h
  else (h.updChamber c fun x => { x with wbuf := x.wbuf ++ [(line, dirty, false)] }).pumpWb c

/-- Bytes are merged into a line that was delivered for ownership and that no cache of the chamber keeps; it goes back to its slice (R206, R218).
`bad` is the poison of the line as it came. -/
def Hw.storeThrough (m : List Host.Cell) (bad : Bool) (h : Hw) (core line : Nat) (data : Vec) (mask : BitVec 64) : Hw :=
  let c := chamberOf core
  let was := (sfind line h.carried).getD bad
  ((((h.l2Remove c line).1.mergeNewest m line data mask).carry line (was && decide (mask ≠ BitVec.allOnes 64)))).giveBack c line true

/-- L1D_FILL (R201, R205, R206, R211, R212, R218): a miss register whose line has come allocates it where ALLOC says so, and serves the loads,
atomics, walks and, where nothing is allocated, the stores that wait for it. A line that another L1D has come to own meanwhile is snooped there
first; a line that comes for ownership leaves every other copy of the chamber. -/
def execL1dFill (core reg : Nat) (s : State) : Host.Outcome State Fault Refusal :=
  s.onHw fun m h =>
    match sfind reg (h.core core).dmiss with
    | none => h
    | some q =>
      if !q.ready then h
      else if q.err = 0 ∧ h.otherOwner core q.line q.walk then
        h.updCore core fun x => { x with dmiss := sset reg { q with ready := false } x.dmiss }
      else
        let c := chamberOf core
        let line := q.line
        let h1 := h.updCore core fun x => { x with dmiss := sdel reg x.dmiss }
        let l2 := h.l2Line c line
        let own := match l2 with | some l => l.st == .m || l.st == .e | none => false
        let bad := match l2 with | some l => l.bad | none => q.bad
        let done := fun (h : Hw) => (h.walkServe m core line q.err bad).rewait core line |>.walkPump core
        if q.err ≠ 0 then
          done ((h1.serveLine m core line (some (q.err - 1)) bad none).serveStores m core line q.l1s (some (q.err - 1)) fun h _ _ => h)
        else if q.alloc && (h.core core).l1d.en && l2.isSome then
          let h2 := if q.unique && own then h1.ownInChamber core line else h1
          match h2.l1dPlace core line with
          | none => h
          | some (h3, k) =>
            let alone := (List.range 4).all fun i => 4 * c + i == core || (h3.l1dKey (4 * c + i) line).isNone
            let old := (h3.l1dLine core line).filter fun l => l.st == .m
            let new : CLine := match old with
              | some l => ⟨line, .m, q.own, 0, l.bad⟩
              | none => ⟨line, if own && (q.unique || alone) then .e else .s, q.own, 0, bad⟩
            let h4 := ((h3.updL1d core fun x => (x.put k new).touch geoL1D k).setL2 c line fun x =>
              { x with pres := presSet x.pres (core % 4) true })
            done (h4.serveLine m core line none new.bad (if new.st = .s then none else some fun h d k => h.storeHere m core line d k))
        else
          let can := q.unique && (own || q.sent || l2.isNone)
          if can ∧ !own ∧ 16 ≤ (h.chamber c).wbuf.length then h
          else
            let store : Hw → Vec → BitVec 64 → Hw := if own then fun h d k => h.storeHere m core line d k
              else fun h d k => h.storeThrough m bad core line d k
            let h2 := h1.serveLine m core line none bad (if can then some store else none)
            let h3 := if can then h2.serveStores m core line q.l1s none store else h2
            done (if can ∧ l2.isNone then h3.giveBack c line false else h3)

/-- L1D_WRITEBACK (R130 to R132, R202): the oldest entry of a core's writeback buffer is accepted by L2, when the port takes it; a refused one is
held there. -/
def execL1dWriteback (core : Nat) (s : State) : Host.Outcome State Fault Refusal :=
  s.onHw fun _ h =>
    let c := chamberOf core
    match h.portPick core with
    | some (.wb l) =>
      if !h.l2Accepts c then h.portHold core (.wb l)
      else ((h.l1Wb core l).updCore core fun x => x.portCount true).pumpL2 c
    | _ => h

/-- L1D_SNOOP (R130 to R132, R201): L2 snoops an L1D that holds a line in M or E for another core's request, or for a walk's read of its own core,
when the port takes its answer; a load leaves S, a request for ownership nothing. -/
def execL1dSnoop (core : Nat) (line : Word) (unique : Bool) (s : State) : Host.Outcome State Fault Refusal :=
  s.onHw fun _ h =>
    let l := line.toNat
    let c := chamberOf core
    if numCores ≤ core ∨ h.portPick core ≠ some (.snoop l unique) then h
    else if !h.l2Accepts c then h.portHold core (.snoop l unique)
    else ((if unique then h.l1dDrop core l else h.l1dShare core l).updCore core fun x => x.portCount true).pumpL2 c

/-- The L1 registers that an L2 register serves get the line without an allocation in L2 (R206, R212, R217, R218). -/
def Hw.passUp2 (h : Hw) (c : Nat) (q : Miss) : Hw :=
  forN 0 4 (fun i h =>
    let core := 4 * c + i
    let give := fun (ms : SMap Miss) => ms.map fun p =>
      (p.1, if p.2.line = q.line then { p.2 with ready := true, alloc := false, dna := p.2.dna || q.dna, bad := q.bad, err := q.err,
                                                 own := q.own, sent := true, unique := p.2.unique && q.unique } else p.2)
    h.updCore core fun x =>
      { x with dmiss := if presBit q.l1s i then give x.dmiss else x.dmiss,
               imiss := if presBit q.l1s (4 + i) then give x.imiss else x.imiss }) h

/-- L2_FILL (R204 to R206, R211, R212, R218, R229): the answer to an L2 miss register: the line is allocated in the state granted, unless the
register is marked or L2 is disabled; the L1 registers that joined it go on. What is granted for a copy that nothing keeps is given back. -/
def execL2Fill (chamber reg : Nat) (s : State) : Host.Outcome State Fault Refusal :=
  s.onHw fun _ h =>
    let c := chamber
    match sfind reg (h.chamber c).miss with
    | none => h
    | some q =>
      if !q.ready then h
      else
        let h1 := h.updChamber c fun x => { x with
          miss := sdel reg x.miss, vms := match q.resv with | some v => sset q.line v x.vms | none => sdel q.line x.vms }
        let st := if q.unique then (if q.dirty then LSt.m else .e) else .s
        if q.err ≠ 0 then (h1.passUp2 c q).pumpL2 c
        else if !q.alloc ∨ !(h.chamber c).l2.en then
          if q.unique ∨ (h1.l2Line c q.line).isSome then (h1.passUp2 c q).pumpL2 c
          else if 16 ≤ (h.chamber c).wbuf.length then h
          else ((h1.passUp2 c q).giveBack c q.line false).pumpL2 c
        else match h.l2Key c q.line with
          | some k =>
            (h1.updL2 c fun x => ({ x with lines := supd ⟨q.line, st, q.own, 0, q.bad⟩ k (fun l => { l with st := st, bad := q.bad }) x.lines }).touch
              geoL2 k).pumpL2 c
          | none =>
            let set := q.line % 4096
            match (h.chamber c).l2.pick geoL2 set with
            | none => h
            | some w =>
              let k := set * 16 + w
              let old := sfind k (h.chamber c).l2.lines
              let r := match old with
                | some l => h1.l2Evict c l.line
                | none => (h1, true)
              if !r.2 then h
              else ((r.1.updL2 c fun x => (x.put k ⟨q.line, st, q.own, 0, q.bad⟩).touch geoL2 k).pumpWb c).pumpL2 c

/-- CMO_COMPLETE (R214, R215): the CMO at the head of a thread's store buffer is performed once its home has acted and every other
node has answered; it leaves the buffer. -/
def execCmoComplete (t : Nat) (s : State) : Host.Outcome State Fault Refusal :=
  s.onHw fun _ h =>
    match (h.thread t).b.sb with
    | e :: _ =>
      match e.kind with
      | .cmo _ _ 9 _ => if h.gtags.any fun p => p.2.who == .cmo t then h else h.sbPop t
      | _ => h
    | [] => h

end Sys2Proof.Machine
end

