-- ==== Sys2Proof/Machine/ExecInt.lean ====
section
/-! DEFINITION. Integer register and immediate instructions, and divisions (02.4, R37, R40 to R42). -/

namespace Sys2Proof.Machine

/-! ### Values -/

def boolW (b : Bool) : Word := if b then 1 else 0

/-- The low 32 bits sign-extended (R37). -/
def sextW (w : Word) : Word := (w.setWidth 32).signExtend 64

def minS (a b : Word) : Word := if a.slt b then a else b
def maxS (a b : Word) : Word := if a.slt b then b else a
def minU (a b : Word) : Word := if a.ult b then a else b
def maxU (a b : Word) : Word := if a.ult b then b else a

/-- The highest set bit of a number below 2^n, counted from bit 0, plus 1; 0 for 0 (R111). -/
def bitLen : Nat → Nat → Nat
  | 0, _ => 0
  | n + 1, v => if v = 0 then 0 else 1 + bitLen n (v / 2)

/-- Leading and trailing zeros, 64 for zero (R40). -/
def clzW (a : Word) : Word := w64 (64 - bitLen 64 a.toNat)
def ctzW (a : Word) : Word := w64 ((lowBit 64 a.toNat).getD 64)
def rev8W (a : Word) : Word := w64 (leNat (leBytes 8 a.toNat).reverse)

/-- High halves of the 128-bit products (R40). -/
def mulhW (a b : Word) : Word := BitVec.ofInt 64 (a.toInt * b.toInt / 2 ^ 64)
def mulhuW (a b : Word) : Word := w64 (a.toNat * b.toNat / 2 ^ 64)
def mulhsuW (a b : Word) : Word := BitVec.ofInt 64 (a.toInt * b.toNat / 2 ^ 64)

/-- Divisions of width w (R42). -/
def divS {w : Nat} (a b : BitVec w) : BitVec w :=
  if b = 0 then BitVec.allOnes w
  else if a = BitVec.intMin w ∧ b = BitVec.allOnes w then a else BitVec.ofInt w (a.toInt.tdiv b.toInt)
def divU {w : Nat} (a b : BitVec w) : BitVec w := if b = 0 then BitVec.allOnes w else BitVec.ofNat w (a.toNat / b.toNat)
def remS {w : Nat} (a b : BitVec w) : BitVec w :=
  if b = 0 then a
  else if a = BitVec.intMin w ∧ b = BitVec.allOnes w then 0 else BitVec.ofInt w (a.toInt.tmod b.toInt)
def remU {w : Nat} (a b : BitVec w) : BitVec w := if b = 0 then a else BitVec.ofNat w (a.toNat % b.toNat)

/-- The W forms: 32-bit operands, result sign-extended (R37). -/
def on32 (f : BitVec 32 → BitVec 32 → BitVec 32) (a b : Word) : Word := (f (a.setWidth 32) (b.setWidth 32)).signExtend 64

/-! ### Forms -/

/-- Two registers. -/
def alu3 (t : Nat) (rd ra rb : Reg) (f : Word → Word → Word) (s : State) : Host.Outcome State Fault Refusal :=
  s.onHw fun _ h => h.intOp t [ra, rb] rd fun a => f (a.rg ra) (a.rg rb)

/-- One register. -/
def alu2 (t : Nat) (rd ra : Reg) (f : Word → Word) (s : State) : Host.Outcome State Fault Refusal :=
  s.onHw fun _ h => h.intOp t [ra] rd fun a => f (a.rg ra)

/-- A division: a long operation of the core's divider (R42, R107, R112). -/
def divOp (t : Nat) (rd ra rb : Reg) (f : Word → Word → Word) (s : State) : Host.Outcome State Fault Refusal :=
  s.onHw fun _ h =>
    if h.ready t [destG ra, destG rb] .div then
      let a := (h.thread t).a
      (h.addLong t (LongOp.known .div (destG rd) ((f (a.rg ra) (a.rg rb)).setWidth 512))).complete t .seq
    else h

/-! ### Instructions -/

/-- ADD (R40). -/
def execAdd (t : Nat) (rd ra rb : Reg) (s : State) : Host.Outcome State Fault Refusal :=
  alu3 t rd ra rb (fun a b => a + b) s

/-- SUB (R40). -/
def execSub (t : Nat) (rd ra rb : Reg) (s : State) : Host.Outcome State Fault Refusal :=
  alu3 t rd ra rb (fun a b => a - b) s

/-- AND (R40). -/
def execAnd (t : Nat) (rd ra rb : Reg) (s : State) : Host.Outcome State Fault Refusal :=
  alu3 t rd ra rb (fun a b => a &&& b) s

/-- OR (R40). -/
def execOr (t : Nat) (rd ra rb : Reg) (s : State) : Host.Outcome State Fault Refusal :=
  alu3 t rd ra rb (fun a b => a ||| b) s

/-- XOR (R40). -/
def execXor (t : Nat) (rd ra rb : Reg) (s : State) : Host.Outcome State Fault Refusal :=
  alu3 t rd ra rb (fun a b => a ^^^ b) s

/-- ANDN (R40). -/
def execAndn (t : Nat) (rd ra rb : Reg) (s : State) : Host.Outcome State Fault Refusal :=
  alu3 t rd ra rb (fun a b => a &&& ~~~b) s

/-- ORN (R40). -/
def execOrn (t : Nat) (rd ra rb : Reg) (s : State) : Host.Outcome State Fault Refusal :=
  alu3 t rd ra rb (fun a b => a ||| ~~~b) s

/-- SHL (R40). -/
def execShl (t : Nat) (rd ra rb : Reg) (s : State) : Host.Outcome State Fault Refusal :=
  alu3 t rd ra rb (fun a b => a <<< (b.toNat % 64)) s

/-- SHR (R40). -/
def execShr (t : Nat) (rd ra rb : Reg) (s : State) : Host.Outcome State Fault Refusal :=
  alu3 t rd ra rb (fun a b => a >>> (b.toNat % 64)) s

/-- SRA (R40). -/
def execSra (t : Nat) (rd ra rb : Reg) (s : State) : Host.Outcome State Fault Refusal :=
  alu3 t rd ra rb (fun a b => a.sshiftRight (b.toNat % 64)) s

/-- ROL (R40). -/
def execRol (t : Nat) (rd ra rb : Reg) (s : State) : Host.Outcome State Fault Refusal :=
  alu3 t rd ra rb (fun a b => a.rotateLeft (b.toNat % 64)) s

/-- ROR (R40). -/
def execRor (t : Nat) (rd ra rb : Reg) (s : State) : Host.Outcome State Fault Refusal :=
  alu3 t rd ra rb (fun a b => a.rotateRight (b.toNat % 64)) s

/-- SLT (R40). -/
def execSlt (t : Nat) (rd ra rb : Reg) (s : State) : Host.Outcome State Fault Refusal :=
  alu3 t rd ra rb (fun a b => boolW (a.slt b)) s

/-- SLTU (R40). -/
def execSltu (t : Nat) (rd ra rb : Reg) (s : State) : Host.Outcome State Fault Refusal :=
  alu3 t rd ra rb (fun a b => boolW (a.ult b)) s

/-- MIN (R40). -/
def execMin (t : Nat) (rd ra rb : Reg) (s : State) : Host.Outcome State Fault Refusal :=
  alu3 t rd ra rb (fun a b => minS a b) s

/-- MAX (R40). -/
def execMax (t : Nat) (rd ra rb : Reg) (s : State) : Host.Outcome State Fault Refusal :=
  alu3 t rd ra rb (fun a b => maxS a b) s

/-- MINU (R40). -/
def execMinu (t : Nat) (rd ra rb : Reg) (s : State) : Host.Outcome State Fault Refusal :=
  alu3 t rd ra rb (fun a b => minU a b) s

/-- MAXU (R40). -/
def execMaxu (t : Nat) (rd ra rb : Reg) (s : State) : Host.Outcome State Fault Refusal :=
  alu3 t rd ra rb (fun a b => maxU a b) s

/-- ADDW (R37). -/
def execAddw (t : Nat) (rd ra rb : Reg) (s : State) : Host.Outcome State Fault Refusal :=
  alu3 t rd ra rb (fun a b => on32 (· + ·) a b) s

/-- SUBW (R37). -/
def execSubw (t : Nat) (rd ra rb : Reg) (s : State) : Host.Outcome State Fault Refusal :=
  alu3 t rd ra rb (fun a b => on32 (· - ·) a b) s

/-- SHLW (R40). -/
def execShlw (t : Nat) (rd ra rb : Reg) (s : State) : Host.Outcome State Fault Refusal :=
  alu3 t rd ra rb (fun a b => on32 (fun x y => x <<< (y.toNat % 32)) a b) s

/-- SHRW (R40). -/
def execShrw (t : Nat) (rd ra rb : Reg) (s : State) : Host.Outcome State Fault Refusal :=
  alu3 t rd ra rb (fun a b => on32 (fun x y => x >>> (y.toNat % 32)) a b) s

/-- SRAW (R40). -/
def execSraw (t : Nat) (rd ra rb : Reg) (s : State) : Host.Outcome State Fault Refusal :=
  alu3 t rd ra rb (fun a b => on32 (fun x y => x.sshiftRight (y.toNat % 32)) a b) s

/-- ROLW (R40). -/
def execRolw (t : Nat) (rd ra rb : Reg) (s : State) : Host.Outcome State Fault Refusal :=
  alu3 t rd ra rb (fun a b => on32 (fun x y => x.rotateLeft (y.toNat % 32)) a b) s

/-- RORW (R40). -/
def execRorw (t : Nat) (rd ra rb : Reg) (s : State) : Host.Outcome State Fault Refusal :=
  alu3 t rd ra rb (fun a b => on32 (fun x y => x.rotateRight (y.toNat % 32)) a b) s

/-- MUL (R40). -/
def execMul (t : Nat) (rd ra rb : Reg) (s : State) : Host.Outcome State Fault Refusal :=
  alu3 t rd ra rb (fun a b => a * b) s

/-- MULH (R40). -/
def execMulh (t : Nat) (rd ra rb : Reg) (s : State) : Host.Outcome State Fault Refusal :=
  alu3 t rd ra rb (fun a b => mulhW a b) s

/-- MULHU (R40). -/
def execMulhu (t : Nat) (rd ra rb : Reg) (s : State) : Host.Outcome State Fault Refusal :=
  alu3 t rd ra rb (fun a b => mulhuW a b) s

/-- MULHSU (R40). -/
def execMulhsu (t : Nat) (rd ra rb : Reg) (s : State) : Host.Outcome State Fault Refusal :=
  alu3 t rd ra rb (fun a b => mulhsuW a b) s

/-- MULW (R40). -/
def execMulw (t : Nat) (rd ra rb : Reg) (s : State) : Host.Outcome State Fault Refusal :=
  alu3 t rd ra rb (fun a b => on32 (· * ·) a b) s

/-- DIV (R42). -/
def execDiv (t : Nat) (rd ra rb : Reg) (s : State) : Host.Outcome State Fault Refusal :=
  divOp t rd ra rb (fun a b => divS a b) s

/-- DIVU (R42). -/
def execDivu (t : Nat) (rd ra rb : Reg) (s : State) : Host.Outcome State Fault Refusal :=
  divOp t rd ra rb (fun a b => divU a b) s

/-- REM (R42). -/
def execRem (t : Nat) (rd ra rb : Reg) (s : State) : Host.Outcome State Fault Refusal :=
  divOp t rd ra rb (fun a b => remS a b) s

/-- REMU (R42). -/
def execRemu (t : Nat) (rd ra rb : Reg) (s : State) : Host.Outcome State Fault Refusal :=
  divOp t rd ra rb (fun a b => remU a b) s

/-- DIVW (R42). -/
def execDivw (t : Nat) (rd ra rb : Reg) (s : State) : Host.Outcome State Fault Refusal :=
  divOp t rd ra rb (fun a b => on32 divS a b) s

/-- DIVUW (R42). -/
def execDivuw (t : Nat) (rd ra rb : Reg) (s : State) : Host.Outcome State Fault Refusal :=
  divOp t rd ra rb (fun a b => on32 divU a b) s

/-- REMW (R42). -/
def execRemw (t : Nat) (rd ra rb : Reg) (s : State) : Host.Outcome State Fault Refusal :=
  divOp t rd ra rb (fun a b => on32 remS a b) s

/-- REMUW (R42). -/
def execRemuw (t : Nat) (rd ra rb : Reg) (s : State) : Host.Outcome State Fault Refusal :=
  divOp t rd ra rb (fun a b => on32 remU a b) s

/-- CLZ (R40). -/
def execClz (t : Nat) (rd ra : Reg) (s : State) : Host.Outcome State Fault Refusal :=
  alu2 t rd ra (fun a => clzW a) s

/-- CTZ (R40). -/
def execCtz (t : Nat) (rd ra : Reg) (s : State) : Host.Outcome State Fault Refusal :=
  alu2 t rd ra (fun a => ctzW a) s

/-- POPC (R40). -/
def execPopc (t : Nat) (rd ra : Reg) (s : State) : Host.Outcome State Fault Refusal :=
  alu2 t rd ra (fun a => w64 (popN 64 a.toNat)) s

/-- REV8 (R40). -/
def execRev8 (t : Nat) (rd ra : Reg) (s : State) : Host.Outcome State Fault Refusal :=
  alu2 t rd ra (fun a => rev8W a) s

/-- SEXT_B (R40). -/
def execSextB (t : Nat) (rd ra : Reg) (s : State) : Host.Outcome State Fault Refusal :=
  alu2 t rd ra (fun a => (a.setWidth 8).signExtend 64) s

/-- SEXT_H (R40). -/
def execSextH (t : Nat) (rd ra : Reg) (s : State) : Host.Outcome State Fault Refusal :=
  alu2 t rd ra (fun a => (a.setWidth 16).signExtend 64) s

/-- SEXT_W (R40). -/
def execSextW (t : Nat) (rd ra : Reg) (s : State) : Host.Outcome State Fault Refusal :=
  alu2 t rd ra (fun a => sextW a) s

/-- ZEXT_B (R40). -/
def execZextB (t : Nat) (rd ra : Reg) (s : State) : Host.Outcome State Fault Refusal :=
  alu2 t rd ra (fun a => (a.setWidth 8).setWidth 64) s

/-- ZEXT_H (R40). -/
def execZextH (t : Nat) (rd ra : Reg) (s : State) : Host.Outcome State Fault Refusal :=
  alu2 t rd ra (fun a => (a.setWidth 16).setWidth 64) s

/-- ZEXT_W (R40). -/
def execZextW (t : Nat) (rd ra : Reg) (s : State) : Host.Outcome State Fault Refusal :=
  alu2 t rd ra (fun a => (a.setWidth 32).setWidth 64) s

/-- ADDI (R41). -/
def execAddi (t : Nat) (rd ra : Reg) (imm : BitVec 16) (s : State) : Host.Outcome State Fault Refusal :=
  alu2 t rd ra (fun a => a + sx imm) s

/-- ADDIW (R41). -/
def execAddiw (t : Nat) (rd ra : Reg) (imm : BitVec 16) (s : State) : Host.Outcome State Fault Refusal :=
  alu2 t rd ra (fun a => sextW (a + sx imm)) s

/-- ANDI (R41). -/
def execAndi (t : Nat) (rd ra : Reg) (imm : BitVec 16) (s : State) : Host.Outcome State Fault Refusal :=
  alu2 t rd ra (fun a => a &&& zx imm) s

/-- ORI (R41). -/
def execOri (t : Nat) (rd ra : Reg) (imm : BitVec 16) (s : State) : Host.Outcome State Fault Refusal :=
  alu2 t rd ra (fun a => a ||| zx imm) s

/-- XORI (R41). -/
def execXori (t : Nat) (rd ra : Reg) (imm : BitVec 16) (s : State) : Host.Outcome State Fault Refusal :=
  alu2 t rd ra (fun a => a ^^^ zx imm) s

/-- SLTI (R41). -/
def execSlti (t : Nat) (rd ra : Reg) (imm : BitVec 16) (s : State) : Host.Outcome State Fault Refusal :=
  alu2 t rd ra (fun a => boolW (a.slt (sx imm))) s

/-- SLTIU (R41). -/
def execSltiu (t : Nat) (rd ra : Reg) (imm : BitVec 16) (s : State) : Host.Outcome State Fault Refusal :=
  alu2 t rd ra (fun a => boolW (a.ult (sx imm))) s

/-- SHLI (R41). -/
def execShli (t : Nat) (rd ra : Reg) (sh : BitVec 6) (s : State) : Host.Outcome State Fault Refusal :=
  alu2 t rd ra (fun a => a <<< sh.toNat) s

/-- SHRI (R41). -/
def execShri (t : Nat) (rd ra : Reg) (sh : BitVec 6) (s : State) : Host.Outcome State Fault Refusal :=
  alu2 t rd ra (fun a => a >>> sh.toNat) s

/-- SRAI (R41). -/
def execSrai (t : Nat) (rd ra : Reg) (sh : BitVec 6) (s : State) : Host.Outcome State Fault Refusal :=
  alu2 t rd ra (fun a => a.sshiftRight sh.toNat) s

/-- RORI (R41). -/
def execRori (t : Nat) (rd ra : Reg) (sh : BitVec 6) (s : State) : Host.Outcome State Fault Refusal :=
  alu2 t rd ra (fun a => a.rotateRight sh.toNat) s

/-- SHLIW (R41). -/
def execShliw (t : Nat) (rd ra : Reg) (sh : BitVec 5) (s : State) : Host.Outcome State Fault Refusal :=
  alu2 t rd ra (fun a => on32 (fun x _ => x <<< sh.toNat) a 0) s

/-- SHRIW (R41). -/
def execShriw (t : Nat) (rd ra : Reg) (sh : BitVec 5) (s : State) : Host.Outcome State Fault Refusal :=
  alu2 t rd ra (fun a => on32 (fun x _ => x >>> sh.toNat) a 0) s

/-- SRAIW (R41). -/
def execSraiw (t : Nat) (rd ra : Reg) (sh : BitVec 5) (s : State) : Host.Outcome State Fault Refusal :=
  alu2 t rd ra (fun a => on32 (fun x _ => x.sshiftRight sh.toNat) a 0) s

/-- RORIW (R41). -/
def execRoriw (t : Nat) (rd ra : Reg) (sh : BitVec 5) (s : State) : Host.Outcome State Fault Refusal :=
  alu2 t rd ra (fun a => on32 (fun x _ => x.rotateRight sh.toNat) a 0) s

/-- LUI (R41). -/
def execLui (t : Nat) (rd : Reg) (imm : BitVec 21) (s : State) : Host.Outcome State Fault Refusal :=
  s.onHw fun _ h => h.intOp t [] rd fun _ => sx imm <<< 16

/-- AUIPC (R41). -/
def execAuipc (t : Nat) (rd : Reg) (imm : BitVec 21) (s : State) : Host.Outcome State Fault Refusal :=
  s.onHw fun _ h => h.intOp t [] rd fun a => a.pc + (sx imm <<< 16)

end Sys2Proof.Machine
end

