-- ==== Sys2Proof/Machine/ExecIntr.lean ====
section
/-! DEFINITION. Commands of the interrupt router and of threads' interrupt registers (chapter 14). -/

namespace Sys2Proof.Machine

/-- INTERRUPT_MESSAGE (R19, R375): a message ID is presented. A device's and an instance's signal leave for the router; a doorbell is the
router's own. -/
def execInterruptMessage (origin : Origin) (id : BitVec 24) (s : State) : Host.Outcome State Fault Refusal :=
  s.onHw fun _ h =>
    let n := id.toNat
    match origin with
    | .device port _ => if port < 8 then h.sendMsg (portStop port) origin n else h
    | .churn i =>
      if (h.flits.filter fun f => f.payload == .irq (.churn i) n).length < (h.router.signals.filter (· == (i, n))).length then
        h.sendMsg (chamberStop (i / 8)) origin n
      else h
    | .doorbell =>
      if h.router.doorbells.contains n then
        { h with router := { h.router with doorbells := h.router.doorbells.erase n } }.presentMsg origin n
      else h

/-- REMAP_ENTRY_READ_RETURN (R381): the read of the idx-th message that awaits its entry has returned; `sec` tells which table it read. -/
def execRemapEntryReadReturn (sec : Bool) (idx : Nat) (s : State) : Host.Outcome State Fault Refusal :=
  s.onHw fun _ h =>
    match h.router.looking[idx]? with
    | some ⟨_, o, id, some a⟩ =>
      if h.msgSecure o ≠ sec then h
      else { h with router := { h.router with looking := h.router.looking.eraseIdx idx } }.remapRead o id a.1 a.2
    | _ => h

/-- PID_ATOMIC_RESULT (R385): the idx-th far atomic on a descriptor has returned; the old value decides on notification or doorbell. One that
failed drops its message. `sec` tells in which table its entry stood. -/
def execPidAtomicResult (sec : Bool) (idx : Nat) (s : State) : Host.Outcome State Fault Refusal :=
  s.onHw fun _ h =>
    match h.router.posting[idx]? with
    | some ⟨_, id, pid, _, w, some (old, err)⟩ =>
      let r := { h.router with posting := h.router.posting.eraseIdx idx }
      let h1 := { h with router := r }
      let ctl := vword old 4
      if w ≠ sec then h
      else if err ≠ 0 then h1.dropMsg id (h.remapAddr sec id)
      else if Word.bit ctl 63 then { h1 with router := { r with notifs := r.notifs ++ [(Word.fld ctl 10 0, pid)] } }
      else if !Word.bit ctl 62 && Word.bit (vword old 5) 63 then
        { h1 with router := { r with doorbells := r.doorbells ++ [Word.fld (vword old 5) 23 0] } }
      else h1
    | _ => h

/-- VIRTUAL_NOTIFICATION (R386): a notification on its way reaches its thread. -/
def execVirtualNotification (t : Nat) (pid : Word) (s : State) : Host.Outcome State Fault Refusal :=
  s.onHw fun _ h =>
    if h.router.notifs.contains (t, pid) then
      let h1 := { h with router := { h.router with notifs := h.router.notifs.erase (t, pid) } }
      if t < numThreads then h1.notify t pid else h1
    else h

/-- PULL_RESULT (R386): the oldest pull of a thread has returned; the old PIR is ORed into VPEND. One that failed brings nothing and is reported
as R55 and R256 report a far atomic (log 32). -/
def execPullResult (t : Nat) (s : State) : Host.Outcome State Fault Refusal :=
  s.onHw fun _ h =>
    match (h.thread t).vint with
    | ⟨false, pid, _, _, some (old, err)⟩ :: r =>
      let h1 := h.setVint t r
      (if err ≠ 0 then h1.asyncErr t 4 (err - 1) pid false else h1.setVpend t fun i w => w ||| vword old i).vintGo t
    | _ => h

/-- FOLD_COMPLETE (R386): the OR of a fold is performed. -/
def execFoldComplete (t : Nat) (s : State) : Host.Outcome State Fault Refusal :=
  s.onHw fun _ h =>
    match (h.thread t).vint with
    | ⟨true, pid, _, _, some (_, err)⟩ :: r =>
      let h1 := h.setVint t r
      (if err ≠ 0 then h1.asyncErr t 4 (err - 1) pid false else h1).vintGo t
    | _ => h

/-- WIRED_LEVEL_CHANGE (R378): the level of a source follows its block. -/
def execWiredLevelChange (source : Nat) (s : State) : Host.Outcome State Fault Refusal :=
  s.onHw fun _ h => if source < 4096 then h.wireUpdate source else h

/-- INBOX_RECORD (R379): a record enters an inbox. -/
def execInboxRecord (t box : Nat) (message : Bool) (source vector : Nat) (s : State) : Host.Outcome State Fault Refusal :=
  s.onHw fun _ h =>
    if t < numThreads ∧ box < 4 ∧ source < 2 ^ 24 ∧ vector < 4096 then (h.inboxPut t box ⟨message, source, vector, 0, false⟩ true).1 else h

/-- SPILL_QUEUE_MOVE (R379): the oldest spilled record of an inbox moves into it when it has room. -/
def execSpillQueueMove (t box : Nat) (s : State) : Host.Outcome State Fault Refusal :=
  s.onHw fun _ h =>
    match h.router.spill.find? fun x => x.1 == t && x.2.1 == box with
    | none => h
    | some x =>
      let r := h.inboxPut t box x.2.2 false
      if r.2 then { r.1 with router := { r.1.router with spill := r.1.router.spill.erase x } } else h

/-- ICLAIM (R380): a write of a claim register from a level and world that may. -/
def execIclaim (chamber lt box : Nat) (lvl : Level) (secure : Bool) (s : State) : Host.Outcome State Fault Refusal :=
  s.onHw fun _ h =>
    if chamber < numChambers ∧ lt < 16 ∧ box < 4 ∧ claimAllowed box ⟨lvl, secure, 0⟩ then h.releaseClaim (16 * chamber + lt) box else h

/-- ROUTER_WIRE (R377, R378): a write of ROUTER.WIRE_n. -/
def execRouterWire (n : Nat) (lvl : Level) (value : Word) (s : State) : Host.Outcome State Fault Refusal :=
  s.onHw fun _ h =>
    if n < 4096 then (h.storeFields ⟨lvl, decide (lvl = .m), 0⟩ (wireReg n) 8 value.toNat).wireWritten n (h.reg (wireReg n)) else h

/-- ROUTER_INVAL (R382, R394): ignored from U and S, and from H with SECT. -/
def execRouterInval (lvl : Level) (value : Word) (s : State) : Host.Outcome State Fault Refusal :=
  s.onHw fun _ h =>
    if lvl = .m ∨ (lvl = .h ∧ !Word.bit value 62) then h.routerInval value else h

/-- ROUTER_INVAL_COMPLETE (R382): BUSY reads 0 once every posting under a removed entry is performed. -/
def execRouterInvalComplete (s : State) : Host.Outcome State Fault Refusal :=
  s.onHw fun _ h =>
    match h.router.inval with
    | none => h
    | some n =>
      if h.router.posting.any fun p => decide (p.n < n) then h
      else { h with router := { h.router with inval := none } }.setRegF (routerReg 0x100010) 0 0 0

/-- A write of VCTL by a level (R386). -/
def Hw.storeVctl (h : Hw) (t : Nat) (lvl : Level) (v : Word) : Hw :=
  if lvl = .h ∨ lvl = .m then
    (h.storeFields ⟨lvl, decide (lvl = .m), 0⟩ (intrReg t 0x20) 8 v.toNat).vctlWritten t (h.reg (intrReg t 0x20)) v
  else h

/-- VCTL_PULL (R386): PULL = 1 is written to a thread's VCTL beside its other fields as they stand. -/
def execVctlPull (chamber lt : Nat) (lvl : Level) (s : State) : Host.Outcome State Fault Refusal :=
  s.onHw fun _ h =>
    if chamber < numChambers ∧ lt < 16 then
      h.storeVctl (16 * chamber + lt) lvl (h.reg (intrReg (16 * chamber + lt) 0x20) ||| w64 (2 ^ 62))
    else h

/-- VCTL_ACTIVE (R386): a thread's VCTL is written. -/
def execVctlActive (chamber lt : Nat) (lvl : Level) (value : Word) (s : State) : Host.Outcome State Fault Refusal :=
  s.onHw fun _ h => if chamber < numChambers ∧ lt < 16 then h.storeVctl (16 * chamber + lt) lvl value else h

end Sys2Proof.Machine
end

