-- ==== Sys2Proof/Machine/ExecSys.lean ====
section
/-! DEFINITION. System instructions (03.6): control registers (R88 to R93), calls (R156), RETX (R161 to R164, R408), LTOL, geodes (R405,
R409), cache maintenance (R98, R99, R214 to R218), TLB invalidation (R100, R196), and the release of held solo instructions
(R109). -/

namespace Sys2Proof.Machine

/-! ### Control registers -/

/-- The thread may access a CR: listed, and of its level or a lower one (R88). -/
def Arch.crOk (a : Arch) (n : Nat) : Bool := crListed n && decide (crLevel n ≤ Level.num a.level)

/-- A loop register: its writer is exempt from the end test (R57). -/
def crLoop (n : Nat) : Bool := decide (1 ≤ n ∧ n ≤ 3)

/-- Every earlier vector instruction of the thread has written back (R87). -/
def Back.vecDone (b : Back) : Bool :=
  b.longs.all fun o => !(o.kind == .vec || o.kind == .vroot || o.kind == .vload)

/-- A write of CR n (R90): WDKICK_M and CACHECTL_M act, the others store their fields. -/
def Hw.writeCr (h : Hw) (t n : Nat) (v : Word) : Hw :=
  if n = 0xC05 then h.wdKick
  else if n = 0xC06 then h.writeCachectl t v
  else h.updArch t fun a => let k := a.crKey n; a.setCr k (crNew n (a.crAt k) v)

/-- A CR instruction that may access its register reads it, writes it where `new` gives a value, and completes (R92). A write of CACHECTL_M
that starts a clean completes when the clean ends (R209). -/
def Hw.crRun (t : Nat) (i : Instr) (rd : Reg) (n : Nat) (new : Option (Word → Word)) (h : Hw) : Hw :=
  let old := h.readCr t n
  let h1 := match new with
    | some f => h.writeCr t n (f old)
    | none => h
  if n = 0xC06 ∧ new.isSome ∧ (h1.chamber (t / 16)).clean.isSome then h1.updBack t fun b => { b with solo := some i }
  else (h1.writeG t rd old).completeSolo t (if new.isSome && crLoop n then .noTest else .seq)

/-- A CR instruction: `new` gives the value written from the old one, none for a read (R92). VCSR waits for earlier vector
instructions (R87, R109); a write of CACHECTL_M waits while the chamber's caches are being cleaned for another (R209, log 75). -/
def Hw.crOp (m : List Host.Cell) (h : Hw) (t : Nat) (i : Instr) (rd : Reg) (n : Nat) (new : Option (Word → Word)) : Hw :=
  let x := h.thread t
  if h.ready t [] .solo && !x.a.crOk n then h.illegal m t
  else if n = 0xC06 ∧ new.isSome ∧ (h.chamber (t / 16)).clean.isSome then h
  else h.soloHold t i (n != 0 || x.b.vecDone) (Hw.crRun t i rd n new)

/-- CRR (R92). -/
def execCrr (t : Nat) (rd : Reg) (cr : BitVec 12) (s : State) : Host.Outcome State Fault Refusal :=
  s.onHw fun m h => h.crOp m t (.crr t rd cr) rd cr.toNat none

/-- CRW (R92). -/
def execCrw (t : Nat) (rd ra : Reg) (cr : BitVec 12) (s : State) : Host.Outcome State Fault Refusal :=
  s.onHw fun m h => h.crOp m t (.crw t rd ra cr) rd cr.toNat (some fun _ => (h.thread t).a.rg ra)

/-- CRS (R92). -/
def execCrs (t : Nat) (rd ra : Reg) (cr : BitVec 12) (s : State) : Host.Outcome State Fault Refusal :=
  s.onHw fun m h => h.crOp m t (.crs t rd ra cr) rd cr.toNat (some fun old => old ||| (h.thread t).a.rg ra)

/-- CRC (R92). -/
def execCrc (t : Nat) (rd ra : Reg) (cr : BitVec 12) (s : State) : Host.Outcome State Fault Refusal :=
  s.onHw fun m h => h.crOp m t (.crc t rd ra cr) rd cr.toNat (some fun old => old &&& ~~~(h.thread t).a.rg ra)

/-- SOLO_HOLD_RELEASE (R109, R118): the instruction held at RD goes on when what it waits for has come; it has issued, so that no interrupt
comes before it. A held write of CACHECTL_M goes on at CACHE_DISABLE_CLEAN_COMPLETE. -/
def execSoloHoldRelease (t : Nat) (s : State) : Host.Outcome State Fault Refusal :=
  s.onHw fun _ h =>
    match (h.thread t).b.solo with
    | none => h
    | some i =>
      if !h.threadUp t then h
      else
        let done := fun (h : Hw) => h.completeSolo t .seq
        let cr := fun (rd : Reg) (cr : BitVec 12) (new : Option (Word → Word)) =>
          if cr = 0 then h.soloGo t i (h.thread t).b.vecDone (Hw.crRun t i rd cr.toNat new) else h
        match i with
        | .fence _ p q => h.soloGo t i (h.fenceOk t p q) done
        | .fenceI _ => h.soloGo t i (h.storesDone t) done
        | .syncCtx _ => h.soloGo t i (h.cleanOver t) fun h => (h.applyCtx t).completeSolo t .seq
        | .crr _ rd n => cr rd n none
        | .crw _ rd ra n => cr rd n (some fun _ => (h.thread t).a.rg ra)
        | .crs _ rd ra n => cr rd n (some fun old => old ||| (h.thread t).a.rg ra)
        | .crc _ rd ra n => cr rd n (some fun old => old &&& ~~~(h.thread t).a.rg ra)
        | _ => h

/-! ### Calls and returns -/

/-- The retirement count (R90). -/
def Arch.retire (a : Arch) : Arch := a.setCr 0x011 (a.crAt 0x011 + 1)

/-- A call (R92, R156): it completes as its exception is taken, with the address after it as EPC. -/
def Hw.call (m : List Host.Cell) (h : Hw) (t : Nat) (ok : Bool) (lvl : Level) (code : Nat) : Hw :=
  if !h.ready t [] .solo then h
  else if !ok then h.illegal m t
  else
    let a := (h.thread t).a
    let r := Hw.enterLvl m t 3 h (a.target lvl) code 0 0 0 (a.pc + 4)
    if r.2 = .waits then r.1 else r.1.updArch t Arch.retire

/-- SCALL (R92, R156). -/
def execScall (t : Nat) (s : State) : Host.Outcome State Fault Refusal :=
  s.onHw fun m h => h.call m t (decide ((h.thread t).a.level = .u)) .s 11

/-- HCALL (R92, R156): normal-world S only. -/
def execHcall (t : Nat) (s : State) : Host.Outcome State Fault Refusal :=
  s.onHw fun m h => h.call m t (decide ((h.thread t).a.level = .s) && !(h.thread t).a.secure) .h 12

/-- MCALL (R92, R156): S or H. -/
def execMcall (t : Nat) (s : State) : Host.Outcome State Fault Refusal :=
  s.onHw fun m h => h.call m t (decide ((h.thread t).a.level = .s ∨ (h.thread t).a.level = .h)) .m 13

def lvlOf : Nat → Level
  | 0 => .u
  | 1 => .s
  | 2 => .h
  | _ => .m

/-- A whole new context of a thread takes effect: fetch goes to its pc (R105, R144); a changed world clears the predictors (R147). -/
def Hw.enterCtx (h : Hw) (t : Nat) (a : Arch) : Hw :=
  let old := (h.thread t).a.secure
  let h1 := h.updThread t fun x => { x with a := a, f := x.f.discard a a.pc, b := { x.b with walkEnds := [], ext := [], fext := [] } }
  if a.secure ≠ old then h1.clearPred t else h1

/-- A slot that is resumed: its address and its 40 lines (R404). -/
structure SlotData where
  pa : Word
  lines : List Vec

/-- A slot of SSTATE 2 is loaded, when its HDR passes a check, or something is to be waited for (R405, R408). -/
def Hw.slotLoad (m : List Host.Cell) (h : Hw) (t : Nat) (sl : Word) (ok : Word → Bool) : Sum (Hw → Hw) (Option SlotData) :=
  match h.linesRead m t 1 sl with
  | .inl f => .inl f
  | .inr l =>
    let hdr := vword (l.headD 0) 0
    if Word.fld hdr 63 62 ≠ 2 ∨ !ok hdr then .inr none
    else match h.slotHold t sl, h.linesRead m t 40 sl with
      | some f, _ => .inl f
      | none, .inl f => .inl f
      | none, .inr ls => .inr (some ⟨sl, ls⟩)

/-- The resume of a geode by RETX (R408): the slot that the resume record names, when every condition holds. -/
def Hw.resumable (m : List Host.Cell) (h : Hw) (t g : Nat) : Sum (Hw → Hw) (Option (Nat × SlotData)) :=
  match (h.thread t).a.resume.filter fun r => r.1 == g with
  | none => .inr none
  | some (_, s) =>
    match h.linesRead m t 1 (h.gcb g) with
    | .inl f => .inl f
    | .inr vs =>
      if gcbState (vs.headD 0) ≠ 2 then .inr none
      else match h.slotLoad m t (slotPA (vs.headD 0) s) fun hdr => decide (Word.fld hdr 10 0 = t) with
        | .inl f => .inl f
        | .inr d => .inr (d.map fun d => (s, d))

/-- The doublewords of a slot, loaded into registers (R405, R408). -/
def SlotData.load (d : SlotData) (s : Nat) (a : Arch) : Arch :=
  { a.loadSlot (fun i => vword (d.lines.getD (i / 8) 0) (i % 8)) with slot := s }

/-- HDR of a resumed slot as it stands. -/
def SlotData.hdr (d : SlotData) : Word := vword (d.lines.headD 0) 0

/-- The frame that RETX reads (R161): its eight doublewords with the thread's ERR record where the data is bad, a fault, or something to be
waited for. -/
inductive RetxRead where
  | flt (f : Flt)
  | wait (f : Hw → Hw)
  | ok (err : Option Nat) (pa : Word) (fw : Nat → Word)

/-- The read of the frame at `sp`. A frame in Device-posted memory is an alignment fault, code 2 (DESIGN CHOICE, log 68: R161 names no fault
for it). Data that is refused, poisoned or met by a bus error is all ones, with a record of kind 5, and is judged as a frame (DESIGN CHOICE,
log 69: the spec does not say). -/
def Hw.retxRead (m : List Host.Cell) (h : Hw) (t : Nat) (sp : Word) : RetxRead :=
  let x := h.thread t
  match h.xlate m t false x.regime .load sp with
  | .miss => .wait fun h => h.cancel t sp .load
  | .flt f => .flt f
  | .ok pa mt _ =>
    match decodeX2 h pa mt 64 false sp with
    | .error f => .flt f
    | .ok (tg, mt) =>
      if mt = .posted then .flt ⟨2, 0, sp, false⟩
      else match h.blockRead m t false x.acc mt tg pa 64 with
        | .got err bs => if err = 0 then .ok none pa (vword (vput 0 0 bs)) else .ok (some (err - 1)) pa fun _ => onesW
        | .out => .wait id
        | .send f => .wait f

/-- RETX (R161 to R164, R408). A fault of its read is taken at its own level. Of several failed checks the lowest subcode is given (DESIGN
CHOICE, log 70: R163 gives no order). -/
def execRetx (t : Nat) (s : State) : Host.Outcome State Fault Refusal :=
  s.onHw fun m h =>
    if !h.ready t [] .solo then h
    else
      let a := (h.thread t).a
      let x := a.level
      let acc := (h.thread t).acc
      if x = .u then h.illegal m t
      else
        let kx := lvlKey x a.secure 2
        let sp := a.crAt kx
        match h.retxRead m t sp with
        | .wait f => f h
        | .flt f => h.raiseAt m t x f sp a.pc
        | .ok err pa fw =>
          let hE := match err with | some e => h.asyncErr t 5 e pa acc.secure | none => h
          let es := fw 1
          let lvl := lvlOf (Word.fld es 10 9)
          let g := Word.fld es 43 32
          let sec := if x = .m then !Word.bit (a.crAt 0xC04) 0 else a.secure
          if Level.num x ≤ Level.num lvl then hE.raise m t x 15 0 sp a.pc
          else if lvl = .h ∧ sec then hE.raise m t x 15 1 sp a.pc
          else if g ≠ 0 ∧ (lvl ≠ .u ∨ sec) then hE.raise m t x 15 2 sp a.pc
          else
            let h1 := hE.applyCtx t
            let b := (h1.thread t).a
            let kst := lvlKey x a.secure 0
            let st := Word.setFld (b.crAt kst) 1 1 (Word.fld es 1 1)
            let b1 := ((((b.setCr kst st).setCr kx (sp + 64)).setCr 1 (fw 4)).setCr 2 (fw 5 &&& ~~~3)).setCr 3 (fw 6 &&& ~~~3)
            let b2 : Arch := { b1.retire with level := lvl, secure := sec, pc := fw 0 &&& ~~~3 }
            let b3 := if g = 0 then b2 else { b2 with resume := none }
            match (if g = 0 then .inr none else h1.resumable m t g) with
            | .inl f => f h
            | .inr (some (n, d)) => (h1.setSlotHdr m t d.pa (Word.setFld d.hdr 63 62 1)).enterCtx t ((d.load n b3).setCr 5 (w64 g))
            | .inr none => h1.enterCtx t (b3.setCr 5 0)

/-- LTOL (R92): the LTOL register takes g[ra][31:0]. -/
def execLtol (t : Nat) (ra : Reg) (s : State) : Host.Outcome State Fault Refusal :=
  s.onHw fun _ h =>
    if !h.ready t [] .solo then h
    else (h.updArch t fun a => a.setCr 4 (w64 ((a.rg ra).toNat % 2 ^ 32))).completeSolo t .seq

/-! ### Geodes -/

/-- The lowest slot below NSLOT whose SLOTMAP bit is 0 (R405). -/
def freeSlot (ctl : Word) : Option Nat := (List.range (Word.fld ctl 55 48)).find? fun s => s < 32 && !Word.bit ctl s

/-- What GEODE.ENTER comes to (R405): a status, an exception, something to be waited for, or the thread's state with what is written. -/
inductive Enter where
  | fail (status : Nat)
  | flt (f : Flt) (va : Word)
  | wait (f : Hw → Hw)
  | go (a : Arch) (f : Hw → Hw)

/-- The fresh entry of GEODE.ENTER into the geode of a control block: the translation of ENTRYVA, then the lowest free slot (R405). -/
def Hw.enterFresh (m : List Host.Cell) (h : Hw) (t : Nat) (ra : Reg) (g : Nat) (v : Vec) : Enter :=
  let a := (h.thread t).a
  let ev := vword v 1
  let r : Regime := ⟨⟨.u, false, 0⟩, a.ctx⟩
  match h.xlate m t false r .fetch ev with
  | .miss => .wait fun h => h.cancelAs t ev .fetch r
  | .flt f => .flt f ev
  | .ok pa _ _ =>
    if pa ≠ vword v 2 then .fail 3
    else match freeSlot (vword v 0) with
      | none => .fail 4
      | some n =>
        let sl := slotPA v n
        match (h.gcbHold m t g v).or (h.slotHold t sl) with
        | some f => .wait f
        | none => .go { a.wg ra (w64 n) with pc := ev &&& ~~~3, slot := n } fun h =>
            (h.slotMap m g v n true).slotStore m t sl
              (leBytes 8 (slotHdr 1 (Level.num a.level) t).toNat ++ leBytes 8 (a.pc + 4).toNat)

/-- The checks of GEODE.ENTER in order (R405). -/
def Hw.enterCheck (m : List Host.Cell) (h : Hw) (t : Nat) (ra : Reg) : Enter :=
  let a := (h.thread t).a
  let w := a.rg ra
  let g := Word.fld w 11 0
  let n := Word.fld w 21 17
  if w.toNat / 2 ^ 22 ≠ 0 ∨ Word.fld w 15 12 ≠ 0 ∨ g = 0 then .fail 1
  else match h.linesRead m t 1 (h.gcb g) with
    | .inl f => .wait f
    | .inr vs =>
      let v := vs.headD 0
      let vmc := vword v 5
      if gcbState v ≠ 2 then .fail 1
      else if Word.bit vmc 63 ∧ (a.crAt 0x804).toNat ≠ Word.fld vmc 15 0 then .fail 2
      else if !Word.bit w 16 then h.enterFresh m t ra g v
      else if Word.fld (vword v 0) 55 48 ≤ n then .fail 4
      else match h.slotLoad m t (slotPA v n) fun _ => true with
        | .inl f => .wait f
        | .inr none => .fail 4
        | .inr (some d) => .go (d.load n a) fun h => h.setSlotHdr m t d.pa (slotHdr 1 (Level.num a.level) t)

/-- GEODE.ENTER (R405): the first check that fails reports its status in g[ra], and the thread goes on outside every geode. -/
def execGeodeEnter (t : Nat) (ra : Reg) (s : State) : Host.Outcome State Fault Refusal :=
  s.onHw fun m h =>
    if !h.ready t [] .solo then h
    else
      let a := (h.thread t).a
      if a.secure ∨ Level.num a.level > 1 ∨ a.geode ≠ 0 then h.illegal m t
      else match h.enterCheck m t ra with
        | .wait f => f h
        | .flt f va => h.raiseFlt m t f va a.pc
        | .fail n => ((h.updArch t fun a => { a with resume := none }).writeG t ra (w64 (2 ^ 63 + n))).completeSolo t .seq
        | .go b f => (f h).enterCtx t { ((b.setCr 5 (w64 (Word.fld (a.rg ra) 11 0))).retire) with level := .u, resume := none }

/-- GEODE.EXIT (R409). -/
def execGeodeExit (t : Nat) (s : State) : Host.Outcome State Fault Refusal :=
  s.onHw fun m h =>
    if !h.ready t [] .solo then h
    else
      let a := (h.thread t).a
      if a.geode = 0 then h.illegal m t
      else match h.linesRead m t 1 (h.gcb a.geode) with
        | .inl f => f h
        | .inr vs =>
          let v := vs.headD 0
          let sl := slotPA v a.slot
          match h.linesRead m t 1 sl with
          | .inl f => f h
          | .inr ls =>
            match (h.gcbHold m t a.geode v).or (h.slotHold t sl) with
            | some f => f h
            | none =>
              let hdr := vword (ls.headD 0) 0
              let h1 := (h.setSlotHdr m t sl (Word.setFld hdr 63 62 0)).slotMap m a.geode v a.slot false
              h1.enterCtx t { ((a.setCr 5 0).retire) with level := lvlOf (Word.fld hdr 61 60), pc := vword (ls.headD 0) 1 &&& ~~~3 }

/-! ### Cache maintenance -/

/-- The translation of an address grants W at every stage (R216): by the entry that gives it; with no stage on, always. -/
def Hw.grantsW (m : List Host.Cell) (h : Hw) (t : Nat) (va : Word) : Bool :=
  match h.xlate m t false (h.thread t).regime .cmo va with
  | .ok _ _ (some e) => (e.s1lvl == 9 || decide (e.s1 / 2 % 2 = 1)) && (e.s2lvl == 9 || decide (e.s2 / 2 % 2 = 1))
  | _ => true

/-- A CMO takes a store-buffer entry (R98, R99, R214, R215). By address it is translated as a load without marks; an invalidate that U
executes, or of a page without write permission, is a clean-and-invalidate. By set and way it is for M. -/
def Hw.cmo (m : List Host.Cell) (h : Hw) (t : Nat) (ra : Reg) (op : Nat) (setWay : Bool) (target : Nat) : Hw :=
  if !h.ready t [destG ra] .mem then h
  else
    let x := h.thread t
    let v := x.a.rg ra
    let put := fun (pa : Word) (mt : MemType) (tg : Option Target) (op : Nat) =>
      if x.b.sbFree = 0 then h
      else (h.updBack t fun b =>
        { b with sb := b.sb ++ [⟨lineNo pa, pa, mt, 0, 0, false, .cmo op setWay target v, x.acc, tg, b.fresh⟩] }).complete t .seq
    if target = 3 then h.illegal m t
    else if setWay then (if x.a.level = .m then put 0 .wb none op else h.illegal m t)
    else
      match x2One m h t ⟨.cmo, 4, true, true, false, false⟩ (v &&& ~~~63) 64 0 with
      | .miss va => h.cancel t va .cmo
      | .ok (p :: _) => put p.pa p.mt (some p.tg) (if op = 1 ∧ (x.a.level = .u ∨ !h.grantsW m t (v &&& ~~~63)) then 2 else op)
      | .ok [] => h
      | .flt f va => h.raiseFlt m t f va x.a.pc

/-- CMO, op 0: clean (R98). -/
def execCmoClean (t : Nat) (ra : Reg) (setWay : Bool) (target : BitVec 2) (s : State) : Host.Outcome State Fault Refusal :=
  s.onHw fun m h => h.cmo m t ra 0 setWay target.toNat

/-- CMO, op 1: invalidate (R98). -/
def execCmoInvalidate (t : Nat) (ra : Reg) (setWay : Bool) (target : BitVec 2) (s : State) : Host.Outcome State Fault Refusal :=
  s.onHw fun m h => h.cmo m t ra 1 setWay target.toNat

/-- CMO, op 2: clean and invalidate (R98). -/
def execCmoCleanInvalidate (t : Nat) (ra : Reg) (setWay : Bool) (target : BitVec 2) (s : State) :
    Host.Outcome State Fault Refusal :=
  s.onHw fun m h => h.cmo m t ra 2 setWay target.toNat

/-! ### TLB invalidation -/

/-- The TLB entries that a TLBI removes (R196). -/
def Tlbi.hits (q : Tlbi) (e : TlbEntry) : Bool :=
  let same := e.secure == q.secure && (q.secure || e.vmid == q.vmid)
  let va := e.vpn / 512 ^ e.size == q.a.toNat / 4096 / 512 ^ e.size
  match q.fn with
  | 0 => same && e.s1lvl != 9
  | 1 => same && va && (e.glob || e.asid == Word.fld q.b 15 0)
  | 2 => same && !e.glob && e.asid == Word.fld q.b 15 0
  | 3 => same && va
  | 4 | 5 => !e.secure && e.vmid == Word.fld q.b 15 0
  | _ => q.lvl == .m || !e.secure

/-- The walk-cache entries that a TLBI removes (R196). -/
def Tlbi.hitsWc (q : Tlbi) (e : WcEntry) : Bool :=
  match q.fn with
  | 4 => !e.secure && e.vmid == Word.fld q.b 15 0 && (!e.stage2 || e.key == q.a.toNat / 2 ^ (12 + 9 * e.lvl))
  | 5 => !e.secure && e.vmid == Word.fld q.b 15 0
  | 6 => q.lvl == .m || !e.secure
  | _ => e.secure == q.secure && (q.secure || e.vmid == q.vmid)

/-- The matching entries leave every core of the node, and walks in flight are marked to be discarded; what ended walks found for accesses that
have not been made again is forgotten (R196). -/
def Hw.tlbiRemove (h : Hw) (q : Tlbi) : Hw :=
  { h with threads := h.threads.map fun p => (p.1, { p.2 with b := { p.2.b with walkEnds := [] } })
           cores := h.cores.map fun p => (p.1,
      { p.2 with
        itlb := p.2.itlb.filter fun e => !q.hits e
        dtlb := p.2.dtlb.filter fun e => !q.hits e
        tlb := p.2.tlb.filter fun e => !q.hits e.2
        wcache := p.2.wcache.filter fun e => !q.hitsWc e.2
        walkers := p.2.walkers.map fun w => (w.1, { w.2 with discard := true }) })
           slices := h.slices.map fun p => (p.1,
      { p.2 with
        ctxs := p.2.ctxs.map fun c => (c.1, { c.2 with flts := [] })
        ttlb := p.2.ttlb.filter fun e => !q.hits e.2
        walkers := (p.2.walkers.filter fun w => w.2.sent).map fun w => (w.1, { w.2 with discard := true }) }) }

/-- A TLBI issues (R100): its scope is fixed by its level; it completes at TLBI_COMPLETE. -/
def Hw.tlbiOp (m : List Host.Cell) (h : Hw) (t : Nat) (ra rb : Reg) (fn : Nat) (lvl : Nat) : Hw :=
  if !h.ready t [] .solo then h
  else
    let a := (h.thread t).a
    if Level.num a.level < lvl then h.illegal m t
    else
      let sec := match a.level with
        | .m => !Word.bit (a.crAt 0xC04) 1
        | .h => false
        | _ => a.secure
      h.updBack t fun b => { b with tlbi := some ⟨fn, a.rg ra, a.rg rb, a.level, sec, (a.crAt 0x804).toNat, false, []⟩ }

/-- TLBI, fn 0 (R100). -/
def execTlbiVmidStage1 (t : Nat) (ra rb : Reg) (s : State) : Host.Outcome State Fault Refusal :=
  s.onHw fun m h => h.tlbiOp m t ra rb 0 1
/-- TLBI, fn 1 (R100). -/
def execTlbiVaAsid (t : Nat) (ra rb : Reg) (s : State) : Host.Outcome State Fault Refusal :=
  s.onHw fun m h => h.tlbiOp m t ra rb 1 1
/-- TLBI, fn 2 (R100). -/
def execTlbiAsid (t : Nat) (ra rb : Reg) (s : State) : Host.Outcome State Fault Refusal :=
  s.onHw fun m h => h.tlbiOp m t ra rb 2 1
/-- TLBI, fn 3 (R100). -/
def execTlbiVa (t : Nat) (ra rb : Reg) (s : State) : Host.Outcome State Fault Refusal :=
  s.onHw fun m h => h.tlbiOp m t ra rb 3 1
/-- TLBI, fn 4 (R100). -/
def execTlbiIaVmid (t : Nat) (ra rb : Reg) (s : State) : Host.Outcome State Fault Refusal :=
  s.onHw fun m h => h.tlbiOp m t ra rb 4 2
/-- TLBI, fn 5 (R100). -/
def execTlbiVmid (t : Nat) (ra rb : Reg) (s : State) : Host.Outcome State Fault Refusal :=
  s.onHw fun m h => h.tlbiOp m t ra rb 5 2
/-- TLBI, fn 6 (R100). -/
def execTlbiAll (t : Nat) (ra rb : Reg) (s : State) : Host.Outcome State Fault Refusal :=
  s.onHw fun m h => h.tlbiOp m t ra rb 6 2

/-- A completion record of a context is on its way (R269, R275). -/
def ChCtx.recOut (x : ChCtx) : Bool := match x.recd with | some none => true | _ => false

/-- What is in flight (R196 condition 4, R269): on the threads that have anything, operations and blocks below a number and store-buffer entries
up to a count, those that have left and are not performed among them; in engine contexts, numbered from 2,048 on, the descriptor, and the units
before the next, with 2^64 more for a record that is out. -/
def Hw.inFlight (h : Hw) : List (Nat × Nat × Nat) :=
  (h.threads.filterMap fun p =>
    let b := p.2.b
    if b.longs.all (·.ready) && b.sb.isEmpty && b.vstWait.isEmpty && b.outs.isEmpty && b.ext.all (·.done) && b.fext.all (·.done) then none
    else some (p.1, max b.fresh b.nextId, b.popped + b.sb.length + b.vstWait.length))
  ++ h.slices.flatMap fun s => s.2.ctxs.map fun c =>
    (2048 + 4 * s.1 + c.1, c.2.inst * 2 ^ 32 + c.2.desc.seq, c.2.next + if c.2.recOut then 2 ^ 64 else 0)

/-- An in-flight mark has passed. -/
def Hw.passed (h : Hw) (w : Nat × Nat × Nat) : Bool :=
  if 2048 ≤ w.1 then
    match sfind ((w.1 - 2048) % 4) (h.slice ((w.1 - 2048) / 4)).ctxs with
    | some x => decide (x.inst * 2 ^ 32 + x.desc.seq ≠ w.2.1)
        || ((x.units.all fun u => decide (w.2.2 % 2 ^ 64 ≤ u.pos)) && !(decide (2 ^ 64 ≤ w.2.2) && x.recOut))
    | none => true
  else
    let b := (h.thread w.1).b
    b.longs.all (fun o => o.ready || decide (w.2.1 ≤ o.id)) && decide (w.2.2 ≤ b.popped) && b.outs.all (fun o => decide (w.2.2 ≤ o.2.2))
      && (b.ext ++ b.fext).all fun e => e.done || decide (w.2.1 ≤ e.id)

/-- The arguments of the Gallery's TLBI (R360): fn, world of the issuer and whether it is M in ARG; operands and VMID in the data. -/
def Tlbi.arg (q : Tlbi) : Nat := q.fn + 8 * b2n q.secure + 16 * Level.num q.lvl
def Tlbi.data (q : Tlbi) : Vec := lineOf [q.a, q.b, w64 q.vmid]

/-- Some walk of a core or an engine is discarded and has not ended (R196). -/
def Hw.discarding (h : Hw) : Bool :=
  h.cores.any (fun p => p.2.walkers.any fun w => w.2.discard) || h.slices.any fun p => p.2.walkers.any fun w => w.2.discard

/-- TLBI_COMPLETE (R196): the conditions in order. Once the stores are performed, the entries are removed here and the other group members
are asked to remove theirs; once no discarded walk, no access of before and no member is awaited, the TLBI completes. -/
def execTlbiComplete (t : Nat) (s : State) : Host.Outcome State Fault Refusal :=
  s.onHw fun _ h =>
    match (h.thread t).b.tlbi with
    | none => h
    | some q =>
      let h1 :=
        if q.removed then h
        else if !h.storesDone t then h
        else
          let h1 := (h.tlbiRemove q).updBack t fun b => { b with tlbi := some { q with removed := true, wait := h.inFlight } }
          (h1.askAll h.others fun h i => h.galReq (.tlbi t) 0x38 i 0 q.arg false 0 q.data).getD h
      match (h1.thread t).b.tlbi with
      | none => h1
      | some q =>
        if q.removed && !h1.discarding && q.wait.all h1.passed && !h1.gtags.any (fun p => p.2.who == .tlbi t) then
          (h1.updBack t fun b => { b with tlbi := none }).completeSolo t .seq
        else h1

end Sys2Proof.Machine
end

