-- ==== Sys2Proof/Machine/ExecLink.lean ====
section
/-! DEFINITION. Commands of links and ports (chapter 13): training and failure, flits, routes, Gallery messages, Passage packets, and
what devices send below a root port. -/

namespace Sys2Proof.Machine

/-! ### Answers from other nodes -/

/-- What an answer brings: data, an acknowledgement, or ERR n. -/
inductive Ans where
  | data (v : Vec) (poison : Bool)
  | ok
  | err (n : Nat)

/-- Where the bytes that a thread waits for begin in the data slot of an answer. -/
def Hw.answerAt (h : Hw) : Waiter → Nat
  | .load t id i => match (h.longOf t id).bind fun o => o.parts[i]? with
    | some p => p.pa.toNat % 64
    | none => 0
  | .ext t fetch id => match ((h.thread t).extOf fetch).find? fun e => e.id == id with
    | some e => e.pa.toNat % 64
    | none => 0
  | _ => 0

/-- An answer that came by the stop `src` leaves for the thread that waits for it (R55, R94, R161, R171, R193). -/
def Hw.answerTo (h : Hw) (src : Nat) (w : Waiter) (pa : Word) (a : Ans) : Hw :=
  match a with
  | .data v p => h.answerCore src false w pa (vput 0 0 (vbytes v (h.answerAt w) 64)) (if p then 2 else 0)
  | .ok => h.answerCore src false w pa 0 0
  | .err n => h.answerCore src false w pa 0 (n + 1)

/-- What a slice asked another node for has come, or an ERR (R224, R229, R256, R368): data of the line, the old value of a far atomic, the
right to the line, or the word that a write is done. Dirty data that a holder of this node gave meanwhile is newer. -/
def Hw.lineFill (m : List Host.Cell) (h : Hw) (s l st : Nat) (a : Ans) : Hw :=
  match h.txn s l with
  | none => h
  | some x =>
    if !x.asked ∨ x.came then h
    else
      let h1 := match a, x.req.kind with
        | .data _ _, .far _ => h
        | .data v p, _ => if x.dirty then h else (h.setNewest l v).carry l p
        | _, _ => h
      let y := fun (y : Txn) => { y with
        came := true
        shared := decide (st = 1 ∨ st = 3)
        dirty := y.dirty || decide (3 ≤ st)
        err := match a with | .err n => n + 1 | _ => 0
        old := match a with | .data v _ => v | _ => 0 }
      ((h1.updTxn s l y).advance m s l).pumpSlice m s

/-- A request's snoop of position `pos` is answered; with "writeback in flight" the request waits for that writeback, unless it has come
(R236). -/
def Txn.snooped (x : Txn) (pos kind : Nat) : Txn :=
  let waits := decide (kind = 2) && x.remote.contains pos
  { x with
    remote := x.remote.filter fun p => p != pos && p != 200 + pos
    wbWait := if waits then x.wbWait ++ [100 + pos] else x.wbWait
    got := x.got || decide (kind = 1)
    away := x.away || (decide (kind = 1) && !x.req.kind.unique)
    dirty := x.dirty || (decide (kind = 1) && x.req.kind.unique) }

/-- A member's answer to a snoop of this node's line: 0 no copy, 1 dirty data, 2 writeback in flight (R229, R231, R236). Dirty data
reaches memory at once. -/
def snoopAns (s l pos kind : Nat) (inv : Bool) (v : Vec) (poison : Bool) (q : List Host.Cell × Hw) : List Host.Cell × Hw :=
  let h := q.2
  let who := Waiter.line s l
  let h1 :=
    if kind = 2 then h
    else if inv then
      let d := h.dirDrop l pos
      if (h.gtags.any fun p => p.2.who == who) || (d.slice s).dirLook l != none then d else d.dirClear l
    else h.dirShare l
  let p : List Host.Cell × Hw :=
    if kind = 1 then
      (memPut (lineLocal l) (vbytes v 0 64) q.1, (if (sfind l h1.newest).isSome then (h1.setNewest l v).carry l poison else h1).setPoison l poison)
    else (q.1, h1)
  (p.1, ((p.2.updTxn s l fun x => x.snooped pos kind).advance p.1 s l).pumpSlice p.1 s)

/-- The writeback of a line was acknowledged, or refused with an error: its buffer entry is free, what waited for it goes on, and with the last
copy its value is forgotten (R234, R271). -/
def Hw.wbDone (m : List Host.Cell) (h : Hw) (s l : Nat) (a : Ans) : Hw :=
  let h1 := h.updSlice s fun x => { x with wbb := x.wbb.filter fun e => e.2.line != l || !e.2.issued }
  let h2 := match a with
    | .err n => h1.updTxn s l fun x => if x.wr then { x with err := n + 1 } else x
    | _ => h1
  (h2.pumpSlice m s).forget l

/-- Ownership for a write of another member's line is here: the bytes that waited are merged and the line is written back (R360). -/
def Hw.proxyWrite (h : Hw) (src : Nat) (x : GTag) (a : Ans) : Hw :=
  let l := sget 0 x.msg.dpos h.group * 2 ^ 42 + x.msg.line.toNat
  let s := sliceOf l
  let off := x.msg.arg.toNat / 128
  let n := x.msg.arg.toNat % 128
  let base := match sfind l h.newest, a with
    | some v, _ => v
    | none, .data v _ => v
    | none, _ => 0
  let bad := decide (n < 64) && (h.poisoned l || (match a with | .data _ p => p | _ => false))
  let h1 := (h.dropHolders l).vatDrop s l
  let h2 := { h1 with newest := sdel l h1.newest, under := sdel l h1.under, carried := sdel l h1.carried }
  match h2.galReq x.who 0x20 x.msg.dpos x.msg.line.toNat 0 bad 4 (vput base off (vbytes x.msg.data off n)) with
  | some h3 => h3
  | none => h2.answerTo src x.who (w64 (l * 64 + off)) (.err 3)

/-- An answer over the Gallery, or the end of a tag with ERR n, in the state without the tag; what is for a thread leaves the stop `src`. -/
def galDone (src : Nat) (x : GTag) (op st : Nat) (a : Ans) (p : List Host.Cell × Hw) : List Host.Cell × Hw :=
  let m := p.1
  let h := p.2
  let pos := x.msg.dpos
  match x.who with
  | .line s l =>
    if x.op = 0x10 ∨ x.op = 0x11 then
      let away := sget 0 l h.dirMem
      let sum := match (h.slice s).dirLook l with
        | some k => (sget ⟨l, 0, 0, 0⟩ k (h.slice s).dir).summary
        | none => away
      match a with
      | .data v b => snoopAns s l pos 1 (x.op == 0x11) v b p
      | .ok => snoopAns s l pos (if op = 0x33 then 2 else 0) (x.op == 0x11) 0 false p
      | .err _ => snoopAns s l pos (if 2 ≤ sum then 1 else 0) true (lineVal m h l) true p
    else if x.op = 0x20 then (m, h.wbDone m s l a)
    else (m, h.lineFill m s l st a)
  | w =>
    let pa := w64 (sget 0 pos h.group * 2 ^ 48 + x.msg.line.toNat * 64
      + x.msg.arg.toNat / 128 % 64)
    match a with
    | .err n => (m, h.answerTo src w pa (.err n))
    | _ => if (x.op = 2 ∨ x.op = 4) then (m, h.proxyWrite src x a) else (m, h.answerTo src w pa a)

/-- A tag ends with an ERR; what waited for a tag goes on. -/
def endTag (tag err : Nat) (p : List Host.Cell × Hw) : List Host.Cell × Hw :=
  match sfind tag p.2.gtags with
  | none => p
  | some x =>
    let q := galDone (portStop 8) x 0x35 0 (.err err) (p.1, { p.2 with gtags := sdel tag p.2.gtags })
    (q.1, q.2.pumpAll q.1)

/-- An answer arrives at port k (R359, R360); an unrouted ERR makes its source resend once, later (R362). -/
def galAnswerIn (k op : Nat) (g : GMsg) (p : List Host.Cell × Hw) : List Host.Cell × Hw :=
  let h := p.2
  match sfind g.tag h.gtags with
  | none => p
  | some x =>
    let arg := g.arg.toNat
    let unrouted := op = 0x35 ∧ arg / 16 % 2 = 1
    if unrouted ∧ x.msg.line ≠ g.line then p
    else if unrouted ∧ !x.resent then (p.1, { h with gtags := sset g.tag { x with delay := true } h.gtags })
    else
      let a := if op = 0x30 ∨ op = 0x32 ∨ op = 0x34 then Ans.data g.data g.poison
        else if op = 0x35 then .err (if unrouted then 3 else arg % 16) else .ok
      let q := galDone (portStop k) x op g.state a (p.1, { h with gtags := sdel g.tag h.gtags })
      (q.1, q.2.pumpAll q.1)

/-! ### Training and failure -/

/-- LINK_TRAINING (R346): a link starts training after reset, link-down or a retrain request. -/
def execLinkTraining (k j : Nat) (s : State) : Host.Outcome State Fault Refusal := s.onHw fun _ h => h.startTraining k j

/-- What R347 and R371 make of a good partner: REASON of an up link and its rate, or the REASON of one that is held down: beyond its reach, or
without a healthy part (R346). `w` is the width it comes up with, `lf` its failed lanes. -/
def trainGood (k full rate w loss reach lf : Nat) : Sum Nat (Nat × Nat) :=
  if w = 0 then .inl (if 8 ≤ k then 6 else 1)
  else if 8 ≤ k ∧ (if k < 14 then 500 else 1500) < reach then .inl 5
  else if 8 ≤ k ∧ 128 < loss then .inr (5, 8)
  else .inr (if w < full ∧ lf ≠ 0 then 6 else 0, if 8 ≤ k then (if rate = 7 then 7 else 8) else max 1 (min rate 6))

/-- The identity that a Gallery link's partner sends is wrong (R348): its node is in no valid REGCHK.GROUP entry, its position is not the
neighbour's, or the link is not the one wired (R357). -/
def Hw.wrongIdentity (h : Hw) (k : Nat) (p : Partner) : Bool :=
  decide (8 ≤ k) && decide (k < 14) && (!(h.group.any fun g => g.2 == p.node) || decide (h.ownPos.map (· ^^^ h.diffOf (k - 8)) ≠ some p.pos)
    || decide (p.link ≠ k - 8))

/-- LINK_TRAINING_DONE (R346 to R348, R371): what training met (`Partner`), `width` the lanes in common. A Gallery or Passage
link has 50 ms. Lanes that patrol found bad are among the failed ones (R473). -/
def execLinkTrainingDone (k j : Nat) (partner : Partner) (rate width loss reach margin : Nat) (lanefail : BitVec 16) (proto : Nat)
    (s : State) : Host.Outcome State Fault Refusal :=
  s.onHw fun _ h =>
    if 18 ≤ k ∨ 16 ≤ j ∨ !(h.link k j).training then h
    else
      let full := h.formed k j
      let kept := h.linkState k j = 3
      let late := 8 ≤ k ∧ (h.link k j).since + 1250000 < h.time.toNat
      let lf := (lanefail ||| BitVec.ofNat 16 (sget 0 k h.badLanes)).toNat
      let mine := lf / 2 ^ j % 2 ^ full
      let w := linkWidth k j full width lf
      let stat := fun (st reason w r pr : Nat) => w64 (st * 2 ^ 61 + reason * 2 ^ 57 + w % 32 * 2 ^ 52 + r % 16 * 2 ^ 48 + min loss 255 * 2 ^ 40
          + (if k < 8 then 0 else min reach 4095) * 2 ^ 28 + pr * 2 ^ 24 + min margin 255 * 2 ^ 16 + lf)
      let good := if late then .inl 4
        else if partner.kind = 0 then .inl 1
        else if partner.kind = 2 then .inl 2
        else if partner.kind = 1 then (if h.wrongIdentity k partner then .inl 3 else trainGood k full rate w loss reach mine)
        else .inl (if partner.kind = 6 then 6 else 4)
      match good with
      | .inr (reason, r) =>
        let pr := if k < 8 then (if proto = 2 ∧ Word.bit (h.reg (linkReg k 0)) 17 then 2 else 1) else if k < 14 then 3 else 4
        let h1 := h.updLink k j fun l =>
          if kept ∨ l.failing then { l with training := false } else { Link.reset with retrains := l.retrains }
        h1.setStat k j (stat 2 reason w r pr)
      | .inl reason =>
        let h1 := if reason = 3 then h.incident 0x50 5 onesW 0 (blockId 4 k) (h.portSecure k) else h
        let h2 := if h1.linkUp k j then h1.linkFall k j reason else h1
        let v := if reason = 1 then w64 (2 ^ 61 + 2 ^ 57 + lf) else stat 1 reason 0 0 0
        let h3 := (h2.updLink k j fun l => { l with training := false }).setStat k j v
        if (reason = 3 ∨ reason = 5) ∧ !h1.linkUp k j then h3.linkRecord k j v else h3

/-- LINK_DOWN (R348, R352, R364): a link goes down with a REASON of R371. -/
def execLinkDown (k j reason : Nat) (s : State) : Host.Outcome State Fault Refusal :=
  s.onHw fun _ h => if 18 ≤ k ∨ 16 ≤ j ∨ reason = 0 ∨ 10 ≤ reason then h else h.linkFall k j reason

/-! ### Flits (R355, R356) -/

/-- Flits up to an acknowledged sequence number leave the retry buffer. -/
def Link.acked (l : Link) (a : Nat) : Link :=
  { l with retry := l.retry.dropWhile fun p => decide ((a + 4096 - p.1) % 4096 < 2048) }

/-- The Gallery messages of a failed link that are not acknowledged, oldest first. -/
def Link.unacked (l : Link) : List (Nat × GMsg) :=
  (l.retry.map (·.2) ++ l.wait).filterMap fun x => match x with
    | .gal op g => some (op, g)
    | _ => none

/-- The failover of a link ends: it is empty, and what was held for its positions goes (R364). -/
def Hw.failoverEnd (h : Hw) (k : Nat) : Hw :=
  let held := (h.link k 0).held
  let h1 := h.updLink k 0 fun l => { l with retry := [], wait := [], failing := false, heldPos := [], held := [] }
  held.foldl (fun (h : Hw) x => (h.galSend (portStop k) x.1 x.2.lane x.2).1) h1

/-- Link 5 covers Gallery link k and is up (R363, R364). -/
def Hw.covered (h : Hw) (k : Nat) : Bool :=
  let sp := h.reg (linkReg 8 0x3000)
  decide (Word.fld sp 5 4 = 1 ∨ Word.fld sp 5 4 = 2) && decide (k = 8 + Word.fld sp 2 0) && h.linkUp 13 0

/-- The partner's receive sequence number for a failed link has come: what it has not received is sent again, on link 5 or over the
recomputed route, over the mesh (R19, R364). -/
def Hw.failoverExchange (h : Hw) (k got : Nat) : Hw :=
  let h1 := h.updLink k 0 fun l => l.acked got
  let ms := (h1.link k 0).unacked
  let h2 := h1.updLink k 0 fun l => { l with heldPos := [] }
  let h3 := ms.foldl (fun (h : Hw) x => if h.covered k then h.toLink (portStop k) 13 0 (.gal x.1 x.2) else (h.galSend (portStop k) x.1 x.2.lane x.2).1) h2
  h3.failoverEnd k

/-- The failed link that a control flit on port k is about: COVER on link 5, else the lowest. -/
def Hw.failedLink (h : Hw) (k : Nat) : Option Nat :=
  let fs := (List.range 6).filterMap fun i => if (h.link (8 + i) 0).failing then some (8 + i) else none
  if k = 13 then (fs.find? h.covered).or fs.head? else fs.head?

/-- FLIT_RECEIVE (R355, R356, R364): a flit of a Gallery or Passage link. A good flit acknowledges; NAK replays; a payload flit in sequence
is accepted (its messages are commands of their own: log 20); a reserved FTYPE takes the link down. -/
def execFlitReceive (k j : Nat) (fseq ackseq : BitVec 12) (nak : Bool) (ftype : BitVec 3) (good : Bool) (s : State) :
    Host.Outcome State Fault Refusal :=
  s.onHw fun _ h =>
    if k < 8 ∨ 18 ≤ k ∨ 16 ≤ j ∨ !h.linkUp k j then h
    else if !good then h.updLink k j fun l => { l with nak := true }
    else if 3 ≤ ftype.toNat then h.linkFall k j 8
    else
      let l0 := h.link k j
      match (if ftype = 2 ∧ k < 14 then h.failedLink k else none) with
      | some f => h.failoverExchange f ackseq.toNat
      | none =>
        let l1 := l0.acked ackseq.toNat
        let moved := l1.retry.length < l0.retry.length
        let l2 := { l1 with replays := (if moved then 0 else l1.replays) + if nak && !l1.retry.isEmpty then 1 else 0 }
        let l3 := if ftype ≠ 0 then l2
          else if fseq.toNat = l2.expect then { l2 with expect := (l2.expect + 1) % 4096, nak := false }
          else { l2 with nak := true }
        let l4 := l3.pump l3.wait.length
        let h1 := h.updLink k j fun _ => l4
        if l4.replays = 4 then h1.retrain k j else h1

/-- A message that no route leads on is discarded; its source hears of it (R362). -/
def unroute (k : Nat) (x : Nat × GMsg) (p : List Host.Cell × Hw) : List Host.Cell × Hw :=
  let h := p.2
  if some x.2.spos = h.ownPos then
    (if 5 < galClass x.1 ∨ galClass x.1 = 4 then p
     else galAnswerIn k 0x35 { x.2 with arg := 19 } p)
  else (p.1, h.galAnswer (portStop k) 0x35 x.2 0 19 false 0)

/-- FAILOVER_TIMEOUT (R364): the exchange has not come within 20 µs; what was not acknowledged is discarded as unrouted. -/
def execFailoverTimeout (k : Nat) (s : State) : Host.Outcome State Fault Refusal :=
  s.onAll fun m h =>
    if k < 8 ∨ 14 ≤ k ∨ !(h.link k 0).failing then (m, h)
    else
      let ms := (h.link k 0).unacked
      ms.foldl (fun p x => unroute k x p) (m, h.failoverEnd k)

/-! ### Link state and routes (R358, R365) -/

/-- LINK_STATE_MESSAGE (R358): a message with the links up at a position arrives on a Gallery link; a new one is kept and forwarded once. -/
def execLinkStateMessage (k pos : Nat) (mask : BitVec 6) (change : Nat) (s : State) : Host.Outcome State Fault Refusal :=
  s.onHw fun _ h =>
    if k < 8 ∨ 14 ≤ k ∨ 16 ≤ pos ∨ !h.linkUp k 0 then h
    else
      let new := match sfind pos h.lsMap with
        | some e => decide (e.2 < change)
        | none => true
      let h1 := if new then h.bump (linkReg 8 0x3200) 1 else h
      if new && some pos != h.ownPos then
        ({ h1 with lsMap := sset pos (mask.toNat, change) h1.lsMap }).flood pos mask.toNat change (some k)
      else h1

/-- The link of this socket that carries the traffic of link i, when one of them is up: link i itself, or link 5 in its place. -/
def Hw.ownLink (h : Hw) (i : Nat) : Option Nat :=
  if h.linkUp (8 + i) 0 then some i else if h.covered (8 + i) then some 5 else none

/-- Position p is joined to position p xor diff by a link that is up at both ends. -/
def Hw.joined (h : Hw) (own p i : Nat) : Bool :=
  let q := p ^^^ linkDiff i
  let has := fun (x j : Nat) => decide ((sget (0, 0) x h.lsMap).1 / 2 ^ j % 2 = 1)
  if p = own then
    (match h.ownLink i with
     | some j => has q j
     | none => false)
  else if q = own then (match h.ownLink i with
     | some j => has p j
     | none => false)
  else has p i && has q i

/-- A route of at most n hops leads from p to d. -/
def Hw.reaches (h : Hw) (own : Nat) : Nat → Nat → Nat → Bool
  | 0, p, d => p == d
  | n + 1, p, d => p == d || (List.range 5).any fun i => h.joined own p i && Hw.reaches h own n (p ^^^ linkDiff i) d

/-- The entry of a destination: the lowest first hop among the shortest routes of 1 to 3 hops (R358). -/
def Hw.routeTo (h : Hw) (own d : Nat) : Word :=
  if d = own then 0
  else match [1, 2, 3].find? fun n => h.reaches own n own d with
    | none => 0
    | some n =>
      match (List.range 5).find? fun i => h.joined own own i && h.reaches own (n - 1) (own ^^^ linkDiff i) d with
      | some i => w64 (128 + (h.ownLink i).getD i * 16 + n)
      | none => 0

/-- A member that was reachable is so no more (R365): an incident, and the end of everything owed by it. -/
def unreach (d : Nat) (p : List Host.Cell × Hw) : List Host.Cell × Hw :=
  let h1 := p.2.incident 0x42 d 0 0 (blockId 4 8) false
  let tags := (h1.gtags.filter fun t => t.2.msg.dpos == d).map (·.1)
  tags.foldl (fun p t => endTag t 3 p) (p.1, h1)

/-- ROUTE_RECOMPUTE (R358, R365): every GALLERY.ROUTE_d from the link-state map. -/
def execRouteRecompute (s : State) : Host.Outcome State Fault Refusal :=
  s.onAll fun m h =>
    match h.ownPos with
    | none => (m, h)
    | some own =>
      let h1 := (List.range 16).foldl (fun (g : Hw) d => g.setReg (linkReg 8 (0x3100 + 8 * d)) (h.routeTo own d)) h
      let lost := (h.group.map (·.1)).filter fun d => (h.route d).isSome && (h1.route d).isNone
      lost.foldl (fun p d => unreach d p) (m, h1)

/-- GALLERY_FORWARD (R362): the oldest message for another position that came by port k goes on, or is discarded. -/
def execGalleryForward (k : Nat) (s : State) : Host.Outcome State Fault Refusal :=
  s.onHw fun _ h =>
    if k < 8 ∨ 14 ≤ k then h
    else match (h.link k 0).fwd with
      | [] => h
      | (op, g) :: r =>
        let h1 := h.updLink k 0 fun l => { l with fwd := r }
        let sent := if 2 ≤ g.lane then (h1, false) else h1.galSend (portStop k) op (g.lane + 1) g
        if sent.2 then sent.1 else h1.galAnswer (portStop k) 0x35 g 0 19 false 0

/-- UNROUTED_RESEND (R362): a message that came back unrouted is sent again, once. -/
def execUnroutedResend (tag : Nat) (s : State) : Host.Outcome State Fault Refusal :=
  s.onAll fun m h =>
    match sfind tag h.gtags with
    | none => (m, h)
    | some x =>
      if !x.delay then (m, h)
      else
        let clean := match x.op with
          | 2 | 4 => { x.msg with data := 0, arg := 0 }
          | _ => x.msg
        let h1 := { h with gtags := sset tag { x with delay := false, resent := true } h.gtags }
        let r := h1.galSend (x.who.stop x.msg.line.toNat) x.op 0 clean
        if r.2 then (m, r.1) else endTag tag 3 (m, h1)

/-! ### Gallery messages (R229, R359, R360) -/

/-- The entries of a class and lane that are taken at a port (R361): by messages that wait to be forwarded, and by those that wait for their
intake credit. -/
def Hw.galHeld (h : Hw) (k op lane : Nat) : Nat :=
  let mine := fun (o : Nat) (l : Nat) => galClass o == galClass op && l == lane
  (((h.link k 0).fwd ++ (h.link k 0).mnt).filter fun x => mine x.1 x.2.lane).length
    + (h.posts.filter fun p => p.src == portStop k && (match p.payload with
      | .req _ r => (match r.src with
        | .gallery _ _ _ l => mine 1 l
        | .gfar _ g => mine 1 g.lane
        | _ => false)
      | .galSnoop _ _ _ g => mine 0x10 g.lane
      | .galWb _ _ _ g => mine 0x20 g.lane
      | _ => false)).length

/-- A Gallery message arrives on port k: reserved fields and one that finds no entry of its class and lane take the link down (R348, R361), a
message for another position waits to be forwarded (R362). -/
def State.onGal (s : State) (k op : Nat) (g : GMsg) (f : List Host.Cell → Hw → List Host.Cell × Hw) : Host.Outcome State Fault Refusal :=
  s.onAll fun m h =>
    if k < 8 ∨ 14 ≤ k ∨ !h.linkUp k 0 then (m, h)
    else if 3 ≤ g.lane ∨ 5 ≤ g.state ∨ 16 ≤ g.spos ∨ 16 ≤ g.dpos ∨ 4096 ≤ g.tag ∨ classEntries (galClass op) ≤ h.galHeld k op g.lane then
      (m, h.linkFall k 0 8)
    else if h.ownPos = some g.dpos then f m h
    else (m, h.updLink k 0 fun l => { l with fwd := l.fwd ++ [(op, g)] })

/-- A request of another node leaves its port for its home slice with a credit (R229, R237, R238); an address with no target is refused
(R25). -/
def Hw.galRequest (h : Hw) (k : Nat) (g : GMsg) (kind : ReqKind) (mark : Nat) : Hw :=
  let l := h.ownLineOf g
  if !h.lineThere l then h.galRefuse (portStop k) k g 4
  else h.postReq (sliceOf l) ⟨kind, l, .gallery k g.spos (g.tag + 4096 * mark) g.lane, ⟨.s, false, 0⟩, false, 16, false, none⟩

/-- RDS (R360): read shared. -/
def execRds (k : Nat) (msg : GMsg) (s : State) : Host.Outcome State Fault Refusal :=
  s.onGal k 0x01 msg fun m h => (m, h.galRequest k msg .readShared 0)

/-- RDU (R360): read unique. -/
def execRdu (k : Nat) (msg : GMsg) (s : State) : Host.Outcome State Fault Refusal :=
  s.onGal k 0x02 msg fun m h => (m, h.galRequest k msg .readUnique 0)

/-- UPG (R360): upgrade. -/
def execUpg (k : Nat) (msg : GMsg) (s : State) : Host.Outcome State Fault Refusal :=
  s.onGal k 0x03 msg fun m h => (m, h.galRequest k msg .upgrade 2)

/-- OWN (R360): ownership without data. -/
def execOwn (k : Nat) (msg : GMsg) (s : State) : Host.Outcome State Fault Refusal :=
  s.onGal k 0x04 msg fun m h => (m, h.galRequest k msg .readUnique 1)

/-- FAR (R251, R253, R256, R360): a far atomic goes to its home engine with its memory type, as a normal-world access from outside every geode
(R396). An
operation or size that R360 reserves takes the link down. -/
def execFar (k : Nat) (msg : GMsg) (s : State) : Host.Outcome State Fault Refusal :=
  s.onGal k 0x05 msg fun m h =>
    let a := msg.arg.toNat
    let l := h.ownLineOf msg
    let four := a / 128 % 2 = 1
    let size := if four then 4 else 8 * 2 ^ (a / 2 % 4)
    let op := a / 8 % 16
    let off := a / 256 % 64
    if !h.lineThere l then (m, h.galRefuse (portStop k) k msg 4)
    else if op = 6 ∨ op = 7 ∨ 11 ≤ op ∨ (four ∧ op ≠ 0 ∧ op ≠ 8 ∧ op ≠ 9) ∨ off % size ≠ 0 then (m, h.linkFall k 0 8)
    else (m, h.postReq (sliceOf l) ⟨.far (farOp (w64 (l * 64 + off)) size msg.data op msg.exp (memTypeOf (a / 2 ^ 14))), l, .gfar k msg,
      ⟨.s, false, 0⟩, false, 16, false, none⟩)

/-- A snoop of another member's home leaves its port for the proxy slice (R229, R236, R238). -/
def Hw.galSnoop (h : Hw) (k : Nat) (g : GMsg) (inv : Bool) : Hw :=
  let s := sliceOf g.line.toNat
  h.post ⟨5, k, s, vcSnp, portStop k, chamberStop s, .galSnoop s k inv g⟩

/-- SNPS (R360): a snoop that leaves S. -/
def execSnps (k : Nat) (msg : GMsg) (s : State) : Host.Outcome State Fault Refusal :=
  s.onGal k 0x10 msg fun m h => (m, h.galSnoop k msg false)

/-- SNPI (R360): an invalidating snoop. -/
def execSnpi (k : Nat) (msg : GMsg) (s : State) : Host.Outcome State Fault Refusal :=
  s.onGal k 0x11 msg fun m h => (m, h.galSnoop k msg true)

/-- A writeback or eviction notice of another node leaves its port for the home slice (R225, R238). -/
def Hw.galWb (h : Hw) (k : Nat) (g : GMsg) (dirty : Bool) : Hw :=
  let s := sliceOf g.line.toNat
  h.post ⟨8, k, s, vcData, portStop k, chamberStop s, .galWb s k dirty g⟩

/-- WB (R225, R236, R360): a dirty writeback goes to its home slice. -/
def execWb (k : Nat) (msg : GMsg) (s : State) : Host.Outcome State Fault Refusal :=
  s.onGal k 0x20 msg fun m h => (m, h.galWb k msg true)

/-- EVC (R225, R360): a clean eviction notice goes to its home slice. -/
def execEvc (k : Nat) (msg : GMsg) (s : State) : Host.Outcome State Fault Refusal :=
  s.onGal k 0x21 msg fun m h => (m, h.galWb k msg false)

/-- DATA (R360): a fill. -/
def execData (k : Nat) (msg : GMsg) (s : State) : Host.Outcome State Fault Refusal :=
  s.onGal k 0x30 msg fun m h => galAnswerIn k 0x30 msg (m, h)

/-- ACK (R360): a completion, or "no copy". -/
def execAck (k : Nat) (msg : GMsg) (s : State) : Host.Outcome State Fault Refusal :=
  s.onGal k 0x31 msg fun m h => galAnswerIn k 0x31 msg (m, h)

/-- SDATA (R360): dirty data of a snooped member. -/
def execSdata (k : Nat) (msg : GMsg) (s : State) : Host.Outcome State Fault Refusal :=
  s.onGal k 0x32 msg fun m h => galAnswerIn k 0x32 msg (m, h)

/-- WBIF (R236, R360): a writeback is in flight. -/
def execWbif (k : Nat) (msg : GMsg) (s : State) : Host.Outcome State Fault Refusal :=
  s.onGal k 0x33 msg fun m h => galAnswerIn k 0x33 msg (m, h)

/-- FARR (R360): the result of a far atomic. -/
def execFarr (k : Nat) (msg : GMsg) (s : State) : Host.Outcome State Fault Refusal :=
  s.onGal k 0x34 msg fun m h => galAnswerIn k 0x34 msg (m, h)

/-- ERR (R172, R360, R362): an error, or "unrouted". -/
def execErr (k : Nat) (msg : GMsg) (s : State) : Host.Outcome State Fault Refusal :=
  s.onGal k 0x35 msg fun m h => galAnswerIn k 0x35 msg (m, h)

/-- MDONE (R360): a maintenance operation is complete at a member. -/
def execMdone (k : Nat) (msg : GMsg) (s : State) : Host.Outcome State Fault Refusal :=
  s.onGal k 0x36 msg fun m h => galAnswerIn k 0x36 msg (m, h)

/-- A maintenance operation is taken; MDONE follows when what it waits for has passed (R361). Of one source at most 8 are held. -/
def Hw.maintTake (h : Hw) (g : GMsg) (wait : List (Nat × Nat × Nat)) : Hw := { h with maint := h.maint ++ [(g, wait)] }

def Hw.maintFull (h : Hw) (g : GMsg) : Bool := decide (8 ≤ (h.maint.filter fun x => x.1.spos == g.spos).length)

/-- A maintenance operation is taken when the unit has room for its source (R361): a TLBI removes the matching entries of this node and waits for
the accesses that may use them (R196); a CMO to the point of coherence acts on this node's copies, and dirty data of another member's line goes to
its home first (R215). None while it must wait. -/
def maintStart (op : Nat) (g : GMsg) (p : List Host.Cell × Hw) : Option (List Host.Cell × Hw) :=
  if p.2.maintFull g then none
  else if op = 0x38 then
    let a := g.arg.toNat
    let lvl : Level := match a / 16 % 4 with | 0 => .u | 1 => .s | 2 => .h | _ => .m
    let q : Tlbi := ⟨a % 8, vword g.data 0, vword g.data 1, lvl, decide (a / 8 % 2 = 1), (vword g.data 2).toNat, true, []⟩
    some (p.1, (p.2.tlbiRemove q).maintTake g p.2.inFlight)
  else (cmoNode (g.arg.toNat % 4) (vword g.data 0).toNat p).map fun q => (q.1, q.2.maintTake g [])

/-- The maintenance operations that wait at port k are taken in order, as far as they can be. -/
def maintRetry (p : List Host.Cell × Hw) (k : Nat) : List Host.Cell × Hw :=
  ((p.2.link k 0).mnt.foldl (fun (q : (List Host.Cell × Hw) × Bool) x =>
    if !q.2 then q
    else match maintStart x.1 x.2 q.1 with
      | some r => ((r.1, r.2.updLink k 0 fun l => { l with mnt := l.mnt.tail }), true)
      | none => (q.1, false)) (p, true)).1

/-- A maintenance operation waits at its port until the unit takes it (R361). -/
def maintArrive (k op : Nat) (g : GMsg) (p : List Host.Cell × Hw) : List Host.Cell × Hw :=
  maintRetry (p.1, p.2.updLink k 0 fun l => { l with mnt := l.mnt ++ [(op, g)] }) k

/-- GALLERY_TLBI (R196, R360): a TLBI of another member. -/
def execGalleryTlbi (k : Nat) (msg : GMsg) (s : State) : Host.Outcome State Fault Refusal :=
  s.onGal k 0x38 msg fun m h => maintArrive k 0x38 msg (m, h)

/-- CMOP (R215, R360): a CMO to the point of coherence of another member. -/
def execCmop (k : Nat) (msg : GMsg) (s : State) : Host.Outcome State Fault Refusal :=
  s.onGal k 0x39 msg fun m h => maintArrive k 0x39 msg (m, h)

/-- Maintenance operations whose waits are over are answered (R196, R215, R361). -/
def Hw.maintPump (h : Hw) : Hw :=
  let ready := fun (x : GMsg × List (Nat × Nat × Nat)) =>
    let l := (vword x.1.data 0).toNat
    x.2.all h.passed && !h.discarding && !h.tagOut (.line (sliceOf l) l)
  (h.maint.filter ready).foldl (fun (h : Hw) x => h.galAnswer (portStop 8) 0x36 x.1 0 0 false 0) { h with maint := h.maint.filter fun x => !ready x }

/-! ### Passage (R66, R367 to R370) -/

/-- A packet with a value that R367 reserves. -/
def pktReserved (ty : Nat) (p : PPkt) : Bool :=
  decide (p.len = 0) || decide (64 < p.len) || decide (64 < p.addr.toNat % 64 + p.len) || decide (4096 ≤ p.tag)
    || (ty != 2 && (p.aop != 0 || p.ret)) || (ty != 6 && decide (p.err ≠ 0))
    || (ty == 2 && (p.aop == 6 || p.aop == 7 || decide (11 ≤ p.aop.toNat)))

/-- A packet arrives on port k; a reserved value takes the link down (R367). -/
def State.onPas (s : State) (k ty : Nat) (p : PPkt) (f : List Host.Cell → Hw → List Host.Cell × Hw) : Host.Outcome State Fault Refusal :=
  s.onAll fun m h =>
    match h.passUp.find? fun l => l.1 == k with
    | none => (m, h)
    | some l => if pktReserved ty p then (m, h.linkFall k l.2 8) else f m h

/-- The address that a packet carries. -/
def pktPa (p : PPkt) : Word := w64 (p.dnode.toNat * 2 ^ 48 + p.addr.toNat % 2 ^ 48)

/-- A request of another node is refused by R370 or R25: the ERR it is answered with. The region checkers judge it at its home slice. -/
def Hw.passRefuse (h : Hw) (k : Nat) (p : PPkt) : Option Nat :=
  if !Word.bit (h.reg (linkReg k 0x2000)) 32 then some 2
  else if p.dnode.toNat ≠ h.node ∨ !h.lineThere (lineNo (pktPa p)) then some 4
  else none

/-- A refused request is answered with ERROR; a refusal at entry is an incident (R25, R510). -/
def Hw.passError (h : Hw) (k : Nat) (p : PPkt) (err : Nat) : Hw :=
  (if Word.bit (h.reg (linkReg k 0x2000)) 32 then h.incident 0x50 4 (pktPa p) 0 (blockId 4 k) false else h).passAnswer (portStop k) 6 p err false 0

/-- A request of another node leaves its port for its home slice with a credit, as a normal-world access from outside every geode (R238, R370,
R396), or is refused. -/
def Hw.passRequest (h : Hw) (k : Nat) (p : PPkt) (kind : ReqKind) : Hw :=
  match h.passRefuse k p with
  | some e => h.passError k p e
  | none =>
    let l := lineNo (pktPa p)
    h.postReq (sliceOf l) ⟨kind, l, .pass k p, ⟨.s, false, 0⟩, false, 16, false, none⟩

/-- PASSAGE_READ (R370): an arriving READ. -/
def execPassageRead (k : Nat) (pkt : PPkt) (s : State) : Host.Outcome State Fault Refusal :=
  s.onPas k 0 pkt fun m h => (m, h.passRequest k pkt (.read ((pktPa pkt).toNat % 64) pkt.len))

/-- PASSAGE_WRITE (R225, R370): an arriving WRITE is performed, then acknowledged. -/
def execPassageWrite (k : Nat) (pkt : PPkt) (s : State) : Host.Outcome State Fault Refusal :=
  s.onPas k 1 pkt fun m h =>
    let o := (pktPa pkt).toNat % 64
    (m, h.passRequest k pkt (.write (lineWrite (pktPa pkt) pkt.len (vput 0 0 (vbytes pkt.data o pkt.len)) pkt.poison .wb)))

/-- PASSAGE_ATOMIC (R225, R251, R370): an arriving ATOMIC is applied at its home engine; a size that AMO.FAR does not have is answered as
an address with no target (log 47). -/
def execPassageAtomic (k : Nat) (pkt : PPkt) (s : State) : Host.Outcome State Fault Refusal :=
  s.onPas k 2 pkt fun m h =>
    let n := pkt.len
    let off := (pktPa pkt).toNat % 64
    if (h.passRefuse k pkt).isNone ∧ (!(n = 4 ∨ n = 8 ∨ n = 16 ∨ n = 32 ∨ n = 64) ∨ off % n ≠ 0 ∨ (n = 4 ∧ !(pkt.aop = 0 ∨ pkt.aop = 8 ∨ pkt.aop = 9))) then
      (m, h.passError k pkt 4)
    else (m, h.passRequest k pkt (.far (farOp (pktPa pkt) n pkt.data pkt.aop.toNat pkt.exp .wb)))

/-- The outstanding request that a response answers (R369): one of the port's tags, sent to the node that answers. -/
def Hw.ptagOf (h : Hw) (k : Nat) (p : PPkt) : Option (Nat × Waiter × Word) :=
  h.ptags.findSome? fun x =>
    if x.1 / 65536 = k ∧ x.1 % 4096 = p.tag ∧ x.2.dn = p.snode.toNat then x.2.who.map fun w => (x.1, w, x.2.pa) else none

/-- The answer to a Passage request reaches whom it was made for; what waited for a tag goes on. -/
def Hw.passEnd (m : List Host.Cell) (h : Hw) (k : Nat) (w : Waiter) (pa : Word) (a : Ans) : Hw :=
  (match w with
   | .line s l => h.lineFill m s l 0 a
   | w => h.answerTo (portStop k) w pa a).pumpAll m

/-- A response ends its request; a later one is discarded (R369). -/
def Hw.passDone (m : List Host.Cell) (h : Hw) (k : Nat) (p : PPkt) (a : Ans) : Hw :=
  match h.ptagOf k p with
  | none => h
  | some (key, w, pa) => { h with ptags := sdel key h.ptags }.passEnd m k w pa a

/-- RDATA (R367): read data. -/
def execRdata (k : Nat) (pkt : PPkt) (s : State) : Host.Outcome State Fault Refusal :=
  s.onPas k 3 pkt fun m h => (m, h.passDone m k pkt (.data pkt.data pkt.poison))

/-- WACK (R367): a write is performed. -/
def execWack (k : Nat) (pkt : PPkt) (s : State) : Host.Outcome State Fault Refusal :=
  s.onPas k 4 pkt fun m h => (m, h.passDone m k pkt .ok)

/-- ARESULT (R367): the result of an atomic. -/
def execAresult (k : Nat) (pkt : PPkt) (s : State) : Host.Outcome State Fault Refusal :=
  s.onPas k 5 pkt fun m h => (m, h.passDone m k pkt (.data pkt.data pkt.poison))

/-- PASSAGE_ERROR (R172, R367): an ERROR response. -/
def execPassageError (k : Nat) (pkt : PPkt) (s : State) : Host.Outcome State Fault Refusal :=
  s.onPas k 6 pkt fun m h => (m, h.passDone m k pkt (.err pkt.err))

/-- PASSAGE_TIMEOUT (R369): a request with no response within TMO ends with ERR 3; its tag is held back. -/
def execPassageTimeout (k j tag : Nat) (s : State) : Host.Outcome State Fault Refusal :=
  s.onHw fun m h =>
    let key := ptagKey k j tag
    match sfind key h.ptags with
    | some x => match x.who with
      | some w => { h with ptags := sset key { x with who := none } h.ptags }.passEnd m k w x.pa (.err 3)
      | none => h
    | none => h

/-- PASSAGE_TAG_REUSE (R369): 2 × TMO after a timeout the tag is free again. -/
def execPassageTagReuse (k j tag : Nat) (s : State) : Host.Outcome State Fault Refusal :=
  s.onHw fun m h =>
    let key := ptagKey k j tag
    match sfind key h.ptags with
    | some x => if x.who.isNone then { h with ptags := sdel key h.ptags }.pumpAll m else h
    | none => h

/-! ### Root ports (R25, R225, R349, R352 to R354, R374, R393) -/

/-- The lines of n bytes from an address: address and length of each part. -/
def lineParts : Nat → Word → Nat → List (Word × Nat)
  | 0, _, _ => []
  | k + 1, pa, n =>
    if n = 0 then []
    else
      let c := min n (64 - pa.toNat % 64)
      (pa, c) :: lineParts k (pa + w64 c) (n - c)

/-- DMA_READ (R25, R229, R241, R298, R349, R396, R400): up to 4,096 bytes, one line after another; each line completes for itself (log 81). An
address with no target answers Unsupported Request, and nothing is read; so does an ATS translation request, which has no length (`none`). -/
def execDmaRead (port : Nat) (rid : BitVec 16) (pa : Word) (n : Option Nat) (s : State) : Host.Outcome State Fault Refusal :=
  s.onHw fun _ h =>
    if 8 ≤ port ∨ h.portBusy port 2 ∨ h.ingressFull port rid true pa then h
    else match n with
      | none => h.sendCpl port 1 false []
      | some n =>
        if n = 0 ∨ 4096 < n then h
        else
          let ps := lineParts 65 pa n
          match ps.find? fun p => !h.portReaches p.1 with
          | some p => (h.portRefuse port p.1).sendCpl port 1 false []
          | none => ps.foldl (fun (h : Hw) p => h.portRequest port rid p.1 (.read (p.1.toNat % 64) p.2)) h

/-- A root port takes a write of 4 bytes at this address for an interrupt message (R375): as the rule writes it, or with this node's number above
it as in a global address (DEDUCED, log 176). -/
def Hw.msgAddr (h : Hw) (pa : Word) : Bool :=
  decide (pa.toNat % 2 ^ 48 = 0xFF4001000000) && (decide (pa.toNat / 2 ^ 48 = 0) || decide (pa.toNat / 2 ^ 48 = h.node))

/-- DMA_WRITE (R25, R225 to R227, R241, R327, R349, R375, R396): posted bytes, at most 512; a part whose address has no target is discarded. -/
def execDmaWrite (port : Nat) (rid : BitVec 16) (pa : Word) (data : Bytes) (poison : Bool) (s : State) :
    Host.Outcome State Fault Refusal :=
  s.onHw fun _ h =>
    if 8 ≤ port ∨ 512 < data.length ∨ h.portBusy port 1 ∨ h.ingressFull port rid false pa then h
    else if h.msgAddr pa ∧ data.length = 4 then h.sendMsg (portStop port) (.device port rid) (leNat data % 2 ^ 24)
    else
      (lineParts (data.length / 64 + 2) pa data.length).foldl (fun (h : Hw) p =>
        if h.portReaches p.1 then
          h.portRequest port rid p.1 (.write (lineWrite p.1 p.2 (vput 0 0 ((data.drop (p.1 - pa).toNat).take p.2)) poison .wb))
        else h.portRefuse port p.1) h

/-- The access of PCIe space with a number at a port. -/
def Hw.mmioOf (h : Hw) (port id : Nat) : Option MmioRd := h.mmio.find? fun r => r.port == port && r.id == id

/-- A read of PCIe space ends: with its bytes, or as all ones with a record; a write, with its Ack (R352). -/
def Hw.mmioEnd (h : Hw) (port id : Nat) (v : Option Vec) : Hw :=
  match h.mmioOf port id with
  | none => h
  | some r =>
    let h1 := { h with mmio := h.mmio.filter fun x => !(x.port == port && x.id == id) }
    if r.wr then h1.answerCore (portStop port) false r.who r.pa 0 0
    else match v with
      | some v => h1.answerCore (portStop port) false r.who r.pa v 0
      | none => (h1.answerCore (portStop port) false r.who r.pa 0 1).event (linkReg port 0x10) 2

/-- MMIO_COMPLETION (R352): a completion, successful or not; of a posted write the Ack for its flit (DESIGN CHOICE, log 179: no row of its own). -/
def execMmioCompletion (port id : Nat) (ok : Bool) (data : Vec) (s : State) : Host.Outcome State Fault Refusal :=
  s.onHw fun _ h => h.mmioEnd port id (if ok then some data else none)

/-- MMIO_COMPLETION_TIMEOUT (R352): no completion of a read within LINK.CTO. -/
def execMmioCompletionTimeout (port id : Nat) (s : State) : Host.Outcome State Fault Refusal :=
  s.onHw fun _ h => if (h.mmioOf port id).any (!·.wr) then h.mmioEnd port id none else h

/-- LTR_MESSAGE (R353): the smaller of the two latencies. -/
def execLtrMessage (port j : Nat) (snoop nosnoop : BitVec 32) (s : State) : Host.Outcome State Fault Refusal :=
  s.onHw fun _ h =>
    if 8 ≤ port ∨ 16 ≤ j ∨ !h.linkUp port j then h else h.setLtr port j (min snoop.toNat nosnoop.toNat)

/-- FUNCTION_LEVEL_RESET (R393): the reservations of a requester ID are revoked. -/
def execFunctionLevelReset (port : Nat) (rid : BitVec 16) (s : State) : Host.Outcome State Fault Refusal :=
  s.onHw fun _ h => if 8 ≤ port then h else h.revokeFunc port (· == rid.toNat)

/-- HOTPLUG_SLOT_EVENT (R374, R393): a bit of the slot status; event 5 is a surprise removal, which takes the port's links down and revokes
the reservations below it (numbering: log 48). -/
def execHotplugSlotEvent (port event : Nat) (s : State) : Host.Outcome State Fault Refusal :=
  s.onHw fun _ h =>
    if 8 ≤ port ∨ 16 ≤ event then h
    else
      let h1 := { h with slotStat := supd 0 port (fun n => if n / 2 ^ event % 2 = 1 then n else n + 2 ^ event) h.slotStat }.event
        (linkReg port 0x10) 5
      if event = 5 then (h1.portDown port 1).revokeFunc port fun _ => true else h1

end Sys2Proof.Machine
end

