-- ==== Sys2Proof/Machine/ExecLog.lean ====
section
/-! DEFINITION. Patrol, error records, the incident log and service life (chapter 18). -/

namespace Sys2Proof.Machine

/-! ### Patrol (R473 to R477) -/

/-- The ports of an I/O die in ascending order (R14, R482). -/
def diePorts (b : Nat) : List Nat := (List.range 18).filter fun k => bankOf (blockId 4 k) == b

/-- The lowest lane of a port that belongs to no up link (R473). -/
def Hw.freeLane (h : Hw) (k : Nat) : Option Nat :=
  (List.range 16).find? fun l => (List.range 16).all fun j => !(h.linkUp k j && decide (j ≤ l) && decide (l < j + h.formed k j))

/-- The chamber or the package is in Still or deeper, which skips a unit (R475). -/
def Hw.unitAsleep (h : Hw) (b u : Nat) : Bool :=
  decide (2 ≤ h.pkg.state.num) || (match unitChamber b u with
    | some c => decide (2 ≤ (h.chamber c).pstate.num)
    | none => false)

/-- A unit that cannot run now is skipped without being counted: it sleeps (R475), no lane is free (R473), or its way is retired. -/
def Hw.unitSkips (h : Hw) (b u : Nat) : Bool :=
  h.unitAsleep b u || (match unitOf b u with
    | .analog 0 n => (h.freeLane ((diePorts b).getD n 0)).isNone
    | .analog _ _ => false
    | .way _ => sget false u (h.repairsOf b).retired)

/-- At the end of a pass the ring oscillators of compute die b are compared with their baselines: LIFE.RO_d is what the comparison found, a free
value (R488). -/
def Hw.ringCheck (h : Hw) (b : Nat) : Hw :=
  if b < 4 then h.tick.setReg (logReg (0x2030 + 0x40 * b)) (w64 ((Config.freeWord h.fresh).toNat % 2 ^ 32)) else h

/-- The next unit of a sequencer: one moved to the front (R476), else the next of the order, with the pass (R474). -/
def Hw.nextUnit (h : Hw) (b : Nat) : Hw × Nat :=
  match (h.patrolOf b).front with
  | u :: r => (h.updPatrol b fun x => { x with front := r }, u)
  | [] =>
    let u := h.regF (patrolStat b) 15 0
    if u + 1 < unitCount b then (h.setRegF (patrolStat b) 15 0 (u + 1), u) else (((h.setRegF (patrolStat b) 15 0 0).statUp b 63 48).ringCheck b, u)

/-- PATROL_UNIT_START (R472, R474, R475): the sequencer of die b (0 to 3 compute, 4 and 5 I/O) starts its next unit: a way is held and
emptied. -/
def execPatrolUnitStart (b : Nat) (s : State) : Host.Outcome State Fault Refusal :=
  s.onHw fun m h =>
    if 6 ≤ b ∨ (h.patrolOf b).cur.isSome ∨ h.regF (logReg 0x1000) 63 63 = 0 then h
    else
      let r := h.nextUnit b
      if h.unitSkips b r.2 then r.1
      else
        let h1 := r.1.updPatrol b fun x => { x with cur := some r.2 }
        match unitOf b r.2 with
        | .way w => (h1.holdWay w true).emptyWay m w
        | .analog _ _ => h1

/-- The slice of a unit ended: it counts as tested. -/
def Hw.unitDone (h : Hw) (b u : Nat) : Hw := h.updPatrol b fun x => { x with cur := none, skipped := sdel u x.skipped }

/-- The block that an analogue check's record comes from (R443): a port, a PLL, a chamber, a controller; the sequencer where the block has
no ID of its own. -/
def analogBlock (b row n : Nat) : Nat :=
  match row with
  | 0 => blockId 4 ((diePorts b).getD n 0)
  | 1 => blockId 12 (32 * b + n)
  | 2 => if b < 4 ∧ n < 18 then blockId 0 (18 * b + n) else if b < 4 ∧ 19 ≤ n then blockId 2 (3 * b + n - 19) else patrolBlock b
  | 3 => blockId 0 (18 * b + n / 4)
  | _ => if n < 3 then blockId 2 (3 * b + n) else blockId 3 b

/-- The sensor of a unit, as `sensorDie` numbers them (R473). -/
def sensorOf (b n : Nat) : Nat := if b < 4 then (if n < 18 then 18 * b + n else 72 + 4 * b + (n - 18)) else 88 + 2 * (b - 4) + n

/-- The record of an analogue check, and what the failure does (R473). -/
def Hw.analogFail (h : Hw) (b row n measured : Nat) : Hw :=
  let r : Record := ⟨w64 (0x26 * 2 ^ 56 + n % 2 ^ 12 * 2 ^ 8 + row), 0, w64 measured, h.time⟩
  let rec_ := fun (h : Hw) (sev : Nat) => h.placeRecord b r (analogBlock b row n) false sev
  match row with
  | 0 =>
    let k := (diePorts b).getD n 0
    match h.freeLane k with
    | none => h
    | some l =>
      let h1 := { h with badLanes := supd 0 k (fun x => x - x / 2 ^ l % 2 * 2 ^ l + 2 ^ l) h.badLanes }
      let j := ((List.range 16).filter fun j => decide (j ≤ l) && h.formed k j != 0).getLastD 0
      rec_ (h1.setRegF (statReg k j) l l 1) (Record.sev r)
  | 2 =>
    let h1 := { h with badSensor := sset (sensorOf b n) true h.badSensor }
    if h1.goodSensors.isEmpty then (rec_ h1 4).thermTrip else rec_ h1 (Record.sev r)
  | 3 => rec_ (h.updChamber (18 * b + n / 4) fun x => { x with detectOff := x.detectOff ||| BitVec.ofNat 4 (2 ^ (n % 4)) }) (Record.sev r)
  | _ => rec_ h (Record.sev r)

/-- The outcome of a march (R477): `bits` are the failing bits by row and column, `repeatOk` tells that the repeat passes. -/
def Hw.marchEnd (h : Hw) (b u : Nat) (w : WayAt) (bits : List (Nat × Nat)) (repeatOk : Bool) : Hw :=
  let n := bits.length
  let r := h.repairsOf b
  if n = 0 then h.holdWay w false
  else
    let h1 := h.arrayRecord 0x21 w 0 n
    match (if repeatOk then coverOf (spareCount w.arr - sget 0 u r.rows) (spareCount w.arr - sget 0 u r.cols) bits else none) with
    | some k =>
      let x : Repair := ⟨u, k.1, k.2, false⟩
      let h2 := (h1.updRepairs b fun r => r.apply x).holdWay w false
      (h2.arrayRecord 0x22 w x.kind n).queueFuse b x w n
    | none =>
      let x : Repair := ⟨u, 0, 0, true⟩
      ((h1.updRepairs b fun r => r.apply x).arrayRecord 0x24 w x.kind n).queueFuse b x w n

/-- PATROL_SLICE_COMPLETE (R473, R475, R477): the slice of die b ends with the failing bits of a way by row and column, or for an analogue block
with a measured value that fails (0 passes). A way that still holds a line has not been tested. -/
def execPatrolSliceComplete (b measured : Nat) (bits : List (Nat × Nat)) (repeatOk : Bool) (s : State) : Host.Outcome State Fault Refusal :=
  s.onHw fun m h =>
    match (h.patrolOf b).cur with
    | none => h
    | some u =>
      match unitOf b u with
      | .way w =>
        if !h.wayEmpty w then h.emptyWay m w else (h.marchEnd b u w bits repeatOk).unitDone b u
      | .analog row n => ((if measured = 0 then h else h.analogFail b row n measured)).unitDone b u

/-- PATROL_SLICE_TIMEOUT (R475): a slice that runs 1 ms after its start ends untested. -/
def execPatrolSliceTimeout (b : Nat) (s : State) : Host.Outcome State Fault Refusal :=
  s.onHw fun m h => h.patrolEnd m b

/-! ### Records (R219, R244, R476, R479 to R487) -/

/-- Two corrected errors on the same array, set, way and bit within 24 h move the unit to the front (R476). -/
def Hw.markError (h : Hw) (b : Nat) (r : Record) : Hw :=
  let key := Word.fld r.w0 47 5
  let arr := [Arr.l1i, .l1d, .l2, .vat, .sf, .dir].getD (Word.fld r.w0 47 44) .dir
  let u := unitNum ⟨arr, Word.fld r.w0 43 32, Word.fld r.w0 19 15⟩
  let recent := ((h.patrolOf b).marks.filter fun p => decide (h.time.toNat < p.2.toNat + day))
  let hit := recent.any fun p => p.1 == key
  h.updPatrol b fun x =>
    { x with marks := if hit then recent.filter (fun p => p.1 != key) else recent ++ [(key, h.time)]
             front := if hit && !x.front.contains u then x.front ++ [u] else x.front }

/-- An error in service of an array acts as its TYPE says (R219, R244, R487): 0x10 corrected, 0x11 line dropped, 0x12 the dirty copy in that array poisoned, 0x13
chamber or slice stopped. -/
def Hw.arrayError (m : List Host.Cell) (h : Hw) (b : Nat) (r : Record) : Hw :=
  let kind := Word.fld r.w0 47 44
  let n := Word.fld r.w0 43 32
  let l := lineNo r.w1
  match Record.type r with
  | 0x10 => if b < 4 then h.markError b r else h
  | 0x11 =>
    match kind with
    | 0 => h.l1iDrop n l
    | 1 => if (h.l1dLine n l).any (fun x => x.st == .m) then h else h.l1dDrop n l
    | 2 => if (h.l2Line n l).any (fun x => x.st == .m || x.st == .o) then h else (h.l2CleanInv m n l).1
    | 3 => if (h.vatLine n l).any (fun x => x.st == .m || x.st == .o) then h else h.vatDrop n l
    | _ => h
  | 0x12 =>
    let mark := fun (c : Cache) => { c with lines := c.lines.map fun p =>
      (p.1, if p.2.line = l ∧ (p.2.st = .m ∨ p.2.st = .o) then { p.2 with bad := true } else p.2) }
    match kind with
    | 1 => h.updL1d n mark
    | 2 => h.updL2 n mark
    | 3 => h.updSlice n fun x => { x with ways := x.ways.map fun p =>
        (p.1, if p.2.line = l ∧ (p.2.st = .m ∨ p.2.st = .o) then { p.2 with bad := true } else p.2) }
    | _ => h
  | 0x13 =>
    let stop := fun (h : Hw) (c : Nat) => (h.updChamber c fun x => { x with stopped := true }).event (chamberReg c 0x1000) 1
    match kind with
    | 0 | 1 => stop h (chamberOf n)
    | 2 => stop h n
    | _ => (h.updSlice n fun x => { x with stopped := true }).event (vatReg n 0x80) 0
  | _ => h

/-- The instance that an array record names exists. -/
def arrayOk (r : Record) : Bool :=
  let n := Word.fld r.w0 43 32
  match Word.fld r.w0 47 44 with
  | 0 | 1 => decide (n < numCores)
  | 2 => decide (n < numChambers)
  | 3 | 4 | 5 => decide (n < numSlices)
  | _ => false

/-- ERROR_RECORD (R479 to R482, R487): a block detects an error; its record, with the TIME of now, goes to the error bank of its die, and
what the error means is done. -/
def execErrorRecord (rec_ : Record) (sourceId : Nat) (sec : Bool) (bank : Nat) (s : State) : Host.Outcome State Fault Refusal :=
  s.onHw fun m h =>
    let r : Record := { rec_ with w3 := h.time }
    let array := decide (0x10 ≤ Record.type r ∧ Record.type r ≤ 0x13)
    if 6 ≤ bank ∨ (array ∧ !arrayOk r) then h
    else
      let h1 := h.placeRecord bank r (sourceId % 2 ^ 16) sec (Record.sev r)
      if array then h1.arrayError m bank r else h1

/-- The bank whose turn it is: the first after the one taken last that holds a record (R482). -/
def Hw.nextBank (h : Hw) : Option Nat :=
  ((List.range 6).map fun i => (h.lastBank + 1 + i) % 6).find? fun b => (h.bank b).ovf.isSome || !(h.bank b).recs.isEmpty

/-- LOG_RECORD (R482 to R484): the collector takes the next record of bank b, when it is that bank's turn, and presents it to the log. -/
def execLogRecord (b : Nat) (s : State) : Host.Outcome State Fault Refusal :=
  s.onHw fun _ h => if h.nextBank = some b then { h with lastBank := b }.collect b else h

/-- A log register is written by software. -/
def Hw.logWrite (m : List Host.Cell) (h : Hw) (o : Nat) (lvl : Level) (value : Word) : Hw :=
  h.regStore m ⟨lvl, decide (lvl = .m), 0⟩ false 0 (logReg o) 8 value.toNat

/-- LOG_PEEK (R485). -/
def execLogPeek (lvl : Level) (value : Word) (s : State) : Host.Outcome State Fault Refusal :=
  s.onHw fun m h => h.logWrite m 0x18 lvl value

/-- LOG_RD (R484, R485). -/
def execLogRd (lvl : Level) (value : Word) (s : State) : Host.Outcome State Fault Refusal :=
  s.onHw fun m h => h.logWrite m 0x20 lvl value

/-- LOG_STAT (R486): a read acknowledges the changes of LOG.DROP. -/
def execLogStat (lvl : Level) (s : State) : Host.Outcome State Fault Refusal :=
  s.onHw fun m h => (h.regLoad m ⟨lvl, decide (lvl = .m), 0⟩ false 0 (logReg 8) 8).1

/-- LOG_FATAL (R487, R490): VALID is W1C. -/
def execLogFatal (lvl : Level) (value : Word) (s : State) : Host.Outcome State Fault Refusal :=
  s.onHw fun m h => h.logWrite m 0x38 lvl value

/-- The temperature bin and its weight in quarter-hours (R488). -/
def lifeBin (t : Nat) : Nat × Nat :=
  if t ≤ 65 then (0, 1) else if t ≤ 85 then (1, 4) else if t ≤ 95 then (2, 8) else if t ≤ 105 then (3, 16) else (4, 32)

/-- LIFE_HOUR_TICK (R488): an hour of die d is counted by its hottest chamber reading. -/
def execLifeHourTick (d : Nat) (s : State) : Host.Outcome State Fault Refusal :=
  s.onHw fun _ h =>
    if 4 ≤ d then h
    else
      let p := lifeBin (sget 0 d h.hottest)
      let a := logReg (0x2000 + 0x40 * d)
      { (h.bump (a + 8 * p.1) 1).bump (a + 0x28) p.2 with hottest := sdel d h.hottest }

end Sys2Proof.Machine
end

