-- ==== Sys2Proof/Machine/ExecMedium.lean ====
section
/-! DEFINITION. The commands of memory and Pool controllers (chapter 12). -/

namespace Sys2Proof.Machine

/-- The request that a slice reads a line for is Cream (R243). -/
def Hw.creamLine (h : Hw) (s line : Nat) : Bool := match h.txn s line with | some x => x.req.cream | none => false

/-- The data of a read goes to the slice that asked (R238). -/
def Hw.sendFill (h : Hw) (mc s line : Nat) (bad : Bool) (err : Nat) : Hw :=
  h.send (if h.creamLine s line then vcCdata else vcData) (mcStop mc line) (chamberStop s) (.memData s ⟨mc, line, bad, err⟩)

/-- The frame limiter's key of a memory controller's scheduler. -/
def schedKey (mc : Nat) : Nat := 2560 + mc

/-- The weight with which a controller serves a read (R294, R295): that of the request it is for, 1 once promoted. -/
def Hw.readWeight (h : Hw) (mc : Nat) (r : MRead) : Nat :=
  let w := match h.txn r.slice r.line with | some x => x.req.weight | none => 16
  if w = 0 ∧ (h.mc mc).promoted.contains r.line then 1 else w

/-- A command that a controller holds, as its scheduler weighs it; `free` that it can start: a read needs a fill token of its slice (R238). -/
structure MCmd where
  op : MRead ⊕ MWrite
  slice : Nat
  line : Nat
  at_ : Nat
  weight : Nat
  cream : Bool
  free : Bool

/-- The commands of a controller in order of arrival among reads and among writes; a write has weight 16 (R295). -/
def Hw.memCmds (h : Hw) (mc : Nat) : List MCmd :=
  let x := h.mc mc
  (x.reads.map fun r => ⟨.inl r, r.slice, r.line, r.at_, h.readWeight mc r, h.creamLine r.slice r.line,
    decide (sget 0 mc (h.slice r.slice).tokens < 2)⟩) ++
    x.writes.map fun w => ⟨.inr w, w.slice, w.line, w.at_, 16, false, true⟩

/-- A command has waited 512 controller cycles (R321): TIME counts 40 ns, and a controller cycle is 8 transfers of the surveyed rate. -/
def Hw.memAged (h : Hw) (mc : Nat) (c : MCmd) : Bool :=
  decide (102400 ≤ (h.time.toNat - c.at_) * h.regF (surveyReg mc) 47 32)

/-- A Cream read finds a slot in the controller's frame, and its fill one in its slice's data intake (R292, R293). -/
def Hw.creamRead (h : Hw) (mc : Nat) (c : MCmd) : Bool :=
  decide (sget 0 (schedKey mc) h.frames < if mc < 12 then h.capOf (4 * 4096 + mc) else 16 * h.capOf (5 * 4096 + mc - 12))
    && decide (sget 0 (dataKey c.slice) h.frames < h.cap)

def oldest (l : List MCmd) : Option MCmd :=
  l.foldl (fun (a : Option MCmd) c => match a with
    | some b => if c.at_ < b.at_ then some c else some b
    | none => some c) none

/-- The command that a controller performs next, and what deficit round-robin then stands at (R238, R293, R294, R321): Cream first within its
share; then, while a command has waited 512 controller cycles, the oldest; then Whole by deficit round-robin among slices, of one slice's
commands first one whose row is open (DESIGN CHOICE, log 167: R294 and R321 do not say how they combine); Skim only while nothing else waits. -/
def Hw.nextMem (h : Hw) (mc : Nat) : Option (MCmd × Nat × Nat) :=
  let x := h.mc mc
  let all := h.memCmds mc
  let cs := all.filter (·.free)
  let whole := cs.filter fun c => !c.cream && c.weight != 0
  let best := fun (l : List MCmd) => (l.find? fun c => h.rowOpen (h.placeOf mc c.line)).or l.head?
  match cs.find? fun c => c.cream && h.creamRead mc c with
  | some c => some (c, x.drr)
  | none =>
    match if cs.any (h.memAged mc) then oldest cs else none with
    | some c => some (c, x.drr)
    | none =>
      match drrPick x.drr (whole.map fun c => (c.slice, c.weight)) with
      | some d => (best (whole.filter fun c => c.slice == d.1)).map fun c => (c, d)
      | none => if all.all fun c => !c.cream && c.weight == 0 then (best cs).map fun c => (c, x.drr) else none

/-- A stack in cache mode does not hold a DDR line (R319). -/
def Hw.poolMisses (h : Hw) (mc line : Nat) : Bool :=
  decide (12 ≤ mc) && decide (lineLocal line < 0x080000000000) && (match sfind (h.poolPlace line).1 (h.mc mc).pool with
    | some e => e.1 != (h.poolPlace line).2
    | none => true)

/-- MEMORY_READ (R238, R319, R321 to R328, R339, R340): the command that the scheduler serves next is performed, when it is a read. In a stack in
cache mode a read of a line it does not hold completes without data. `e` and `second` are the errors that the line and its secondary copy
come with. The answer says when the line has just been found uncorrectable (R256), or its summary unreadable (R231). -/
def execMemoryRead (mc : Nat) (e second : ReadErr) (s : State) : Host.Outcome State Fault Refusal :=
  s.onAll fun m h =>
    if 16 ≤ mc then (m, h)
    else match h.nextMem mc with
      | some (⟨.inl r, _, _, _, _, cream, _⟩, d) =>
        let h0 := if cream then { h with frames := supd 0 (schedKey mc) (· + 1) h.frames } else h
        let h1 := ((h0.updMc mc fun x =>
          { x with reads := x.reads.erase r, drr := d, promoted := x.promoted.erase r.line }).freeEntry
          (if cream then 12 else 9) (if cream then r.slice / 18 else r.slice) mc).updSlice r.slice fun x =>
          { x with tokens := supd 0 mc (· + 1) x.tokens }
        let p := h1.placeOf mc r.line
        let h2 := h1.activate p
        if h2.poolMisses mc r.line then (m, h2.sendFill mc r.slice r.line false 99)
        else
          let q := readLine p e second (m, h2)
          (q.1, q.2.1.sendFill mc r.slice r.line (q.2.2 == 7 || q.2.1.memBad r.line) (if q.2.2 = 7 then 0 else q.2.2))
      | _ => (m, h)

/-- A controller tells a slice that its write is accepted and performed (R234, R319). -/
def Hw.memTell (h : Hw) (mc : Nat) (w : MWrite) (freed : List Nat) (victim : Option (Nat × WbbEntry)) : Hw :=
  h.send vcRsp (mcStop mc w.line) (chamberStop w.slice) (.memDone w.slice mc freed victim)

/-- A write to DDR, or to a Pool stack in flat mode, is performed (R327, R328, R340). -/
def writeDown (mc : Nat) (w : MWrite) (q : List Host.Cell × Hw) : List Host.Cell × Hw :=
  let h := q.2.writeSecond mc w.line w.bad
  if h.lostWrite mc w.line then
    (q.1, (if sfind w.line h.newest = some w.data then { h with newest := sdel w.line h.newest } else h).memRecord mc 0x0D
      (w64 (w.line * 64)) (locAt mc (h.mcIndex mc w.line) + noDevice mc))
  else writeMem w.line w.data w.bad (q.1, h)

/-- MEMORY_WRITE (R234, R319, R321, R327, R328, R340): the command that the scheduler serves next is performed, when it is a write, and the slice is
told which write-back buffer entries are free. In a stack in cache mode it installs a line; a dirty line of another tag goes, with that
completion, into the entry reserved for it. A failed channel discards what is not mirrored. -/
def execMemoryWrite (mc : Nat) (s : State) : Host.Outcome State Fault Refusal :=
  s.onAll fun m h =>
    if 16 ≤ mc then (m, h)
    else match h.nextMem mc with
      | some (⟨.inr w, _, _, _, _, _, _⟩, d) =>
        let h1 := ((h.updMc mc fun x => { x with writes := x.writes.erase w, drr := d }).freeEntry 10 w.slice mc).activate (h.placeOf mc w.line)
        if w.code ≤ wbNoEntry then
          let p := writeDown mc w (m, h1)
          (p.1, p.2.memTell mc w [w.code] none)
        else
          let r := w.code % 32
          let dirty := decide (2048 ≤ w.code)
          let i := h1.poolPlace w.line
          let p := if dirty then writeMem w.line w.data w.bad (m, h1) else (m, h1)
          let was := sfind i.1 (p.2.mc mc).pool
          let old := match was with
            | some e => if e.1 ≠ i.2 ∧ e.2 then some (p.2.poolLine (mc - 12) i.1 e.1) else none
            | none => none
          let h2 := p.2.updMc mc fun x => { x with pool := sset i.1 (i.2, dirty || was == some (i.2, true)) x.pool }
          (p.1, h2.memTell mc w ((if dirty && decide (w.code < 4096) then [w.code % 2048 / 32] else []) ++ if old.isSome then [] else [r])
            (old.map fun l => (r, ⟨l, memLine p.1 (lineLocal l), false, h2.memBad l, true⟩)))
      | _ => (m, h)

/-- The hours above 85 °C of the ranks of a DIMM, or of a stack: a reading stands for 32 ms (R330, R332). -/
def Hw.hotTime (h : Hw) (mc d : Nat) (warm : Bool) : Hw :=
  if !warm then h
  else (List.range (if mc < 12 then 4 else 1)).foldl (fun (h : Hw) i =>
    let r := 4 * d + i
    if mc < 12 && !Word.bit (h.reg (mcReg mc (0x200 + 8 * r))) 63 then h
    else
      let n := sget 0 (100 + r) (h.mc mc).acts + 1
      let h1 := h.updMc mc fun x => { x with acts := sset (100 + r) (n % 112500) x.acts }
      if n = 112500 then h1.lifeUp (mcReg mc (0x3C0 + 8 * r)) 63 0 1 else h1) h

/-- DIMM_TEMPERATURE_READ (R330, R332): the sensors of the channel's DIMMs are read. Above 95 °C USABLE is halved; after 4 readings at or
below 90 °C on every DIMM it is restored. A sensor that is absent or unreadable counts as above 85 °C and not toward the 4. A Pool stack's
sensor only counts its hours. -/
def execDimmTemperatureRead (ch temp0 : Nat) (ok0 : Bool) (temp1 : Nat) (ok1 two : Bool) (s : State) : Host.Outcome State Fault Refusal :=
  s.onHw fun _ h =>
    if 16 ≤ ch then h
    else
      let beyond := (ok0 && decide (95 < temp0)) || (two && ok1 && decide (95 < temp1))
      let cool := ok0 && decide (temp0 ≤ 90) && (!two || (ok1 && decide (temp1 ≤ 90)))
      let t0 := if ok0 then temp0 else 86
      let t1 := if ok1 then temp1 else 86
      let h0 := h.updMc ch fun x => { x with dimmTemps := if two then sset 1 t1 (sset 0 t0 x.dimmTemps) else sset 0 t0 x.dimmTemps }
      let h1 := (h0.hotTime ch 0 (decide (85 < t0))).hotTime ch 1 (two && decide (85 < t1))
      if 12 ≤ ch then h1
      else if beyond then
        let h2 := (h1.memRecord ch 0x0F onesW (31 * 2 ^ 21)).event (mcReg ch 0x10) 3
        (h2.updMc ch fun x => { x with hot := true, coolReads := 0 }).setUsable ch
      else if !(h1.mc ch).hot then h1
      else
        let n := if cool then (h1.mc ch).coolReads + 1 else 0
        if 4 ≤ n then ((h1.updMc ch fun x => { x with hot := false, coolReads := 0 }).event (mcReg ch 0x10) 3).setUsable ch
        else h1.updMc ch fun x => { x with coolReads := n }

/-- ACTIVATION_TRACKER_CLEAR (R331). -/
def execActivationTrackerClear (mc : Nat) (s : State) : Host.Outcome State Fault Refusal :=
  s.onHw fun _ h => if mc < 16 then h.updMc mc fun x => { x with trackers := [] } else h

/-- The column pairs of a rank: it holds its share of its DIMM, two lines to a pair (R325). -/
def Hw.rankPairs (h : Hw) (mc rank : Nat) : Nat :=
  match sfind (rank / 4) (h.mc mc).dimms with
  | some d => d.capacity * 2 ^ 30 / (d.ranks * 128)
  | none => 0

/-- A line of the pair being converted is read in the normal layout, corrected, and written in the paired one; an uncorrectable one is written
poisoned (R325). -/
def convert (mc idx : Nat) (e : ReadErr) (q : List Host.Cell × Hw) : List Host.Cell × Hw :=
  let p := q.2.placeAt mc idx
  let h := q.2.activate p
  if h.placeBad p then (q.1, h) else let r := readAt p e false (q.1, h); (r.1, r.2.1)

/-- PAIRED_CONVERSION_STEP (R325): a rank with a failed device that is not yet paired converts its next column pair; `errs` are the errors that its
lines of subchannel A and B come with. After the last pair the rank is paired. -/
def execPairedConversionStep (mc rank : Nat) (errs : ReadErr × ReadErr) (s : State) : Host.Outcome State Fault Refusal :=
  s.onAll fun m h =>
    let w := h.reg (mcReg mc (0x200 + 8 * rank))
    if 12 ≤ mc ∨ 8 ≤ rank ∨ !Word.bit w 63 ∨ Word.bit w 62 ∨ Word.fld w 61 57 = 31 ∨ (h.mc mc).failed then (m, h)
    else
      let k := Word.fld w 31 0
      let p := Config.dramPair mc rank k
      let q := convert mc p.2 errs.2 (convert mc p.1 errs.1 (m, h))
      let h2 := q.2.setRegF (mcReg mc (0x200 + 8 * rank)) 31 0 (k + 1)
      (q.1, if k + 1 < h2.rankPairs mc rank then h2
        else ((h2.setRegF (mcReg mc (0x200 + 8 * rank)) 62 62 1).memRecord mc 7 onesW (rank * 2 ^ 60 + 31 * 2 ^ 21)).event (mcReg mc 0x10) 1)

/-- A line that patrol scrub corrected on its last pass reads clean now: a retention-type correction (R329, R342). -/
def Hw.retained (h : Hw) (p : MPlace) : Hw :=
  let a := mcReg p.mc (0x380 + 8 * p.rank)
  ((((h.updMc p.mc fun x =>
    { x with retention := x.retention.filter (· != p.idx), retTimes := x.retTimes ++ [(p.rank, h.time.toNat)] }).lifeUp a 63 32 1).setRegF a 31 0
    (h.regF a 31 0 - 1)).memRecord p.mc 2 p.pa (p.loc + noDevice p.mc))

/-- PATROL_SCRUB_READ (R329, R338, R339): patrol scrub reads its next line, of the whole medium in turn. A line corrected on the last pass and
clean now had a retention-type correction; an uncorrectable line is written back poisoned; a poisoned line is counted and left in place. The line comes with
the errors `syms` and `mis`, its secondary copy with `second`. -/
def execPatrolScrubRead (mc : Nat) (syms : List (Nat × Nat)) (mis : List (Nat × Nat × Nat)) (second : ReadErr) (s : State) :
    Host.Outcome State Fault Refusal :=
  s.onAll fun m h =>
    let e : ReadErr := ⟨syms, mis⟩
    let n := h.mediumLines mc
    if 16 ≤ mc ∨ n = 0 ∨ (h.mc mc).failed ∨ h.regF (surveyReg mc) 47 32 = 0 then (m, h)
    else
      let i := (h.mc mc).scrubAt
      let p := h.placeAt mc i
      let h1 := (h.updMc mc fun x => { x with scrubAt := (i + 1) % n }).activate p
      if h1.placeBad p then (m, h1.updMc mc fun x => { x with scrubBad := x.scrubBad + 1 })
      else
        let q := readLine p e second (m, h1)
        (q.1, match h1.decode p e with
          | .clean => if (h1.mc mc).retention.contains i then q.2.1.retained p else q.2.1
          | .fixed _ _ _ => q.2.1.updMc mc fun x => { x with retention := if x.retention.contains i then x.retention else x.retention ++ [i] }
          | _ => q.2.1)

/-- The rows of a copy are opened: the original and the spare (R331, R333). -/
def Hw.copyOpens (h : Hw) (mc : Nat) (c : RowCopy) : Hw :=
  let l := c.row * 2 ^ 37
  if mc < 12 then (h.openRow mc c.row (locRank mc l)).openRow mc (locRow (h.spareLoc mc c.spare)) (locRank mc (h.spareLoc mc c.spare))
  else h.openRow mc c.row 0

/-- ROW_REPAIR_SWITCH (R333, R334): the copy has ended and the remap switches to the spare in one step; the row is entered in the repair
log. A Pool stack's own soft repair ends. -/
def execRowRepairSwitch (mc : Nat) (s : State) : Host.Outcome State Fault Refusal :=
  s.onHw fun _ h0 =>
    match (h0.mc mc).copy with
    | none => h0
    | some c =>
      if 16 ≤ mc ∨ c.back then h0
      else
        let h := h0.copyOpens mc c
        let loc := c.row * 2 ^ 37 + noDevice mc
        if mc < 12 then
          ((((h.updMc mc fun x => { x with remap := sset c.row c.spare x.remap, copy := some { c with back := true } }).setSpares
            mc).memRecord mc 8 onesW loc).logRepair mc c.row)
        else (((h.updMc mc fun x => { x with copy := none }).memRecord mc 9 onesW loc).logRepair mc c.row).nextRepair mc

/-- SOFT_PPR (R334): where the DRAM supports soft PPR and has a resource free, the original row is repaired, its data copied back and the
spare freed; the next waiting row follows. -/
def execSoftPpr (mc : Nat) (free : Bool) (s : State) : Host.Outcome State Fault Refusal :=
  s.onHw fun _ h =>
    match (h.mc mc).copy with
    | none => h
    | some c =>
      if 12 ≤ mc ∨ !c.back then h
      else
        let h1 := (if free then h.copyOpens mc c else h).updMc mc fun x => { x with copy := none }
        let h2 := if free then
            ((h1.updMc mc fun x => { x with remap := sdel c.row x.remap }).setSpares mc).memRecord mc 9 onesW (c.row * 2 ^ 37 + 31 * 2 ^ 21)
          else h1
        h2.nextRepair mc

/-- WRITE_CRC_ALERT (R328): a command is retried; after 8 failed retries in a row the channel fails. -/
def execWriteCrcAlert (mc : Nat) (failed : Bool) (s : State) : Host.Outcome State Fault Refusal :=
  s.onHw fun _ h =>
    if 12 ≤ mc ∨ (h.mc mc).failed then h
    else if !failed then h.updMc mc fun x => { x with retries := 0 }
    else if (h.mc mc).retries + 1 < 8 then h.updMc mc fun x => { x with retries := x.retries + 1 }
    else h.failChannel mc

/-- The figures that a rank's refresh class rests on, as its controller holds them (R329): retention-type corrections and uncorrectable errors of
24 hours, retention-type corrections of 7 days, its DIMM's temperature. -/
def Hw.refreshFigures (h : Hw) (mc rank : Nat) : Nat × Nat × Nat × Nat :=
  let x := h.mc mc
  let within := fun (d : Nat) (l : List (Nat × Nat)) => (l.filter fun p => p.1 == rank && decide (h.time.toNat < p.2 + d * day)).length
  (within 1 x.retTimes, within 1 x.uncTimes, within 7 x.retTimes, sget 86 (rank / 4) x.dimmTemps)

/-- The refresh class that figures give (R329): 2 is C, 0 A, 1 B. -/
def refreshClass (relax : Bool) (f : Nat × Nat × Nat × Nat) : Nat :=
  if 16 ≤ f.1 ∨ 0 < f.2.1 then 2 else if relax ∧ f.2.2.1 = 0 ∧ f.2.2.2 ≤ 80 then 0 else 1

/-- REFRESH_CLASS_CHANGE (R320, R329): a rank's class follows its retention-type corrections of 24 hours and of 7 days, its uncorrectable
errors and its DIMM's temperature. The command carries these figures; one that does not have those that the controller counted changes nothing
(log 9). -/
def execRefreshClassChange (mc rank hours24 unc24 days7 temp : Nat) (s : State) : Host.Outcome State Fault Refusal :=
  s.onHw fun _ h =>
    let a := mcReg mc (0x200 + 8 * rank)
    let f := (hours24, unc24, days7, temp)
    let c := refreshClass (h.regF (mcReg mc 0x100) 16 16 == 1) f
    if 12 ≤ mc ∨ 8 ≤ rank ∨ !Word.bit (h.reg a) 63 ∨ f ≠ h.refreshFigures mc rank ∨ h.regF a 51 50 = c then h
    else (h.setRegF a 51 50 c).setUsable mc

end Sys2Proof.Machine
end

