-- ==== Sys2Proof/Machine/Deliver.lean ====
section
/-! DEFINITION. What a message does where it ends (R237, R238, R288): it enters the buffer that waits for it, or the block it is for takes it; and
the hop of a flit. -/

namespace Sys2Proof.Machine

/-- A Device access of a thread at its target (R23, R25, R63, R186, R352, R396): a register's block; a root port, where a read waits for
its completion and a write for its Ack (with no link up the write is discarded); memory past every cache. `wr` is a write's bytes from `pa` on with the bytes of the line that it
changes, none for a read; `err` what the target of a write reports. The answer leaves for the thread's chamber. -/
def devDo (who : Waiter) (tg : Target) (acc : Acc) (bank : Bool) (vmid : Nat) (pa : Word) (len : Nat) (wr : Option (Vec × BitVec 64)) (err : Nat)
    (q : List Host.Cell × Hw) : List Host.Cell × Hw :=
  let m := q.1
  let h := q.2
  let a := pa.toNat % 2 ^ 48
  let line := lineNo pa
  let off := pa.toNat % 64
  let ans := fun (h : Hw) (v : Vec) (e : Nat) => h.answerCore (h.devStop tg pa) false who pa v e
  let need := if wr.isSome then 2 else match who with | .ext _ true _ => 4 | _ => 1
  match tg with
  | .reg => (m, match wr with
    | none => let r := h.regLoad m acc bank vmid a len; ans r.1 (vput 0 0 (leBytes len r.2)) 0
    | some w => ans (h.regStore m acc bank vmid a len (leNat (vbytes w.1 0 len))) 0 0)
  | .mmio k =>
    if !h.judge acc a need then (m, ans h 0 3)
    else if wr.isSome && !(List.range 16).any (fun j => h.linkUp k j) then (m, ans (h.postDrop k 1) 0 0)
    else (m, h.mmioSend k who pa wr.isSome)
  | _ =>
    if !h.judge acc a need then (m, ans h 0 3)
    else match wr with
      | none => (m, if h.memBad line then ans h 0 2 else ans h (vput 0 0 (vbytes (memLine m (lineLocal line)) off len)) 0)
      | some w =>
        if err ≠ 0 then (m, ans h 0 err)
        else
          let mask := w.2 &&& maskOf off len
          (memPut (lineLocal line) (vbytes (vmerge (memLine m (lineLocal line)) (vput 0 off (vbytes w.1 0 len)) mask) 0 64) m,
            ans (if mask = BitVec.allOnes 64 then h.setPoison line false else h) 0 0)

/-- Words that come back from memory's write scheduling: entries of the write-back buffer are free, and a line that an install pushed out takes the
reserved one (R234, R319). -/
def Hw.memTold (m : List Host.Cell) (h : Hw) (s : Nat) (freed : List Nat) (victim : Option (Nat × WbbEntry)) : Hw :=
  (h.updSlice s fun x =>
    let w := x.wbb.filter fun e => !freed.contains e.1
    { x with wbb := match victim with | some v => sset v.1 v.2 w | none => w }).pumpSlice m s

/-- A message is taken by whom it is for. An answer for a thread stands with the part of its operation; a message for a link enters it at its port,
and a snoop of another node acts at its slice. -/
def deliver (p : Payload) (q : List Host.Cell × Hw) : List Host.Cell × Hw :=
  let m := q.1
  let h := q.2
  match p with
  | .dev who tg acc bank vmid pa len wr err => devDo who tg acc bank vmid pa len wr err q
  | .req s r => (m, h.updSlice s fun x => { x with intake := x.intake ++ [r] })
  | .wback s c l d => (m, h.updSlice s fun x => { x with wbIn := x.wbIn ++ [(c, l, d)] })
  | .snoop c s l k => (m,
    if c < 72 then h.updChamber c fun x => { x with snoops := x.snoops ++ [(s, l, k)] }
    else { h with portSnoops := supd [] (c - 72) (fun q => q ++ [(s, l, k)]) h.portSnoops })
  | .snpAns s c l a => (m, h.updSlice s fun x => { x with answers := x.answers ++ [(c, l, a)] })
  | .fill c r u d o b e => (m,
    h.updChamber c fun x =>
      let y := { sget Miss.free r x.miss with ready := true, bad := b, err := e, own := o, unique := u, dirty := d }
      { x with miss := sset r y x.miss })
  | .memRead k s l a => (m, h.updMc k fun x => { x with reads := x.reads ++ [⟨s, l, a, h.time.toNat⟩] })
  | .memWrite k s e l d b => (m, h.updMc k fun x => { x with writes := x.writes ++ [⟨s, e, l, d, b, h.time.toNat⟩] })
  | .memData s f => (m, h.updSlice s fun x => { x with fills := x.fills ++ [f] })
  | .memDone s _ freed victim => (m, h.memTold m s freed victim)
  | .instReq s r => (m, h.updSlice s fun x => { x with instIn := x.instIn ++ [r] })
  | .farAns t i v e => (m, h.farAnswer t i v e)
  | .answer t i v => (m, h.answerLong t i v)
  | .coreAns w pa v e => (m, h.coreTake w pa v e)
  | .cmoDone t => (m, h.updBack t fun b =>
      { b with sb := match b.sb with
          | e :: r => (match e.kind with
            | .cmo op sw _ a => { e with kind := .cmo op sw 9 a } :: r
            | _ => e :: r)
          | [] => [] })
  | .engAns e w v b n => (m, h.engAns e w v b n)
  | .cpl k c => (m, h.sendCpl k c.status c.ep c.data)
  | .link k j x => (m, h.linkEnter k j x)
  | .galSnoop s k i g => (m, h.snoopIn m s k i g)
  | .galWb s k d g => (m, h.updSlice s fun x => { x with rwbIn := x.rwbIn ++ [(k, d, g)] })
  | .adm r => (m, { h with admQ := h.admQ ++ [r] })
  | .rtrAns n v e => (m, h.routerTake n v e)
  | .irq o i => (m, h.takeMsg o i)

/-- What a chamber's queue kept while its clock stood still is taken, in order, once it runs again (R32, R33). -/
def drainAway (c : Nat) (q : List Host.Cell × Hw) : List Host.Cell × Hw :=
  if !(q.2.chamber c).clocked then q
  else (sget [] c q.2.awayQ).foldl (fun q p => deliver p.2 q) (q.1, { q.2 with awayQ := sdel c q.2.awayQ })

/-- A message leaves the mesh: its agent takes it, or the queue of a chamber whose clock stands still keeps it (R32). -/
def eject (f : Flit) (q : List Host.Cell × Hw) : List Host.Cell × Hw :=
  match f.payload.toChamber with
  | none => deliver f.payload q
  | some c =>
    if (q.2.chamber c).clocked then deliver f.payload (drainAway c q)
    else (q.1, { q.2 with awayQ := supd [] c (· ++ [(f.vc, f.payload)]) q.2.awayQ })

/-- The frame whose slot a Cream message takes as it leaves the mesh (R292): a fill's of its slice's data intake, a completion's of its link
port's egress. -/
def endKey (p : Payload) : Option Nat :=
  match p with
  | .memData s _ => some (dataKey s)
  | .cpl k _ => some (egressKey k)
  | _ => none

/-- The pointers of a link's arbitration after a winner, and the count of its frame (R288, R292, R293). -/
def Hw.granted (h : Hw) (node dir : Nat) (f : Flit) : Hw :=
  { h with
    rrPtr := if f.vc < 4 then sset (ptrKey node dir 2) f.inp (sset (ptrKey node dir 0) f.vc h.rrPtr) else sset (ptrKey node dir 1) f.vc h.rrPtr
    frames := if 4 ≤ f.vc then (match if dir = 5 then endKey f.payload else some (linkKey node dir) with
      | some k => supd 0 k (· + 1) h.frames
      | none => h.frames) else h.frames }

/-- A cycle of one output link: its stop admits messages (R287), one flit moves over the link or leaves the mesh (R288), and aged messages that
were not granted raise their marks (R290). -/
def hop (node dir : Nat) (q : List Host.Cell × Hw) : List Host.Cell × Hw :=
  let h := q.2.takeInAll node
  let won := h.arbitrate node dir
  let h1 := h.starve node dir won
  let r := match won with
    | none => (q.1, h1)
    | some f =>
      let mv := nextMove f.at_ f.dst
      let h2 := { h1.granted node dir f with flits := h1.flits.filter fun g => g.id != f.id }
      if dir = 5 then eject f (q.1, h2)
      else (q.1, { h2 with flits := h2.flits ++ [{ f with at_ := mv.2, stage := stageAfter f.stage f.at_ dir mv.2, input := inputAfter dir }] })
  (r.1, r.2.dropMarks)

end Sys2Proof.Machine
end

