-- ==== Sys2Proof/Machine/ExecMesh.lean ====
section
/-! DEFINITION. The mesh's own commands: hops, credits, age and starvation, frames, Skim promotion (R237, R288 to R294). -/

namespace Sys2Proof.Machine

/-- FLIT_HOP (R287, R288, R290): a cycle of the output link `dir` of a stop. Nothing moves while the mesh's clocks are stopped (R32). -/
def execFlitHop (node dir : Nat) (s : State) : Host.Outcome State Fault Refusal :=
  s.onAll fun m h => if node < 160 ∧ dir < 7 ∧ h.meshRuns then hop node dir (m, h) else (m, h)

/-- CREDIT_RETURN (R237): a freed entry's credit is back at its sender, whose oldest message of that class leaves with it; what else waited for
it tries again. -/
def execCreditReturn (cls sender dest : Nat) (s : State) : Host.Outcome State Fault Refusal :=
  s.onHw fun m h =>
    let h1 := (h.returnCredit cls sender dest).repost cls sender dest
    match cls with
    | 0 => h1.pumpL2 sender
    | 6 => (h1.pumpSlice m sender).pumpSnoops m sender
    | 7 => (h1.pumpWb sender).pumpL2 sender
    | 9 => h1.pumpSlice m sender
    | 11 => (List.range numChambers).foldl (fun h c => h.pumpL2 c) h1
    | 12 => (List.range 18).foldl (fun h i => h.pumpSlice m (18 * sender + i)) h1
    | _ => h1

/-- MESSAGE_AGED (R289, R290): a non-Cream message in the mesh reaches age 512. Unless its next move is to be made now, it is not granted, and its
channel's mark rises. -/
def execMessageAged (id : Nat) (s : State) : Host.Outcome State Fault Refusal :=
  s.onHw fun _ h =>
    match h.flits.find? fun f => f.id == id with
    | none => h
    | some f =>
      if 4 ≤ f.vc ∨ f.input = 9 then h
      else ({ h with flits := h.flits.map fun (g : Flit) => if g.id = id then { g with age := max g.age 512 } else g } : Hw).marksUp

/-- STARVATION_THROTTLE_END (R290): the throttle of a channel has gone on for 48 cycles after its mark dropped: no aged message of it remains. -/
def execStarvationThrottleEnd (vc : Nat) (s : State) : Host.Outcome State Fault Refusal :=
  s.onHw fun _ h =>
    if h.flits.any fun f => f.vc == vc && f.aged then h else { h with throttle := sdel vc h.throttle }

/-- CREAM_FRAME_START (R292, R293): a resource starts a frame and its Cream count restarts. Output links are numbered as the frame
limiter numbers them. -/
def execCreamFrameStart (resource : Nat) (s : State) : Host.Outcome State Fault Refusal :=
  s.onHw fun _ h => { h with frames := sdel resource h.frames }

/-- SKIM_PROMOTION (R294): a Skim request that has waited 4,096 slots is served from then on as Whole of weight 1. Resources 0 to 71
are slice intakes, with the request's place; 72 to 143 are Churn engines, with the instance; 144 to 159 are memory controllers, with the
read's place. -/
def execSkimPromotion (resource index : Nat) (s : State) : Host.Outcome State Fault Refusal :=
  s.onHw fun _ h =>
    if resource < 72 then
      h.updSlice resource fun x =>
        { x with intake := x.intake.modify index fun r => if r.weight = 0 then { r with weight := 1 } else r }
    else if resource < 144 ∧ index < 512 then
      h.updInst index fun x => if x.weight = 0 then { x with promoted := true } else x
    else if 144 ≤ resource ∧ resource < 160 then
      h.updMc (resource - 144) fun x => match x.reads[index]? with
        | some r => { x with promoted := x.promoted ++ [r.line] }
        | none => x
    else h

end Sys2Proof.Machine
end

