-- ==== Sys2Proof/Machine/ExecReg.lean ====
section
/-! DEFINITION. Writes of memory-mapped registers that have no row of their own (R9, R507), function entries (R393), and encodings that no
instruction has (R107). -/

namespace Sys2Proof.Machine

/-- REGISTER_WRITE (R9, R27, R507): a store of `size` bytes (4 or 8, naturally aligned) at a register's global address by a thread at a
level and in a world. Other sizes and alignments reach no register. -/
def execRegisterWrite (addr : Word) (lvl : Level) (secure : Bool) (size : Nat) (value : Word) (s : State) :
    Host.Outcome State Fault Refusal :=
  s.onHw fun m h =>
    let a := addr.toNat % 2 ^ 48
    if (size = 4 ∨ size = 8) ∧ a % size = 0 ∧ addr.toNat / 2 ^ 48 = h.node then
      h.regStore m ⟨lvl, secure, 0⟩ false 0 a size (value.toNat % 256 ^ size)
    else h

/-- LINK_FUNC (R371, R393): a write of function entry n of a port; clearing or changing it revokes the reservations of its requester. -/
def execLinkFunc (port n : Nat) (lvl : Level) (value : Word) (s : State) : Host.Outcome State Fault Refusal :=
  s.onHw fun m h =>
    if port < 18 ∧ n < 256 then h.regStore m ⟨lvl, decide (lvl = .m), 0⟩ false 0 (linkReg port (0x1000 + 8 * n)) 8 value.toNat else h

/-- ILLEGAL_INSTRUCTION (R107, R152): a word that no instruction assigns reaches issue, alone, and raises the exception. -/
def execIllegalInstruction (t : Nat) (word : BitVec 32) (s : State) : Host.Outcome State Fault Refusal :=
  s.onHw fun m h => if (insnDecode t word).isSome ∨ !h.ready t [] .solo then h else h.illegal m t

end Sys2Proof.Machine
end

