-- ==== Sys2Proof/Machine/ExecVat.lean ====
section
/-! DEFINITION. The commands of Vat slices (R225 to R236): requests, snoops and answers, writebacks, the write-back buffer, memory
commands and fills (R238). -/

namespace Sys2Proof.Machine

/-- READ_SHARED (R229): the slice takes its oldest read shared, or read of a device, an engine or another node that is handled as one. -/
def execReadShared (slice : Nat) (s : State) : Host.Outcome State Fault Refusal :=
  s.onHw fun m h => h.takeReq m slice fun r => match r.kind with
    | .readShared | .read _ _ => true
    | _ => false

/-- READ_UNIQUE (R229): a read unique, or a write of a device, an engine or another node, which invalidates every holder as one does. -/
def execReadUnique (slice : Nat) (s : State) : Host.Outcome State Fault Refusal :=
  s.onHw fun m h => h.takeReq m slice fun r => match r.kind with
    | .readUnique | .write _ => true
    | _ => false

/-- UPGRADE (R229). -/
def execUpgrade (slice : Nat) (s : State) : Host.Outcome State Fault Refusal :=
  s.onHw fun m h => h.takeReq m slice fun r => r.kind == .upgrade

/-- LINE_ORDER_RELEASE (R230): the oldest request that no earlier one for its line holds back proceeds. CMOs and far atomics have rows of
their own. -/
def execLineOrderRelease (slice : Nat) (s : State) : Host.Outcome State Fault Refusal :=
  s.onHw fun m h => h.takeReq m slice fun r => match r.kind with
    | .cmo _ | .far _ => false
    | _ => true

/-- A request that waited for the writeback of position `pos` has it (R236): what it knew of that snoop's answer decides whether it still
waits for the answer. -/
def Txn.homeWb (x : Txn) (pos : Nat) : Txn :=
  if x.wbWait.contains (100 + pos) then
    { x with wbWait := x.wbWait.filter (· != 100 + pos), got := true, dirty := x.dirty || x.req.kind.unique }
  else if x.remote.contains pos then
    { x with remote := (x.remote.filter (· != pos)) ++ [200 + pos], got := true, dirty := x.dirty || x.req.kind.unique }
  else x

/-- Data without an entry leaves for memory: into the Pool stack of a channel in cache mode where a write-back buffer entry can be reserved for
what it pushes out (R319), else to the controller of its line. None while a credit is wanting. -/
def Hw.downNow (h : Hw) (s l : Nat) (v : Vec) (bad : Bool) : Option Hw :=
  match h.poolDie l, (h.slice s).wbbFree with
  | some p, some r =>
    if h.hasCredit 10 s (12 + p) then
      some (((h.useCredit 10 s (12 + p)).send vcData (chamberStop s) (mcStop (12 + p) l) (.memWrite (12 + p) s (4096 + r) l v bad)).wbbReserve s r)
    else none
  | _, _ =>
    let mc := h.mcOf l
    if h.hasCredit 10 s mc then
      some (((h.useCredit 10 s mc).send vcData (chamberStop s) (mcStop mc l) (.memWrite mc s wbNoEntry l v bad)).poolDrop l)
    else none

/-- A writeback of another node reaches memory (R225, R231, R236): the controller of its line takes it, behind older data of the line that is on
its way there; a CXL device at once. With STATE 3 the sender remains a sharer, else it has no copy. None while a credit is wanting. -/
def wbHome (s l : Nat) (g : GMsg) (m : List Host.Cell) (h : Hw) : Option (List Host.Cell × Hw) :=
    let h1 := h.updSlice s fun x => { x with wbb := x.wbb.filter fun e => e.2.line != l || e.2.issued }
    let h2 := if g.state = 3 then h1.dirShare l
      else if ((h1.slice s).dirLook l).isSome then h1.dirDrop l g.spos
      else { h1 with dirMem := if sget 0 l h1.dirMem = 3 then sset l 1 h1.dirMem else if sget 0 l h1.dirMem = 2 then sdel l h1.dirMem else h1.dirMem }
    let h3 := h2.updTxn s l fun x => x.homeWb g.spos
    if cxlLine l then
      some (memPut (lineLocal l) (vbytes g.data 0 64) m, { h3.setPoison l g.poison with newest := sdel l h3.newest, under := sdel l h3.under })
    else (h3.downNow s l g.data g.poison).map fun h => (m, h.setNewest l g.data)

/-- A writeback or eviction notice of another node waiting at a slice is handled and acknowledged (R225, R234, R237); an address with no target
is refused (R25). None when there is none, or it must wait. -/
def rwbTake (s : Nat) (dirty : Bool) (m : List Host.Cell) (h : Hw) : Option (List Host.Cell × Hw) :=
  if numSlices ≤ s ∨ (h.slice s).stopped then none
  else match (h.slice s).rwbIn.find? fun x => x.2.1 == dirty with
    | none => none
    | some (k, d, g) =>
      let l := h.ownLineOf g
      let h1 := (h.updSlice s fun x => { x with rwbIn := x.rwbIn.erase (k, d, g) }).freeEntry 8 k s
      let ack := fun (h : Hw) => h.galAnswer (chamberStop s) 0x31 g 0 0 false 0
      if !h.lineThere l then some (m, h1.galRefuse (chamberStop s) k g 4)
      else if !dirty then some (m, ack (h1.dirDrop l g.spos))
      else (wbHome s l g m h1).map fun q => (q.1, (ack q.2).advance q.1 s l)

/-- WRITEBACK (R225): a dirty writeback reaches the slice, another node's before a chamber's, and is allocated, or enters the write-back
buffer, or goes to memory. -/
def execWriteback (slice : Nat) (s : State) : Host.Outcome State Fault Refusal :=
  s.onAll fun m h => (rwbTake slice true m h).getD (m, h.handleWb m slice true)

/-- CLEAN_EVICTION (R225): a clean eviction notice updates the filter, or the directory. -/
def execCleanEviction (slice : Nat) (s : State) : Host.Outcome State Fault Refusal :=
  s.onAll fun m h => (rwbTake slice false m h).getD (m, h.handleWb m slice false)

/-- CMO_REQUEST (R215, R217): a CMO to the point of coherence acts on the node's copies and on memory, is sent to every other
member of the group, and is answered. It waits for what is on its way to memory, and for tags, and for its turn (R294). -/
def execCmoRequest (slice : Nat) (s : State) : Host.Outcome State Fault Refusal :=
  s.onAll fun m h =>
    match h.nextOf slice fun r => match r.kind with | .cmo _ => true | _ => false with
      | none => (m, h)
      | some (r, h0) =>
        match r.kind, r.src with
        | .cmo op, .thread t =>
          let h1 := h0.updSlice slice fun x => { x with intake := x.intake.erase r }
          match cmoNode op r.line (m, h1) with
          | none => (m, h)
          | some q =>
            match q.2.askAll h.others fun h p => h.galReq (.cmo t) 0x39 p (r.line % 2 ^ 42) op false 0 (BitVec.ofNat 512 r.line) with
            | none => (m, h)
            | some h2 => (q.1, (h2.freeReq slice r).send vcRsp (chamberStop slice) (chamberStop (t / 16)) (.cmoDone t))
        | _, _ => (m, h)

/-- SNOOP (R229): a slice's snoop acts on a holder, which answers. Holders 72 to 79 are the PCIe and CXL ports (R227). -/
def execSnoop (slice holder : Nat) (s : State) : Host.Outcome State Fault Refusal :=
  s.onHw fun _ h => if holder < 80 then h.actSnoop slice holder false else h

/-- BACK_INVALIDATION (R200, R228): the back-invalidation of a filter victim acts on a holder. -/
def execBackInvalidation (slice holder : Nat) (s : State) : Host.Outcome State Fault Refusal :=
  s.onHw fun _ h => if holder < 80 then h.actSnoop slice holder true else h

/-- SNOOP_ANSWER (R236): a holder's answer returns to the slice. -/
def execSnoopAnswer (slice holder : Nat) (s : State) : Host.Outcome State Fault Refusal :=
  s.onHw fun m h => if slice < numSlices then h.takeAnswer m slice holder else h

/-- WRITE_BACK_BUFFER_ISSUE (R234): an entry of the write-back buffer obtains a credit and its write is issued. -/
def execWriteBackBufferIssue (slice entry : Nat) (s : State) : Host.Outcome State Fault Refusal :=
  s.onAll fun m h => if slice < numSlices then h.wbbIssue m slice entry else (m, h)

/-- A line whose check bits cannot be read may be held by any member (R231): all are snooped before the request ends. None when no member can
hold the line, or all have been asked; `h0`, the state with the fill, while tags are wanting. -/
def Hw.unreadable (h0 h : Hw) (s : Nat) (x : Txn) : Option Hw :=
  let l := x.req.line
  let there := h.others.filter fun p => (h.route p).isSome || (h.holdsFor p).isSome
  if x.unread ∨ there.isEmpty ∨ cxlLine l ∨ ((h.slice s).dirLook l).isSome then none
  else some (match h.askAll there fun h p => h.galReq (.line s l) (if x.req.kind.unique then 0x11 else 0x10) p l 0 false 0 0 with
    | none => h0
    | some h1 => (h1.vatCount s 0x218).updTxn s l fun y => { y with unread := true, remote := there })

/-- MEMORY_FILL (R225, R238, R319): a controller's data reaches the slice's fill buffer; its token returns, and the request that asked
for the line goes on. After a miss in the Pool the DDR read follows. -/
def execMemoryFill (slice : Nat) (s : State) : Host.Outcome State Fault Refusal :=
  s.onHw fun m h =>
    match (h.slice slice).fills with
    | [] => h
    | f :: r =>
      let h1 := h.updSlice slice fun x => { x with fills := r, tokens := supd 0 f.mc (· - 1) x.tokens }
      match h1.txn slice f.line with
      | none => h1
      | some x =>
        if !x.asked then h1
        else if f.err = 99 then (h1.updTxn slice f.line fun y => { y with asked := false, poolMiss := true }).advance m slice f.line
        else
          let h2 := h1.carry f.line f.bad
          match (if f.err = 6 then h.unreadable h2 slice x else none) with
          | some h3 => h3
          | none =>
            let h3 := if x.poolMiss then h2.poolInstall m slice f.line else h2
            ((h3.updTxn slice f.line fun y => { y with came := true, err := if 5 ≤ f.err ∧ x.req.needsGood then 6 else 0 }).advance m slice f.line).pumpSlice m slice

end Sys2Proof.Machine
end

