-- ==== Sys2Proof/Machine/ExecVec.lean ====
section
/-! DEFINITION. Vector instructions (R69 to R87, R509): element arithmetic, floating point, reductions, permutes, conversions, masks, and
vector memory accesses. Every one is a long operation (R71); its operands are read and its result known as it issues. -/

namespace Sys2Proof.Machine

/-! ### Shared shapes -/

/-- The elements of a vector at a width. -/
def elems (v : Vec) (w : Nat) : List Nat := (List.range (512 / w)).map (elem v w)

/-- Element results under a mask: inactive elements keep the old value (R70). -/
def predicate (w : Nat) (mask : Word) (old : Vec) (new : List Nat) : Vec :=
  packElems w (new.zipIdx.map fun p => if active mask p.2 then p.1 else elem old w p.2)

/-- Results with flags under a mask: flags of active elements only (R70, R87). -/
def predicateF (w : Nat) (mask : Word) (old : Vec) (new : List FRes) : Vec × BitVec 5 :=
  (predicate w mask old (new.map (·.1)),
   new.zipIdx.foldl (fun f p => if active mask p.2 then f ||| p.1.2 else f) 0)

def Arch.rmode (a : Arch) : Nat := Word.fld (a.crAt 0) 7 6

/-- A vector instruction that writes a register (R71): reserved forms are illegal, a disabled unit raises the vector-disabled exception
(R72), else the long operation issues with its result and flags. -/
def Hw.vecOp (m : List Host.Cell) (h : Hw) (t : Nat) (k : LongKind) (cls : Cls) (srcs : List Dest) (dest : Dest)
    (reserved setsFlags : Bool) (f : Arch → Vec × BitVec 5) : Hw :=
  if !h.ready t srcs cls then h
  else
    let a := (h.thread t).a
    if reserved then h.illegal m t
    else match a.vecDisabled with
      | some x => h.raise m t x 10 0 0 a.pc
      | none =>
        let r := f a
        (h.addLong t { LongOp.known k dest r.1 with flags := r.2, setsFlags := setsFlags }).complete t .seq

/-- The mask register as a source: m0 is none. -/
def srcM (mk : BitVec 3) : List Dest := if mk = 0 then [] else [.m mk.toNat]

/-- The mask and, under one, the destination, whose inactive elements are kept, as sources (R70, R114). -/
def srcD (vd : Reg) (mk : BitVec 3) : List Dest := if mk = 0 then [] else [.v vd.toNat, .m mk.toNat]

/-- Element-wise integer or float operation of two operands, the second a vector or a scalar (R70, R73 to R75). -/
def vec2 (t : Nat) (vd va vb : Reg) (mk : BitVec 3) (ew : BitVec 2) (sc reserved fl : Bool) (k : LongKind) (cls : Cls)
    (f : Nat → Nat → Nat → Nat → FRes) (s : State) : Host.Outcome State Fault Refusal :=
  s.onHw fun m h => h.vecOp m t k cls ([.v va.toNat, if sc then destG vb else .v vb.toNat] ++ srcD vd mk) (.v vd.toNat)
    reserved fl fun a =>
      let w := ewBits ew
      let x := a.rv va
      let y := fun j => if sc then (a.rg vb).toNat % 2 ^ w else elem (a.rv vb) w j
      predicateF w (a.rm mk.toNat) (a.rv vd) ((List.range (ewCount ew)).map fun j => f a.rmode w (elem x w j) (y j))

/-- An integer operation (R74). -/
def vint (t : Nat) (vd va vb : Reg) (mk : BitVec 3) (ew : BitVec 2) (sc : Bool) (f : Nat → Nat → Nat → Nat) (s : State) :
    Host.Outcome State Fault Refusal :=
  vec2 t vd va vb mk ew sc false false .vec .long (fun _ w a b => (f w a b, 0)) s

/-- A floating-point operation (R75): ew 0 is reserved. -/
def vflt (t : Nat) (vd va vb : Reg) (mk : BitVec 3) (ew : BitVec 2) (sc : Bool) (f : Fmt → Nat → Nat → Nat → FRes) (s : State) :
    Host.Outcome State Fault Refusal :=
  vec2 t vd va vb mk ew sc (decide (ew = 0)) true .vec .long (fun rm w a b => f (fmtOf w) rm a b) s

/-- An operation of one vector operand. -/
def vec1 (t : Nat) (vd va : Reg) (mk : BitVec 3) (ew : BitVec 2) (reserved fl : Bool) (k : LongKind) (cls : Cls)
    (f : Nat → Nat → Nat → FRes) (s : State) : Host.Outcome State Fault Refusal :=
  s.onHw fun m h => h.vecOp m t k cls ([.v va.toNat] ++ srcD vd mk) (.v vd.toNat) reserved fl fun a =>
    let w := ewBits ew
    predicateF w (a.rm mk.toNat) (a.rv vd) ((elems (a.rv va) w).map fun x => f a.rmode w x)

/-- A fused multiply-add (R76). -/
def vfma (t : Nat) (vd va vb : Reg) (mk : BitVec 3) (ew : BitVec 2) (np nd : Bool) (s : State) : Host.Outcome State Fault Refusal :=
  s.onHw fun m h => h.vecOp m t .vec .long ([.v vd.toNat, .v va.toNat, .v vb.toNat] ++ srcM mk) (.v vd.toNat) (decide (ew = 0)) true
    fun a =>
      let w := ewBits ew
      predicateF w (a.rm mk.toNat) (a.rv vd) ((List.range (ewCount ew)).map fun j =>
        (fmtOf w).fma a.rmode np nd (elem (a.rv va) w j) (elem (a.rv vb) w j) (elem (a.rv vd) w j))

/-- Signed operations on numbers of width w. -/
def minSw (w a b : Nat) : Nat := if toS w a < toS w b then a else b
def maxSw (w a b : Nat) : Nat := if toS w a < toS w b then b else a
def clampS (w : Nat) (i : Int) : Nat :=
  if i < -(2 ^ (w - 1) : Nat) then 2 ^ (w - 1) else if ((2 ^ (w - 1) : Nat) : Int) ≤ i then 2 ^ (w - 1) - 1 else ofS w i

/-- A reduction (R77): the active elements, what they come to, and what none comes to; every other element is written as zero. -/
def vred (t : Nat) (vd va : Reg) (mk : BitVec 3) (ew : BitVec 2) (reserved fl : Bool)
    (f : Nat → Nat → List (Option Nat) → FRes) (s : State) : Host.Outcome State Fault Refusal :=
  s.onHw fun m h => h.vecOp m t .vec .long ([.v va.toNat] ++ srcM mk) (.v vd.toNat) reserved fl fun a =>
    let w := ewBits ew
    let r := f a.rmode w ((elems (a.rv va) w).zipIdx.map fun p => if active (a.rm mk.toNat) p.2 then some p.1 else none)
    (packElems w [r.1], r.2)

/-- An integer reduction. -/
def vredI (t : Nat) (vd va : Reg) (mk : BitVec 3) (ew : BitVec 2) (init : Nat → Nat) (f : Nat → Nat → Nat → Nat) (s : State) :
    Host.Outcome State Fault Refusal :=
  vred t vd va mk ew false false (fun _ w xs => ((xs.filterMap id).foldl (f w) (init w), 0)) s

/-- The result of a floating-point reduction: a NaN is canonical, and a signalling element sets NV even when it is the only one
(R86). -/
def canonRed (t : Fmt) (xs : List Nat) (r : FRes) : FRes :=
  (if (t.decode r.1).isNan then t.qnan else r.1, r.2 ||| sigFlag (xs.map t.decode))

/-- A sum in ascending order (R77); none for no element. -/
def fredSeq (t : Fmt) (rm : Nat) (xs : List Nat) : FRes :=
  match xs with
  | [] => (0, 0)
  | x :: r => canonRed t xs (r.foldl (fun (s : FRes) y => let z := t.add rm s.1 y; (z.1, s.2 ||| z.2)) (x, 0))

/-- One level of the tree of VFREDADDT: an absent member passes the other up. -/
def treeLevel (t : Fmt) (rm : Nat) : List (Option FRes) → List (Option FRes)
  | a :: b :: r =>
    (match a, b with
      | some x, some y => let z := t.add rm x.1 y.1; some (z.1, x.2 ||| y.2 ||| z.2)
      | some x, none => some x
      | none, y => y) :: treeLevel t rm r
  | xs => xs

/-- A sum in tree order (R77). -/
def fredTree (t : Fmt) (rm : Nat) (xs : List (Option Nat)) : FRes :=
  match forN 0 6 (fun _ l => treeLevel t rm l) (xs.map fun x => x.map fun n => ((n, 0) : FRes)) with
  | some r :: _ => canonRed t (xs.filterMap id) r
  | _ => (0, 0)

/-- minimumNumber or maximumNumber over the active elements; the canonical quiet NaN when there is none (R77). -/
def fredMin (t : Fmt) (isMax : Bool) (xs : List Nat) : FRes :=
  match xs with
  | [] => (t.qnan, 0)
  | x :: r => canonRed t xs (r.foldl (fun (s : FRes) y => let z := t.minMax isMax s.1 y; (z.1, s.2 ||| z.2)) (x, 0))

/-- A permute with two vector operands (R78): element j from the elements of both. -/
def vperm2 (t : Nat) (vd va vb : Reg) (mk : BitVec 3) (ew : BitVec 2) (f : Nat → (Nat → Nat) → (Nat → Nat) → Nat → Nat)
    (s : State) : Host.Outcome State Fault Refusal :=
  s.onHw fun m h => h.vecOp m t .vec .long ([.v va.toNat, .v vb.toNat] ++ srcD vd mk) (.v vd.toNat) false false fun a =>
    let w := ewBits ew
    let n := ewCount ew
    (predicate w (a.rm mk.toNat) (a.rv vd) ((List.range n).map (f n (elem (a.rv va) w) (elem (a.rv vb) w))), 0)

/-- A slide (R78): element j of a, displaced by g[rb]. -/
def vslide (t : Nat) (vd va rb : Reg) (mk : BitVec 3) (ew : BitVec 2) (f : Nat → (Nat → Nat) → Nat → Nat → Nat) (s : State) :
    Host.Outcome State Fault Refusal :=
  s.onHw fun m h => h.vecOp m t .vec .long ([.v va.toNat, destG rb] ++ srcD vd mk) (.v vd.toNat) false false fun a =>
    let w := ewBits ew
    let n := ewCount ew
    (predicate w (a.rm mk.toNat) (a.rv vd) ((List.range n).map (f n (elem (a.rv va) w) (a.rg rb).toNat)), 0)

/-- A conversion or extension to twice the width (R79): elements 0 to n / 2 − 1 of a. -/
def vwiden (t : Nat) (vd va : Reg) (mk : BitVec 3) (ew : BitVec 2) (reserved fl : Bool) (f : Nat → Nat → FRes) (s : State) :
    Host.Outcome State Fault Refusal :=
  s.onHw fun m h => h.vecOp m t .vec .long ([.v va.toNat] ++ srcD vd mk) (.v vd.toNat) reserved fl fun a =>
    let w := ewBits ew
    predicateF (2 * w) (a.rm mk.toNat) (a.rv vd) ((List.range (ewCount ew / 2)).map fun j => f w (elem (a.rv va) w j))

/-- A conversion to half the width (R79): n results in the low 256 bits; the high 256 bits are written as zero whatever the mask
holds. -/
def vnarrow (t : Nat) (vd va : Reg) (mk : BitVec 3) (ew : BitVec 2) (reserved fl : Bool) (f : Nat → Nat → Nat → FRes) (s : State) :
    Host.Outcome State Fault Refusal :=
  s.onHw fun m h => h.vecOp m t .vec .long ([.v va.toNat] ++ srcD vd mk) (.v vd.toNat) reserved fl fun a =>
    let w := ewBits ew
    predicateF (w / 2) (a.rm mk.toNat) (a.rv vd) ((elems (a.rv va) w).map fun x => f a.rmode w x)

/-- A compare (R80): bit j of a mask register; inactive elements and bits above n − 1 are 0. -/
def vcmp (t : Nat) (md va vb : Reg) (mk : BitVec 3) (ew : BitVec 2) (reserved fl : Bool) (f : Nat → Nat → Nat → Bool × BitVec 5)
    (s : State) : Host.Outcome State Fault Refusal :=
  s.onHw fun m h => h.vecOp m t .vec .long ([.v va.toNat, .v vb.toNat] ++ srcM mk) (if md = 0 then .none else .m md.toNat)
    (reserved || decide (8 ≤ md.toNat)) fl fun a =>
      let w := ewBits ew
      let rs := (List.range (ewCount ew)).map fun j =>
        if active (a.rm mk.toNat) j then f w (elem (a.rv va) w j) (elem (a.rv vb) w j) else (false, 0)
      (BitVec.ofNat 512 (rs.foldr (fun r n => b2n r.1 + 2 * n) 0), rs.foldl (fun x r => x ||| r.2) 0)

def vcmpI (t : Nat) (md va vb : Reg) (mk : BitVec 3) (ew : BitVec 2) (f : Nat → Nat → Nat → Bool) (s : State) :
    Host.Outcome State Fault Refusal :=
  vcmp t md va vb mk ew false false (fun w a b => (f w a b, 0)) s

def vcmpF (t : Nat) (md va vb : Reg) (mk : BitVec 3) (ew : BitVec 2) (c : FCmp) (s : State) : Host.Outcome State Fault Refusal :=
  vcmp t md va vb mk ew (decide (ew = 0)) true (fun w a b => (fmtOf w).cmp c a b) s

/-- The low n bits of a mask. -/
def lowMask (ew : BitVec 2) (w : Word) : Nat := w.toNat % 2 ^ ewCount ew

def destM (r : Reg) : Dest := if r = 0 then .none else .m r.toNat

/-- A logical operation of mask registers (R80): bits n − 1 to 0; the others are zero (R36). -/
def mlog (t : Nat) (md ma mb : Reg) (ew : BitVec 2) (f : Word → Word → Word) (s : State) : Host.Outcome State Fault Refusal :=
  s.onHw fun m h => h.vecOp m t .vec .long [destM ma, destM mb] (destM md)
    (decide (8 ≤ md.toNat ∨ 8 ≤ ma.toNat ∨ 8 ≤ mb.toNat)) false fun a =>
      (BitVec.ofNat 512 (lowMask ew (f (a.rm ma.toNat) (a.rm mb.toNat))), 0)

/-- A mask operation that writes a general register (R80). -/
def mtog (t : Nat) (rd ma : Reg) (ew : BitVec 2) (f : Nat → Nat → Nat) (s : State) : Host.Outcome State Fault Refusal :=
  s.onHw fun m h => h.vecOp m t .vec .long [destM ma] (destG rd) (decide (8 ≤ ma.toNat)) false fun a =>
    (BitVec.ofNat 512 (f (ewCount ew) (lowMask ew (a.rm ma.toNat))), 0)

/-! ### Memory (R81 to R84, R509) -/

/-- What a vector access checks and performs, in order: the address for the check, its length and its offset in the register; whether
its alignment is at fault; the runs of bytes it performs, as (offset in it, length). -/
structure VPiece where
  va : Word
  len : Nat
  off : Nat
  bad : Bool
  runs : List (Nat × Nat)

/-- The runs of active bytes among bytes lo to lo + n − 1 of a register: (offset from lo, length). -/
def activeRuns (ew : Nat) (mask : Word) (lo : Nat) : Nat → List (Nat × Nat)
  | 0 => []
  | n + 1 =>
    let r := activeRuns ew mask lo n
    if active mask ((lo + n) / ew) then
      match r.getLast? with
      | some (o, l) => if o + l = n then r.dropLast ++ [(o, l + 1)] else r ++ [(n, 1)]
      | none => [(n, 1)]
    else r

/-- VLD and VST: the at most two halves that hold an active byte (R83). -/
def piecesVL (va : Word) (ew : Nat) (mask : Word) : List VPiece :=
  ((halves va 64).map fun p => (⟨p.1, p.2.1, p.2.2, false, activeRuns ew mask p.2.2 p.2.1⟩ : VPiece)).filter fun p => !p.runs.isEmpty

/-- Elements at addresses of their own, naturally aligned (R81, R82). -/
def piecesEl (addr : Nat → Word) (ew n : Nat) (mask : Word) : List VPiece :=
  ((List.range n).filter (active mask)).map fun j =>
    ⟨addr j, ew, j * ew, decide ((addr j).toNat % ew ≠ 0), [(0, ew)]⟩

/-- VLDB: every active element at one address of any alignment (R81). -/
def piecesB (va : Word) (ew n : Nat) (mask : Word) : List VPiece :=
  ((List.range n).filter (active mask)).flatMap fun j =>
    (halves va ew).map fun p => ⟨p.1, p.2.1, j * ew + p.2.2, false, [(0, p.2.1)]⟩

/-- The checks of R83 in order: steps 4 of R68, with the element's own alignment before the Device rule of R84. -/
def vecCheck (m : List Host.Cell) (h : Hw) (t : Nat) (acc : Access) (devOk : Bool) : List VPiece → X2 × List (VPiece × Piece)
  | [] => (.ok [], [])
  | p :: r =>
    match x2One m h t ⟨acc, p.len, false, devOk || p.bad, false, false⟩ p.va p.len p.off with
    | .ok (q :: _) =>
      if p.bad then (.flt ⟨2, 0, p.va, false⟩ p.va, [])
      else
        let s := vecCheck m h t acc devOk r
        (s.1, (p, q) :: s.2)
    | e => (e, [])

/-- Register space takes no vector access (R84, R23); 64-byte-aligned VLD and VST with mk 0 are the Device accesses (R84). -/
def vecDevOk (va : Word) (mk : BitVec 3) (whole : Bool) : Bool := whole && decide (mk = 0) && decide (va.toNat % 64 = 0)

/-- A vector load (R81 to R84). -/
def Hw.vecLoad (m : List Host.Cell) (h : Hw) (t : Nat) (vd : Reg) (srcs : List Dest) (mk : BitVec 3) (reserved devOk : Bool)
    (ps : List VPiece) : Hw :=
  if !h.ready t (srcs ++ srcD vd mk) .memLong then h
  else
    let x := h.thread t
    if reserved then h.illegal m t
    else match x.a.vecDisabled with
      | some l => h.raise m t l 10 0 0 x.a.pc
      | none =>
        let c := vecCheck m h t .load devOk ps
        match c.1 with
        | .flt f va => h.raiseFlt m t f va x.a.pc
        | .miss va => h.cancel t va .load
        | .ok _ =>
          if c.2.any fun p => x.b.deviceWaits p.2.mt then h
          else
            let id := h.nextLong t
            let parts : List Part := c.2.flatMap fun p =>
              p.1.runs.map fun r => ⟨p.2.pa + w64 r.1, p.2.mt, r.2, p.1.off + r.1, false, p.2.tg⟩
            let o := { LongOp.known .vload (.v vd.toNat) (x.a.rv vd) with ready := false, parts := parts, acc := x.acc }
            ((h.addLong t o.finish).lookup m t id 0).complete t .seq

/-- The store-buffer entries of a vector store in order (R509): elements of one Normal write-back line share an entry, later elements
over earlier ones. -/
def vecEntries (src : Vec) (k : SbKind) (acc : Acc) (ord : Nat) (cs : List (VPiece × Piece)) : List SbEntry :=
  let one := fun (p : VPiece × Piece) => p.1.runs.map fun r =>
    mkEntry (p.2.pa + w64 r.1) p.2.mt (vbytes src (p.1.off + r.1) r.2) false k acc p.2.tg ord
  let join := fun (e n : SbEntry) =>
    { e with data := vmerge e.data n.data n.mask, mask := e.mask ||| n.mask, pa := if n.pa.toNat < e.pa.toNat then n.pa else e.pa }
  (cs.flatMap fun p => match one p with
    | e :: r => [r.foldl join e]
    | [] => []).foldl (fun es n =>
      if n.mtype = .wb ∧ (es.any fun e => e.line == n.line && e.mtype == .wb) then
        es.map fun e => if e.line = n.line ∧ e.mtype = .wb then join e n else e
      else es ++ [n]) []

/-- A vector store (R81 to R84, R509). -/
def Hw.vecStore (m : List Host.Cell) (h : Hw) (t : Nat) (vs : Reg) (srcs : List Dest) (mk : BitVec 3) (reserved devOk : Bool)
    (k : SbKind) (ps : List VPiece) : Hw :=
  if !h.ready t ([Dest.v vs.toNat] ++ srcs ++ srcM mk) .memLong || decide ((h.thread t).b.sbFree < 2) then h
  else
    let x := h.thread t
    if reserved then h.illegal m t
    else match x.a.vecDisabled with
      | some l => h.raise m t l 10 0 0 x.a.pc
      | none =>
        let c := vecCheck m h t .store devOk ps
        match c.1 with
        | .flt f va => h.raiseFlt m t f va x.a.pc
        | .miss va => h.cancel t va .store
        | .ok _ =>
          if c.2.any fun p => x.b.deviceWaits p.2.mt then h
          else
            let es := vecEntries (x.a.rv vs) k x.acc x.b.fresh c.2
            let n := x.b.sbFree
            (h.updBack t fun b => { b with sb := b.sb ++ es.take n, vstWait := es.drop n }).complete t .seq

/-- Bytes of an element. -/
def ewBytes (ew : BitVec 2) : Nat := 2 ^ ew.toNat

/-- The element addresses of VLDS and VSTS, and of VGATHER and VSCATTER. -/
def strideAddr (base stride : Word) (j : Nat) : Word := base + w64 j * stride
def gatherAddr (a : Arch) (base : Word) (vi : Reg) (ew sc : BitVec 2) (j : Nat) : Word :=
  base + (BitVec.ofInt 64 (toS (ewBits ew) (elem (a.rv vi) (ewBits ew) j)) <<< sc.toNat)

/-! ### Instructions -/

/-- VADD (R74). -/
def execVadd (t : Nat) (vd va vb : Reg) (mk : BitVec 3) (ew : BitVec 2) (sc : Bool) (s : State) :
    Host.Outcome State Fault Refusal :=
  vint t vd va vb mk ew sc (fun _ a b => a + b) s

/-- VSUB (R74). -/
def execVsub (t : Nat) (vd va vb : Reg) (mk : BitVec 3) (ew : BitVec 2) (sc : Bool) (s : State) :
    Host.Outcome State Fault Refusal :=
  vint t vd va vb mk ew sc (fun w a b => a + 2 ^ w - b) s

/-- VAND (R74). -/
def execVand (t : Nat) (vd va vb : Reg) (mk : BitVec 3) (ew : BitVec 2) (sc : Bool) (s : State) :
    Host.Outcome State Fault Refusal :=
  vint t vd va vb mk ew sc (fun _ a b => a &&& b) s

/-- VOR (R74). -/
def execVor (t : Nat) (vd va vb : Reg) (mk : BitVec 3) (ew : BitVec 2) (sc : Bool) (s : State) :
    Host.Outcome State Fault Refusal :=
  vint t vd va vb mk ew sc (fun _ a b => a ||| b) s

/-- VXOR (R74). -/
def execVxor (t : Nat) (vd va vb : Reg) (mk : BitVec 3) (ew : BitVec 2) (sc : Bool) (s : State) :
    Host.Outcome State Fault Refusal :=
  vint t vd va vb mk ew sc (fun _ a b => a ^^^ b) s

/-- VSHL (R74). -/
def execVshl (t : Nat) (vd va vb : Reg) (mk : BitVec 3) (ew : BitVec 2) (sc : Bool) (s : State) :
    Host.Outcome State Fault Refusal :=
  vint t vd va vb mk ew sc (fun w a b => a * 2 ^ (b % w)) s

/-- VSHR (R74). -/
def execVshr (t : Nat) (vd va vb : Reg) (mk : BitVec 3) (ew : BitVec 2) (sc : Bool) (s : State) :
    Host.Outcome State Fault Refusal :=
  vint t vd va vb mk ew sc (fun w a b => a / 2 ^ (b % w)) s

/-- VSRA (R74). -/
def execVsra (t : Nat) (vd va vb : Reg) (mk : BitVec 3) (ew : BitVec 2) (sc : Bool) (s : State) :
    Host.Outcome State Fault Refusal :=
  vint t vd va vb mk ew sc (fun w a b => ofS w (toS w a / 2 ^ (b % w))) s

/-- VMIN (R74). -/
def execVmin (t : Nat) (vd va vb : Reg) (mk : BitVec 3) (ew : BitVec 2) (sc : Bool) (s : State) :
    Host.Outcome State Fault Refusal :=
  vint t vd va vb mk ew sc (minSw) s

/-- VMAX (R74). -/
def execVmax (t : Nat) (vd va vb : Reg) (mk : BitVec 3) (ew : BitVec 2) (sc : Bool) (s : State) :
    Host.Outcome State Fault Refusal :=
  vint t vd va vb mk ew sc (maxSw) s

/-- VMINU (R74). -/
def execVminu (t : Nat) (vd va vb : Reg) (mk : BitVec 3) (ew : BitVec 2) (sc : Bool) (s : State) :
    Host.Outcome State Fault Refusal :=
  vint t vd va vb mk ew sc (fun _ a b => min a b) s

/-- VMAXU (R74). -/
def execVmaxu (t : Nat) (vd va vb : Reg) (mk : BitVec 3) (ew : BitVec 2) (sc : Bool) (s : State) :
    Host.Outcome State Fault Refusal :=
  vint t vd va vb mk ew sc (fun _ a b => max a b) s

/-- VMUL (R74). -/
def execVmul (t : Nat) (vd va vb : Reg) (mk : BitVec 3) (ew : BitVec 2) (sc : Bool) (s : State) :
    Host.Outcome State Fault Refusal :=
  vint t vd va vb mk ew sc (fun _ a b => a * b) s

/-- VMULH (R74). -/
def execVmulh (t : Nat) (vd va vb : Reg) (mk : BitVec 3) (ew : BitVec 2) (sc : Bool) (s : State) :
    Host.Outcome State Fault Refusal :=
  vint t vd va vb mk ew sc (fun w a b => ofS w (toS w a * toS w b / 2 ^ w)) s

/-- VMULHU (R74). -/
def execVmulhu (t : Nat) (vd va vb : Reg) (mk : BitVec 3) (ew : BitVec 2) (sc : Bool) (s : State) :
    Host.Outcome State Fault Refusal :=
  vint t vd va vb mk ew sc (fun w a b => a * b / 2 ^ w) s

/-- VSADD (R74). -/
def execVsadd (t : Nat) (vd va vb : Reg) (mk : BitVec 3) (ew : BitVec 2) (sc : Bool) (s : State) :
    Host.Outcome State Fault Refusal :=
  vint t vd va vb mk ew sc (fun w a b => clampS w (toS w a + toS w b)) s

/-- VSSUB (R74). -/
def execVssub (t : Nat) (vd va vb : Reg) (mk : BitVec 3) (ew : BitVec 2) (sc : Bool) (s : State) :
    Host.Outcome State Fault Refusal :=
  vint t vd va vb mk ew sc (fun w a b => clampS w (toS w a - toS w b)) s

/-- VUSADD (R74). -/
def execVusadd (t : Nat) (vd va vb : Reg) (mk : BitVec 3) (ew : BitVec 2) (sc : Bool) (s : State) :
    Host.Outcome State Fault Refusal :=
  vint t vd va vb mk ew sc (fun w a b => min (a + b) (2 ^ w - 1)) s

/-- VUSSUB (R74). -/
def execVussub (t : Nat) (vd va vb : Reg) (mk : BitVec 3) (ew : BitVec 2) (sc : Bool) (s : State) :
    Host.Outcome State Fault Refusal :=
  vint t vd va vb mk ew sc (fun _ a b => a - b) s

/-- VFADD (R75). -/
def execVfadd (t : Nat) (vd va vb : Reg) (mk : BitVec 3) (ew : BitVec 2) (sc : Bool) (s : State) :
    Host.Outcome State Fault Refusal :=
  vflt t vd va vb mk ew sc Fmt.add s

/-- VFSUB (R75). -/
def execVfsub (t : Nat) (vd va vb : Reg) (mk : BitVec 3) (ew : BitVec 2) (sc : Bool) (s : State) :
    Host.Outcome State Fault Refusal :=
  vflt t vd va vb mk ew sc Fmt.sub s

/-- VFMUL (R75). -/
def execVfmul (t : Nat) (vd va vb : Reg) (mk : BitVec 3) (ew : BitVec 2) (sc : Bool) (s : State) :
    Host.Outcome State Fault Refusal :=
  vflt t vd va vb mk ew sc Fmt.mul s

/-- VFDIV (R75, R112). -/
def execVfdiv (t : Nat) (vd va vb : Reg) (mk : BitVec 3) (ew : BitVec 2) (sc : Bool) (s : State) :
    Host.Outcome State Fault Refusal :=
  vec2 t vd va vb mk ew sc (decide (ew = 0)) true .vroot .vroot (fun rm w a b => (fmtOf w).div rm a b) s

/-- VFSQRT (R75, R112). -/
def execVfsqrt (t : Nat) (vd va : Reg) (mk : BitVec 3) (ew : BitVec 2) (s : State) :
    Host.Outcome State Fault Refusal :=
  vec1 t vd va mk ew (decide (ew = 0)) true .vroot .vroot (fun rm w a => (fmtOf w).sqrt rm a) s

/-- VFMIN (R75). -/
def execVfmin (t : Nat) (vd va vb : Reg) (mk : BitVec 3) (ew : BitVec 2) (sc : Bool) (s : State) :
    Host.Outcome State Fault Refusal :=
  vflt t vd va vb mk ew sc (fun f _ a b => f.minMax false a b) s

/-- VFMAX (R75). -/
def execVfmax (t : Nat) (vd va vb : Reg) (mk : BitVec 3) (ew : BitVec 2) (sc : Bool) (s : State) :
    Host.Outcome State Fault Refusal :=
  vflt t vd va vb mk ew sc (fun f _ a b => f.minMax true a b) s

/-- VFABS (R75). -/
def execVfabs (t : Nat) (vd va : Reg) (mk : BitVec 3) (ew : BitVec 2) (s : State) :
    Host.Outcome State Fault Refusal :=
  vec1 t vd va mk ew (decide (ew = 0)) false .vec .long (fun _ w a => (a % 2 ^ (w - 1), 0)) s

/-- VFNEG (R75). -/
def execVfneg (t : Nat) (vd va : Reg) (mk : BitVec 3) (ew : BitVec 2) (s : State) :
    Host.Outcome State Fault Refusal :=
  vec1 t vd va mk ew (decide (ew = 0)) false .vec .long (fun _ w a => (a ^^^ 2 ^ (w - 1), 0)) s

/-- VFSGNJ (R75). -/
def execVfsgnj (t : Nat) (vd va vb : Reg) (mk : BitVec 3) (ew : BitVec 2) (sc : Bool) (s : State) :
    Host.Outcome State Fault Refusal :=
  vec2 t vd va vb mk ew sc (decide (ew = 0)) false .vec .long
    (fun _ w a b => (a % 2 ^ (w - 1) + b / 2 ^ (w - 1) % 2 * 2 ^ (w - 1), 0)) s

/-- VFMADD (R76). -/
def execVfmadd (t : Nat) (vd va vb : Reg) (mk : BitVec 3) (ew : BitVec 2) (s : State) :
    Host.Outcome State Fault Refusal :=
  vfma t vd va vb mk ew false false s

/-- VFMSUB (R76). -/
def execVfmsub (t : Nat) (vd va vb : Reg) (mk : BitVec 3) (ew : BitVec 2) (s : State) :
    Host.Outcome State Fault Refusal :=
  vfma t vd va vb mk ew false true s

/-- VFNMADD (R76). -/
def execVfnmadd (t : Nat) (vd va vb : Reg) (mk : BitVec 3) (ew : BitVec 2) (s : State) :
    Host.Outcome State Fault Refusal :=
  vfma t vd va vb mk ew true true s

/-- VFNMSUB (R76). -/
def execVfnmsub (t : Nat) (vd va vb : Reg) (mk : BitVec 3) (ew : BitVec 2) (s : State) :
    Host.Outcome State Fault Refusal :=
  vfma t vd va vb mk ew true false s

/-- VREDADD (R77). -/
def execVredadd (t : Nat) (vd va : Reg) (mk : BitVec 3) (ew : BitVec 2) (s : State) :
    Host.Outcome State Fault Refusal :=
  vredI t vd va mk ew (fun _ => 0) (fun w a b => (a + b) % 2 ^ w) s

/-- VREDMIN (R77). -/
def execVredmin (t : Nat) (vd va : Reg) (mk : BitVec 3) (ew : BitVec 2) (s : State) :
    Host.Outcome State Fault Refusal :=
  vredI t vd va mk ew (fun w => 2 ^ (w - 1) - 1) (minSw) s

/-- VREDMAX (R77). -/
def execVredmax (t : Nat) (vd va : Reg) (mk : BitVec 3) (ew : BitVec 2) (s : State) :
    Host.Outcome State Fault Refusal :=
  vredI t vd va mk ew (fun w => 2 ^ (w - 1)) (maxSw) s

/-- VREDMINU (R77). -/
def execVredminu (t : Nat) (vd va : Reg) (mk : BitVec 3) (ew : BitVec 2) (s : State) :
    Host.Outcome State Fault Refusal :=
  vredI t vd va mk ew (fun w => 2 ^ w - 1) (fun _ a b => min a b) s

/-- VREDMAXU (R77). -/
def execVredmaxu (t : Nat) (vd va : Reg) (mk : BitVec 3) (ew : BitVec 2) (s : State) :
    Host.Outcome State Fault Refusal :=
  vredI t vd va mk ew (fun _ => 0) (fun _ a b => max a b) s

/-- VREDAND (R77). -/
def execVredand (t : Nat) (vd va : Reg) (mk : BitVec 3) (ew : BitVec 2) (s : State) :
    Host.Outcome State Fault Refusal :=
  vredI t vd va mk ew (fun w => 2 ^ w - 1) (fun _ a b => a &&& b) s

/-- VREDOR (R77). -/
def execVredor (t : Nat) (vd va : Reg) (mk : BitVec 3) (ew : BitVec 2) (s : State) :
    Host.Outcome State Fault Refusal :=
  vredI t vd va mk ew (fun _ => 0) (fun _ a b => a ||| b) s

/-- VREDXOR (R77). -/
def execVredxor (t : Nat) (vd va : Reg) (mk : BitVec 3) (ew : BitVec 2) (s : State) :
    Host.Outcome State Fault Refusal :=
  vredI t vd va mk ew (fun _ => 0) (fun _ a b => a ^^^ b) s

/-- VFREDADD (R77). -/
def execVfredadd (t : Nat) (vd va : Reg) (mk : BitVec 3) (ew : BitVec 2) (s : State) :
    Host.Outcome State Fault Refusal :=
  vred t vd va mk ew (decide (ew = 0)) true (fun rm w xs => fredSeq (fmtOf w) rm (xs.filterMap id)) s

/-- VFREDADDT (R77). -/
def execVfredaddt (t : Nat) (vd va : Reg) (mk : BitVec 3) (ew : BitVec 2) (s : State) :
    Host.Outcome State Fault Refusal :=
  vred t vd va mk ew (decide (ew = 0)) true (fun rm w xs => fredTree (fmtOf w) rm xs) s

/-- VFREDMIN (R77). -/
def execVfredmin (t : Nat) (vd va : Reg) (mk : BitVec 3) (ew : BitVec 2) (s : State) :
    Host.Outcome State Fault Refusal :=
  vred t vd va mk ew (decide (ew = 0)) true (fun _ w xs => fredMin (fmtOf w) false (xs.filterMap id)) s

/-- VFREDMAX (R77). -/
def execVfredmax (t : Nat) (vd va : Reg) (mk : BitVec 3) (ew : BitVec 2) (s : State) :
    Host.Outcome State Fault Refusal :=
  vred t vd va mk ew (decide (ew = 0)) true (fun _ w xs => fredMin (fmtOf w) true (xs.filterMap id)) s

/-- VPERM (R78). -/
def execVperm (t : Nat) (vd va vb : Reg) (mk : BitVec 3) (ew : BitVec 2) (s : State) :
    Host.Outcome State Fault Refusal :=
  vperm2 t vd va vb mk ew (fun n a b j => a (b j % n)) s

/-- VSLIDEDN (R78). -/
def execVslidedn (t : Nat) (vd va rb : Reg) (mk : BitVec 3) (ew : BitVec 2) (s : State) :
    Host.Outcome State Fault Refusal :=
  vslide t vd va rb mk ew (fun n a k j => if j + k < n then a (j + k) else 0) s

/-- VSLIDEUP (R78). -/
def execVslideup (t : Nat) (vd va rb : Reg) (mk : BitVec 3) (ew : BitVec 2) (s : State) :
    Host.Outcome State Fault Refusal :=
  vslide t vd va rb mk ew (fun _ a k j => if k ≤ j then a (j - k) else 0) s

/-- VCOMPRESS (R78: the destination is written whole). -/
def execVcompress (t : Nat) (vd va : Reg) (mk : BitVec 3) (ew : BitVec 2) (s : State) :
    Host.Outcome State Fault Refusal :=
  s.onHw fun m h => h.vecOp m t .vec .long ([.v va.toNat] ++ srcM mk) (.v vd.toNat) false false fun a =>
    let w := ewBits ew
    (packElems w (((elems (a.rv va) w).zipIdx.filter fun p => active (a.rm mk.toNat) p.2).map (·.1)), 0)

/-- VEXPAND (R78: the destination is written whole). -/
def execVexpand (t : Nat) (vd va : Reg) (mk : BitVec 3) (ew : BitVec 2) (s : State) :
    Host.Outcome State Fault Refusal :=
  s.onHw fun m h => h.vecOp m t .vec .long ([.v va.toNat] ++ srcM mk) (.v vd.toNat) false false fun a =>
    let w := ewBits ew
    let mask := a.rm mk.toNat
    (packElems w ((List.range (ewCount ew)).map fun j =>
      if active mask j then elem (a.rv va) w (popN j mask.toNat) else 0), 0)

/-- VZIPLO (R78). -/
def execVziplo (t : Nat) (vd va vb : Reg) (mk : BitVec 3) (ew : BitVec 2) (s : State) :
    Host.Outcome State Fault Refusal :=
  vperm2 t vd va vb mk ew (fun _ a b j => if j % 2 = 0 then a (j / 2) else b (j / 2)) s

/-- VZIPHI (R78). -/
def execVziphi (t : Nat) (vd va vb : Reg) (mk : BitVec 3) (ew : BitVec 2) (s : State) :
    Host.Outcome State Fault Refusal :=
  vperm2 t vd va vb mk ew (fun n a b j => if j % 2 = 0 then a (j / 2 + n / 2) else b (j / 2 + n / 2)) s

/-- VCVT_F_I (R79). -/
def execVcvtFI (t : Nat) (vd va : Reg) (mk : BitVec 3) (ew : BitVec 2) (s : State) :
    Host.Outcome State Fault Refusal :=
  vec1 t vd va mk ew (decide (ew = 0)) true .vec .long (fun rm w x => (fmtOf w).ofInt rm (toS w x)) s

/-- VCVT_F_U (R79). -/
def execVcvtFU (t : Nat) (vd va : Reg) (mk : BitVec 3) (ew : BitVec 2) (s : State) :
    Host.Outcome State Fault Refusal :=
  vec1 t vd va mk ew (decide (ew = 0)) true .vec .long (fun rm w x => (fmtOf w).ofInt rm (x : Int)) s

/-- VCVT_I_F (R79). -/
def execVcvtIF (t : Nat) (vd va : Reg) (mk : BitVec 3) (ew : BitVec 2) (s : State) :
    Host.Outcome State Fault Refusal :=
  vec1 t vd va mk ew (decide (ew = 0)) true .vec .long (fun rm w x =>
    let r := (fmtOf w).toInt rm (-(2 ^ (w - 1) : Nat)) ((2 ^ (w - 1) : Nat) - 1) x
    (ofS w r.1, r.2)) s

/-- VCVT_U_F (R79). -/
def execVcvtUF (t : Nat) (vd va : Reg) (mk : BitVec 3) (ew : BitVec 2) (s : State) :
    Host.Outcome State Fault Refusal :=
  vec1 t vd va mk ew (decide (ew = 0)) true .vec .long (fun rm w x =>
    let r := (fmtOf w).toInt rm 0 ((2 ^ w : Nat) - 1) x
    (ofS w r.1, r.2)) s

/-- VCVT_F_FW (R79). -/
def execVcvtFFw (t : Nat) (vd va : Reg) (mk : BitVec 3) (ew : BitVec 2) (s : State) :
    Host.Outcome State Fault Refusal :=
  vwiden t vd va mk ew (decide (ew = 0 ∨ ew = 3)) true (fun w x => (fmtOf w).convert (fmtOf (2 * w)) 0 x) s

/-- VCVT_F_FN (R79). -/
def execVcvtFFn (t : Nat) (vd va : Reg) (mk : BitVec 3) (ew : BitVec 2) (s : State) :
    Host.Outcome State Fault Refusal :=
  vnarrow t vd va mk ew (decide (ew.toNat < 2)) true (fun rm w x => (fmtOf w).convert (fmtOf (w / 2)) rm x) s

/-- VSEXT_W (R79). -/
def execVsextW (t : Nat) (vd va : Reg) (mk : BitVec 3) (ew : BitVec 2) (s : State) :
    Host.Outcome State Fault Refusal :=
  vwiden t vd va mk ew (decide (ew = 3)) false (fun w x => (ofS (2 * w) (toS w x), 0)) s

/-- VZEXT_W (R79). -/
def execVzextW (t : Nat) (vd va : Reg) (mk : BitVec 3) (ew : BitVec 2) (s : State) :
    Host.Outcome State Fault Refusal :=
  vwiden t vd va mk ew (decide (ew = 3)) false (fun _ x => (x, 0)) s

/-- VNARROW (R79). -/
def execVnarrow (t : Nat) (vd va : Reg) (mk : BitVec 3) (ew : BitVec 2) (s : State) :
    Host.Outcome State Fault Refusal :=
  vnarrow t vd va mk ew (decide (ew = 0)) false (fun _ w x => (x % 2 ^ (w / 2), 0)) s

/-- VMV_VG (R79). -/
def execVmvVg (t : Nat) (vd ra : Reg) (mk : BitVec 3) (ew : BitVec 2) (s : State) :
    Host.Outcome State Fault Refusal :=
  s.onHw fun m h => h.vecOp m t .vec .long ([destG ra] ++ srcD vd mk) (.v vd.toNat) false false fun a =>
    let w := ewBits ew
    (predicate w (a.rm mk.toNat) (a.rv vd) (List.replicate (ewCount ew) ((a.rg ra).toNat % 2 ^ w)), 0)

/-- VMV_GV (R79). -/
def execVmvGv (t : Nat) (rd va rb : Reg) (ew : BitVec 2) (s : State) :
    Host.Outcome State Fault Refusal :=
  s.onHw fun m h => h.vecOp m t .vec .long [.v va.toNat, destG rb] (destG rd) false false fun a =>
    (BitVec.ofNat 512 (elem (a.rv va) (ewBits ew) ((a.rg rb).toNat % ewCount ew)), 0)

/-- VINS (R79). -/
def execVins (t : Nat) (vd ra rb : Reg) (ew : BitVec 2) (s : State) :
    Host.Outcome State Fault Refusal :=
  s.onHw fun m h => h.vecOp m t .vec .long [.v vd.toNat, destG ra, destG rb] (.v vd.toNat) false false fun a =>
    let w := ewBits ew
    (packElems w ((elems (a.rv vd) w).set ((a.rg rb).toNat % ewCount ew) ((a.rg ra).toNat % 2 ^ w)), 0)

/-- VCMPEQ (R80). -/
def execVcmpeq (t : Nat) (md va vb : Reg) (mk : BitVec 3) (ew : BitVec 2) (s : State) :
    Host.Outcome State Fault Refusal :=
  vcmpI t md va vb mk ew (fun _ a b => a == b) s

/-- VCMPNE (R80). -/
def execVcmpne (t : Nat) (md va vb : Reg) (mk : BitVec 3) (ew : BitVec 2) (s : State) :
    Host.Outcome State Fault Refusal :=
  vcmpI t md va vb mk ew (fun _ a b => a != b) s

/-- VCMPLT (R80). -/
def execVcmplt (t : Nat) (md va vb : Reg) (mk : BitVec 3) (ew : BitVec 2) (s : State) :
    Host.Outcome State Fault Refusal :=
  vcmpI t md va vb mk ew (fun w a b => decide (toS w a < toS w b)) s

/-- VCMPLE (R80). -/
def execVcmple (t : Nat) (md va vb : Reg) (mk : BitVec 3) (ew : BitVec 2) (s : State) :
    Host.Outcome State Fault Refusal :=
  vcmpI t md va vb mk ew (fun w a b => decide (toS w a ≤ toS w b)) s

/-- VCMPLTU (R80). -/
def execVcmpltu (t : Nat) (md va vb : Reg) (mk : BitVec 3) (ew : BitVec 2) (s : State) :
    Host.Outcome State Fault Refusal :=
  vcmpI t md va vb mk ew (fun _ a b => decide (a < b)) s

/-- VCMPLEU (R80). -/
def execVcmpleu (t : Nat) (md va vb : Reg) (mk : BitVec 3) (ew : BitVec 2) (s : State) :
    Host.Outcome State Fault Refusal :=
  vcmpI t md va vb mk ew (fun _ a b => decide (a ≤ b)) s

/-- VFCMPEQ (R80). -/
def execVfcmpeq (t : Nat) (md va vb : Reg) (mk : BitVec 3) (ew : BitVec 2) (s : State) :
    Host.Outcome State Fault Refusal :=
  vcmpF t md va vb mk ew .eq s

/-- VFCMPLT (R80). -/
def execVfcmplt (t : Nat) (md va vb : Reg) (mk : BitVec 3) (ew : BitVec 2) (s : State) :
    Host.Outcome State Fault Refusal :=
  vcmpF t md va vb mk ew .lt s

/-- VFCMPLE (R80). -/
def execVfcmple (t : Nat) (md va vb : Reg) (mk : BitVec 3) (ew : BitVec 2) (s : State) :
    Host.Outcome State Fault Refusal :=
  vcmpF t md va vb mk ew .le s

/-- VFCMPUN (R80). -/
def execVfcmpun (t : Nat) (md va vb : Reg) (mk : BitVec 3) (ew : BitVec 2) (s : State) :
    Host.Outcome State Fault Refusal :=
  vcmpF t md va vb mk ew .un s

/-- MAND (R80). -/
def execMand (t : Nat) (md ma mb : Reg) (ew : BitVec 2) (s : State) :
    Host.Outcome State Fault Refusal :=
  mlog t md ma mb ew (fun a b => a &&& b) s

/-- MOR (R80). -/
def execMor (t : Nat) (md ma mb : Reg) (ew : BitVec 2) (s : State) :
    Host.Outcome State Fault Refusal :=
  mlog t md ma mb ew (fun a b => a ||| b) s

/-- MXOR (R80). -/
def execMxor (t : Nat) (md ma mb : Reg) (ew : BitVec 2) (s : State) :
    Host.Outcome State Fault Refusal :=
  mlog t md ma mb ew (fun a b => a ^^^ b) s

/-- MANDN (R80). -/
def execMandn (t : Nat) (md ma mb : Reg) (ew : BitVec 2) (s : State) :
    Host.Outcome State Fault Refusal :=
  mlog t md ma mb ew (fun a b => a &&& ~~~b) s

/-- MPOPC (R80). -/
def execMpopc (t : Nat) (rd ma : Reg) (ew : BitVec 2) (s : State) :
    Host.Outcome State Fault Refusal :=
  mtog t rd ma ew (fun n x => popN n x) s

/-- MFIRST (R80). -/
def execMfirst (t : Nat) (rd ma : Reg) (ew : BitVec 2) (s : State) :
    Host.Outcome State Fault Refusal :=
  mtog t rd ma ew (fun n x => (lowBit n x).getD (2 ^ 64 - 1)) s

/-- MMV_GM (R80). -/
def execMmvGm (t : Nat) (rd ma : Reg) (ew : BitVec 2) (s : State) :
    Host.Outcome State Fault Refusal :=
  mtog t rd ma ew (fun _ x => x) s

/-- MMV_MG (R80). -/
def execMmvMg (t : Nat) (md ra : Reg) (ew : BitVec 2) (s : State) :
    Host.Outcome State Fault Refusal :=
  s.onHw fun m h => h.vecOp m t .vec .long [destG ra] (destM md) (decide (8 ≤ md.toNat)) false fun a =>
    (BitVec.ofNat 512 (lowMask ew (a.rg ra)), 0)

/-- VLD (R81, R83, R84). -/
def execVld (t : Nat) (vd ra : Reg) (mk : BitVec 3) (ew : BitVec 2) (s : State) :
    Host.Outcome State Fault Refusal :=
  s.onHw fun m h =>
    let a := (h.thread t).a
    h.vecLoad m t vd [destG ra] mk false (vecDevOk (a.rg ra) mk true) (piecesVL (a.rg ra) (ewBytes ew) (a.rm mk.toNat))

/-- VST (R81, R83, R84, R509). -/
def execVst (t : Nat) (vd ra : Reg) (mk : BitVec 3) (ew : BitVec 2) (s : State) :
    Host.Outcome State Fault Refusal :=
  s.onHw fun m h =>
    let a := (h.thread t).a
    let ps := piecesVL (a.rg ra) (ewBytes ew) (a.rm mk.toNat)
    h.vecStore m t vd [destG ra] mk false (vecDevOk (a.rg ra) mk true) (if (halves (a.rg ra) 64).length = 2 then .half else .store) ps

/-- VLDB (R81, R83, R84). -/
def execVldb (t : Nat) (vd ra : Reg) (mk : BitVec 3) (ew : BitVec 2) (s : State) :
    Host.Outcome State Fault Refusal :=
  s.onHw fun m h =>
    let a := (h.thread t).a
    h.vecLoad m t vd [destG ra] mk false false (piecesB (a.rg ra) (ewBytes ew) (ewCount ew) (a.rm mk.toNat))

/-- VLDS (R81, R83, R84). -/
def execVlds (t : Nat) (vd ra rb : Reg) (mk : BitVec 3) (ew : BitVec 2) (s : State) :
    Host.Outcome State Fault Refusal :=
  s.onHw fun m h =>
    let a := (h.thread t).a
    h.vecLoad m t vd [destG ra, destG rb] mk false false
      (piecesEl (strideAddr (a.rg ra) (a.rg rb)) (ewBytes ew) (ewCount ew) (a.rm mk.toNat))

/-- VSTS (R81, R83, R84, R509). -/
def execVsts (t : Nat) (vd ra rb : Reg) (mk : BitVec 3) (ew : BitVec 2) (s : State) :
    Host.Outcome State Fault Refusal :=
  s.onHw fun m h =>
    let a := (h.thread t).a
    h.vecStore m t vd [destG ra, destG rb] mk false false .store
      (piecesEl (strideAddr (a.rg ra) (a.rg rb)) (ewBytes ew) (ewCount ew) (a.rm mk.toNat))

/-- VGATHER (R82, R83: ew 0 and 1 are reserved). -/
def execVgather (t : Nat) (vd ra vi : Reg) (mk : BitVec 3) (ew sc : BitVec 2) (s : State) :
    Host.Outcome State Fault Refusal :=
  s.onHw fun m h =>
    let a := (h.thread t).a
    h.vecLoad m t vd [destG ra, .v vi.toNat] mk (decide (ew.toNat < 2)) false
      (piecesEl (gatherAddr a (a.rg ra) vi ew sc) (ewBytes ew) (ewCount ew) (a.rm mk.toNat))

/-- VSCATTER (R82, R83, R509: ew 0 and 1 are reserved). -/
def execVscatter (t : Nat) (vd ra vi : Reg) (mk : BitVec 3) (ew sc : BitVec 2) (s : State) :
    Host.Outcome State Fault Refusal :=
  s.onHw fun m h =>
    let a := (h.thread t).a
    h.vecStore m t vd [destG ra, .v vi.toNat] mk (decide (ew.toNat < 2)) false .scatter
      (piecesEl (gatherAddr a (a.rg ra) vi ew sc) (ewBytes ew) (ewCount ew) (a.rm mk.toNat))

end Sys2Proof.Machine
end

