-- ==== Sys2Proof/Machine/ExecWorld.lean ====
section
/-! DEFINITION. Timers, region and decode registers, hand-overs, deferred requests and the secure watchdog (chapter 15). -/

namespace Sys2Proof.Machine

/-- TIMECMP_MATCH (R154, R376, R437): TIME has reached TIMECMP_x of thread t (`which`: 0 normal S, 1 secure S, any other H). The timer
interrupt is pending by that alone; the thread's scopes wake. -/
def execTimecmpMatch (t which : Nat) (s : State) : Host.Outcome State Fault Refusal :=
  s.onHw fun _ h =>
    let k := if which = 0 then 0x405 else if which = 1 then sKey true 0x405 else 0x806
    if t < numThreads ∧ ((h.thread t).a.crAt k).toNat ≤ h.time.toNat then h.wakeThread t 1 0 else h

/-- REGION_REGISTER_WRITE (R395, R401): doubleword `word` of region n is written in every copy at once. -/
def execRegionRegisterWrite (n word : Nat) (lvl : Level) (value : Word) (s : State) : Host.Outcome State Fault Refusal :=
  s.onHw fun m h =>
    if n < 64 ∧ word < 3 then h.regStore m ⟨lvl, decide (lvl = .m), 0⟩ false 0 (chkReg (0x20 * n + 8 * word)) 8 value.toNat else h

/-- The decode registers of R28: NODE_ID, DDR_TOP, GROUP_n, the windows and HDM ranges of root ports, POOL.MODE. -/
def decodeReg (a : Nat) : Bool :=
  match blockAt a with
  | some (.regchk, _, o) => o == 0x10000 || o == 0x10008 || (decide (0x10100 ≤ o) && decide (o < 0x10180))
  | some (.link, _, o) => (decide (0x300 ≤ o) && decide (o < 0x320)) || (decide (0x400 ≤ o) && decide (o < 0x440))
  | some (.pool, _, o) => o == 0
  | _ => false

/-- PACKAGE_DECODE_REGISTER_WRITE (R28): a decode register is written in every copy at once. -/
def execPackageDecodeRegisterWrite (addr : Word) (lvl : Level) (value : Word) (s : State) : Host.Outcome State Fault Refusal :=
  s.onHw fun m h =>
    let a := addr.toNat % 2 ^ 48
    if decodeReg a ∧ a % 8 = 0 then h.regStore m ⟨lvl, decide (lvl = .m), 0⟩ false 0 a 8 value.toNat else h

/-! ### Hand-overs (R411, R412) -/

/-- KIND, TO and INDEX are written with GO from M. `forced` tells that transfers still outstanding will be ended at LINK.CTO. -/
def Hw.handWrite (h : Hw) (lvl : Level) (kind : Nat) (toNormal : Bool) (index : Nat) (forced : Bool) : Hw :=
  if lvl ≠ .m then h
  else (((h.setRegF handReg 61 60 kind).setRegF handReg 59 59 (b2n toNormal)).setRegF handReg 11 0 index).handGo forced none

/-- HANDOVER_ROOT_PORT (R412). -/
def execHandoverRootPort (lvl : Level) (toNormal : Bool) (index : Nat) (forced : Bool) (s : State) : Host.Outcome State Fault Refusal :=
  s.onHw fun _ h => h.handWrite lvl 0 toNormal index forced

/-- HANDOVER_CHURN_INSTANCE (R412). -/
def execHandoverChurnInstance (lvl : Level) (toNormal : Bool) (index : Nat) (s : State) : Host.Outcome State Fault Refusal :=
  s.onHw fun _ h => h.handWrite lvl 1 toNormal index false

/-- HANDOVER_WIRED_SOURCE (R412). -/
def execHandoverWiredSource (lvl : Level) (toNormal : Bool) (index : Nat) (s : State) : Host.Outcome State Fault Refusal :=
  s.onHw fun _ h => h.handWrite lvl 2 toNormal index false

/-! ### Deferred requests (R414, R415) -/

/-- DEFERRED_REQUEST_PERFORM (R414, R444): the block's deferred request is performed once the block is not secure-held and no other request
runs; a package-level one once no block is, or SECSLEEP.OK is 1. -/
def execDeferredRequestPerform (block : Nat) (s : State) : Host.Outcome State Fault Refusal :=
  s.onHw fun _ h =>
    match sfind block h.deferred with
    | none => h
    | some a =>
      let h1 := { h with deferred := sdel block h.deferred }.event (pwrReg 0x20) 0
      if block = pkgBlock then
        (if h.anySecure ∧ !Word.bit (h.reg (chkReg 0x20020)) 0 then h
          else (h1.setRegF (pwrReg 0x900) 63 63 1).setRegF (pwrReg 0x900) 62 61 0)
      else if h.secureHeld block ∨ h.blkreq.isSome then h
      else h1.blkBegin block a

/-! ### The secure watchdog (R416, R417) -/

/-- WDKICK_M (R416): any write of the register by a thread at M reloads the watchdog. -/
def execWdkickM (t : Nat) (s : State) : Host.Outcome State Fault Refusal :=
  s.onHw fun _ h => if t < numThreads ∧ (h.thread t).a.level = .m then h.wdKick else h

/-- WATCHDOG_PRE_EXPIRY (R417): the count is at PRE units or below; source 0x052 is asserted until the next kick. -/
def execWatchdogPreExpiry (s : State) : Host.Outcome State Fault Refusal :=
  s.onHw fun _ h =>
    let pre := h.regF (chkReg 0x20100) 31 16
    if h.swdtOn ∧ pre ≠ 0 ∧ 0 < h.swdt ∧ h.swdt ≤ pre * 65536 then { h with wired := sset 0x052 true h.wired }.wireUpdate 0x052 else h

/-- WATCHDOG_EXPIRY (R417): the count is 0: the cause is written, Keeper notifies the board, and the warm reset follows. -/
def execWatchdogExpiry (s : State) : Host.Outcome State Fault Refusal :=
  s.onHw fun _ h => if h.swdtOn ∧ h.swdt = 0 ∧ h.wdFire.isNone then h.wdReset 6 0 else h

end Sys2Proof.Machine
end

