-- ==== Sys2Proof/Machine/Dispatch.lean ====
section
/-! DEFINITION. Which meaning runs for which command. -/

namespace Sys2Proof.Machine

def exec (i : Instr) (s : State) : Host.Outcome State Fault Refusal :=
  match i with
  | .add t rd ra rb => Sys2Proof.Machine.execAdd t rd ra rb s
  | .sub t rd ra rb => Sys2Proof.Machine.execSub t rd ra rb s
  | .and t rd ra rb => Sys2Proof.Machine.execAnd t rd ra rb s
  | .or t rd ra rb => Sys2Proof.Machine.execOr t rd ra rb s
  | .xor t rd ra rb => Sys2Proof.Machine.execXor t rd ra rb s
  | .andn t rd ra rb => Sys2Proof.Machine.execAndn t rd ra rb s
  | .orn t rd ra rb => Sys2Proof.Machine.execOrn t rd ra rb s
  | .shl t rd ra rb => Sys2Proof.Machine.execShl t rd ra rb s
  | .shr t rd ra rb => Sys2Proof.Machine.execShr t rd ra rb s
  | .sra t rd ra rb => Sys2Proof.Machine.execSra t rd ra rb s
  | .rol t rd ra rb => Sys2Proof.Machine.execRol t rd ra rb s
  | .ror t rd ra rb => Sys2Proof.Machine.execRor t rd ra rb s
  | .slt t rd ra rb => Sys2Proof.Machine.execSlt t rd ra rb s
  | .sltu t rd ra rb => Sys2Proof.Machine.execSltu t rd ra rb s
  | .min t rd ra rb => Sys2Proof.Machine.execMin t rd ra rb s
  | .max t rd ra rb => Sys2Proof.Machine.execMax t rd ra rb s
  | .minu t rd ra rb => Sys2Proof.Machine.execMinu t rd ra rb s
  | .maxu t rd ra rb => Sys2Proof.Machine.execMaxu t rd ra rb s
  | .clz t rd ra => Sys2Proof.Machine.execClz t rd ra s
  | .ctz t rd ra => Sys2Proof.Machine.execCtz t rd ra s
  | .popc t rd ra => Sys2Proof.Machine.execPopc t rd ra s
  | .rev8 t rd ra => Sys2Proof.Machine.execRev8 t rd ra s
  | .sextB t rd ra => Sys2Proof.Machine.execSextB t rd ra s
  | .sextH t rd ra => Sys2Proof.Machine.execSextH t rd ra s
  | .sextW t rd ra => Sys2Proof.Machine.execSextW t rd ra s
  | .zextB t rd ra => Sys2Proof.Machine.execZextB t rd ra s
  | .zextH t rd ra => Sys2Proof.Machine.execZextH t rd ra s
  | .zextW t rd ra => Sys2Proof.Machine.execZextW t rd ra s
  | .addw t rd ra rb => Sys2Proof.Machine.execAddw t rd ra rb s
  | .subw t rd ra rb => Sys2Proof.Machine.execSubw t rd ra rb s
  | .shlw t rd ra rb => Sys2Proof.Machine.execShlw t rd ra rb s
  | .shrw t rd ra rb => Sys2Proof.Machine.execShrw t rd ra rb s
  | .sraw t rd ra rb => Sys2Proof.Machine.execSraw t rd ra rb s
  | .rolw t rd ra rb => Sys2Proof.Machine.execRolw t rd ra rb s
  | .rorw t rd ra rb => Sys2Proof.Machine.execRorw t rd ra rb s
  | .mul t rd ra rb => Sys2Proof.Machine.execMul t rd ra rb s
  | .mulh t rd ra rb => Sys2Proof.Machine.execMulh t rd ra rb s
  | .mulhu t rd ra rb => Sys2Proof.Machine.execMulhu t rd ra rb s
  | .mulhsu t rd ra rb => Sys2Proof.Machine.execMulhsu t rd ra rb s
  | .mulw t rd ra rb => Sys2Proof.Machine.execMulw t rd ra rb s
  | .div t rd ra rb => Sys2Proof.Machine.execDiv t rd ra rb s
  | .divu t rd ra rb => Sys2Proof.Machine.execDivu t rd ra rb s
  | .rem t rd ra rb => Sys2Proof.Machine.execRem t rd ra rb s
  | .remu t rd ra rb => Sys2Proof.Machine.execRemu t rd ra rb s
  | .divw t rd ra rb => Sys2Proof.Machine.execDivw t rd ra rb s
  | .divuw t rd ra rb => Sys2Proof.Machine.execDivuw t rd ra rb s
  | .remw t rd ra rb => Sys2Proof.Machine.execRemw t rd ra rb s
  | .remuw t rd ra rb => Sys2Proof.Machine.execRemuw t rd ra rb s
  | .addi t rd ra imm => Sys2Proof.Machine.execAddi t rd ra imm s
  | .addiw t rd ra imm => Sys2Proof.Machine.execAddiw t rd ra imm s
  | .andi t rd ra imm => Sys2Proof.Machine.execAndi t rd ra imm s
  | .ori t rd ra imm => Sys2Proof.Machine.execOri t rd ra imm s
  | .xori t rd ra imm => Sys2Proof.Machine.execXori t rd ra imm s
  | .slti t rd ra imm => Sys2Proof.Machine.execSlti t rd ra imm s
  | .sltiu t rd ra imm => Sys2Proof.Machine.execSltiu t rd ra imm s
  | .shli t rd ra sh => Sys2Proof.Machine.execShli t rd ra sh s
  | .shri t rd ra sh => Sys2Proof.Machine.execShri t rd ra sh s
  | .srai t rd ra sh => Sys2Proof.Machine.execSrai t rd ra sh s
  | .rori t rd ra sh => Sys2Proof.Machine.execRori t rd ra sh s
  | .shliw t rd ra sh => Sys2Proof.Machine.execShliw t rd ra sh s
  | .shriw t rd ra sh => Sys2Proof.Machine.execShriw t rd ra sh s
  | .sraiw t rd ra sh => Sys2Proof.Machine.execSraiw t rd ra sh s
  | .roriw t rd ra sh => Sys2Proof.Machine.execRoriw t rd ra sh s
  | .lui t rd imm => Sys2Proof.Machine.execLui t rd imm s
  | .auipc t rd imm => Sys2Proof.Machine.execAuipc t rd imm s
  | .lb t rd ra imm => Sys2Proof.Machine.execLb t rd ra imm s
  | .lh t rd ra imm => Sys2Proof.Machine.execLh t rd ra imm s
  | .lw t rd ra imm => Sys2Proof.Machine.execLw t rd ra imm s
  | .ld t rd ra imm => Sys2Proof.Machine.execLd t rd ra imm s
  | .lbu t rd ra imm => Sys2Proof.Machine.execLbu t rd ra imm s
  | .lhu t rd ra imm => Sys2Proof.Machine.execLhu t rd ra imm s
  | .lwu t rd ra imm => Sys2Proof.Machine.execLwu t rd ra imm s
  | .sb t rs ra imm => Sys2Proof.Machine.execSb t rs ra imm s
  | .sh t rs ra imm => Sys2Proof.Machine.execSh t rs ra imm s
  | .sw t rs ra imm => Sys2Proof.Machine.execSw t rs ra imm s
  | .sd t rs ra imm => Sys2Proof.Machine.execSd t rs ra imm s
  | .ldAq t rd ra size => Sys2Proof.Machine.execLdAq t rd ra size s
  | .stRl t ra rb size => Sys2Proof.Machine.execStRl t ra rb size s
  | .amo t rd ra rb op size ord => Sys2Proof.Machine.execAmo t rd ra rb op size ord s
  | .cas t rd ra rb size ord => Sys2Proof.Machine.execCas t rd ra rb size ord s
  | .amoFar t rd ra rb op size ord ret => Sys2Proof.Machine.execAmoFar t rd ra rb op size ord ret s
  | .beq t ra rb h disp => Sys2Proof.Machine.execBeq t ra rb h disp s
  | .bne t ra rb h disp => Sys2Proof.Machine.execBne t ra rb h disp s
  | .blt t ra rb h disp => Sys2Proof.Machine.execBlt t ra rb h disp s
  | .bge t ra rb h disp => Sys2Proof.Machine.execBge t ra rb h disp s
  | .bltu t ra rb h disp => Sys2Proof.Machine.execBltu t ra rb h disp s
  | .bgeu t ra rb h disp => Sys2Proof.Machine.execBgeu t ra rb h disp s
  | .jal t rd disp => Sys2Proof.Machine.execJal t rd disp s
  | .jalr t rd ra kind imm => Sys2Proof.Machine.execJalr t rd ra kind imm s
  | .loopSet t ra soff eoff => Sys2Proof.Machine.execLoopSet t ra soff eoff s
  | .loopClr t => Sys2Proof.Machine.execLoopClr t s
  | .fence t pred succ => Sys2Proof.Machine.execFence t pred succ s
  | .fenceI t => Sys2Proof.Machine.execFenceI t s
  | .vadd t vd va vb mk ew sc => Sys2Proof.Machine.execVadd t vd va vb mk ew sc s
  | .vsub t vd va vb mk ew sc => Sys2Proof.Machine.execVsub t vd va vb mk ew sc s
  | .vand t vd va vb mk ew sc => Sys2Proof.Machine.execVand t vd va vb mk ew sc s
  | .vor t vd va vb mk ew sc => Sys2Proof.Machine.execVor t vd va vb mk ew sc s
  | .vxor t vd va vb mk ew sc => Sys2Proof.Machine.execVxor t vd va vb mk ew sc s
  | .vshl t vd va vb mk ew sc => Sys2Proof.Machine.execVshl t vd va vb mk ew sc s
  | .vshr t vd va vb mk ew sc => Sys2Proof.Machine.execVshr t vd va vb mk ew sc s
  | .vsra t vd va vb mk ew sc => Sys2Proof.Machine.execVsra t vd va vb mk ew sc s
  | .vmin t vd va vb mk ew sc => Sys2Proof.Machine.execVmin t vd va vb mk ew sc s
  | .vmax t vd va vb mk ew sc => Sys2Proof.Machine.execVmax t vd va vb mk ew sc s
  | .vminu t vd va vb mk ew sc => Sys2Proof.Machine.execVminu t vd va vb mk ew sc s
  | .vmaxu t vd va vb mk ew sc => Sys2Proof.Machine.execVmaxu t vd va vb mk ew sc s
  | .vmul t vd va vb mk ew sc => Sys2Proof.Machine.execVmul t vd va vb mk ew sc s
  | .vmulh t vd va vb mk ew sc => Sys2Proof.Machine.execVmulh t vd va vb mk ew sc s
  | .vmulhu t vd va vb mk ew sc => Sys2Proof.Machine.execVmulhu t vd va vb mk ew sc s
  | .vsadd t vd va vb mk ew sc => Sys2Proof.Machine.execVsadd t vd va vb mk ew sc s
  | .vssub t vd va vb mk ew sc => Sys2Proof.Machine.execVssub t vd va vb mk ew sc s
  | .vusadd t vd va vb mk ew sc => Sys2Proof.Machine.execVusadd t vd va vb mk ew sc s
  | .vussub t vd va vb mk ew sc => Sys2Proof.Machine.execVussub t vd va vb mk ew sc s
  | .vfadd t vd va vb mk ew sc => Sys2Proof.Machine.execVfadd t vd va vb mk ew sc s
  | .vfsub t vd va vb mk ew sc => Sys2Proof.Machine.execVfsub t vd va vb mk ew sc s
  | .vfmul t vd va vb mk ew sc => Sys2Proof.Machine.execVfmul t vd va vb mk ew sc s
  | .vfdiv t vd va vb mk ew sc => Sys2Proof.Machine.execVfdiv t vd va vb mk ew sc s
  | .vfsqrt t vd va mk ew => Sys2Proof.Machine.execVfsqrt t vd va mk ew s
  | .vfmin t vd va vb mk ew sc => Sys2Proof.Machine.execVfmin t vd va vb mk ew sc s
  | .vfmax t vd va vb mk ew sc => Sys2Proof.Machine.execVfmax t vd va vb mk ew sc s
  | .vfabs t vd va mk ew => Sys2Proof.Machine.execVfabs t vd va mk ew s
  | .vfneg t vd va mk ew => Sys2Proof.Machine.execVfneg t vd va mk ew s
  | .vfsgnj t vd va vb mk ew sc => Sys2Proof.Machine.execVfsgnj t vd va vb mk ew sc s
  | .vfmadd t vd va vb mk ew => Sys2Proof.Machine.execVfmadd t vd va vb mk ew s
  | .vfmsub t vd va vb mk ew => Sys2Proof.Machine.execVfmsub t vd va vb mk ew s
  | .vfnmadd t vd va vb mk ew => Sys2Proof.Machine.execVfnmadd t vd va vb mk ew s
  | .vfnmsub t vd va vb mk ew => Sys2Proof.Machine.execVfnmsub t vd va vb mk ew s
  | .vredadd t vd va mk ew => Sys2Proof.Machine.execVredadd t vd va mk ew s
  | .vredmin t vd va mk ew => Sys2Proof.Machine.execVredmin t vd va mk ew s
  | .vredmax t vd va mk ew => Sys2Proof.Machine.execVredmax t vd va mk ew s
  | .vredminu t vd va mk ew => Sys2Proof.Machine.execVredminu t vd va mk ew s
  | .vredmaxu t vd va mk ew => Sys2Proof.Machine.execVredmaxu t vd va mk ew s
  | .vredand t vd va mk ew => Sys2Proof.Machine.execVredand t vd va mk ew s
  | .vredor t vd va mk ew => Sys2Proof.Machine.execVredor t vd va mk ew s
  | .vredxor t vd va mk ew => Sys2Proof.Machine.execVredxor t vd va mk ew s
  | .vfredadd t vd va mk ew => Sys2Proof.Machine.execVfredadd t vd va mk ew s
  | .vfredaddt t vd va mk ew => Sys2Proof.Machine.execVfredaddt t vd va mk ew s
  | .vfredmin t vd va mk ew => Sys2Proof.Machine.execVfredmin t vd va mk ew s
  | .vfredmax t vd va mk ew => Sys2Proof.Machine.execVfredmax t vd va mk ew s
  | .vperm t vd va vb mk ew => Sys2Proof.Machine.execVperm t vd va vb mk ew s
  | .vslidedn t vd va rb mk ew => Sys2Proof.Machine.execVslidedn t vd va rb mk ew s
  | .vslideup t vd va rb mk ew => Sys2Proof.Machine.execVslideup t vd va rb mk ew s
  | .vcompress t vd va mk ew => Sys2Proof.Machine.execVcompress t vd va mk ew s
  | .vexpand t vd va mk ew => Sys2Proof.Machine.execVexpand t vd va mk ew s
  | .vziplo t vd va vb mk ew => Sys2Proof.Machine.execVziplo t vd va vb mk ew s
  | .vziphi t vd va vb mk ew => Sys2Proof.Machine.execVziphi t vd va vb mk ew s
  | .vcvtFI t vd va mk ew => Sys2Proof.Machine.execVcvtFI t vd va mk ew s
  | .vcvtFU t vd va mk ew => Sys2Proof.Machine.execVcvtFU t vd va mk ew s
  | .vcvtIF t vd va mk ew => Sys2Proof.Machine.execVcvtIF t vd va mk ew s
  | .vcvtUF t vd va mk ew => Sys2Proof.Machine.execVcvtUF t vd va mk ew s
  | .vcvtFFw t vd va mk ew => Sys2Proof.Machine.execVcvtFFw t vd va mk ew s
  | .vcvtFFn t vd va mk ew => Sys2Proof.Machine.execVcvtFFn t vd va mk ew s
  | .vsextW t vd va mk ew => Sys2Proof.Machine.execVsextW t vd va mk ew s
  | .vzextW t vd va mk ew => Sys2Proof.Machine.execVzextW t vd va mk ew s
  | .vnarrow t vd va mk ew => Sys2Proof.Machine.execVnarrow t vd va mk ew s
  | .vmvVg t vd ra mk ew => Sys2Proof.Machine.execVmvVg t vd ra mk ew s
  | .vmvGv t rd va rb ew => Sys2Proof.Machine.execVmvGv t rd va rb ew s
  | .vins t vd ra rb ew => Sys2Proof.Machine.execVins t vd ra rb ew s
  | .vcmpeq t md va vb mk ew => Sys2Proof.Machine.execVcmpeq t md va vb mk ew s
  | .vcmpne t md va vb mk ew => Sys2Proof.Machine.execVcmpne t md va vb mk ew s
  | .vcmplt t md va vb mk ew => Sys2Proof.Machine.execVcmplt t md va vb mk ew s
  | .vcmple t md va vb mk ew => Sys2Proof.Machine.execVcmple t md va vb mk ew s
  | .vcmpltu t md va vb mk ew => Sys2Proof.Machine.execVcmpltu t md va vb mk ew s
  | .vcmpleu t md va vb mk ew => Sys2Proof.Machine.execVcmpleu t md va vb mk ew s
  | .vfcmpeq t md va vb mk ew => Sys2Proof.Machine.execVfcmpeq t md va vb mk ew s
  | .vfcmplt t md va vb mk ew => Sys2Proof.Machine.execVfcmplt t md va vb mk ew s
  | .vfcmple t md va vb mk ew => Sys2Proof.Machine.execVfcmple t md va vb mk ew s
  | .vfcmpun t md va vb mk ew => Sys2Proof.Machine.execVfcmpun t md va vb mk ew s
  | .mand t md ma mb ew => Sys2Proof.Machine.execMand t md ma mb ew s
  | .mor t md ma mb ew => Sys2Proof.Machine.execMor t md ma mb ew s
  | .mxor t md ma mb ew => Sys2Proof.Machine.execMxor t md ma mb ew s
  | .mandn t md ma mb ew => Sys2Proof.Machine.execMandn t md ma mb ew s
  | .mpopc t rd ma ew => Sys2Proof.Machine.execMpopc t rd ma ew s
  | .mfirst t rd ma ew => Sys2Proof.Machine.execMfirst t rd ma ew s
  | .mmvGm t rd ma ew => Sys2Proof.Machine.execMmvGm t rd ma ew s
  | .mmvMg t md ra ew => Sys2Proof.Machine.execMmvMg t md ra ew s
  | .vld t vd ra mk ew => Sys2Proof.Machine.execVld t vd ra mk ew s
  | .vst t vd ra mk ew => Sys2Proof.Machine.execVst t vd ra mk ew s
  | .vlds t vd ra rb mk ew => Sys2Proof.Machine.execVlds t vd ra rb mk ew s
  | .vsts t vd ra rb mk ew => Sys2Proof.Machine.execVsts t vd ra rb mk ew s
  | .vldb t vd ra mk ew => Sys2Proof.Machine.execVldb t vd ra mk ew s
  | .vgather t vd ra vi mk ew sc => Sys2Proof.Machine.execVgather t vd ra vi mk ew sc s
  | .vscatter t vd ra vi mk ew sc => Sys2Proof.Machine.execVscatter t vd ra vi mk ew sc s
  | .crr t rd cr => Sys2Proof.Machine.execCrr t rd cr s
  | .crw t rd ra cr => Sys2Proof.Machine.execCrw t rd ra cr s
  | .crs t rd ra cr => Sys2Proof.Machine.execCrs t rd ra cr s
  | .crc t rd ra cr => Sys2Proof.Machine.execCrc t rd ra cr s
  | .scall t => Sys2Proof.Machine.execScall t s
  | .hcall t => Sys2Proof.Machine.execHcall t s
  | .mcall t => Sys2Proof.Machine.execMcall t s
  | .retx t => Sys2Proof.Machine.execRetx t s
  | .syncCtx t => Sys2Proof.Machine.execSyncCtx t s
  | .wait t => Sys2Proof.Machine.execWait t s
  | .waitResume t => Sys2Proof.Machine.execWaitResume t s
  | .ltol t ra => Sys2Proof.Machine.execLtol t ra s
  | .geodeEnter t ra => Sys2Proof.Machine.execGeodeEnter t ra s
  | .geodeExit t => Sys2Proof.Machine.execGeodeExit t s
  | .qresv t rd ra => Sys2Proof.Machine.execQresv t rd ra s
  | .qrel t rd ra => Sys2Proof.Machine.execQrel t rd ra s
  | .qquery t rd ra => Sys2Proof.Machine.execQquery t rd ra s
  | .churnPost t rd ra rb => Sys2Proof.Machine.execChurnPost t rd ra rb s
  | .instQuiesce t rd ra rb => Sys2Proof.Machine.execInstQuiesce t rd ra rb s
  | .instReset t rd ra rb => Sys2Proof.Machine.execInstReset t rd ra rb s
  | .instCreate t rd ra rb => Sys2Proof.Machine.execInstCreate t rd ra rb s
  | .instBind t rd ra rb => Sys2Proof.Machine.execInstBind t rd ra rb s
  | .instRemove t rd ra rb => Sys2Proof.Machine.execInstRemove t rd ra rb s
  | .cmoClean t ra setWay target => Sys2Proof.Machine.execCmoClean t ra setWay target s
  | .cmoInvalidate t ra setWay target => Sys2Proof.Machine.execCmoInvalidate t ra setWay target s
  | .cmoCleanInvalidate t ra setWay target => Sys2Proof.Machine.execCmoCleanInvalidate t ra setWay target s
  | .tlbiVmidStage1 t ra rb => Sys2Proof.Machine.execTlbiVmidStage1 t ra rb s
  | .tlbiVaAsid t ra rb => Sys2Proof.Machine.execTlbiVaAsid t ra rb s
  | .tlbiAsid t ra rb => Sys2Proof.Machine.execTlbiAsid t ra rb s
  | .tlbiVa t ra rb => Sys2Proof.Machine.execTlbiVa t ra rb s
  | .tlbiIaVmid t ra rb => Sys2Proof.Machine.execTlbiIaVmid t ra rb s
  | .tlbiVmid t ra rb => Sys2Proof.Machine.execTlbiVmid t ra rb s
  | .tlbiAll t ra rb => Sys2Proof.Machine.execTlbiAll t ra rb s
  | .tlbiComplete t => Sys2Proof.Machine.execTlbiComplete t s
  | .soloHoldRelease t => Sys2Proof.Machine.execSoloHoldRelease t s
  | .fetchBlock core => Sys2Proof.Machine.execFetchBlock core s
  | .predictorClearEnd core => Sys2Proof.Machine.execPredictorClearEnd core s
  | .microTlbRefill t fetch => Sys2Proof.Machine.execMicroTlbRefill t fetch s
  | .walkReadReturn core w bad => Sys2Proof.Machine.execWalkReadReturn core w bad s
  | .longOperationWriteback t id => Sys2Proof.Machine.execLongOperationWriteback t id s
  | .parkedLoadReentry t => Sys2Proof.Machine.execParkedLoadReentry t s
  | .storeBufferDrain t err => Sys2Proof.Machine.execStoreBufferDrain t err s
  | .vectorStoreEntryAllocate t => Sys2Proof.Machine.execVectorStoreEntryAllocate t s
  | .exceptionEntry t => Sys2Proof.Machine.execExceptionEntry t s
  | .rescueUsed t lvl value => Sys2Proof.Machine.execRescueUsed t lvl value s
  | .asyncStoreErrorRecord t kind err pa secure => Sys2Proof.Machine.execAsyncStoreErrorRecord t kind err pa secure s
  | .cachectlM t value => Sys2Proof.Machine.execCachectlM t value s
  | .cacheDisableCleanComplete chamber => Sys2Proof.Machine.execCacheDisableCleanComplete chamber s
  | .l1dFill core reg => Sys2Proof.Machine.execL1dFill core reg s
  | .l1iFill core reg => Sys2Proof.Machine.execL1iFill core reg s
  | .l2Fill chamber reg => Sys2Proof.Machine.execL2Fill chamber reg s
  | .l1dSnoop core line unique => Sys2Proof.Machine.execL1dSnoop core line unique s
  | .l1dWriteback core => Sys2Proof.Machine.execL1dWriteback core s
  | .cmoComplete t => Sys2Proof.Machine.execCmoComplete t s
  | .readShared slice => Sys2Proof.Machine.execReadShared slice s
  | .readUnique slice => Sys2Proof.Machine.execReadUnique slice s
  | .upgrade slice => Sys2Proof.Machine.execUpgrade slice s
  | .writeback slice => Sys2Proof.Machine.execWriteback slice s
  | .cleanEviction slice => Sys2Proof.Machine.execCleanEviction slice s
  | .cmoRequest slice => Sys2Proof.Machine.execCmoRequest slice s
  | .lineOrderRelease slice => Sys2Proof.Machine.execLineOrderRelease slice s
  | .snoop slice holder => Sys2Proof.Machine.execSnoop slice holder s
  | .backInvalidation slice holder => Sys2Proof.Machine.execBackInvalidation slice holder s
  | .snoopAnswer slice holder => Sys2Proof.Machine.execSnoopAnswer slice holder s
  | .writeBackBufferIssue slice entry => Sys2Proof.Machine.execWriteBackBufferIssue slice entry s
  | .memoryRead mc e second => Sys2Proof.Machine.execMemoryRead mc e second s
  | .memoryWrite mc => Sys2Proof.Machine.execMemoryWrite mc s
  | .memoryFill slice => Sys2Proof.Machine.execMemoryFill slice s
  | .creditReturn cls sender dest => Sys2Proof.Machine.execCreditReturn cls sender dest s
  | .flitHop node dir => Sys2Proof.Machine.execFlitHop node dir s
  | .messageAged id => Sys2Proof.Machine.execMessageAged id s
  | .starvationThrottleEnd vc => Sys2Proof.Machine.execStarvationThrottleEnd vc s
  | .creamFrameStart resource => Sys2Proof.Machine.execCreamFrameStart resource s
  | .skimPromotion resource index => Sys2Proof.Machine.execSkimPromotion resource index s
  | .churnPostAccept slice => Sys2Proof.Machine.execChurnPostAccept slice s
  | .descriptorStart engine => Sys2Proof.Machine.execDescriptorStart engine s
  | .unitStart engine ctx => Sys2Proof.Machine.execUnitStart engine ctx s
  | .unitReadReturn engine ctx err => Sys2Proof.Machine.execUnitReadReturn engine ctx err s
  | .unitWrite engine ctx => Sys2Proof.Machine.execUnitWrite engine ctx s
  | .unitWritePerformed engine ctx => Sys2Proof.Machine.execUnitWritePerformed engine ctx s
  | .moveSourceFill engine ctx => Sys2Proof.Machine.execMoveSourceFill engine ctx s
  | .completionRecord engine ctx => Sys2Proof.Machine.execCompletionRecord engine ctx s
  | .farAtomic slice err => Sys2Proof.Machine.execFarAtomic slice err s
  | .farAtomicResponse t => Sys2Proof.Machine.execFarAtomicResponse t s
  | .atomicop port rid pa size op operand compare => Sys2Proof.Machine.execAtomicop port rid pa size op operand compare s
  | .instanceRequest slice => Sys2Proof.Machine.execInstanceRequest slice s
  | .quiesceComplete inst => Sys2Proof.Machine.execQuiesceComplete inst s
  | .admissionRequest => Sys2Proof.Machine.execAdmissionRequest s
  | .qrelChargeRemoval => Sys2Proof.Machine.execQrelChargeRemoval s
  | .admCap lvl value => Sys2Proof.Machine.execAdmCap lvl value s
  | .dimmTemperatureRead ch temp0 ok0 temp1 ok1 two => Sys2Proof.Machine.execDimmTemperatureRead ch temp0 ok0 temp1 ok1 two s
  | .activationTrackerClear mc => Sys2Proof.Machine.execActivationTrackerClear mc s
  | .pairedConversionStep mc rank errs => Sys2Proof.Machine.execPairedConversionStep mc rank errs s
  | .patrolScrubRead mc syms mis second => Sys2Proof.Machine.execPatrolScrubRead mc syms mis second s
  | .rowRepairSwitch mc => Sys2Proof.Machine.execRowRepairSwitch mc s
  | .softPpr mc free => Sys2Proof.Machine.execSoftPpr mc free s
  | .writeCrcAlert mc failed => Sys2Proof.Machine.execWriteCrcAlert mc failed s
  | .linkTraining k j => Sys2Proof.Machine.execLinkTraining k j s
  | .linkTrainingDone k j partner rate width loss reach margin lanefail proto => Sys2Proof.Machine.execLinkTrainingDone k j partner rate width loss reach margin lanefail proto s
  | .linkDown k j reason => Sys2Proof.Machine.execLinkDown k j reason s
  | .failoverTimeout k => Sys2Proof.Machine.execFailoverTimeout k s
  | .flitReceive k j fseq ackseq nak ftype good => Sys2Proof.Machine.execFlitReceive k j fseq ackseq nak ftype good s
  | .linkStateMessage k pos mask change => Sys2Proof.Machine.execLinkStateMessage k pos mask change s
  | .routeRecompute => Sys2Proof.Machine.execRouteRecompute s
  | .galleryForward k => Sys2Proof.Machine.execGalleryForward k s
  | .unroutedResend tag => Sys2Proof.Machine.execUnroutedResend tag s
  | .rds k msg => Sys2Proof.Machine.execRds k msg s
  | .rdu k msg => Sys2Proof.Machine.execRdu k msg s
  | .upg k msg => Sys2Proof.Machine.execUpg k msg s
  | .own k msg => Sys2Proof.Machine.execOwn k msg s
  | .far k msg => Sys2Proof.Machine.execFar k msg s
  | .snps k msg => Sys2Proof.Machine.execSnps k msg s
  | .snpi k msg => Sys2Proof.Machine.execSnpi k msg s
  | .wb k msg => Sys2Proof.Machine.execWb k msg s
  | .evc k msg => Sys2Proof.Machine.execEvc k msg s
  | .data k msg => Sys2Proof.Machine.execData k msg s
  | .ack k msg => Sys2Proof.Machine.execAck k msg s
  | .sdata k msg => Sys2Proof.Machine.execSdata k msg s
  | .wbif k msg => Sys2Proof.Machine.execWbif k msg s
  | .farr k msg => Sys2Proof.Machine.execFarr k msg s
  | .err k msg => Sys2Proof.Machine.execErr k msg s
  | .mdone k msg => Sys2Proof.Machine.execMdone k msg s
  | .galleryTlbi k msg => Sys2Proof.Machine.execGalleryTlbi k msg s
  | .cmop k msg => Sys2Proof.Machine.execCmop k msg s
  | .passageRead k pkt => Sys2Proof.Machine.execPassageRead k pkt s
  | .passageWrite k pkt => Sys2Proof.Machine.execPassageWrite k pkt s
  | .passageAtomic k pkt => Sys2Proof.Machine.execPassageAtomic k pkt s
  | .rdata k pkt => Sys2Proof.Machine.execRdata k pkt s
  | .wack k pkt => Sys2Proof.Machine.execWack k pkt s
  | .aresult k pkt => Sys2Proof.Machine.execAresult k pkt s
  | .passageError k pkt => Sys2Proof.Machine.execPassageError k pkt s
  | .passageTimeout k j tag => Sys2Proof.Machine.execPassageTimeout k j tag s
  | .dmaRead port rid pa n => Sys2Proof.Machine.execDmaRead port rid pa n s
  | .dmaWrite port rid pa data poison => Sys2Proof.Machine.execDmaWrite port rid pa data poison s
  | .mmioCompletion port id ok data => Sys2Proof.Machine.execMmioCompletion port id ok data s
  | .mmioCompletionTimeout port id => Sys2Proof.Machine.execMmioCompletionTimeout port id s
  | .ltrMessage port j snoop nosnoop => Sys2Proof.Machine.execLtrMessage port j snoop nosnoop s
  | .functionLevelReset port rid => Sys2Proof.Machine.execFunctionLevelReset port rid s
  | .pmeToAck port j => Sys2Proof.Machine.execPmeToAck port j s
  | .interruptMessage origin id => Sys2Proof.Machine.execInterruptMessage origin id s
  | .remapEntryReadReturn sec idx => Sys2Proof.Machine.execRemapEntryReadReturn sec idx s
  | .pidAtomicResult sec idx => Sys2Proof.Machine.execPidAtomicResult sec idx s
  | .virtualNotification t pid => Sys2Proof.Machine.execVirtualNotification t pid s
  | .pullResult t => Sys2Proof.Machine.execPullResult t s
  | .foldComplete t => Sys2Proof.Machine.execFoldComplete t s
  | .wiredLevelChange source => Sys2Proof.Machine.execWiredLevelChange source s
  | .inboxRecord t box message source vector => Sys2Proof.Machine.execInboxRecord t box message source vector s
  | .spillQueueMove t box => Sys2Proof.Machine.execSpillQueueMove t box s
  | .iclaim chamber lt box lvl secure => Sys2Proof.Machine.execIclaim chamber lt box lvl secure s
  | .routerWire n lvl value => Sys2Proof.Machine.execRouterWire n lvl value s
  | .routerInval lvl value => Sys2Proof.Machine.execRouterInval lvl value s
  | .routerInvalComplete => Sys2Proof.Machine.execRouterInvalComplete s
  | .vctlPull chamber lt lvl => Sys2Proof.Machine.execVctlPull chamber lt lvl s
  | .vctlActive chamber lt lvl value => Sys2Proof.Machine.execVctlActive chamber lt lvl value s
  | .timecmpMatch t which => Sys2Proof.Machine.execTimecmpMatch t which s
  | .regionRegisterWrite n word lvl value => Sys2Proof.Machine.execRegionRegisterWrite n word lvl value s
  | .packageDecodeRegisterWrite addr lvl value => Sys2Proof.Machine.execPackageDecodeRegisterWrite addr lvl value s
  | .handoverRootPort lvl toNormal index forced => Sys2Proof.Machine.execHandoverRootPort lvl toNormal index forced s
  | .handoverChurnInstance lvl toNormal index => Sys2Proof.Machine.execHandoverChurnInstance lvl toNormal index s
  | .handoverWiredSource lvl toNormal index => Sys2Proof.Machine.execHandoverWiredSource lvl toNormal index s
  | .handoverComplete => Sys2Proof.Machine.execHandoverComplete s
  | .deferredRequestPerform block => Sys2Proof.Machine.execDeferredRequestPerform block s
  | .wdkickM t => Sys2Proof.Machine.execWdkickM t s
  | .watchdogPreExpiry => Sys2Proof.Machine.execWatchdogPreExpiry s
  | .watchdogExpiry => Sys2Proof.Machine.execWatchdogExpiry s
  | .coreRailRead r ok mv da reached => Sys2Proof.Machine.execCoreRailRead r ok mv da reached s
  | .pmbusRailRead r ok mv good => Sys2Proof.Machine.execPmbusRailRead r ok mv good s
  | .pmbAlert => Sys2Proof.Machine.execPmbAlert s
  | .pwrFreq c lvl req => Sys2Proof.Machine.execPwrFreq c lvl req s
  | .avsSetpointPoll r reached ok => Sys2Proof.Machine.execAvsSetpointPoll r reached ok s
  | .freqGlideComplete c => Sys2Proof.Machine.execFreqGlideComplete c s
  | .pwrLimit lvl watts => Sys2Proof.Machine.execPwrLimit lvl watts s
  | .packageLimiterTick watts => Sys2Proof.Machine.execPackageLimiterTick watts s
  | .thermalRead c temp => Sys2Proof.Machine.execThermalRead c temp s
  | .droopLevel1 c => Sys2Proof.Machine.execDroopLevel1 c s
  | .droopLevel2 c => Sys2Proof.Machine.execDroopLevel2 c s
  | .droopRecovery c => Sys2Proof.Machine.execDroopRecovery c s
  | .droopLevel1End c => Sys2Proof.Machine.execDroopLevel1End c s
  | .powerStateEntry scope n => Sys2Proof.Machine.execPowerStateEntry scope n s
  | .powerStateEntryComplete scope n => Sys2Proof.Machine.execPowerStateEntryComplete scope n s
  | .prepareAnswer participant answer => Sys2Proof.Machine.execPrepareAnswer participant answer s
  | .prepareTimeout => Sys2Proof.Machine.execPrepareTimeout s
  | .prepareRetry => Sys2Proof.Machine.execPrepareRetry s
  | .commitStepDone => Sys2Proof.Machine.execCommitStepDone s
  | .commitStepTimeout => Sys2Proof.Machine.execCommitStepTimeout s
  | .wakeEvent scope n cause block source => Sys2Proof.Machine.execWakeEvent scope n cause block source s
  | .wakeStepReady scope n => Sys2Proof.Machine.execWakeStepReady scope n s
  | .wakeStepTimeout scope n => Sys2Proof.Machine.execWakeStepTimeout scope n s
  | .blkreqUnpark lvl n => Sys2Proof.Machine.execBlkreqUnpark lvl n s
  | .blkreqParkDrip lvl n => Sys2Proof.Machine.execBlkreqParkDrip lvl n s
  | .blkreqParkStill lvl n => Sys2Proof.Machine.execBlkreqParkStill lvl n s
  | .blkreqParkSump lvl n => Sys2Proof.Machine.execBlkreqParkSump lvl n s
  | .blkreqEngineRelease lvl n => Sys2Proof.Machine.execBlkreqEngineRelease lvl n s
  | .blkreqEngineGate lvl n action => Sys2Proof.Machine.execBlkreqEngineGate lvl n action s
  | .blkreqSlotPowerOn lvl n => Sys2Proof.Machine.execBlkreqSlotPowerOn lvl n s
  | .blkreqSlotPowerOff lvl n => Sys2Proof.Machine.execBlkreqSlotPowerOff lvl n s
  | .blkreqDone => Sys2Proof.Machine.execBlkreqDone s
  | .pwrPkgctl lvl value => Sys2Proof.Machine.execPwrPkgctl lvl value s
  | .powerFailure rail => Sys2Proof.Machine.execPowerFailure rail s
  | .coldReset cause boot => Sys2Proof.Machine.execColdReset cause boot s
  | .pwrokAssert => Sys2Proof.Machine.execPwrokAssert s
  | .coldrstRelease => Sys2Proof.Machine.execColdrstRelease s
  | .refclkCount edges => Sys2Proof.Machine.execRefclkCount edges s
  | .refclkLost => Sys2Proof.Machine.execRefclkLost s
  | .warmReset cause thread flushed boot lost => Sys2Proof.Machine.execWarmReset cause thread flushed boot lost s
  | .kprRelease lvl value => Sys2Proof.Machine.execKprRelease lvl value s
  | .kprRstreq lvl value => Sys2Proof.Machine.execKprRstreq lvl value s
  | .kprSurvey lvl value => Sys2Proof.Machine.execKprSurvey lvl value s
  | .surveyComplete => Sys2Proof.Machine.execSurveyComplete s
  | .kprMeasidx lvl value => Sys2Proof.Machine.execKprMeasidx lvl value s
  | .getStatus frame => Sys2Proof.Machine.execGetStatus frame s
  | .getSurvey frame => Sys2Proof.Machine.execGetSurvey frame s
  | .surveyNow frame => Sys2Proof.Machine.execSurveyNow frame s
  | .spdm frame => Sys2Proof.Machine.execSpdm frame s
  | .doeSpdmRequest port msg => Sys2Proof.Machine.execDoeSpdmRequest port msg s
  | .getIncidents frame => Sys2Proof.Machine.execGetIncidents frame s
  | .flashWrite frame => Sys2Proof.Machine.execFlashWrite frame s
  | .getCounter frame => Sys2Proof.Machine.execGetCounter frame s
  | .reset frame => Sys2Proof.Machine.execReset frame s
  | .powerLimit frame => Sys2Proof.Machine.execPowerLimit frame s
  | .debugUnlock frame => Sys2Proof.Machine.execDebugUnlock frame s
  | .fwActivate frame => Sys2Proof.Machine.execFwActivate frame s
  | .handover frame => Sys2Proof.Machine.execHandover frame s
  | .commitSvn frame => Sys2Proof.Machine.execCommitSvn frame s
  | .keySet frame => Sys2Proof.Machine.execKeySet frame s
  | .revokeBasetteKey frame => Sys2Proof.Machine.execRevokeBasetteKey frame s
  | .revokeImageKey frame => Sys2Proof.Machine.execRevokeImageKey frame s
  | .bypass => Sys2Proof.Machine.execBypass s
  | .idcode => Sys2Proof.Machine.execIdcode s
  | .samplePreload bits => Sys2Proof.Machine.execSamplePreload bits s
  | .extest bits => Sys2Proof.Machine.execExtest bits s
  | .lanternExtension code normal => Sys2Proof.Machine.execLanternExtension code normal s
  | .tapReset => Sys2Proof.Machine.execTapReset s
  | .patrolUnitStart b => Sys2Proof.Machine.execPatrolUnitStart b s
  | .patrolSliceComplete b measured bits repeatOk => Sys2Proof.Machine.execPatrolSliceComplete b measured bits repeatOk s
  | .patrolSliceTimeout b => Sys2Proof.Machine.execPatrolSliceTimeout b s
  | .errorRecord rec sourceId sec bank => Sys2Proof.Machine.execErrorRecord rec sourceId sec bank s
  | .logRecord b => Sys2Proof.Machine.execLogRecord b s
  | .logPeek lvl value => Sys2Proof.Machine.execLogPeek lvl value s
  | .logRd lvl value => Sys2Proof.Machine.execLogRd lvl value s
  | .logStat lvl => Sys2Proof.Machine.execLogStat lvl s
  | .logFatal lvl value => Sys2Proof.Machine.execLogFatal lvl value s
  | .lifeHourTick d => Sys2Proof.Machine.execLifeHourTick d s
  | .linkFunc port n lvl value => Sys2Proof.Machine.execLinkFunc port n lvl value s
  | .registerWrite addr lvl secure size value => Sys2Proof.Machine.execRegisterWrite addr lvl secure size value s
  | .illegalInstruction t word => Sys2Proof.Machine.execIllegalInstruction t word s
  | .hotplugSlotEvent port event => Sys2Proof.Machine.execHotplugSlotEvent port event s
  | .refreshClassChange mc rank hours24 unc24 days7 temp => Sys2Proof.Machine.execRefreshClassChange mc rank hours24 unc24 days7 temp s
  | .passageTagReuse k j tag => Sys2Proof.Machine.execPassageTagReuse k j tag s
  | .unknownCommand frame => Sys2Proof.Machine.execUnknownCommand frame s
  | .dynamicAddressAssignment => Sys2Proof.Machine.execDynamicAddressAssignment s
  | .inBandInterrupt acked => Sys2Proof.Machine.execInBandInterrupt acked s
  | .responseRead => Sys2Proof.Machine.execResponseRead s

end Sys2Proof.Machine
end

