-- ==== Sys2Proof/Machine/Tick.lean ====
section
/-! DEFINITION. What a tick of the 25 MHz crystal does by itself (R29, R90, R289, R298, R416, R428, R462; DESIGN CHOICE, log 5): a tick is
88 cycles of the 2.2 GHz mesh. -/

namespace Sys2Proof.Machine

/-- Ages of waiting non-Cream messages (R289), up to 1,023; those at input 9 wait for admission and have no age yet. -/
def Flit.older (f : Flit) : Flit := if f.vc < 4 ∧ f.input ≠ 9 then { f with age := min 1023 (f.age + 88) } else f

/-- Half-cycles of a chamber's clock in a tick, by clock, droop and detectors (R428, R473). -/
def Chamber.halves (x : Chamber) : Nat :=
  if x.droop = 2 ∨ 2 ≤ x.pstate.num then 0 else if x.droop = 1 ∨ x.detectOff = 15 then x.freq else 2 * x.freq

/-- A chamber's cycles of a tick (R90): the fraction of a cycle, in fiftieths, stays for the next; a core in Sump misses them (R431). -/
def Hw.chamberTick (h : Hw) (c : Nat) : Hw :=
  let x := h.chamber c
  let n := x.frac + x.halves
  let h0 := h.updChamber c fun x => { x with cycle := x.cycle + w64 (n / 50), frac := n % 50 }
  let h1 := (x.cstate.filter fun p => p.2 == PState.sump).foldl (fun (h : Hw) p =>
    h.updCore (4 * c + p.1) fun y => { y with missed := y.missed + w64 (n / 50) }) h0
  forN (16 * c) 16 (fun t (h : Hw) =>
    if (h.thread t).b.parked.any (·.row3) then
      h.updArch t fun a => { a with cr := supd 0 0x030 (fun w => w + w64 (n / 50)) a.cr }
    else h) h1

/-- The secure watchdog counts down; it pauses with the package (R416). -/
def Hw.swdtTick (h : Hw) : Hw :=
  if h.swdtOn ∧ h.meshRuns then { h with swdt := h.swdt - 1 }.setRegF (chkReg 0x20100) 15 0 ((h.swdt - 1) / 65536) else h

/-- A RESET command takes effect 10 ms after its response was ready (R462). -/
def Hw.resetTick (h : Hw) : Hw :=
  match h.keeper.resetDue with
  | some (k, n + 1) =>
    let h1 := { h with keeper := { h.keeper with resetDue := some (k, n) } }
    if n = 0 then h1.resetNow else h1
  | _ => h

/-- The mesh over a tick: stops admit what waits at them (R287), messages age (R289) and raise marks (R290), regulators refill (R298), maintenance
operations are answered (R361). -/
def Hw.meshTick (h : Hw) : Hw :=
  let h1 := (h.flits.filter fun f => f.input == 9).foldl (fun h f => h.takeIn f.at_ f.vc) h.maintPump
  { h1 with
    meshCycles := h1.meshCycles + 88
    flits := h1.flits.map Flit.older
    resvs := h1.resvs.map fun (p : Nat × Resv) => (p.1, p.2.refill 88) }.marksUp

/-- What counts while the clocks run; a chamber whose clock runs again takes what its queue from the mesh kept (R32). -/
def runTick (q : List Host.Cell × Hw) : List Host.Cell × Hw :=
  let q0 := if q.2.meshRuns then (List.range 6).foldl (fun p i => maintRetry p (8 + i)) q else q
  let h := q0.2
  let h1 := if h.meshRuns then forN 0 numChambers (fun c h => h.chamberTick c) h.meshTick else h
  let r := (h1.awayQ.map (·.1)).foldl (fun q c => drainAway c q) (q0.1, h1)
  (r.1, r.2.swdtTick)

/-- PERST# is released 100 ms after the reference clock was accepted, and the root ports train (R346). -/
def Hw.perstTick (h : Hw) : Hw :=
  match h.perstLeft with
  | 0 => h
  | n + 1 =>
    let h1 := { h with perstLeft := n }
    if n = 0 then (List.range 8).foldl (fun (h : Hw) k => h.portTrain k) { h1 with pins := { h1.pins with perst := [] } } else h1

/-- One crystal tick: TIME counts (R90). -/
def crystalTick (q : List Host.Cell × Hw) : List Host.Cell × Hw :=
  let h1 := { q.2 with time := q.2.time + 1 }.resetTick
  if h1.off then (q.1, h1) else runTick (q.1, h1.perstTick)

end Sys2Proof.Machine
end

