-- ==== Sys2Proof/Safety.lean ====
section
/-! DEFINITION. The terms of claims: safe runs, what it means that a command answers, and what a completed instruction leaves alone. -/

namespace Sys2Proof.Safety

open Sys2Proof.Machine

/-- A step that answers a next state. -/
def Steps (s t : State) : Prop := step s = .next t

/-- The state after n steps, when every step answers a next state. -/
def after : Nat → State → Option State
  | 0, s => some s
  | n + 1, s => match step s with
    | .next t => after n t
    | _ => none

/-- A run of n steps that never stops. -/
def Safe (n : Nat) (s : State) : Prop := (after n s).isSome = true

/-- The command answers a next state, of which P holds. -/
def Answers (i : Instr) (s : State) (P : State → Prop) : Prop := ∃ u, exec i s = .next u ∧ P u


/-- Only thread t differs, and the secure watchdog, which starts with the first instruction completed at M (R416). -/
def OnlyThread (t : Nat) (s u : State) : Prop :=
  u.mem = s.mem ∧ u.pending = s.pending ∧
    ∃ x on w, u.hw = { s.hw with threads := sset t x s.hw.threads, swdtOn := on, swdt := w }

/-- The pc after an instruction that transfers no control (R57). -/
def pcAfter (a : Arch) : Word :=
  if a.crAt 1 ≠ 0 ∧ a.pc = a.crAt 3 ∧ 1 < (a.crAt 1).toNat then a.crAt 2 else a.pc + 4

/-- LOOP_COUNT after an instruction that transfers no control (R57). -/
def countAfter (a : Arch) : Word := if a.crAt 1 ≠ 0 ∧ a.pc = a.crAt 3 then a.crAt 1 - 1 else a.crAt 1

/-- What a completed instruction that writes no loop register leaves of a thread's registers: vectors, masks, level and world, and every
control register but LOOP_COUNT, which the end test may count down, and INSTRET, which counts it (R57, R90). -/
def KeepsRest (a b : Arch) : Prop :=
  b.v = a.v ∧ b.m = a.m ∧ b.level = a.level ∧ b.secure = a.secure ∧ b.ctx = a.ctx ∧
    (∀ k, k ≠ 1 → k ≠ 0x011 → b.crAt k = a.crAt k) ∧ b.crAt 0x011 = a.crAt 0x011 + 1

/-- General register rd is written with w, a write of g0 being discarded (R7); no other general register changes. -/
def WritesG (a b : Arch) (rd : Reg) (w : Word) : Prop :=
  b.rg rd = (if rd = 0 then 0 else w) ∧ ∀ r, r ≠ rd → b.rg r = a.rg r

/-- An integer instruction of thread t: rd gets w, the pc goes on under the end test, nothing else changes but what the scoreboard says of rd
and the thread's fetched instructions. -/
def IntegerDone (t : Nat) (rd : Reg) (w : Word) (s u : State) : Prop :=
  let a := (s.hw.thread t).a
  let b := (u.hw.thread t).a
  OnlyThread t s u ∧ WritesG a b rd w ∧ b.pc = pcAfter a ∧ b.crAt 1 = countAfter a ∧ KeepsRest a b

/-- Every thread but t is as it was. -/
def OthersKeep (t : Nat) (s u : State) : Prop := ∀ k, k ≠ t → u.hw.thread k = s.hw.thread k

/-- A solo instruction completes as `IntegerDone` says, and fetch goes on at its successor with nothing fetched before (R109). -/
def Refetches (t : Nat) (u : State) : Prop :=
  (u.hw.thread t).f.iq = [] ∧ (u.hw.thread t).f.fetchPc = (u.hw.thread t).a.pc ∧ (u.hw.thread t).f.fetchStop = false

/-- The fields of R156 that an exception's frame carries. -/
structure Cause where
  code : Nat
  sub : Nat
  faddr : Word
  epc : Word

/-- The conditions under which the entry into level x succeeds outside a geode (R158, R165): the frame's line and the handler's entry pass
their checks, and the store buffer has room for the push. -/
def EntryOpen (t : Nat) (x : Level) (c : Cause) (s : State) (pa : Word) (mt : MemType) (entry : Word) : Prop :=
  let h := s.hw.applyCtx t
  let a := (h.thread t).a
  let acc : Acc := ⟨x, entryWorld x a.secure, 0⟩
  a.geode = 0 ∧ (∃ tg, frameChk s.mem h t acc .push 0 (a.crAt (lvlKey x acc.secure 2) - 64) = .ok (pa, mt, tg)) ∧
    handlerRead s.mem h t acc (a.crAt (lvlKey x acc.secure 1) + w64 (8 * c.code)) = .ok entry ∧
    (h.thread t).b.sb.length < 16 ∧ (h.thread t).b.vstWait = []

/-- What the entry into level x leaves (R157, R158): the frame in one store-buffer entry, XSP and STATUS of the level, the loop ended, the
level and world entered, the pc at the handler's entry; the general, vector and mask registers and VCSR stay. -/
def Enters (t : Nat) (x : Level) (c : Cause) (pa entry : Word) (s u : State) : Prop :=
  let a := ((s.hw.applyCtx t).thread t).a
  let b := (u.hw.thread t).a
  let w := match x with | .m => true | .h => false | _ => a.secure
  let st := a.crAt (lvlKey x w 0)
  u.mem = s.mem ∧ OthersKeep t s u ∧
    b.level = x ∧ b.secure = w ∧ b.pc = entry &&& ~~~3 ∧ b.geode = 0 ∧ b.crAt 1 = 0 ∧
    b.crAt (lvlKey x w 2) = a.crAt (lvlKey x w 2) - 64 ∧
    b.crAt (lvlKey x w 0) = Word.setFld (Word.setFld st 10 9 (Level.num a.level)) 1 1 0 ∧
    b.g = a.g ∧ b.v = a.v ∧ b.m = a.m ∧ b.crAt 0 = a.crAt 0 ∧
    ∃ e, (u.hw.thread t).b.sb = (s.hw.thread t).b.sb ++ [e] ∧ e.line = lineNo pa ∧ e.mask = BitVec.allOnes 64 ∧
      vword e.data 0 = c.epc ∧
      vword e.data 1 = w64 (b2n a.secure * 2 ^ 11 + Level.num a.level * 2 ^ 9 + b2n (Word.bit st 1) * 2) ∧
      vword e.data 2 = w64 (b2n (decide (32 ≤ c.code ∧ c.code ≤ 35)) * 2 ^ 63 + c.sub * 2 ^ 32 + c.code) ∧
      vword e.data 3 = c.faddr ∧ vword e.data 4 = a.crAt 1 ∧ vword e.data 5 = a.crAt 2 ∧ vword e.data 6 = a.crAt 3

/-- Of a thread's registers only the pc and the control registers that P names may differ. -/
def KeepsBut (P : Nat → Prop) (a b : Arch) : Prop :=
  b.g = a.g ∧ b.v = a.v ∧ b.m = a.m ∧ b.level = a.level ∧ b.secure = a.secure ∧ ∀ k, ¬P k → b.crAt k = a.crAt k

/-- A long operation of thread t is sent on its way: the instruction completes, its destination is owed to a new operation that awaits its
answer, and no register has changed (R110, R113). -/
def AwaitsAnswer (t : Nat) (d : Dest) (k : LongKind) (id : Nat) (s u : State) : Prop :=
  let a := (s.hw.thread t).a
  let b := (u.hw.thread t).a
  u.mem = s.mem ∧ OthersKeep t s u ∧ b.g = a.g ∧ b.pc = pcAfter a ∧ KeepsRest a b ∧
    (∀ q ∈ (s.hw.thread t).b.longs, q.id ≠ id) ∧ (d ≠ .none → (d, id) ∈ (u.hw.thread t).b.owed) ∧
    ∃ o, (u.hw.thread t).b.longs = (s.hw.thread t).b.longs ++ [o] ∧ o.id = id ∧ o.kind = k ∧ o.dest = d ∧ o.ready = false

/-- A message with this content is handed to the mesh: the newest in it (R238, R287). -/
def Sends (p : Payload) (src dst : Nat) (s u : State) : Prop :=
  ∃ f, u.hw.flits = s.hw.flits ++ [f] ∧ f.payload = p ∧ f.at_ = src ∧ f.dst = dst

end Sys2Proof.Safety
end

