-- ==== Sys2Proof/WellFormed.lean ====
section
/-! DEFINITION. Well-formed commands: every operand in the range the spec gives its component, and every instruction one that some word
encodes (R39, R93). The checks an arm makes are on the operands alone; what the block does with a command outside them is a fact of
`Machine.exec`, which names no component that does not exist. -/

namespace Sys2Proof

open Machine (numThreads numCores numChambers numSlices)

/-- A Gallery port and a Passage port (R344). -/
def isGallery (k : Nat) : Bool := decide (8 ≤ k) && decide (k < 14)
def isPassage (k : Nat) : Bool := decide (14 ≤ k) && decide (k < 18)

/-- The errors of a line lie in its codewords, of at most 278 bits or 20 symbols, and the summary has four values (R322, R323, R326). -/
def readErrOk (e : ReadErr) : Bool :=
  (e.syms.all fun p => decide (p.1 < 8 ∧ p.2 < 278)) && e.mis.all fun c => decide (c.1 < 4) && (decide (c.2.2 < 20) || c.2.2 == 31)

/-- A command whose operands the spec admits. -/
def wellFormed : Instr → Bool
  | .add t _ _ _ => decide (t < numThreads)
  | .sub t _ _ _ => decide (t < numThreads)
  | .and t _ _ _ => decide (t < numThreads)
  | .or t _ _ _ => decide (t < numThreads)
  | .xor t _ _ _ => decide (t < numThreads)
  | .andn t _ _ _ => decide (t < numThreads)
  | .orn t _ _ _ => decide (t < numThreads)
  | .shl t _ _ _ => decide (t < numThreads)
  | .shr t _ _ _ => decide (t < numThreads)
  | .sra t _ _ _ => decide (t < numThreads)
  | .rol t _ _ _ => decide (t < numThreads)
  | .ror t _ _ _ => decide (t < numThreads)
  | .slt t _ _ _ => decide (t < numThreads)
  | .sltu t _ _ _ => decide (t < numThreads)
  | .min t _ _ _ => decide (t < numThreads)
  | .max t _ _ _ => decide (t < numThreads)
  | .minu t _ _ _ => decide (t < numThreads)
  | .maxu t _ _ _ => decide (t < numThreads)
  | .clz t _ _ => decide (t < numThreads)
  | .ctz t _ _ => decide (t < numThreads)
  | .popc t _ _ => decide (t < numThreads)
  | .rev8 t _ _ => decide (t < numThreads)
  | .sextB t _ _ => decide (t < numThreads)
  | .sextH t _ _ => decide (t < numThreads)
  | .sextW t _ _ => decide (t < numThreads)
  | .zextB t _ _ => decide (t < numThreads)
  | .zextH t _ _ => decide (t < numThreads)
  | .zextW t _ _ => decide (t < numThreads)
  | .addw t _ _ _ => decide (t < numThreads)
  | .subw t _ _ _ => decide (t < numThreads)
  | .shlw t _ _ _ => decide (t < numThreads)
  | .shrw t _ _ _ => decide (t < numThreads)
  | .sraw t _ _ _ => decide (t < numThreads)
  | .rolw t _ _ _ => decide (t < numThreads)
  | .rorw t _ _ _ => decide (t < numThreads)
  | .mul t _ _ _ => decide (t < numThreads)
  | .mulh t _ _ _ => decide (t < numThreads)
  | .mulhu t _ _ _ => decide (t < numThreads)
  | .mulhsu t _ _ _ => decide (t < numThreads)
  | .mulw t _ _ _ => decide (t < numThreads)
  | .div t _ _ _ => decide (t < numThreads)
  | .divu t _ _ _ => decide (t < numThreads)
  | .rem t _ _ _ => decide (t < numThreads)
  | .remu t _ _ _ => decide (t < numThreads)
  | .divw t _ _ _ => decide (t < numThreads)
  | .divuw t _ _ _ => decide (t < numThreads)
  | .remw t _ _ _ => decide (t < numThreads)
  | .remuw t _ _ _ => decide (t < numThreads)
  | .addi t _ _ _ => decide (t < numThreads)
  | .addiw t _ _ _ => decide (t < numThreads)
  | .andi t _ _ _ => decide (t < numThreads)
  | .ori t _ _ _ => decide (t < numThreads)
  | .xori t _ _ _ => decide (t < numThreads)
  | .slti t _ _ _ => decide (t < numThreads)
  | .sltiu t _ _ _ => decide (t < numThreads)
  | .shli t _ _ _ => decide (t < numThreads)
  | .shri t _ _ _ => decide (t < numThreads)
  | .srai t _ _ _ => decide (t < numThreads)
  | .rori t _ _ _ => decide (t < numThreads)
  | .shliw t _ _ _ => decide (t < numThreads)
  | .shriw t _ _ _ => decide (t < numThreads)
  | .sraiw t _ _ _ => decide (t < numThreads)
  | .roriw t _ _ _ => decide (t < numThreads)
  | .lui t _ _ => decide (t < numThreads)
  | .auipc t _ _ => decide (t < numThreads)
  | .lb t _ _ _ => decide (t < numThreads)
  | .lh t _ _ _ => decide (t < numThreads)
  | .lw t _ _ _ => decide (t < numThreads)
  | .ld t _ _ _ => decide (t < numThreads)
  | .lbu t _ _ _ => decide (t < numThreads)
  | .lhu t _ _ _ => decide (t < numThreads)
  | .lwu t _ _ _ => decide (t < numThreads)
  | .sb t _ _ _ => decide (t < numThreads)
  | .sh t _ _ _ => decide (t < numThreads)
  | .sw t _ _ _ => decide (t < numThreads)
  | .sd t _ _ _ => decide (t < numThreads)
  | .ldAq t _ _ _ => decide (t < numThreads)
  | .stRl t _ _ _ => decide (t < numThreads)
  | .amo t _ _ _ op size _ => decide (t < numThreads) && decide (op.toNat ≤ 8) && decide (2 ≤ size.toNat)
  | .cas t _ _ _ size _ => decide (t < numThreads) && decide (2 ≤ size.toNat)
  | .amoFar t rd _ _ op _ _ ret => decide (t < numThreads) && decide (op.toNat ≤ 10) && (op != 6) && (op != 7) && (ret || (op != 9 && rd == 0))
  | .beq t _ _ _ _ => decide (t < numThreads)
  | .bne t _ _ _ _ => decide (t < numThreads)
  | .blt t _ _ _ _ => decide (t < numThreads)
  | .bge t _ _ _ _ => decide (t < numThreads)
  | .bltu t _ _ _ _ => decide (t < numThreads)
  | .bgeu t _ _ _ _ => decide (t < numThreads)
  | .jal t _ _ => decide (t < numThreads)
  | .jalr t _ _ _ _ => decide (t < numThreads)
  | .loopSet t _ soff eoff => decide (t < numThreads) && (soff != 0) && decide (soff.toNat ≤ eoff.toNat)
  | .loopClr t => decide (t < numThreads)
  | .fence t _ _ => decide (t < numThreads)
  | .fenceI t => decide (t < numThreads)
  | .vadd t _ _ _ _ _ _ => decide (t < numThreads)
  | .vsub t _ _ _ _ _ _ => decide (t < numThreads)
  | .vand t _ _ _ _ _ _ => decide (t < numThreads)
  | .vor t _ _ _ _ _ _ => decide (t < numThreads)
  | .vxor t _ _ _ _ _ _ => decide (t < numThreads)
  | .vshl t _ _ _ _ _ _ => decide (t < numThreads)
  | .vshr t _ _ _ _ _ _ => decide (t < numThreads)
  | .vsra t _ _ _ _ _ _ => decide (t < numThreads)
  | .vmin t _ _ _ _ _ _ => decide (t < numThreads)
  | .vmax t _ _ _ _ _ _ => decide (t < numThreads)
  | .vminu t _ _ _ _ _ _ => decide (t < numThreads)
  | .vmaxu t _ _ _ _ _ _ => decide (t < numThreads)
  | .vmul t _ _ _ _ _ _ => decide (t < numThreads)
  | .vmulh t _ _ _ _ _ _ => decide (t < numThreads)
  | .vmulhu t _ _ _ _ _ _ => decide (t < numThreads)
  | .vsadd t _ _ _ _ _ _ => decide (t < numThreads)
  | .vssub t _ _ _ _ _ _ => decide (t < numThreads)
  | .vusadd t _ _ _ _ _ _ => decide (t < numThreads)
  | .vussub t _ _ _ _ _ _ => decide (t < numThreads)
  | .vfadd t _ _ _ _ ew _ => decide (t < numThreads) && (ew != 0)
  | .vfsub t _ _ _ _ ew _ => decide (t < numThreads) && (ew != 0)
  | .vfmul t _ _ _ _ ew _ => decide (t < numThreads) && (ew != 0)
  | .vfdiv t _ _ _ _ ew _ => decide (t < numThreads) && (ew != 0)
  | .vfsqrt t _ _ _ ew => decide (t < numThreads) && (ew != 0)
  | .vfmin t _ _ _ _ ew _ => decide (t < numThreads) && (ew != 0)
  | .vfmax t _ _ _ _ ew _ => decide (t < numThreads) && (ew != 0)
  | .vfabs t _ _ _ ew => decide (t < numThreads) && (ew != 0)
  | .vfneg t _ _ _ ew => decide (t < numThreads) && (ew != 0)
  | .vfsgnj t _ _ _ _ ew _ => decide (t < numThreads) && (ew != 0)
  | .vfmadd t _ _ _ _ ew => decide (t < numThreads) && (ew != 0)
  | .vfmsub t _ _ _ _ ew => decide (t < numThreads) && (ew != 0)
  | .vfnmadd t _ _ _ _ ew => decide (t < numThreads) && (ew != 0)
  | .vfnmsub t _ _ _ _ ew => decide (t < numThreads) && (ew != 0)
  | .vredadd t _ _ _ _ => decide (t < numThreads)
  | .vredmin t _ _ _ _ => decide (t < numThreads)
  | .vredmax t _ _ _ _ => decide (t < numThreads)
  | .vredminu t _ _ _ _ => decide (t < numThreads)
  | .vredmaxu t _ _ _ _ => decide (t < numThreads)
  | .vredand t _ _ _ _ => decide (t < numThreads)
  | .vredor t _ _ _ _ => decide (t < numThreads)
  | .vredxor t _ _ _ _ => decide (t < numThreads)
  | .vfredadd t _ _ _ ew => decide (t < numThreads) && (ew != 0)
  | .vfredaddt t _ _ _ ew => decide (t < numThreads) && (ew != 0)
  | .vfredmin t _ _ _ ew => decide (t < numThreads) && (ew != 0)
  | .vfredmax t _ _ _ ew => decide (t < numThreads) && (ew != 0)
  | .vperm t _ _ _ _ _ => decide (t < numThreads)
  | .vslidedn t _ _ _ _ _ => decide (t < numThreads)
  | .vslideup t _ _ _ _ _ => decide (t < numThreads)
  | .vcompress t _ _ _ _ => decide (t < numThreads)
  | .vexpand t _ _ _ _ => decide (t < numThreads)
  | .vziplo t _ _ _ _ _ => decide (t < numThreads)
  | .vziphi t _ _ _ _ _ => decide (t < numThreads)
  | .vcvtFI t _ _ _ ew => decide (t < numThreads) && (ew != 0)
  | .vcvtFU t _ _ _ ew => decide (t < numThreads) && (ew != 0)
  | .vcvtIF t _ _ _ ew => decide (t < numThreads) && (ew != 0)
  | .vcvtUF t _ _ _ ew => decide (t < numThreads) && (ew != 0)
  | .vcvtFFw t _ _ _ ew => decide (t < numThreads) && (ew != 0) && (ew != 3)
  | .vcvtFFn t _ _ _ ew => decide (t < numThreads) && decide (2 ≤ ew.toNat)
  | .vsextW t _ _ _ ew => decide (t < numThreads) && (ew != 3)
  | .vzextW t _ _ _ ew => decide (t < numThreads) && (ew != 3)
  | .vnarrow t _ _ _ ew => decide (t < numThreads) && (ew != 0)
  | .vmvVg t _ _ _ _ => decide (t < numThreads)
  | .vmvGv t _ _ _ _ => decide (t < numThreads)
  | .vins t _ _ _ _ => decide (t < numThreads)
  | .vcmpeq t md _ _ _ _ => decide (t < numThreads) && isM md
  | .vcmpne t md _ _ _ _ => decide (t < numThreads) && isM md
  | .vcmplt t md _ _ _ _ => decide (t < numThreads) && isM md
  | .vcmple t md _ _ _ _ => decide (t < numThreads) && isM md
  | .vcmpltu t md _ _ _ _ => decide (t < numThreads) && isM md
  | .vcmpleu t md _ _ _ _ => decide (t < numThreads) && isM md
  | .vfcmpeq t md _ _ _ ew => decide (t < numThreads) && (ew != 0) && isM md
  | .vfcmplt t md _ _ _ ew => decide (t < numThreads) && (ew != 0) && isM md
  | .vfcmple t md _ _ _ ew => decide (t < numThreads) && (ew != 0) && isM md
  | .vfcmpun t md _ _ _ ew => decide (t < numThreads) && (ew != 0) && isM md
  | .mand t md ma mb _ => decide (t < numThreads) && isM md && isM ma && isM mb
  | .mor t md ma mb _ => decide (t < numThreads) && isM md && isM ma && isM mb
  | .mxor t md ma mb _ => decide (t < numThreads) && isM md && isM ma && isM mb
  | .mandn t md ma mb _ => decide (t < numThreads) && isM md && isM ma && isM mb
  | .mpopc t _ ma _ => decide (t < numThreads) && isM ma
  | .mfirst t _ ma _ => decide (t < numThreads) && isM ma
  | .mmvGm t _ ma _ => decide (t < numThreads) && isM ma
  | .mmvMg t md _ _ => decide (t < numThreads) && isM md
  | .vld t _ _ _ _ => decide (t < numThreads)
  | .vst t _ _ _ _ => decide (t < numThreads)
  | .vlds t _ _ _ _ _ => decide (t < numThreads)
  | .vsts t _ _ _ _ _ => decide (t < numThreads)
  | .vldb t _ _ _ _ => decide (t < numThreads)
  | .vgather t _ _ _ _ ew _ => decide (t < numThreads) && decide (2 ≤ ew.toNat)
  | .vscatter t _ _ _ _ ew _ => decide (t < numThreads) && decide (2 ≤ ew.toNat)
  | .crr t _ _ => decide (t < numThreads)
  | .crw t _ _ _ => decide (t < numThreads)
  | .crs t _ _ _ => decide (t < numThreads)
  | .crc t _ _ _ => decide (t < numThreads)
  | .scall t => decide (t < numThreads)
  | .hcall t => decide (t < numThreads)
  | .mcall t => decide (t < numThreads)
  | .retx t => decide (t < numThreads)
  | .syncCtx t => decide (t < numThreads)
  | .wait t => decide (t < numThreads)
  | .waitResume t => decide (t < numThreads)
  | .ltol t _ => decide (t < numThreads)
  | .geodeEnter t _ => decide (t < numThreads)
  | .geodeExit t => decide (t < numThreads)
  | .qresv t _ _ => decide (t < numThreads)
  | .qrel t _ _ => decide (t < numThreads)
  | .qquery t _ _ => decide (t < numThreads)
  | .churnPost t _ _ _ => decide (t < numThreads)
  | .instQuiesce t _ _ _ => decide (t < numThreads)
  | .instReset t _ _ _ => decide (t < numThreads)
  | .instCreate t _ _ _ => decide (t < numThreads)
  | .instBind t _ _ _ => decide (t < numThreads)
  | .instRemove t _ _ _ => decide (t < numThreads)
  | .cmoClean t _ _ target => decide (t < numThreads) && (target != 3)
  | .cmoInvalidate t _ _ target => decide (t < numThreads) && (target != 3)
  | .cmoCleanInvalidate t _ _ target => decide (t < numThreads) && (target != 3)
  | .tlbiVmidStage1 t ra rb => decide (t < numThreads) && ra == 0 && rb == 0
  | .tlbiVaAsid t _ _ => decide (t < numThreads)
  | .tlbiAsid t ra _ => decide (t < numThreads) && ra == 0
  | .tlbiVa t _ rb => decide (t < numThreads) && rb == 0
  | .tlbiIaVmid t _ _ => decide (t < numThreads)
  | .tlbiVmid t ra _ => decide (t < numThreads) && ra == 0
  | .tlbiAll t ra rb => decide (t < numThreads) && ra == 0 && rb == 0
  | .tlbiComplete t => decide (t < numThreads)
  | .soloHoldRelease t => decide (t < numThreads)
  | .fetchBlock core => decide (core < numCores)
  | .predictorClearEnd core => decide (core < numCores)
  | .microTlbRefill t _ => decide (t < numThreads)
  | .walkReadReturn core w _ => decide (core < numCores) && decide (w < 2)
  | .longOperationWriteback t _ => decide (t < numThreads)
  | .parkedLoadReentry t => decide (t < numThreads)
  | .storeBufferDrain t err => decide (t < numThreads) && decide (err < 6)
  | .vectorStoreEntryAllocate t => decide (t < numThreads)
  | .exceptionEntry t => decide (t < numThreads)
  | .rescueUsed t _ _ => decide (t < numThreads)
  | .asyncStoreErrorRecord t kind err _ _ => decide (t < numThreads) && decide (kind < 6) && decide (err < 6)
  | .cachectlM t _ => decide (t < numThreads)
  | .cacheDisableCleanComplete chamber => decide (chamber < numChambers)
  | .l1dFill core reg => decide (core < numCores) && decide (reg < 16)
  | .l1iFill core reg => decide (core < numCores) && decide (reg < 4)
  | .l2Fill chamber reg => decide (chamber < numChambers) && decide (reg < 64)
  | .l1dSnoop core _ _ => decide (core < numCores)
  | .l1dWriteback core => decide (core < numCores)
  | .cmoComplete t => decide (t < numThreads)
  | .readShared slice => decide (slice < numSlices)
  | .readUnique slice => decide (slice < numSlices)
  | .upgrade slice => decide (slice < numSlices)
  | .writeback slice => decide (slice < numSlices)
  | .cleanEviction slice => decide (slice < numSlices)
  | .cmoRequest slice => decide (slice < numSlices)
  | .lineOrderRelease slice => decide (slice < numSlices)
  | .snoop slice holder => decide (slice < numSlices) && decide (holder < 80)
  | .backInvalidation slice holder => decide (slice < numSlices) && decide (holder < 80)
  | .snoopAnswer slice holder => decide (slice < numSlices) && decide (holder < 80)
  | .writeBackBufferIssue slice entry => decide (slice < numSlices) && decide (entry < 32)
  | .memoryRead mc e second => decide (mc < 16) && readErrOk e && readErrOk second
  | .memoryWrite mc => decide (mc < 16)
  | .memoryFill slice => decide (slice < numSlices)
  | .creditReturn cls _ _ => decide (cls < 13)
  | .flitHop node dir => decide (node < 160) && decide (dir < 7)
  | .messageAged _ => true
  | .starvationThrottleEnd vc => decide (vc < 4)
  | .creamFrameStart _ => true
  | .skimPromotion resource _ => decide (resource < 160)
  | .churnPostAccept slice => decide (slice < numSlices)
  | .descriptorStart engine => decide (engine < numSlices)
  | .unitStart engine ctx => decide (engine < numSlices) && decide (ctx < 4)
  | .unitReadReturn engine ctx _ => decide (engine < numSlices) && decide (ctx < 4)
  | .unitWrite engine ctx => decide (engine < numSlices) && decide (ctx < 4)
  | .unitWritePerformed engine ctx => decide (engine < numSlices) && decide (ctx < 4)
  | .moveSourceFill engine ctx => decide (engine < numSlices) && decide (ctx < 4)
  | .completionRecord engine ctx => decide (engine < numSlices) && decide (ctx < 4)
  | .farAtomic slice _ => decide (slice < numSlices)
  | .farAtomicResponse t => decide (t < numThreads)
  | .atomicop port _ _ size op _ _ => decide (port < 8) && (size == 4 || size == 8) && (op == 0 || op == 8 || op == 9)
  | .instanceRequest slice => decide (slice < numSlices)
  | .quiesceComplete inst => decide (inst < 512)
  | .admissionRequest => true
  | .qrelChargeRemoval => true
  | .admCap _ _ => true
  | .dimmTemperatureRead ch _ _ _ _ _ => decide (ch < 16)
  | .activationTrackerClear mc => decide (mc < 16)
  | .pairedConversionStep mc rank errs => decide (mc < 12) && decide (rank < 8) && readErrOk errs.1 && readErrOk errs.2
  | .patrolScrubRead mc syms mis second => decide (mc < 16) && readErrOk ⟨syms, mis⟩ && readErrOk second
  | .rowRepairSwitch mc => decide (mc < 16)
  | .softPpr mc _ => decide (mc < 16)
  | .writeCrcAlert mc _ => decide (mc < 16)
  | .linkTraining k j => decide (k < 18) && decide (j < 16)
  | .linkTrainingDone k j partner _ _ _ _ _ _ _ => decide (k < 18) && decide (j < 16) && (decide (partner.kind ≤ 2) || partner.kind == 4 || partner.kind == 6)
  | .linkDown k j reason => decide (k < 18) && decide (j < 16) && decide (1 ≤ reason) && decide (reason < 10)
  | .failoverTimeout k => isGallery k
  | .flitReceive k j _ _ _ _ _ => decide (k < 18) && decide (j < 16)
  | .linkStateMessage k pos _ _ => isGallery k && decide (pos < 16)
  | .routeRecompute => true
  | .galleryForward k => isGallery k
  | .unroutedResend tag => decide (tag < 4096)
  | .rds k _ => isGallery k
  | .rdu k _ => isGallery k
  | .upg k _ => isGallery k
  | .own k _ => isGallery k
  | .far k _ => isGallery k
  | .snps k _ => isGallery k
  | .snpi k _ => isGallery k
  | .wb k _ => isGallery k
  | .evc k _ => isGallery k
  | .data k _ => isGallery k
  | .ack k _ => isGallery k
  | .sdata k _ => isGallery k
  | .wbif k _ => isGallery k
  | .farr k _ => isGallery k
  | .err k _ => isGallery k
  | .mdone k _ => isGallery k
  | .galleryTlbi k _ => isGallery k
  | .cmop k _ => isGallery k
  | .passageRead k _ => isPassage k
  | .passageWrite k _ => isPassage k
  | .passageAtomic k _ => isPassage k
  | .rdata k _ => isPassage k
  | .wack k _ => isPassage k
  | .aresult k _ => isPassage k
  | .passageError k _ => isPassage k
  | .passageTimeout k j tag => isPassage k && decide (j < 16) && decide (tag < 4096)
  | .dmaRead port _ _ n => decide (port < 8) && (n.all fun k => decide (1 ≤ k ∧ k ≤ 4096))
  | .dmaWrite port _ _ data _ => decide (port < 8) && decide (1 ≤ data.length) && decide (data.length ≤ 512)
  | .mmioCompletion port _ _ _ => decide (port < 8)
  | .mmioCompletionTimeout port _ => decide (port < 8)
  | .ltrMessage port j _ _ => decide (port < 8) && decide (j < 16)
  | .functionLevelReset port _ => decide (port < 8)
  | .pmeToAck port j => decide (port < 8) && decide (j < 16)
  | .interruptMessage _ _ => true
  | .remapEntryReadReturn _ _ => true
  | .pidAtomicResult _ _ => true
  | .virtualNotification t _ => decide (t < numThreads)
  | .pullResult t => decide (t < numThreads)
  | .foldComplete t => decide (t < numThreads)
  | .wiredLevelChange source => decide (source < 4096)
  | .inboxRecord t box _ source vector => decide (t < numThreads) && decide (box < 4) && decide (source < 2 ^ 24) && decide (vector < 4096)
  | .spillQueueMove t box => decide (t < numThreads) && decide (box < 4)
  | .iclaim chamber lt box _ _ => decide (chamber < numChambers) && decide (lt < 16) && decide (box < 4)
  | .routerWire n _ _ => decide (n < 4096)
  | .routerInval _ _ => true
  | .routerInvalComplete => true
  | .vctlPull chamber lt _ => decide (chamber < numChambers) && decide (lt < 16)
  | .vctlActive chamber lt _ _ => decide (chamber < numChambers) && decide (lt < 16)
  | .timecmpMatch t which => decide (t < numThreads) && decide (which < 3)
  | .regionRegisterWrite n word _ _ => decide (n < 64) && decide (word < 3)
  | .packageDecodeRegisterWrite _ _ _ => true
  | .handoverRootPort _ _ index _ => decide (index < 8)
  | .handoverChurnInstance _ _ index => decide (index < 512)
  | .handoverWiredSource _ _ index => decide (index < 4096)
  | .handoverComplete => true
  | .deferredRequestPerform _ => true
  | .wdkickM t => decide (t < numThreads)
  | .watchdogPreExpiry => true
  | .watchdogExpiry => true
  | .coreRailRead r _ _ _ _ => decide (r < 12)
  | .pmbusRailRead r _ _ _ => decide (16 ≤ r) && decide (r < 36)
  | .pmbAlert => true
  | .pwrFreq c _ req => decide (c < numChambers) && decide (req < 2 ^ 16)
  | .avsSetpointPoll r _ _ => decide (r < 12)
  | .freqGlideComplete c => decide (c < numChambers)
  | .pwrLimit _ watts => decide (watts < 2 ^ 16)
  | .packageLimiterTick _ => true
  | .thermalRead c _ => decide (c < 92)
  | .droopLevel1 c => decide (c < numChambers)
  | .droopLevel2 c => decide (c < numChambers)
  | .droopRecovery c => decide (c < numChambers)
  | .droopLevel1End c => decide (c < numChambers)
  | .powerStateEntry scope n => decide (scope < 4) && decide (n < Machine.scopeCount scope)
  | .powerStateEntryComplete scope n => decide (scope < 3) && decide (n < Machine.scopeCount scope)
  | .prepareAnswer participant answer => decide (participant < 182) && decide (answer < 4)
  | .prepareTimeout => true
  | .prepareRetry => true
  | .commitStepDone => true
  | .commitStepTimeout => true
  | .wakeEvent scope _ cause _ _ => decide (scope < 4) && decide (1 ≤ cause) && decide (cause ≤ 8)
  | .wakeStepReady scope _ => decide (scope < 4)
  | .wakeStepTimeout scope _ => decide (scope < 4)
  | .blkreqUnpark _ n => decide (n < 72)
  | .blkreqParkDrip _ n => decide (n < 72)
  | .blkreqParkStill _ n => decide (n < 72)
  | .blkreqParkSump _ n => decide (n < 72)
  | .blkreqEngineRelease _ n => decide (n < 72)
  | .blkreqEngineGate _ n action => decide (n < 72) && (action == 1 || action == 2)
  | .blkreqSlotPowerOn _ n => decide (n < 8)
  | .blkreqSlotPowerOff _ n => decide (n < 8)
  | .blkreqDone => true
  | .pwrPkgctl _ _ => true
  | .powerFailure rail => decide (rail ≤ 36)
  | .coldReset _ _ => true
  | .pwrokAssert => true
  | .coldrstRelease => true
  | .refclkCount _ => true
  | .refclkLost => true
  | .warmReset _ thread _ _ _ => decide (thread < numThreads)
  | .kprRelease _ _ => true
  | .kprRstreq _ _ => true
  | .kprSurvey _ _ => true
  | .surveyComplete => true
  | .kprMeasidx _ _ => true
  | .getStatus _ => true
  | .getSurvey _ => true
  | .surveyNow _ => true
  | .spdm _ => true
  | .doeSpdmRequest port _ => decide (port < 8)
  | .getIncidents _ => true
  | .flashWrite _ => true
  | .getCounter _ => true
  | .reset _ => true
  | .powerLimit _ => true
  | .debugUnlock _ => true
  | .fwActivate _ => true
  | .handover _ => true
  | .commitSvn _ => true
  | .keySet _ => true
  | .revokeBasetteKey _ => true
  | .revokeImageKey _ => true
  | .bypass => true
  | .idcode => true
  | .samplePreload _ => true
  | .extest _ => true
  | .lanternExtension _ _ => true
  | .tapReset => true
  | .patrolUnitStart b => decide (b < 6)
  | .patrolSliceComplete b _ _ _ => decide (b < 6)
  | .patrolSliceTimeout b => decide (b < 6)
  | .errorRecord _ _ _ bank => decide (bank < 6)
  | .logRecord b => decide (b < 6)
  | .logPeek _ _ => true
  | .logRd _ _ => true
  | .logStat _ => true
  | .logFatal _ _ => true
  | .lifeHourTick d => decide (d < 4)
  | .linkFunc port n _ _ => decide (port < 18) && decide (n < 256)
  | .registerWrite addr _ _ size _ => (size == 4 || size == 8) && (addr.toNat % size == 0)
  | .illegalInstruction t _ => decide (t < numThreads)
  | .hotplugSlotEvent port event => decide (port < 8) && decide (event < 16)
  | .refreshClassChange mc rank _ _ _ _ => decide (mc < 12) && decide (rank < 8)
  | .passageTagReuse k j tag => isPassage k && decide (j < 16) && decide (tag < 4096)
  | .unknownCommand _ => true
  | .dynamicAddressAssignment => true
  | .inBandInterrupt _ => true
  | .responseRead => true

end Sys2Proof
end

