-- ==== Sys2Proof/Certificates/Slice0/Obligations.lean ====
section
/-! DEFINITION. The statements for the provers, from the numbered rules of spec/. A statement about an instruction or an event names the
conditions under which it has the effect its rule gives, and concludes that `exec` answers a next state with that effect. -/

namespace Sys2Proof.Claims

open Machine Safety

/-! ### Integer instructions (R37, R40 to R42) -/

/-- A 32-bit result sign-extended (R37). -/
def w32 (n : Nat) : Word := (BitVec.ofNat 32 n).signExtend 64

/-- The truth value that a compare writes. -/
def truth (p : Prop) [Decidable p] : Word := if p then 1 else 0

/-- R40: the register operations of two sources, each with its result as a number. -/
def registerRowsA : List ((Nat → Reg → Reg → Reg → Instr) × (Word → Word → Word)) :=
  [(.add, fun (a b : Word) => w64 (a.toNat + b.toNat)),
   (.sub, fun (a b : Word) => BitVec.ofInt 64 (a.toInt - b.toInt)),
   (.and, fun (a b : Word) => a &&& b),
   (.or, fun (a b : Word) => a ||| b),
   (.xor, fun (a b : Word) => a ^^^ b),
   (.andn, fun (a b : Word) => a &&& ~~~b),
   (.orn, fun (a b : Word) => a ||| ~~~b),
   (.shl, fun (a b : Word) => w64 (a.toNat * 2 ^ (b.toNat % 64))),
   (.shr, fun (a b : Word) => w64 (a.toNat / 2 ^ (b.toNat % 64))),
   (.sra, fun (a b : Word) => BitVec.ofInt 64 (a.toInt / 2 ^ (b.toNat % 64))),
   (.rol, fun (a b : Word) => w64 (a.toNat * 2 ^ (b.toNat % 64) + a.toNat / 2 ^ (64 - b.toNat % 64))),
   (.ror, fun (a b : Word) => w64 (a.toNat / 2 ^ (b.toNat % 64) + a.toNat * 2 ^ (64 - b.toNat % 64))),
   (.slt, fun (a b : Word) => truth (a.toInt < b.toInt)),
   (.sltu, fun (a b : Word) => truth (a.toNat < b.toNat)),
   (.min, fun (a b : Word) => if a.toInt ≤ b.toInt then a else b),
   (.max, fun (a b : Word) => if a.toInt ≤ b.toInt then b else a),
   (.minu, fun (a b : Word) => if a.toNat ≤ b.toNat then a else b),
   (.maxu, fun (a b : Word) => if a.toNat ≤ b.toNat then b else a)]

def registerRowsB : List ((Nat → Reg → Reg → Reg → Instr) × (Word → Word → Word)) :=
  [(.addw, fun (a b : Word) => w32 (a.toNat + b.toNat)),
   (.subw, fun (a b : Word) => (BitVec.ofInt 32 (a.toInt - b.toInt)).signExtend 64),
   (.shlw, fun (a b : Word) => w32 (a.toNat * 2 ^ (b.toNat % 32))),
   (.shrw, fun (a b : Word) => w32 (a.toNat % 2 ^ 32 / 2 ^ (b.toNat % 32))),
   (.sraw, fun (a b : Word) => BitVec.ofInt 64 ((a.setWidth 32).toInt / 2 ^ (b.toNat % 32))),
   (.rolw, fun (a b : Word) => w32 (a.toNat % 2 ^ 32 * 2 ^ (b.toNat % 32) + a.toNat % 2 ^ 32 / 2 ^ (32 - b.toNat % 32))),
   (.rorw, fun (a b : Word) => w32 (a.toNat % 2 ^ 32 / 2 ^ (b.toNat % 32) + a.toNat * 2 ^ (32 - b.toNat % 32))),
   (.mul, fun (a b : Word) => w64 (a.toNat * b.toNat)),
   (.mulh, fun (a b : Word) => BitVec.ofInt 64 (a.toInt * b.toInt / 2 ^ 64)),
   (.mulhu, fun (a b : Word) => w64 (a.toNat * b.toNat / 2 ^ 64)),
   (.mulhsu, fun (a b : Word) => BitVec.ofInt 64 (a.toInt * b.toNat / 2 ^ 64)),
   (.mulw, fun (a b : Word) => w32 (a.toNat * b.toNat))]

/-- R40: the register operations of two sources, each with its result. -/
def registerRows : List ((Nat → Reg → Reg → Reg → Instr) × (Word → Word → Word)) := registerRowsA ++ registerRowsB

/-- R40: the register operations of one source. -/
def unaryRows : List ((Nat → Reg → Reg → Instr) × (Word → Word)) :=
  [(.clz, fun a => w64 ((List.range 64).reverse.takeWhile fun i => !a.getLsbD i).length),
   (.ctz, fun a => w64 ((List.range 64).takeWhile fun i => !a.getLsbD i).length),
   (.popc, fun a => w64 ((List.range 64).filter fun i => a.getLsbD i).length),
   (.rev8, fun a => a.extractLsb' 0 8 ++ a.extractLsb' 8 8 ++ a.extractLsb' 16 8 ++ a.extractLsb' 24 8 ++ a.extractLsb' 32 8 ++
      a.extractLsb' 40 8 ++ a.extractLsb' 48 8 ++ a.extractLsb' 56 8),
   (.sextB, fun a => BitVec.ofInt 64 (a.setWidth 8).toInt),
   (.sextH, fun a => BitVec.ofInt 64 (a.setWidth 16).toInt),
   (.sextW, fun a => BitVec.ofInt 64 (a.setWidth 32).toInt),
   (.zextB, fun a => w64 (a.toNat % 2 ^ 8)),
   (.zextH, fun a => w64 (a.toNat % 2 ^ 16)),
   (.zextW, fun a => w64 (a.toNat % 2 ^ 32))]

/-- R41: the immediate operations of a 16-bit immediate. -/
def immediateRows : List ((Nat → Reg → Reg → BitVec 16 → Instr) × (Word → BitVec 16 → Word)) :=
  [(.addi, fun a i => BitVec.ofInt 64 (a.toInt + i.toInt)),
   (.addiw, fun a i => (BitVec.ofInt 32 (a.toInt + i.toInt)).signExtend 64),
   (.andi, fun a i => a &&& w64 i.toNat),
   (.ori, fun a i => a ||| w64 i.toNat),
   (.xori, fun a i => a ^^^ w64 i.toNat),
   (.slti, fun a i => truth (a.toInt < i.toInt)),
   (.sltiu, fun a i => truth (a.toNat < (BitVec.ofInt 64 i.toInt).toNat))]

/-- R41: shifts by an immediate, of 64 and of 32 bits. -/
def shiftRows : List ((Nat → Reg → Reg → BitVec 6 → Instr) × (Word → Nat → Word)) :=
  [(.shli, fun a n => w64 (a.toNat * 2 ^ n)),
   (.shri, fun a n => w64 (a.toNat / 2 ^ n)),
   (.srai, fun a n => BitVec.ofInt 64 (a.toInt / 2 ^ n)),
   (.rori, fun a n => w64 (a.toNat / 2 ^ n + a.toNat * 2 ^ (64 - n)))]

def shiftWRows : List ((Nat → Reg → Reg → BitVec 5 → Instr) × (Word → Nat → Word)) :=
  [(.shliw, fun a n => w32 (a.toNat * 2 ^ n)),
   (.shriw, fun a n => w32 (a.toNat % 2 ^ 32 / 2 ^ n)),
   (.sraiw, fun a n => BitVec.ofInt 64 ((a.setWidth 32).toInt / 2 ^ n)),
   (.roriw, fun a n => w32 (a.toNat % 2 ^ 32 / 2 ^ n + a.toNat * 2 ^ (32 - n)))]

/-- R42: quotient and remainder of w-bit numbers, by the cases of the rule. -/
def quotS (w : Nat) (a b : BitVec w) : Word :=
  BitVec.ofInt 64 (if b.toInt = 0 then -1 else if a.toInt = -2 ^ (w - 1) ∧ b.toInt = -1 then a.toInt else a.toInt.tdiv b.toInt)
def remainS (w : Nat) (a b : BitVec w) : Word :=
  BitVec.ofInt 64 (if b.toInt = 0 then a.toInt else if a.toInt = -2 ^ (w - 1) ∧ b.toInt = -1 then 0 else a.toInt.tmod b.toInt)
def quotU (w : Nat) (a b : BitVec w) : Word :=
  (BitVec.ofNat w (if b.toNat = 0 then 2 ^ w - 1 else a.toNat / b.toNat)).signExtend 64
def remainU (w : Nat) (a b : BitVec w) : Word :=
  (BitVec.ofNat w (if b.toNat = 0 then a.toNat else a.toNat % b.toNat)).signExtend 64

/-- R42: the divisions. -/
def divisionRows : List ((Nat → Reg → Reg → Reg → Instr) × (Word → Word → Word)) :=
  [(.div, quotS 64), (.divu, quotU 64), (.rem, remainS 64), (.remu, remainU 64),
   (.divw, fun a b => quotS 32 (a.setWidth 32) (b.setWidth 32)), (.divuw, fun a b => quotU 32 (a.setWidth 32) (b.setWidth 32)),
   (.remw, fun a b => remainS 32 (a.setWidth 32) (b.setWidth 32)), (.remuw, fun a b => remainU 32 (a.setWidth 32) (b.setWidth 32))]

/-! ### Loads, stores and atomics (R43 to R55, R119 to R126) -/

/-- R43: the loads, with their bytes and whether they sign-extend. -/
def loadRows : List ((Nat → Reg → Reg → BitVec 16 → Instr) × Nat × Bool) :=
  [(.lb, 1, true), (.lh, 2, true), (.lw, 4, true), (.ld, 8, true), (.lbu, 1, false), (.lhu, 2, false), (.lwu, 4, false)]

/-- R43: the stores, with their bytes. -/
def storeRows : List ((Nat → Reg → Reg → BitVec 16 → Instr) × Nat) := [(.sb, 1), (.sh, 2), (.sw, 4), (.sd, 8)]

/-- The value a load of n bytes writes (R43): the first byte least significant. -/
def loadedValue (signed : Bool) (bs : Bytes) : Word :=
  let n := leNat bs
  if signed && decide (256 ^ bs.length ≤ 2 * n) then BitVec.ofInt 64 ((n : Int) - (256 ^ bs.length : Nat)) else w64 n

/-- A target that is memory, of this node or the group (R20). -/
def IsMemory (tg : Target) : Prop := tg ≠ .reg ∧ tg ≠ .remote ∧ ∀ k, tg ≠ .mmio k

/-- No operation that the thread has under way touches these bytes of a line, no store of it to the line is on its way and no far atomic on the
line is out (R61 row 1). -/
def LineFree (t line : Nat) (mask : BitVec 64) (h : Hw) : Prop :=
  let b := (h.thread t).b
  b.outOn line = false ∧ b.pendingOn (h.nextLong t) line mask = false ∧
    ∀ q ∈ b.longs, q.kind = .farAtomic → q.ready = false → ∀ r ∈ q.parts, lineNo r.pa ≠ line

/-- The core's L1D holds a line, which the accessor may read and which is not poisoned (R201, R219, R399). -/
def HeldL1d (core line : Nat) (acc : Acc) (h : Hw) : Prop :=
  (h.core core).l1d.en = true ∧ ∃ l, h.l1dLine core line = some l ∧ acc.admits l.own = true ∧ l.bad = false

/-- An access of n bytes at va by thread t has passed X2 as one piece of write-back memory, nothing of the thread's that is under way concerns
its bytes, and the core's L1D holds its line (R45, R61, R68, R122, R201). -/
def HitsL1d (t : Nat) (acc : Access) (va : Word) (n : Nat) (s : State) (pa : Word) : Prop :=
  let h := s.hw
  let line := lineNo pa
  (∃ tg, x2Scalar s.mem h t acc va n = .ok [⟨pa, .wb, tg, n, 0⟩] ∧ IsMemory tg) ∧ pa.toNat % 64 + n ≤ 64 ∧
    (∀ e ∈ (h.thread t).b.sb, e.line ≠ line) ∧ line ∉ (h.core (coreOf t)).wbuf ∧ LineFree t line (maskOf (pa.toNat % 64) n) h ∧
    HeldL1d (coreOf t) line (h.thread t).acc h

/-- The bytes of the newest value at an address. -/
def newestBytes (s : State) (pa : Word) (n : Nat) : Bytes := vbytes (lineVal s.mem s.hw (lineNo pa)) (pa.toNat % 64) n

/-- A load of thread t is done: rd has the value, the newest value of every line and all of memory are as they were. -/
def LoadDone (t : Nat) (rd : Reg) (w : Word) (s u : State) : Prop :=
  let a := (s.hw.thread t).a
  let b := (u.hw.thread t).a
  u.mem = s.mem ∧ u.hw.newest = s.hw.newest ∧ OthersKeep t s u ∧ WritesG a b rd w ∧ b.pc = pcAfter a ∧ b.crAt 1 = countAfter a ∧
    KeepsRest a b

/-- A store's bytes stand in the youngest entry of the thread's store buffer. -/
def Buffered (t : Nat) (pa : Word) (bs : Bytes) (u : State) : Prop :=
  ∃ e, (u.hw.thread t).b.sb.getLast? = some e ∧ e.line = lineNo pa ∧
    ∀ i, i < bs.length → e.mask.getLsbD (pa.toNat % 64 + i) = true ∧ some (vbyte e.data (pa.toNat % 64 + i)) = bs[i]?

/-- R51: the new value of a local AMO on w bits. -/
def amoResult (op w old b : Nat) : Nat :=
  let s := fun n : Nat => (BitVec.ofNat w n).toInt
  match op with
  | 0 => (old + b) % 2 ^ w
  | 1 => old &&& b
  | 2 => old ||| b
  | 3 => old ^^^ b
  | 4 => if s old < s b then old else b
  | 5 => if s old < s b then b else old
  | 6 => min old b
  | 7 => max old b
  | _ => b

/-- The conditions under which a local atomic of n bytes is performed as it issues (R61, R125): no older store waits, with release order no
older access and with acquire order no older release is out, no older access of the bytes is pending, and the core holds the line writable. -/
def AtomicOpen (t : Nat) (ra : Reg) (n : Nat) (acquire release : Bool) (s : State) (pa : Word) : Prop :=
  let h := s.hw
  let line := lineNo pa
  (∃ tg, x2All s.mem h t ⟨.atomic, n, false, false, true, false⟩ [((h.thread t).a.rg ra, n, 0)] = .ok [⟨pa, .wb, tg, n, 0⟩]) ∧
    ((h.thread t).a.rg ra).toNat % n = 0 ∧ pa.toNat % 64 + n ≤ 64 ∧ (h.thread t).b.sb = [] ∧
    (release = true → h.loadsDone t (h.nextLong t) = true ∧ h.storesOut t = false) ∧
    (acquire = true → h.releaseOut t (h.nextLong t) = false) ∧
    (h.thread t).b.outOn line = false ∧ (h.thread t).b.pendingOn (h.nextLong t) line (maskOf (pa.toNat % 64) n) = false ∧
    line ∉ (h.core (coreOf t)).wbuf ∧ h.writable (coreOf t) line = true ∧
    (h.thread t).acc.admits (h.copyOwner (coreOf t) line) = true ∧ h.copyBad (coreOf t) line = false

/-- A local atomic is done: rd has the old value sign-extended, and the line's newest value has the bytes written, if any. -/
def AtomicDone (t : Nat) (rd : Reg) (pa : Word) (n : Nat) (new : Option Nat) (s u : State) : Prop :=
  let a := (s.hw.thread t).a
  let b := (u.hw.thread t).a
  let old := lineVal s.mem s.hw (lineNo pa)
  u.mem = s.mem ∧ OthersKeep t s u ∧ WritesG a b rd (loadedValue true (newestBytes s pa n)) ∧ b.pc = pcAfter a ∧ KeepsRest a b ∧
    lineVal u.mem u.hw (lineNo pa) = (match new with
      | some v => vmerge old (vput 0 (pa.toNat % 64) (leBytes n v)) (maskOf (pa.toNat % 64) n)
      | none => old) ∧
    ∀ l, l ≠ lineNo pa → sfind l u.hw.newest = sfind l s.hw.newest

end Sys2Proof.Claims

open Sys2Proof Sys2Proof.Machine Sys2Proof.Safety Sys2Proof.Claims

/-! ### The block -/

/-- The command at the front of the queue runs with the queue's rest. -/
def Obligations.StepRunsFrontCommand : Prop :=
  ∀ (c : Instr) (r : List Instr) (s : State), s.pending = c :: r → step s = exec c { s with pending := r }

/-- No command changes the queue. -/
def Obligations.CommandsKeepQueue : Prop := ∀ (i : Instr) (s u : State), exec i s = .next u → u.pending = s.pending

/-- Integer register operations (R7, R37, R40, R57): the results of the rule's table, g0 discarded, nothing else written. -/
def Sys2Proof.Claims.integerRegisters : Prop :=
  ∀ (t : Nat) (rd ra rb : Reg) (s : State), s.hw.off = false →
    (s.hw.ready t [destG ra, destG rb] .int = true → ∀ p ∈ registerRows,
      Answers (p.1 t rd ra rb) s (IntegerDone t rd (p.2 ((s.hw.thread t).a.rg ra) ((s.hw.thread t).a.rg rb)) s)) ∧
    (s.hw.ready t [destG ra] .int = true → ∀ p ∈ unaryRows,
      Answers (p.1 t rd ra) s (IntegerDone t rd (p.2 ((s.hw.thread t).a.rg ra)) s))

/-- Integer immediate operations (R41). -/
def Sys2Proof.Claims.integerImmediates : Prop :=
  ∀ (t : Nat) (rd ra : Reg) (i16 : BitVec 16) (s6 : BitVec 6) (s5 : BitVec 5) (i21 : BitVec 21) (s : State), s.hw.off = false →
    let a := (s.hw.thread t).a
    (s.hw.ready t [destG ra] .int = true →
      (∀ p ∈ immediateRows, Answers (p.1 t rd ra i16) s (IntegerDone t rd (p.2 (a.rg ra) i16) s)) ∧
      (∀ p ∈ shiftRows, Answers (p.1 t rd ra s6) s (IntegerDone t rd (p.2 (a.rg ra) s6.toNat) s)) ∧
      (∀ p ∈ shiftWRows, Answers (p.1 t rd ra s5) s (IntegerDone t rd (p.2 (a.rg ra) s5.toNat) s))) ∧
    (s.hw.ready t [] .int = true →
      Answers (.lui t rd i21) s (IntegerDone t rd (BitVec.ofInt 64 (i21.toInt * 2 ^ 16)) s) ∧
      Answers (.auipc t rd i21) s (IntegerDone t rd (BitVec.ofInt 64 (a.pc.toInt + i21.toInt * 2 ^ 16)) s))

/-- Integer instructions of registers and immediates (R7, R37, R40, R41, R57): each has the result of the rule's table in its destination, g0
is discarded, the pc passes on and nothing else is written. -/
def Obligations.IntegerResults : Prop := integerRegisters ∧ integerImmediates

/-- Divisions (R42, R110 to R115): the quotient or remainder of the rule is the result of a long operation that owns rd, and
LONG_OPERATION_WRITEBACK writes a finished long operation's result where it still owns its register, once. -/
def Obligations.DivisionResults : Prop :=
  (∀ (t : Nat) (rd ra rb : Reg) (s : State), s.hw.off = false → s.hw.ready t [destG ra, destG rb] .div = true → ∀ p ∈ divisionRows,
    Answers (p.1 t rd ra rb) s fun u =>
      let a := (s.hw.thread t).a
      let b := (u.hw.thread t).a
      OnlyThread t s u ∧ (∀ r, b.rg r = a.rg r) ∧ b.pc = pcAfter a ∧ KeepsRest a b ∧
        ∃ o, (u.hw.thread t).b.longs = (s.hw.thread t).b.longs ++ [o] ∧ o.kind = .div ∧ o.ready = true ∧ o.dest = destG rd ∧
          o.val = (p.2 (a.rg ra) (a.rg rb)).setWidth 512 ∧ (∀ q ∈ (s.hw.thread t).b.longs, q.id ≠ o.id) ∧
          (rd ≠ 0 → (destG rd, o.id) ∈ (u.hw.thread t).b.owed)) ∧
  (∀ (t id : Nat) (o : LongOp) (s : State), s.hw.off = false →
    ((s.hw.thread t).b.longs.find? fun o => o.id == id && o.ready) = some o →
    Answers (.longOperationWriteback t id) s fun u =>
      let a := (s.hw.thread t).a
      let b := (u.hw.thread t).a
      OthersKeep t s u ∧ u.mem = s.mem ∧ (∀ q ∈ (u.hw.thread t).b.longs, q.id ≠ id) ∧ (o.dest, id) ∉ (u.hw.thread t).b.owed ∧
        b.pc = a.pc ∧ (∀ r : Reg, r ≠ 0 → o.dest = .g r.toNat →
          b.rg r = if (o.dest, id) ∈ (s.hw.thread t).b.owed then o.val.setWidth 64 else a.rg r))

/-- Loads that hit (R43 to R46, R59, R103): the register gets the newest bytes, extended as the rule says, and no byte of memory changes. -/
def Obligations.LoadsDeliverNewestBytes : Prop :=
  (∀ (t : Nat) (rd ra : Reg) (imm : BitVec 16) (s : State) (pa : Word), s.hw.off = false → s.hw.ready t [destG ra] .mem = true →
    ∀ p ∈ loadRows, HitsL1d t .load ((s.hw.thread t).a.rg ra + imm.signExtend 64) p.2.1 s pa →
      Answers (p.1 t rd ra imm) s (LoadDone t rd (loadedValue p.2.2 (newestBytes s pa p.2.1)) s)) ∧
  (∀ (t : Nat) (rd ra : Reg) (size : BitVec 2) (s : State) (pa : Word), s.hw.off = false → s.hw.ready t [destG ra] .mem = true →
    let va := (s.hw.thread t).a.rg ra
    let n := 2 ^ size.toNat
    va.toNat % n = 0 → s.hw.releaseOut t (s.hw.nextLong t) = false → HitsL1d t .load va n s pa →
      Answers (.ldAq t rd ra size) s (LoadDone t rd (loadedValue false (newestBytes s pa n)) s))

/-- Stores within a line (R43 to R46, R119, R120): the low bytes of the register stand in the youngest store-buffer entry; no general
register and no byte of memory changes. -/
def Obligations.StoresEnterBuffer : Prop :=
  (∀ (t : Nat) (rs ra : Reg) (imm : BitVec 16) (s : State) (pa : Word) (mt : MemType) (tg : Target), s.hw.off = false →
    s.hw.ready t [destG rs, destG ra] .mem = true → (s.hw.thread t).b.deviceWaits mt = false →
    (s.hw.thread t).b.sb.length < 16 → ∀ p ∈ storeRows,
    x2Scalar s.mem s.hw t .store ((s.hw.thread t).a.rg ra + imm.signExtend 64) p.2 = .ok [⟨pa, mt, tg, p.2, 0⟩] →
    pa.toNat % 64 + p.2 ≤ 64 →
    Answers (p.1 t rs ra imm) s fun u =>
      IntegerDone t 0 0 s u ∧ Buffered t pa (leBytes p.2 ((s.hw.thread t).a.rg rs).toNat) u) ∧
  (∀ (t : Nat) (ra rb : Reg) (size : BitVec 2) (s : State) (pa : Word) (mt : MemType) (tg : Target), s.hw.off = false →
    s.hw.ready t [destG rb, destG ra] .mem = true → (s.hw.thread t).b.deviceWaits mt = false →
    (s.hw.thread t).b.sb.length < 16 →
    let va := (s.hw.thread t).a.rg ra
    let n := 2 ^ size.toNat
    va.toNat % n = 0 → x2Scalar s.mem s.hw t .store va n = .ok [⟨pa, mt, tg, n, 0⟩] → pa.toNat % 64 + n ≤ 64 →
    Answers (.stRl t ra rb size) s fun u =>
      IntegerDone t 0 0 s u ∧ Buffered t pa (leBytes n ((s.hw.thread t).a.rg rb).toNat) u ∧
      ∀ e, (u.hw.thread t).b.sb.getLast? = some e → e.release = true)

/-- Local atomics (R51, R52, R125): one indivisible read-modify-write on the newest value; a CAS writes only on a match. -/
def Obligations.LocalAtomicsReadModifyWrite : Prop :=
  ∀ (t : Nat) (rd ra rb : Reg) (size ord : BitVec 2) (s : State) (pa : Word), s.hw.off = false → 2 ≤ size.toNat →
    let a := (s.hw.thread t).a
    let n := 2 ^ size.toNat
    let old := leNat (newestBytes s pa n)
    AtomicOpen t ra n (ord.getLsbD 0) (ord.getLsbD 1) s pa →
    (∀ op : BitVec 4, op.toNat ≤ 8 → s.hw.ready t [destG ra, destG rb] .mem = true →
      Answers (.amo t rd ra rb op size ord) s
        (AtomicDone t rd pa n (some (amoResult op.toNat (8 * n) old ((a.rg rb).toNat % 2 ^ (8 * n)))) s)) ∧
    (s.hw.ready t [destG ra, destG rb, destG rd] .mem = true →
      (∃ tg, x2All s.mem s.hw t ⟨.casLoad, n, false, false, true, false⟩ [(a.rg ra, n, 0)] = .ok [⟨pa, .wb, tg, n, 0⟩]) →
      Answers (.cas t rd ra rb size ord) s
        (AtomicDone t rd pa n (if old = (a.rg rd).toNat % 2 ^ (8 * n) then some ((a.rg rb).toNat % 2 ^ (8 * n)) else none) s))

/-- R48: the conditional branches and their comparisons. -/
def Sys2Proof.Claims.branchRows : List ((Nat → Reg → Reg → Bool → BitVec 15 → Instr) × (Word → Word → Bool)) :=
  [(.beq, fun a b => decide (a.toNat = b.toNat)), (.bne, fun a b => decide (a.toNat ≠ b.toNat)),
   (.blt, fun a b => decide (a.toInt < b.toInt)), (.bge, fun a b => decide (b.toInt ≤ a.toInt)),
   (.bltu, fun a b => decide (a.toNat < b.toNat)), (.bgeu, fun a b => decide (b.toNat ≤ a.toNat))]

/-- R156: S of the current world, adjusted upward to the level of the thread (R152). -/
def Sys2Proof.Claims.sStar (a : Arch) : Level := match a.level with | .m => .m | .h => .h | _ => .s

/-- The registers that count mispredictions (R151). -/
def Sys2Proof.Claims.isBrmiss (k : Nat) : Prop := 0x20 ≤ k % 0x400 ∧ k % 0x400 < 0x24

/-- Conditional branches, JAL and JALR (R48, R50, R57): the pc, the link, and the fault of a misaligned JALR target, which changes neither. -/
def Obligations.BranchesAndJumps : Prop :=
  ∀ (t : Nat) (rd ra rb : Reg) (hint : Bool) (d15 : BitVec 15) (d21 : BitVec 21) (kind : BitVec 2) (i14 : BitVec 14) (s : State),
    s.hw.off = false →
    let a := (s.hw.thread t).a
    (s.hw.ready t [destG ra, destG rb] .mem = true → ∀ p ∈ branchRows, Answers (p.1 t ra rb hint d15) s fun u =>
      let b := (u.hw.thread t).a
      let taken := p.2 (a.rg ra) (a.rg rb)
      u.mem = s.mem ∧ OthersKeep t s u ∧ KeepsBut (fun k => k = 1 ∨ k = 0x011 ∨ isBrmiss k) a b ∧
        b.pc = (if taken then BitVec.ofInt 64 (a.pc.toInt + 4 * d15.toInt) else pcAfter a) ∧
        b.crAt 1 = (if taken then a.crAt 1 else countAfter a)) ∧
    (s.hw.ready t [] .mem = true → Answers (.jal t rd d21) s fun u =>
      let b := (u.hw.thread t).a
      u.mem = s.mem ∧ OthersKeep t s u ∧ WritesG a b rd (a.pc + 4) ∧ b.pc = BitVec.ofInt 64 (a.pc.toInt + 4 * d21.toInt)) ∧
    (s.hw.ready t [destG ra] .mem = true →
      let target := BitVec.ofInt 64 ((a.rg ra).toInt + i14.toInt)
      (target.toNat % 4 = 0 → Answers (.jalr t rd ra kind i14) s fun u =>
        let b := (u.hw.thread t).a
        u.mem = s.mem ∧ OthersKeep t s u ∧ WritesG a b rd (a.pc + 4) ∧ b.pc = target) ∧
      (target.toNat % 4 ≠ 0 → ∀ pa mt entry, EntryOpen t (sStar a) ⟨1, 0, target, a.pc⟩ s pa mt entry →
        Answers (.jalr t rd ra kind i14) s (Enters t (sStar a) ⟨1, 0, target, a.pc⟩ pa entry s)))

/-- Hardware loops, fences and SYNC.CTX (R56, R57, R62, R65, R91, R93, R109): LOOP.SET sets the loop up or skips its body; a fence completes
when what it waits for is performed and is held at RD otherwise; SYNC.CTX applies pending context writes. -/
def Obligations.LoopsAndFences : Prop :=
  ∀ (t : Nat) (ra : Reg) (soff : BitVec 5) (eoff : BitVec 11) (pred succ : BitVec 4) (s : State), s.hw.off = false →
    s.hw.ready t [] .solo = true →
    let a := (s.hw.thread t).a
    let count := a.rg ra
    let loop := fun k => k = 1 ∨ k = 2 ∨ k = 3 ∨ k = 0x011
    (soff ≠ 0 → soff.toNat ≤ eoff.toNat → count ≠ 0 → Answers (.loopSet t ra soff eoff) s fun u =>
      let b := (u.hw.thread t).a
      OnlyThread t s u ∧ Refetches t u ∧ KeepsBut loop a b ∧ b.crAt 1 = count ∧ b.crAt 2 = a.pc + w64 (4 * soff.toNat) ∧
        b.crAt 3 = a.pc + w64 (4 * eoff.toNat) ∧ b.pc = a.pc + 4) ∧
    (soff ≠ 0 → soff.toNat ≤ eoff.toNat → count = 0 → Answers (.loopSet t ra soff eoff) s fun u =>
      let b := (u.hw.thread t).a
      OnlyThread t s u ∧ Refetches t u ∧ KeepsBut (fun k => k = 1 ∨ k = 0x011) a b ∧ b.crAt 1 = 0 ∧
        b.pc = a.pc + w64 (4 * eoff.toNat + 4)) ∧
    (Answers (.loopClr t) s fun u =>
      let b := (u.hw.thread t).a
      OnlyThread t s u ∧ Refetches t u ∧ KeepsBut (fun k => k = 1 ∨ k = 0x011) a b ∧ b.crAt 1 = 0 ∧ b.pc = a.pc + 4) ∧
    (pred = 0 ∨ succ = 0 ∨ s.hw.fenceDone t pred = true → Answers (.fence t pred succ) s fun u =>
      IntegerDone t 0 0 s u ∧ Refetches t u) ∧
    (succ ≠ 0 → s.hw.fenceDone t pred = false → Answers (.fence t pred succ) s fun u =>
      OnlyThread t s u ∧ (u.hw.thread t).a = a ∧ (u.hw.thread t).b.solo = some (.fence t pred succ)) ∧
    (s.hw.storesDone t = true → Answers (.fenceI t) s fun u => IntegerDone t 0 0 s u ∧ Refetches t u) ∧
    (s.hw.storesDone t = false → Answers (.fenceI t) s fun u =>
      OnlyThread t s u ∧ (u.hw.thread t).a = a ∧ (u.hw.thread t).b.solo = some (.fenceI t)) ∧
    (s.hw.cleanOver t = true → Answers (.syncCtx t) s fun u =>
      let b := (u.hw.thread t).a
      u.mem = s.mem ∧ OthersKeep t s u ∧ Refetches t u ∧ KeepsBut (fun k => k = 1 ∨ k = 0x011) a b ∧ b.pc = pcAfter a ∧
        b.ctx = ⟨a.crAt 0x403, a.crAt 0x1403, a.crAt 0x803, (a.crAt 0x804).toNat⟩)

/-- WAIT, WAIT_RESUME, LTOL and SOLO_HOLD_RELEASE (R92, R101, R109): a WAIT stops issue until an interrupt is pending, traps to H under WTRAP
at normal-world S, and completes at once when one is pending; a held fence issues once its condition holds. -/
def Obligations.WaitsAndHeldSolos : Prop :=
  ∀ (t : Nat) (ra : Reg) (s : State), s.hw.off = false →
    let a := (s.hw.thread t).a
    let trap := a.level = .s ∧ a.secure = false ∧ (a.crAt 0x807).getLsbD 2 = true
    (s.hw.ready t [] .solo = true →
      (a.level ≠ .u → ¬trap → Answers (.wait t) s fun u =>
        let b := (u.hw.thread t).a
        OnlyThread t s u ∧ KeepsRest a b ∧ b.pc = pcAfter a ∧
          (u.hw.thread t).run = if s.hw.pendingInts t = [] then .waiting a.level a.secure else .running) ∧
      (trap → ∀ pa mt entry, EntryOpen t .h ⟨16, 0, 0, a.pc⟩ s pa mt entry →
        Answers (.wait t) s (Enters t .h ⟨16, 0, 0, a.pc⟩ pa entry s)) ∧
      (Answers (.ltol t ra) s fun u =>
        let b := (u.hw.thread t).a
        OnlyThread t s u ∧ KeepsBut (fun k => k = 1 ∨ k = 4 ∨ k = 0x011) a b ∧ b.crAt 4 = w64 ((a.rg ra).toNat % 2 ^ 32) ∧
          b.pc = pcAfter a)) ∧
    (∀ lvl sec, (s.hw.thread t).run = .waiting lvl sec → s.hw.pendingInts t ≠ [] → s.hw.threadUp t = true → s.hw.takable t = [] →
      Answers (.waitResume t) s fun u => OnlyThread t s u ∧ (u.hw.thread t).a = a ∧ (u.hw.thread t).run = .running) ∧
    (∀ pred succ, (s.hw.thread t).b.solo = some (.fence t pred succ) →
      s.hw.threadUp t = true → (succ = 0 ∨ s.hw.fenceDone t pred = true) → Answers (.soloHoldRelease t) s fun u =>
        IntegerDone t 0 0 s u ∧ (u.hw.thread t).b.solo = none)

/-- R92: the control-register instructions, with the value written from the old value and g[ra]. -/
def Sys2Proof.Claims.crRows : List ((Nat → Reg → Reg → BitVec 12 → Instr) × (Word → Word → Word)) :=
  [(.crw, fun _ r => r), (.crs, fun old r => old ||| r), (.crc, fun old r => old &&& ~~~r)]

/-- Control registers (R9, R57, R87, R88, R90, R92, R93, R416): CRR reads, CRW, CRS and CRC swap, set and clear; a register that is not
listed or is above the level is an illegal instruction; a write of WDKICK_M reloads the watchdog. -/
def Obligations.ControlRegisterAccess : Prop :=
  ∀ (t : Nat) (rd ra : Reg) (cr : BitVec 12) (s : State), s.hw.off = false → s.hw.ready t [] .solo = true →
    let a := (s.hw.thread t).a
    let n := cr.toNat
    let old := s.hw.readCr t n
    (a.crOk n = true → (n ≠ 0 ∨ (s.hw.thread t).b.vecDone = true) → (n = 0xC06 → (s.hw.chamber (t / 16)).clean = none) →
      (Answers (.crr t rd cr) s fun u => IntegerDone t rd old s u ∧ Refetches t u) ∧
      (n ≠ 0xC05 → n ≠ 0xC06 → n ≠ 0x011 → ∀ p ∈ crRows, Answers (p.1 t rd ra cr) s fun u =>
        let b := (u.hw.thread t).a
        OnlyThread t s u ∧ Refetches t u ∧ WritesG a b rd old ∧
          b.crAt (a.crKey n) = crNew n (a.crAt (a.crKey n)) (p.2 old (a.rg ra)) ∧
          b.pc = if 1 ≤ n ∧ n ≤ 3 then a.pc + 4 else pcAfter a) ∧
      (n = 0xC05 → ∀ p ∈ crRows, Answers (p.1 t rd ra cr) s fun u =>
        WritesG a (u.hw.thread t).a rd 0 ∧ u.hw.swdt = s.hw.regF (chkReg 0x20100) 47 32 * 65536)) ∧
    (a.crOk n = false → ∀ pa mt entry, EntryOpen t (sStar a) ⟨0, 0, 0, a.pc⟩ s pa mt entry →
      Answers (.crr t rd cr) s (Enters t (sStar a) ⟨0, 0, 0, a.pc⟩ pa entry s) ∧
      ∀ p ∈ crRows, Answers (p.1 t rd ra cr) s (Enters t (sStar a) ⟨0, 0, 0, a.pc⟩ pa entry s))

/-- R92, R156: the calls: their levels, targets and codes. -/
def Sys2Proof.Claims.callRows : List ((Nat → Instr) × (Arch → Prop) × Level × Nat) :=
  [(.scall, fun a => a.level = .u, .s, 11), (.hcall, fun a => a.level = .s ∧ a.secure = false, .h, 12),
   (.mcall, fun a => a.level = .s ∨ a.level = .h, .m, 13)]

/-- Exceptions (R92, R107, R152, R156 to R158, R165): a call completes and is entered with the address after it; an unassigned encoding is an
illegal instruction; an interrupt is entered at the thread's issue boundary with nothing else changed. -/
def Obligations.CallsAndExceptionEntry : Prop :=
  ∀ (t : Nat) (s : State), s.hw.off = false →
    let a := (s.hw.thread t).a
    (s.hw.ready t [] .solo = true →
      (∀ p ∈ callRows, p.2.1 a →
        ∀ pa mt entry, EntryOpen t p.2.2.1 ⟨p.2.2.2, 0, 0, a.pc + 4⟩ s pa mt entry → Answers (p.1 t) s fun u =>
          Enters t p.2.2.1 ⟨p.2.2.2, 0, 0, a.pc + 4⟩ pa entry s u ∧ (u.hw.thread t).a.crAt 0x011 = a.crAt 0x011 + 1) ∧
      (∀ w, insnDecode t w = none → ∀ pa mt entry, EntryOpen t (sStar a) ⟨0, 0, 0, a.pc⟩ s pa mt entry →
        Answers (.illegalInstruction t w) s (Enters t (sStar a) ⟨0, 0, 0, a.pc⟩ pa entry s))) ∧
    (∀ x sec, (s.hw.takable t).head? = some (x, sec, 33) → t < numThreads → (s.hw.thread t).b.tlbi = none →
      (s.hw.thread t).b.solo = none → s.hw.threadUp t = true → (s.hw.thread t).run = .running →
      ∀ pa mt entry, EntryOpen t x ⟨33, 0, 0, a.pc⟩ s pa mt entry →
        Answers (.exceptionEntry t) s (Enters t x ⟨33, 0, 0, a.pc⟩ pa entry s))

/-- The frame of thread t at its stack pointer has passed X2 as cached memory at pa, no store of the thread's to its line is on its way, and the
core's L1D holds the line (R161, R201). -/
def Sys2Proof.Claims.FrameHeld (t : Nat) (sp pa : Word) (s : State) : Prop :=
  let h := s.hw
  ∃ mt mt' tg e, h.xlate s.mem t false (h.thread t).regime .load sp = .ok pa mt e ∧
    decodeX2 h pa mt 64 false sp = .ok (tg, mt') ∧ IsMemory tg ∧ (mt' = .wb ∨ mt' = .wt) ∧ (h.thread t).b.ext = [] ∧
    (h.thread t).b.outOn (lineNo pa) = false ∧ HeldL1d (coreOf t) (lineNo pa) (h.thread t).acc h

/-- The first line at a physical address is there for the device that reads control blocks and slots (R403): v. -/
def Sys2Proof.Claims.LineAt (t : Nat) (pa : Word) (v : Vec) (s : State) : Prop := s.hw.linesRead s.mem t 1 pa = .inr [v]

/-- The device can write geode g's control block v and line 0 of the slot at sl in one step (R403). -/
def Sys2Proof.Claims.GeodeWritable (t g : Nat) (v : Vec) (sl : Word) (s : State) : Prop :=
  s.hw.gcbHold s.mem t g v = none ∧ s.hw.slotHold t sl = none

/-- RETX and the geode instructions (R161, R162, R405, R409): RETX restores what the frame holds, with the thread's own buffered stores;
GEODE.ENTER and GEODE.EXIT move the thread between its level and U of the geode. -/
def Obligations.ReturnsAndGeodes : Prop :=
  ∀ (t : Nat) (ra : Reg) (s : State), s.hw.off = false → s.hw.ready t [] .solo = true →
    let a := (s.hw.thread t).a
    let x := a.level
    (let sp := a.crAt (lvlKey x a.secure 2)
     ∀ pa, x ≠ .u → FrameHeld t sp pa s → pa.toNat % 64 = 0 →
      let fw := fun i => vword (ownLine s.mem s.hw t pa) i
      let lvl := lvlOf (Word.fld (fw 1) 10 9)
      let sec := if x = .m then !Word.bit (a.crAt 0xC04) 0 else a.secure
      Level.num lvl < Level.num x → (lvl = .h → sec = false) → Word.fld (fw 1) 43 32 = 0 →
      Answers (.retx t) s fun u =>
        let b := (u.hw.thread t).a
        u.mem = s.mem ∧ OthersKeep t s u ∧ b.level = lvl ∧ b.secure = sec ∧ b.pc = fw 0 &&& ~~~3 ∧ b.geode = 0 ∧ b.g = a.g ∧
          b.v = a.v ∧ b.m = a.m ∧ b.crAt 1 = fw 4 ∧ b.crAt 2 = fw 5 &&& ~~~3 ∧ b.crAt 3 = fw 6 &&& ~~~3 ∧
          b.crAt (lvlKey x a.secure 2) = sp + 64 ∧
          b.crAt (lvlKey x a.secure 0) = Word.setFld (a.crAt (lvlKey x a.secure 0)) 1 1 (Word.fld (fw 1) 1 1) ∧
          b.crAt 0x011 = a.crAt 0x011 + 1) ∧
    (a.secure = false → Level.num x ≤ 1 → a.geode = 0 →
      let g := Word.fld (a.rg ra) 11 0
      ∀ v, (a.rg ra).toNat = g → g ≠ 0 → LineAt t (s.hw.gcb g) v s → gcbState v = 2 → Word.bit (vword v 5) 63 = false →
      ∀ n mt e, s.hw.xlate s.mem t false ⟨⟨.u, false, 0⟩, a.ctx⟩ .fetch (vword v 1) = .ok (vword v 2) mt e →
        freeSlot (vword v 0) = some n → GeodeWritable t g v (slotPA v n) s → Answers (.geodeEnter t ra) s fun u =>
          let b := (u.hw.thread t).a
          b.level = .u ∧ b.secure = false ∧ b.geode = g ∧ b.slot = n ∧ b.pc = vword v 1 &&& ~~~3 ∧ WritesG a b ra (w64 n) ∧ b.v = a.v ∧
            b.m = a.m ∧ OthersKeep t s u) ∧
    (a.secure = false → Level.num x ≤ 1 → a.geode = 0 → Word.fld (a.rg ra) 11 0 = 0 → Answers (.geodeEnter t ra) s fun u =>
      IntegerDone t ra (w64 (2 ^ 63 + 1)) s u) ∧
    (a.geode ≠ 0 → ∀ v l, LineAt t (s.hw.gcb a.geode) v s → LineAt t (slotPA v a.slot) l s →
      GeodeWritable t a.geode v (slotPA v a.slot) s → Answers (.geodeExit t) s fun u =>
      let b := (u.hw.thread t).a
      b.level = lvlOf (Word.fld (vword l 0) 61 60) ∧ b.pc = vword l 1 &&& ~~~3 ∧ b.geode = 0 ∧
        b.g = a.g ∧ b.v = a.v ∧ b.m = a.m ∧ OthersKeep t s u)


/-! ### Vector instructions (R36, R70 to R87) -/

/-- A long operation of thread t whose result is known: the instruction completes, its destination is owed to the operation, no register has
changed yet (R71, R110, R113). -/
def Sys2Proof.Claims.Issued (t : Nat) (dest : Dest) (k : LongKind) (s : State) (P : LongOp → Prop) (u : State) : Prop :=
  let a := (s.hw.thread t).a
  let b := (u.hw.thread t).a
  OnlyThread t s u ∧ b.g = a.g ∧ b.pc = pcAfter a ∧ KeepsRest a b ∧
    ∃ o, (u.hw.thread t).b.longs = (s.hw.thread t).b.longs ++ [o] ∧ o.kind = k ∧ o.dest = dest ∧ o.ready = true ∧
      (∀ q ∈ (s.hw.thread t).b.longs, q.id ≠ o.id) ∧ (dest ≠ .none → (dest, o.id) ∈ (u.hw.thread t).b.owed) ∧ P o

/-- Elements of width w under a mask (R70): an active one has its result, an inactive one the old value. -/
def Sys2Proof.Claims.Elements (w n : Nat) (mask : Word) (old v : Vec) (f : Nat → Nat) : Prop :=
  ∀ j, j < n → elem v w j = if mask.getLsbD j then f j % 2 ^ w else elem old w j

/-- The flags that an operation brings are those of its active elements (R70, R87). -/
def Sys2Proof.Claims.FlagsOf (n : Nat) (mask : Word) (o : LongOp) (f : Nat → BitVec 5) : Prop :=
  o.setsFlags = true ∧ ∀ i, i < 5 → (o.flags.getLsbD i = true ↔ ∃ j, j < n ∧ mask.getLsbD j = true ∧ (f j).getLsbD i = true)

/-- A vector instruction with these sources is ready and its unit enabled (R72, R113). -/
def Sys2Proof.Claims.VecOpen (t : Nat) (srcs : List Dest) (c : Cls) (s : State) : Prop :=
  s.hw.off = false ∧ s.hw.ready t srcs c = true ∧ (s.hw.thread t).a.vecDisabled = none

/-- The mask register as a source. -/
def Sys2Proof.Claims.maskSrc (mk : BitVec 3) : List Dest := if mk.toNat = 0 then [] else [.m mk.toNat]

/-- Under a mask other than m0, the mask and the destination as sources: its inactive elements are kept (R70, R114). -/
def Sys2Proof.Claims.underMask (vd : Reg) (mk : BitVec 3) : List Dest := if mk.toNat = 0 then [] else [.v vd.toNat, .m mk.toNat]

/-- The second operand: a vector, or one general register for every element (R73). -/
def Sys2Proof.Claims.operandB (a : Arch) (vb : Reg) (sc : Bool) (w j : Nat) : Nat :=
  if sc then (a.rg vb).toNat % 2 ^ w else elem (a.rv vb) w j
def Sys2Proof.Claims.srcB (vb : Reg) (sc : Bool) : Dest := if sc then destG vb else .v vb.toNat

/-- R74: the integer operations: the result of two elements of width w, modulo 2^w. -/
def Sys2Proof.Claims.vintRows : List ((Nat → Reg → Reg → Reg → BitVec 3 → BitVec 2 → Bool → Instr) × (Nat → Nat → Nat → Nat)) :=
  [(.vadd, fun _ (a b : Nat) => a + b), (.vsub, fun w (a b : Nat) => ofS w ((a : Int) - b)), (.vand, fun _ a b => a &&& b), (.vor, fun _ a b => a ||| b),
   (.vxor, fun _ a b => a ^^^ b), (.vshl, fun w a b => a * 2 ^ (b % w)), (.vshr, fun w a b => a / 2 ^ (b % w)),
   (.vsra, fun w a b => ofS w (toS w a / 2 ^ (b % w))),
   (.vmin, fun w a b => if toS w a ≤ toS w b then a else b), (.vmax, fun w a b => if toS w a ≤ toS w b then b else a),
   (.vminu, fun _ a b => if a ≤ b then a else b), (.vmaxu, fun _ a b => if a ≤ b then b else a)] ++
  [(.vmul, fun _ a b => a * b), (.vmulh, fun w a b => ofS w (toS w a * toS w b / 2 ^ w)), (.vmulhu, fun w a b => a * b / 2 ^ w),
   (.vsadd, fun w a b => ofS w (max (-2 ^ (w - 1)) (min (2 ^ (w - 1) - 1) (toS w a + toS w b)))),
   (.vssub, fun w a b => ofS w (max (-2 ^ (w - 1)) (min (2 ^ (w - 1) - 1) (toS w a - toS w b)))),
   (.vusadd, fun w a b => min (2 ^ w - 1) (a + b)), (.vussub, fun _ a b => a - b)]

/-- R72: the level that takes the vector-disabled exception; none while the vector unit may be used. -/
def Sys2Proof.Claims.disabledAt (a : Arch) : Option Level :=
  let ven := fun k => (a.crAt k).getLsbD 3
  if a.level = .m then none
  else if ven 0x800 = false then some (if a.secure then .m else .h)
  else if a.level ≠ .h ∧ ven (if a.secure then 0x1400 else 0x400) = false then some .s
  else none

/-- Vector integer operations (R70 to R74): each active element's result; an operation that a disabled unit meets raises the
vector-disabled exception and changes no register. -/
def Obligations.VectorIntegerResults : Prop :=
  ∀ (t : Nat) (vd va vb : Reg) (mk : BitVec 3) (ew : BitVec 2) (sc : Bool) (s : State),
    let a := (s.hw.thread t).a
    let w := ewBits ew
    let srcs := [.v va.toNat, srcB vb sc] ++ underMask vd mk
    (VecOpen t srcs .long s → ∀ p ∈ vintRows, Answers (p.1 t vd va vb mk ew sc) s (Issued t (.v vd.toNat) .vec s fun o =>
      o.setsFlags = false ∧
        Elements w (512 / w) (a.rm mk.toNat) (a.rv vd) o.val fun j => p.2 w (elem (a.rv va) w j) (operandB a vb sc w j))) ∧
    (∀ x, disabledAt a = some x → s.hw.off = false → s.hw.ready t srcs .long = true →
      ∀ pa mt entry, EntryOpen t x ⟨10, 0, 0, a.pc⟩ s pa mt entry →
        ∀ p ∈ vintRows, Answers (p.1 t vd va vb mk ew sc) s (Enters t x ⟨10, 0, 0, a.pc⟩ pa entry s))

/-- R75: the operations of two operands, with the flags; whether they set flags. -/
def Sys2Proof.Claims.vfltRows :
    List ((Nat → Reg → Reg → Reg → BitVec 3 → BitVec 2 → Bool → Instr) × LongKind × Cls × (Fmt → Nat → Nat → Nat → FRes)) :=
  [(.vfadd, .vec, .long, Fmt.add), (.vfsub, .vec, .long, Fmt.sub), (.vfmul, .vec, .long, Fmt.mul), (.vfdiv, .vroot, .vroot, Fmt.div),
   (.vfmin, .vec, .long, fun f _ => f.minMax false), (.vfmax, .vec, .long, fun f _ => f.minMax true)]

/-- R75, R79: the operations of one operand on elements of one width that set flags: their element widths, their result. -/
def Sys2Proof.Claims.vunRows :
    List ((Nat → Reg → Reg → BitVec 3 → BitVec 2 → Instr) × LongKind × Cls × (Nat → Nat → Nat → FRes)) :=
  [(.vfsqrt, .vroot, .vroot, fun w rm a => (fmtOf w).sqrt rm a),
   (.vcvtFI, .vec, .long, fun w rm a => (fmtOf w).ofInt rm (toS w a)), (.vcvtFU, .vec, .long, fun w rm a => (fmtOf w).ofInt rm a),
   (.vcvtIF, .vec, .long, fun w rm a =>
      let r := (fmtOf w).toInt rm (-2 ^ (w - 1)) (2 ^ (w - 1) - 1) a
      (ofS w r.1, r.2)),
   (.vcvtUF, .vec, .long, fun w rm a =>
      let r := (fmtOf w).toInt rm 0 (2 ^ w - 1) a
      (ofS w r.1, r.2))]

/-- R76: the fused forms: whether the product, and whether d, is negated. -/
def Sys2Proof.Claims.vfmaRows : List ((Nat → Reg → Reg → Reg → BitVec 3 → BitVec 2 → Instr) × Bool × Bool) :=
  [(.vfmadd, false, false), (.vfmsub, false, true), (.vfnmadd, true, true), (.vfnmsub, true, false)]

/-- R75: the operations that only move sign bits, which set no flag: the result from a's and b's elements. -/
def Sys2Proof.Claims.signRows : List ((Nat → Reg → Reg → BitVec 3 → BitVec 2 → Instr) × (Nat → Nat → Nat)) :=
  [(.vfabs, fun w a => a % 2 ^ (w - 1)), (.vfneg, fun w a => if a < 2 ^ (w - 1) then a + 2 ^ (w - 1) else a - 2 ^ (w - 1))]

/-- Vector floating-point operations and conversions of one width (R70, R71, R75, R76, R79, R86, R87): results with VCSR.RM as it stands at
issue, flags of the active elements. -/
def Obligations.VectorFloatResults : Prop :=
  ∀ (t : Nat) (vd va vb : Reg) (mk : BitVec 3) (ew : BitVec 2) (sc : Bool) (s : State), ew ≠ 0 →
    let a := (s.hw.thread t).a
    let w := ewBits ew
    let n := 512 / w
    let rm := Word.fld (a.crAt 0) 7 6
    let mask := a.rm mk.toNat
    let x := elem (a.rv va) w
    (∀ p ∈ vfltRows, VecOpen t ([.v va.toNat, srcB vb sc] ++ underMask vd mk) p.2.2.1 s →
      Answers (p.1 t vd va vb mk ew sc) s (Issued t (.v vd.toNat) p.2.1 s fun o =>
        let f := fun j => p.2.2.2 (fmtOf w) rm (x j) (operandB a vb sc w j)
        Elements w n mask (a.rv vd) o.val (fun j => (f j).1) ∧ FlagsOf n mask o (fun j => (f j).2))) ∧
    (∀ p ∈ vunRows, VecOpen t ([.v va.toNat] ++ underMask vd mk) p.2.2.1 s →
      Answers (p.1 t vd va mk ew) s (Issued t (.v vd.toNat) p.2.1 s fun o =>
        let f := fun j => p.2.2.2 w rm (x j)
        Elements w n mask (a.rv vd) o.val (fun j => (f j).1) ∧ FlagsOf n mask o (fun j => (f j).2))) ∧
    (∀ p ∈ vfmaRows, VecOpen t ([.v vd.toNat, .v va.toNat, .v vb.toNat] ++ maskSrc mk) .long s →
      Answers (p.1 t vd va vb mk ew) s (Issued t (.v vd.toNat) .vec s fun o =>
        let f := fun j => (fmtOf w).fma rm p.2.1 p.2.2 (x j) (elem (a.rv vb) w j) (elem (a.rv vd) w j)
        Elements w n mask (a.rv vd) o.val (fun j => (f j).1) ∧ FlagsOf n mask o (fun j => (f j).2))) ∧
    (∀ p ∈ signRows, VecOpen t ([.v va.toNat] ++ underMask vd mk) .long s →
      Answers (p.1 t vd va mk ew) s (Issued t (.v vd.toNat) .vec s fun o =>
        o.setsFlags = false ∧ Elements w n mask (a.rv vd) o.val fun j => p.2 w (x j))) ∧
    (VecOpen t ([.v va.toNat, srcB vb sc] ++ underMask vd mk) .long s →
      Answers (.vfsgnj t vd va vb mk ew sc) s (Issued t (.v vd.toNat) .vec s fun o =>
        o.setsFlags = false ∧ Elements w n mask (a.rv vd) o.val fun j =>
          x j % 2 ^ (w - 1) + operandB a vb sc w j / 2 ^ (w - 1) * 2 ^ (w - 1)))

/-- R77: the integer reductions: their start, which no active element leaves, and the step. -/
def Sys2Proof.Claims.vredRows :
    List ((Nat → Reg → Reg → BitVec 3 → BitVec 2 → Instr) × (Nat → Nat) × (Nat → Nat → Nat → Nat)) :=
  [(.vredadd, fun _ => 0, fun w a b => (a + b) % 2 ^ w),
   (.vredmin, fun w => 2 ^ (w - 1) - 1, fun w a b => if toS w a ≤ toS w b then a else b),
   (.vredmax, fun w => 2 ^ (w - 1), fun w a b => if toS w a ≤ toS w b then b else a),
   (.vredminu, fun w => 2 ^ w - 1, fun _ a b => if a ≤ b then a else b), (.vredmaxu, fun _ => 0, fun _ a b => if a ≤ b then b else a),
   (.vredand, fun w => 2 ^ w - 1, fun _ a b => a &&& b), (.vredor, fun _ => 0, fun _ a b => a ||| b),
   (.vredxor, fun _ => 0, fun _ a b => a ^^^ b)]

/-- R77: the floating-point reductions, with what no active element comes to. -/
def Sys2Proof.Claims.vfredRows : List ((Nat → Reg → Reg → BitVec 3 → BitVec 2 → Instr) × (Nat → Nat)) :=
  [(.vfredadd, fun _ => 0), (.vfredaddt, fun _ => 0), (.vfredmin, fun w => (fmtOf w).qnan), (.vfredmax, fun w => (fmtOf w).qnan)]

/-- The active elements in ascending order. -/
def Sys2Proof.Claims.activeList (v : Vec) (w : Nat) (mask : Word) : List Nat :=
  ((List.range (512 / w)).filter fun j => mask.getLsbD j).map (elem v w)

/-- Reductions (R77): element 0 holds the reduction of the active elements, every other element zero. Of the floating-point ones: no active
element, and for the sums two active elements, added once. -/
def Obligations.VectorReductions : Prop :=
  ∀ (t : Nat) (vd va : Reg) (mk : BitVec 3) (ew : BitVec 2) (s : State),
    let a := (s.hw.thread t).a
    let w := ewBits ew
    let rm := Word.fld (a.crAt 0) 7 6
    let xs := activeList (a.rv va) w (a.rm mk.toNat)
    VecOpen t ([.v va.toNat] ++ maskSrc mk) .long s →
    (∀ p ∈ vredRows, Answers (p.1 t vd va mk ew) s (Issued t (.v vd.toNat) .vec s fun o =>
      o.setsFlags = false ∧ o.val = BitVec.ofNat 512 (xs.foldl (p.2.2 w) (p.2.1 w)))) ∧
    (ew ≠ 0 → xs = [] → ∀ p ∈ vfredRows, Answers (p.1 t vd va mk ew) s (Issued t (.v vd.toNat) .vec s fun o =>
      o.setsFlags = true ∧ o.flags = 0 ∧ o.val = BitVec.ofNat 512 (p.2 w))) ∧
    (ew ≠ 0 → ∀ x y, xs = [x, y] →
      let r := (fmtOf w).add rm x y
      ∀ c ∈ ([.vfredadd, .vfredaddt] : List (Nat → Reg → Reg → BitVec 3 → BitVec 2 → Instr)),
        Answers (c t vd va mk ew) s (Issued t (.v vd.toNat) .vec s fun o =>
          o.setsFlags = true ∧ o.flags = r.2 ∧ o.val = BitVec.ofNat 512 r.1)) ∧
    (ew ≠ 0 → ∀ x y, xs = [x, y] →
      ∀ p ∈ ([(.vfredmin, false), (.vfredmax, true)] : List ((Nat → Reg → Reg → BitVec 3 → BitVec 2 → Instr) × Bool)),
        Answers (p.1 t vd va mk ew) s (Issued t (.v vd.toNat) .vec s fun o =>
          o.setsFlags = true ∧ o.flags = ((fmtOf w).minMax p.2 x y).2 ∧ o.val = BitVec.ofNat 512 ((fmtOf w).minMax p.2 x y).1))

/-- R78: the permutes of two vectors: the element at j from the elements of a and b, n of them. -/
def Sys2Proof.Claims.permRows :
    List ((Nat → Reg → Reg → Reg → BitVec 3 → BitVec 2 → Instr) × (Nat → (Nat → Nat) → (Nat → Nat) → Nat → Nat)) :=
  [(.vperm, fun n a b j => a (b j % n)), (.vziplo, fun _ a b j => if j % 2 = 0 then a (j / 2) else b ((j - 1) / 2)),
   (.vziphi, fun n a b j => if j % 2 = 0 then a (j / 2 + n / 2) else b ((j - 1) / 2 + n / 2))]
def Sys2Proof.Claims.slideRows :
    List ((Nat → Reg → Reg → Reg → BitVec 3 → BitVec 2 → Instr) × (Nat → (Nat → Nat) → Nat → Nat → Nat)) :=
  [(.vslidedn, fun n a k j => if j + k < n then a (j + k) else 0), (.vslideup, fun _ a k j => if k ≤ j then a (j - k) else 0)]

/-- R79: the forms that double the width: the widths they take, whether they set flags, the result. -/
def Sys2Proof.Claims.widenRows :
    List ((Nat → Reg → Reg → BitVec 3 → BitVec 2 → Instr) × (Nat → Prop) × Bool × (Nat → Nat → FRes)) :=
  [(.vcvtFFw, fun e => e = 1 ∨ e = 2, true, fun w x => (fmtOf w).convert (fmtOf (2 * w)) 0 x),
   (.vsextW, fun e => e < 3, false, fun w x => (ofS (2 * w) (toS w x), 0)), (.vzextW, fun e => e < 3, false, fun _ x => (x, 0))]
/-- R79: the forms that halve it. -/
def Sys2Proof.Claims.narrowRows :
    List ((Nat → Reg → Reg → BitVec 3 → BitVec 2 → Instr) × (Nat → Prop) × Bool × (Nat → Nat → Nat → FRes)) :=
  [(.vcvtFFn, fun e => 2 ≤ e, true, fun rm w x => (fmtOf w).convert (fmtOf (w / 2)) rm x),
   (.vnarrow, fun e => 1 ≤ e, false, fun _ w x => (x % 2 ^ (w / 2), 0))]

/-- Permutes, changes of width and moves (R70, R78, R79): VCOMPRESS and VEXPAND write the destination whole; a narrowing leaves its high 256
bits zero. -/
def Obligations.VectorPermutesAndMoves : Prop :=
  ∀ (t : Nat) (vd va vb : Reg) (mk : BitVec 3) (ew : BitVec 2) (s : State),
    let a := (s.hw.thread t).a
    let w := ewBits ew
    let n := 512 / w
    let rm := Word.fld (a.crAt 0) 7 6
    let mask := a.rm mk.toNat
    let x := elem (a.rv va) w
    (VecOpen t ([.v va.toNat, .v vb.toNat] ++ underMask vd mk) .long s → ∀ p ∈ permRows,
      Answers (p.1 t vd va vb mk ew) s (Issued t (.v vd.toNat) .vec s fun o =>
        Elements w n mask (a.rv vd) o.val (p.2 n x (elem (a.rv vb) w)))) ∧
    (VecOpen t ([.v va.toNat, destG vb] ++ underMask vd mk) .long s → ∀ p ∈ slideRows,
      Answers (p.1 t vd va vb mk ew) s (Issued t (.v vd.toNat) .vec s fun o =>
        Elements w n mask (a.rv vd) o.val (p.2 n x (a.rg vb).toNat))) ∧
    (VecOpen t ([.v va.toNat] ++ maskSrc mk) .long s →
      (let xs := activeList (a.rv va) w mask
       Answers (.vcompress t vd va mk ew) s (Issued t (.v vd.toNat) .vec s fun o => ∀ j, j < n → elem o.val w j = xs.getD j 0)) ∧
      Answers (.vexpand t vd va mk ew) s (Issued t (.v vd.toNat) .vec s fun o => ∀ j, j < n →
        elem o.val w j = if mask.getLsbD j then x ((List.range j).filter fun i => mask.getLsbD i).length else 0)) ∧
    (VecOpen t ([.v va.toNat] ++ underMask vd mk) .long s →
      (∀ p ∈ widenRows, p.2.1 ew.toNat → Answers (p.1 t vd va mk ew) s (Issued t (.v vd.toNat) .vec s fun o =>
        Elements (2 * w) (n / 2) mask (a.rv vd) o.val (fun j => (p.2.2.2 w (x j)).1) ∧
          if p.2.2.1 then FlagsOf (n / 2) mask o (fun j => (p.2.2.2 w (x j)).2) else o.setsFlags = false)) ∧
      (∀ p ∈ narrowRows, p.2.1 ew.toNat → Answers (p.1 t vd va mk ew) s (Issued t (.v vd.toNat) .vec s fun o =>
        Elements (w / 2) n mask (a.rv vd) o.val (fun j => (p.2.2.2 rm w (x j)).1) ∧ o.val.toNat < 2 ^ 256 ∧
          if p.2.2.1 then FlagsOf n mask o (fun j => (p.2.2.2 rm w (x j)).2) else o.setsFlags = false))) ∧
    (VecOpen t ([destG va] ++ underMask vd mk) .long s →
      Answers (.vmvVg t vd va mk ew) s (Issued t (.v vd.toNat) .vec s fun o =>
        Elements w n mask (a.rv vd) o.val fun _ => (a.rg va).toNat)) ∧
    (VecOpen t [.v va.toNat, destG vb] .long s →
      Answers (.vmvGv t vd va vb ew) s (Issued t (destG vd) .vec s fun o => o.val = BitVec.ofNat 512 (x ((a.rg vb).toNat % n)))) ∧
    (VecOpen t [.v vd.toNat, destG va, destG vb] .long s →
      Answers (.vins t vd va vb ew) s (Issued t (.v vd.toNat) .vec s fun o => ∀ j, j < n →
        elem o.val w j = if j = (a.rg vb).toNat % n then (a.rg va).toNat % 2 ^ w else elem (a.rv vd) w j))

/-- R80: the comparisons of integers of width w, and of floating-point numbers with their flags. -/
def Sys2Proof.Claims.vcmpRows : List ((Nat → Reg → Reg → Reg → BitVec 3 → BitVec 2 → Instr) × (Nat → Nat → Nat → Bool)) :=
  [(.vcmpeq, fun _ a b => decide (a = b)), (.vcmpne, fun _ a b => decide (a ≠ b)), (.vcmplt, fun w a b => decide (toS w a < toS w b)),
   (.vcmple, fun w a b => decide (toS w a ≤ toS w b)), (.vcmpltu, fun _ a b => decide (a < b)), (.vcmpleu, fun _ a b => decide (a ≤ b))]
def Sys2Proof.Claims.vfcmpRows : List ((Nat → Reg → Reg → Reg → BitVec 3 → BitVec 2 → Instr) × FCmp) :=
  [(.vfcmpeq, .eq), (.vfcmplt, .lt), (.vfcmple, .le), (.vfcmpun, .un)]

/-- A mask register as a destination: a write of m0 is discarded (R36, R80). -/
def Sys2Proof.Claims.maskDest (r : Reg) : Dest := if r.toNat = 0 then .none else .m r.toNat

/-- R80: the logical operations on mask registers. -/
def Sys2Proof.Claims.mlogRows : List ((Nat → Reg → Reg → Reg → BitVec 2 → Instr) × (Bool → Bool → Bool)) :=
  [(.mand, fun a b => a && b), (.mor, fun a b => a || b), (.mxor, fun a b => a != b), (.mandn, fun a b => a && !b)]

/-- R80: the mask operations that write a general register, from the low n bits. -/
def Sys2Proof.Claims.maskReads : List ((Nat → Reg → Reg → BitVec 2 → Instr) × (Nat → Word → Nat)) :=
  [(.mpopc, fun n m => ((List.range n).filter fun i => m.getLsbD i).length),
   (.mfirst, fun n m => ((List.range n).find? fun i => m.getLsbD i).getD (2 ^ 64 - 1)), (.mmvGm, fun n m => m.toNat % 2 ^ n)]

/-- Compares and mask operations (R36, R70, R80): bit j for the elements j of the width, every other bit zero. -/
def Obligations.VectorMasks : Prop :=
  ∀ (t : Nat) (rd ra rb : Reg) (mk : BitVec 3) (ew : BitVec 2) (s : State),
    let a := (s.hw.thread t).a
    let w := ewBits ew
    let n := 512 / w
    let mask := a.rm mk.toNat
    let x := elem (a.rv ra) w
    let y := elem (a.rv rb) w
    (rd.toNat < 8 → VecOpen t ([.v ra.toNat, .v rb.toNat] ++ maskSrc mk) .long s →
      (∀ p ∈ vcmpRows, Answers (p.1 t rd ra rb mk ew) s (Issued t (maskDest rd) .vec s fun o =>
        o.setsFlags = false ∧ ∀ j, o.val.getLsbD j = (decide (j < n) && mask.getLsbD j && p.2 w (x j) (y j)))) ∧
      (ew ≠ 0 → ∀ p ∈ vfcmpRows, Answers (p.1 t rd ra rb mk ew) s (Issued t (maskDest rd) .vec s fun o =>
        (∀ j, o.val.getLsbD j = (decide (j < n) && mask.getLsbD j && ((fmtOf w).cmp p.2 (x j) (y j)).1)) ∧
          FlagsOf n mask o fun j => ((fmtOf w).cmp p.2 (x j) (y j)).2))) ∧
    (rd.toNat < 8 → ra.toNat < 8 → rb.toNat < 8 → VecOpen t [maskDest ra, maskDest rb] .long s →
      ∀ p ∈ mlogRows, Answers (p.1 t rd ra rb ew) s (Issued t (maskDest rd) .vec s fun o =>
        ∀ j, o.val.getLsbD j = (decide (j < n) && p.2 ((a.rm ra.toNat).getLsbD j) ((a.rm rb.toNat).getLsbD j)))) ∧
    (ra.toNat < 8 → VecOpen t [maskDest ra] .long s →
      ∀ p ∈ maskReads, Answers (p.1 t rd ra ew) s (Issued t (destG rd) .vec s fun o =>
        o.val = BitVec.ofNat 512 (p.2 n (a.rm ra.toNat)))) ∧
    (rd.toNat < 8 → VecOpen t [destG ra] .long s →
      Answers (.mmvMg t rd ra ew) s (Issued t (maskDest rd) .vec s fun o =>
        ∀ j, o.val.getLsbD j = (decide (j < n) && (a.rg ra).getLsbD j)))

/-- An element of n bytes at va has passed X2 as write-back memory at pa, and the core's L1D holds its line (R68, R83, R122). -/
def Sys2Proof.Claims.ElementHits (t : Nat) (w : Want) (va : Word) (n off : Nat) (s : State) (pa : Word) : Prop :=
  let h := s.hw
  let line := lineNo pa
  (∃ tg, x2One s.mem h t w va n off = .ok [⟨pa, .wb, tg, n, off⟩] ∧ IsMemory tg) ∧
    (∀ e ∈ (h.thread t).b.sb, e.line ≠ line) ∧ line ∉ (h.core (coreOf t)).wbuf ∧ LineFree t line (maskOf (pa.toNat % 64) n) h ∧
    HeldL1d (coreOf t) line (h.thread t).acc h

/-- A vector load is done but for its write-back: its elements are the newest bytes at their addresses; memory and newest values stay. -/
def Sys2Proof.Claims.VecLoaded (t : Nat) (vd : Reg) (w n : Nat) (mask : Word) (pa : Nat → Word) (s u : State) : Prop :=
  let a := (s.hw.thread t).a
  let b := (u.hw.thread t).a
  u.mem = s.mem ∧ u.hw.newest = s.hw.newest ∧ OthersKeep t s u ∧ b.g = a.g ∧ b.pc = pcAfter a ∧ KeepsRest a b ∧
    ∃ o, (u.hw.thread t).b.longs = (s.hw.thread t).b.longs ++ [o] ∧ o.kind = .vload ∧ o.dest = .v vd.toNat ∧ o.ready = true ∧
      (Dest.v vd.toNat, o.id) ∈ (u.hw.thread t).b.owed ∧
      Elements w n mask (a.rv vd) o.val fun j => leNat (newestBytes s (pa j) (w / 8))

/-- A vector store's bytes stand in new store-buffer entries, where the highest active element that holds a byte wins it (R82, R119, R509);
no register and no byte of memory changes. -/
def Sys2Proof.Claims.VecBuffered (t : Nat) (w n : Nat) (mask : Word) (src : Vec) (pa : Nat → Word) (s u : State) : Prop :=
  let a := (s.hw.thread t).a
  let b := (u.hw.thread t).a
  let act := fun j => j < n ∧ mask.getLsbD j = true
  let at_ := fun j i => (pa j).toNat + i
  OnlyThread t s u ∧ b.g = a.g ∧ b.pc = pcAfter a ∧ KeepsRest a b ∧
    ∃ es : List SbEntry, (u.hw.thread t).b.sb ++ (u.hw.thread t).b.vstWait = (s.hw.thread t).b.sb ++ es ∧
      (∀ j i, act j → i < w / 8 → (∀ k, act k → j < k → ∀ l, l < w / 8 → at_ k l ≠ at_ j i) →
        ∃ e ∈ es, e.line = at_ j i / 64 ∧ e.mask.getLsbD (at_ j i % 64) = true ∧
          (vbyte e.data (at_ j i % 64)).toNat = elem src w j / 256 ^ i % 256) ∧
      (∀ e ∈ es, ∀ p, p < 64 → e.mask.getLsbD p = true → ∃ j i, act j ∧ i < w / 8 ∧ at_ j i = 64 * e.line + p)

/-- Vector memory instructions on write-back memory (R70, R81 to R84, R509), every address aligned: loads whose lines the core's L1D holds,
stores with room in the store buffer. -/
def Obligations.VectorMemory : Prop :=
  ∀ (t : Nat) (v ra rb : Reg) (mk : BitVec 3) (ew sc : BitVec 2) (s : State) (pa : Nat → Word), s.hw.off = false →
    let h := s.hw
    let a := (h.thread t).a
    let w := ewBits ew
    let k := w / 8
    let n := 512 / w
    let mask := a.rm mk.toNat
    let base := a.rg ra
    let dev := decide (mk.toNat = 0)
    let stride := fun j => base + w64 j * a.rg rb
    let indexed := fun j => base + BitVec.ofInt 64 (toS w (elem (a.rv rb) w j) * 2 ^ sc.toNat)
    let one := fun acc => (⟨acc, k, false, false, false, false⟩ : Want)
    let loadsAt := fun (addr : Nat → Word) => ∀ j, j < n → mask.getLsbD j = true →
      (addr j).toNat % k = 0 ∧ ElementHits t (one .load) (addr j) k (j * k) s (pa j)
    let storesAt := fun (addr : Nat → Word) => ∀ j, j < n → mask.getLsbD j = true →
      (addr j).toNat % k = 0 ∧ ∃ tg, x2One s.mem h t (one .store) (addr j) k (j * k) = .ok [⟨pa j, .wb, tg, k, j * k⟩]
    let open_ := fun srcs => h.ready t (srcs ++ underMask v mk) .memLong = true ∧ a.vecDisabled = none
    let opens := fun srcs => h.ready t ([Dest.v v.toNat] ++ srcs ++ maskSrc mk) .memLong = true ∧ a.vecDisabled = none
    let room := (h.thread t).b.sb.length ≤ 14
    (base.toNat % 64 = 0 → (∀ j, pa j = pa 0 + w64 (j * k)) →
      (open_ [destG ra] → ElementHits t ⟨.load, 64, false, dev, false, false⟩ base 64 0 s (pa 0) → Answers (.vld t v ra mk ew) s (VecLoaded t v w n mask pa s)) ∧
      (opens [destG ra] → room → ∀ tg, x2One s.mem h t ⟨.store, 64, false, dev, false, false⟩ base 64 0 = .ok [⟨pa 0, .wb, tg, 64, 0⟩] →
        Answers (.vst t v ra mk ew) s (VecBuffered t w n mask (a.rv v) pa s))) ∧
    (open_ [destG ra] → loadsAt (fun _ => base) → Answers (.vldb t v ra mk ew) s (VecLoaded t v w n mask pa s)) ∧
    (open_ [destG ra, destG rb] → loadsAt stride → Answers (.vlds t v ra rb mk ew) s (VecLoaded t v w n mask pa s)) ∧
    (opens [destG ra, destG rb] → room → storesAt stride → Answers (.vsts t v ra rb mk ew) s (VecBuffered t w n mask (a.rv v) pa s)) ∧
    (2 ≤ ew.toNat → open_ [destG ra, .v rb.toNat] → loadsAt indexed →
      Answers (.vgather t v ra rb mk ew sc) s (VecLoaded t v w n mask pa s)) ∧
    (2 ≤ ew.toNat → opens [destG ra, .v rb.toNat] → room → storesAt indexed →
      Answers (.vscatter t v ra rb mk ew sc) s (VecBuffered t w n mask (a.rv v) pa s))

/-! ### Stores, pending loads, maintenance (R63, R98 to R100, R119 to R128, R171, R172, R196, R214, R215, R509) -/

/-- A head entry that holds data. -/
def Sys2Proof.Claims.IsStore (e : SbEntry) : Prop := ∀ op sw tg arg, e.kind ≠ .cmo op sw tg arg

/-- The store buffer of thread t has lost its head; its registers and the other threads are as they were. -/
def Sys2Proof.Claims.Popped (t : Nat) (s u : State) : Prop :=
  (u.hw.thread t).b.sb = (s.hw.thread t).b.sb.tail ∧ (u.hw.thread t).a = (s.hw.thread t).a ∧ OthersKeep t s u

/-- A record of an asynchronous error joins its world's queue, or counts as lost when 4 wait (R172). -/
def Sys2Proof.Claims.Recorded (t : Nat) (secure : Bool) (r : ErrRec) (s u : State) : Prop :=
  let old := if secure then (s.hw.thread t).errS else (s.hw.thread t).errN
  let new := if secure then (u.hw.thread t).errS else (u.hw.thread t).errN
  if old.recs.length < 4 then new.recs = old.recs ++ [r] ∧ new.lost = old.lost
  else new.recs = old.recs ∧ new.lost = min (old.lost + 1) 255

/-- Stores leave the store buffer in order (R63, R121, R171, R172, R214, R509): a write-back store merges into the line its core holds
writable, a Device store leaves for its controller, a message for each run of bytes, and is out until its answer unless it is posted; a store to
no address is dropped with a record; entries that wait take free places. -/
def Obligations.StoresDrain : Prop :=
  ∀ (t err : Nat) (e : SbEntry) (s : State), s.hw.off = false →
    ((s.hw.thread t).b.sb.head? = some e → IsStore e → e.release = false → s.hw.drainTurn t = true →
      (s.hw.thread t).b.pendingOn e.ord e.line e.mask = false → (s.hw.thread t).b.outOn e.line = false →
      (∀ tg, e.tg = some tg → e.mtype = .wb → IsMemory tg → s.hw.writable (coreOf t) e.line = true → e.acc.admits (s.hw.copyOwner (coreOf t) e.line) = true →
        Answers (.storeBufferDrain t err) s fun u => u.mem = s.mem ∧ Popped t s u ∧
          sfind e.line u.hw.newest = some (vmerge (lineVal s.mem s.hw e.line) e.data e.mask) ∧
          ∀ l, l ≠ e.line → sfind l u.hw.newest = sfind l s.hw.newest) ∧
      (∀ tg, e.mtype.device = true → e.tg = some tg → (tg = .ddr ∨ ∃ k, tg = .pool k) →
        let x := s.hw.thread t
        let pa := w64 (e.line * 64 + e.span.1)
        let left := e.mask &&& ~~~maskOf e.span.1 e.span.2
        Answers (.storeBufferDrain t err) s fun u => u.mem = s.mem ∧ (u.hw.thread t).a = x.a ∧ OthersKeep t s u ∧
          Sends (.dev (.store t e.kind.errKind e.acc.secure e.mtype) tg e.acc x.bank x.vmid pa e.span.2
            (some (BitVec.ofNat 512 (e.data.toNat / 256 ^ e.span.1), e.mask)) err) (chamberStop (t / 16)) (mcStop (s.hw.mcOf (lineNo pa)) (lineNo pa)) s u ∧
          (u.hw.thread t).b.sb = (if left = 0 then x.b.sb.tail else { e with mask := left } :: x.b.sb.tail) ∧
          (u.hw.thread t).b.outs = (if e.mtype = .posted then x.b.outs else x.b.outs ++ [(e.line, e.mtype, x.b.popped)])) ∧
      (e.tg = none → e.kind ≠ .save → Answers (.storeBufferDrain t err) s fun u => u.mem = s.mem ∧
        (u.hw.thread t).b.sb = (s.hw.thread t).b.sb.tail ∧ Recorded t e.acc.secure ⟨e.pa, e.kind.errKind, 0⟩ s u)) ∧
    (∀ r, (s.hw.thread t).b.vstWait = e :: r → (s.hw.thread t).b.sb.length < 16 → Answers (.vectorStoreEntryAllocate t) s fun u =>
      u.mem = s.mem ∧ OthersKeep t s u ∧ (u.hw.thread t).a = (s.hw.thread t).a ∧
        (u.hw.thread t).b.sb = (s.hw.thread t).b.sb ++ [e] ∧ (u.hw.thread t).b.vstWait = r) ∧
    (∀ op sw arg, (s.hw.thread t).b.sb.head? = some e → e.kind = .cmo op sw 9 arg → (∀ p ∈ s.hw.gtags, p.2.who ≠ .cmo t) →
      Answers (.cmoComplete t) s fun u => u.mem = s.mem ∧ u.hw.newest = s.hw.newest ∧ Popped t s u) ∧
    (∀ kind pa secure, t < numThreads → kind < 6 → err < 6 → Answers (.asyncStoreErrorRecord t kind err pa secure) s fun u =>
      u.mem = s.mem ∧ (u.hw.thread t).b = (s.hw.thread t).b ∧ Recorded t secure ⟨pa, kind, err⟩ s u)

/-- AMO.FAR and a parked load (R53 to R55, R110, R123, R256): a far atomic of a line of this node leaves for the line's home slice with its
operands; a parked load that finds its line in L1D has its value. -/
def Obligations.FarAtomicsAndParkedLoads : Prop :=
  ∀ (t : Nat) (s : State), s.hw.off = false →
    let h := s.hw
    let a := (h.thread t).a
    let b := (h.thread t).b
    (∀ (rd ra rb : Reg) (op : BitVec 4) (size ord : BitVec 2) (ret : Bool) (pa : Word) (mt : MemType) (tg : Target),
      op.toNat ∈ [0, 1, 2, 3, 4, 5, 8, 9, 10] → (op.toNat = 9 → ret = true) → (ret = false → rd = 0) →
      let n := 8 * 2 ^ size.toNat
      let wide := decide (8 < n)
      let reg := fun r : Reg => if wide then Dest.v r.toNat else destG r
      let val := fun r : Reg => if wide then a.rv r else (a.rg r).setWidth 512
      let dest := if ret then reg rd else Dest.none
      let sl := sliceOf (lineNo pa)
      h.ready t ([destG ra, reg rb] ++ if op.toNat = 9 then [reg rd] else []) .memLong = true →
      (a.rg ra).toNat % n = 0 → x2All s.mem h t ⟨.atomic, n, false, false, false, true⟩ [(a.rg ra, n, 0)] = .ok [⟨pa, mt, tg, n, 0⟩] →
      h.farWaits t (h.nextLong t) ⟨pa, mt, tg, n, 0⟩ (ord.getLsbD 0) (ord.getLsbD 1) = false →
      h.regulateT (t / 16) (h.thread t).resvVmid false (lineNo pa) = (h, false) → h.hasCredit 0 (t / 16) sl = true →
      (∀ p ∈ h.posts, ¬(p.cls = 0 ∧ p.snd = t / 16 ∧ p.dest = sl)) →
      let o := farOp pa n (val rb) op.toNat (if op.toNat = 9 then val rd else 0) mt
      Answers (.amoFar t rd ra rb op size ord ret) s fun u => ∃ id, AwaitsAnswer t dest .farAtomic id s u ∧
        Sends (.req sl ⟨.far o, lineNo pa, .far t id ret, (h.thread t).acc, false, h.weightOf t, false, tg.home⟩) (chamberStop (t / 16)) (chamberStop sl) s u) ∧
    (∀ (p : Parked) (o : LongOp) (q : Part), b.parked = some p → p.next = 0 → b.longs.find? (fun x => x.id == p.id) = some o → o.kind = .load →
      o.amo = none → o.acquire = false → o.bad = false → o.parts = [q] → q.done = false → q.off = 0 → q.len = o.size → q.mt = .wb →
      q.pa.toNat % 64 + q.len ≤ 64 → IsMemory q.tg → (∀ e ∈ b.sb, e.line ≠ lineNo q.pa) → lineNo q.pa ∉ (h.core (coreOf t)).wbuf →
      b.outOn (lineNo q.pa) = false → b.pendingOn o.id (lineNo q.pa) (maskOf (q.pa.toNat % 64) q.len) = false →
      (∀ f ∈ b.longs, f.kind = .farAtomic → f.ready = false → ∀ r ∈ f.parts, lineNo r.pa ≠ lineNo q.pa) →
      HeldL1d (coreOf t) (lineNo q.pa) o.acc h →
      Answers (.parkedLoadReentry t) s fun u => u.mem = s.mem ∧ u.hw.newest = s.hw.newest ∧ OthersKeep t s u ∧
        (u.hw.thread t).a = a ∧ (u.hw.thread t).b.parked = none ∧ ∃ o' ∈ (u.hw.thread t).b.longs, o'.id = o.id ∧ o'.dest = o.dest ∧
          o'.ready = true ∧ o'.val = (loadedValue o.signed (newestBytes s q.pa q.len)).setWidth 512)

/-- R98: the operations of CMO. -/
def Sys2Proof.Claims.cmoRows : List ((Nat → Reg → Bool → BitVec 2 → Instr) × Nat) :=
  [(.cmoClean, 0), (.cmoInvalidate, 1), (.cmoCleanInvalidate, 2)]

/-- A CMO takes one store-buffer entry that holds no data (R214). -/
def Sys2Proof.Claims.CmoQueued (t : Nat) (pa : Word) (mt : MemType) (tg : Option Target) (op : Nat) (sw : Bool) (target : Nat) (v : Word) (s u : State) : Prop :=
  IntegerDone t 0 0 s u ∧
    (u.hw.thread t).b.sb = (s.hw.thread t).b.sb ++ [⟨lineNo pa, pa, mt, 0, 0, false, .cmo op sw target v, (s.hw.thread t).acc, tg, (s.hw.thread t).b.fresh⟩]

/-- Cache maintenance (R98, R99, R156, R214, R215): a CMO takes an entry of the store buffer, an invalidate at U as a clean-and-invalidate;
set and way is for M, target 3 is reserved; a clean-and-invalidate of L1D drains by dropping the line, its value staying the newest. -/
def Obligations.CacheMaintenance : Prop :=
  ∀ (t : Nat) (ra : Reg) (sw : Bool) (target : BitVec 2) (s : State), s.hw.off = false →
    let h := s.hw
    let a := (h.thread t).a
    let v := a.rg ra
    (h.ready t [destG ra] .mem = true → (h.thread t).b.sb.length < 16 →
      (target ≠ 3 → a.level = .m → ∀ p ∈ cmoRows, Answers (p.1 t ra true target) s (CmoQueued t 0 .wb none p.2 true target.toNat v s)) ∧
      (target = 3 ∨ (sw = true ∧ a.level ≠ .m) → ∀ p ∈ cmoRows, ∀ pa mt entry, EntryOpen t (sStar a) ⟨0, 0, 0, a.pc⟩ s pa mt entry →
        Answers (p.1 t ra sw target) s (Enters t (sStar a) ⟨0, 0, 0, a.pc⟩ pa entry s)) ∧
      (∀ pa mt tg, target ≠ 3 → x2One s.mem h t ⟨.cmo, 4, true, true, false, false⟩ (v &&& ~~~63) 64 0 = .ok [⟨pa, mt, tg, 64, 0⟩] →
        Answers (.cmoClean t ra false target) s (CmoQueued t pa mt (some tg) 0 false target.toNat v s) ∧
        Answers (.cmoCleanInvalidate t ra false target) s (CmoQueued t pa mt (some tg) 2 false target.toNat v s) ∧
        (a.level = .u → Answers (.cmoInvalidate t ra false target) s (CmoQueued t pa mt (some tg) 2 false target.toNat v s)))) ∧
    (∀ (e : SbEntry) (arg : Word) (k : Nat), (h.thread t).b.sb.head? = some e → e.kind = .cmo 2 false 0 arg → e.mtype = .wb →
      (∃ tg, e.tg = some tg ∧ tg ≠ .reg) → h.drainTurn t = true → (h.thread t).b.outOn e.line = false →
      (h.thread t).b.pendingOn e.ord e.line (BitVec.allOnes 64) = false → e.line ∉ (h.core (coreOf t)).wbuf → h.l1dKey (coreOf t) e.line = some k →
      Answers (.storeBufferDrain t 0) s fun u => u.mem = s.mem ∧ u.hw.newest = s.hw.newest ∧ Popped t s u ∧
        sfind k (u.hw.core (coreOf t)).l1d.lines = none)

/-- R100: the TLBI functions with their lowest levels. -/
def Sys2Proof.Claims.tlbiRows : List ((Nat → Reg → Reg → Instr) × Nat × Nat) :=
  [(.tlbiVmidStage1, 0, 1), (.tlbiVaAsid, 1, 1), (.tlbiAsid, 2, 1), (.tlbiVa, 3, 1), (.tlbiIaVmid, 4, 2), (.tlbiVmid, 5, 2), (.tlbiAll, 6, 2)]

/-- R196: the TLB entries that a TLBI removes. Level 9 of an entry's stage 1 says that stage 1 was off. -/
def Sys2Proof.Claims.Matches (q : Tlbi) (e : TlbEntry) : Prop :=
  let world := e.secure = q.secure ∧ (q.secure = true ∨ e.vmid = q.vmid)
  let covers := e.vpn / 512 ^ e.size = q.a.toNat / 4096 / 512 ^ e.size
  (q.fn = 0 ∧ world ∧ e.s1lvl ≠ 9) ∨ (q.fn = 1 ∧ world ∧ covers ∧ (e.glob = true ∨ e.asid = q.b.toNat % 2 ^ 16)) ∨
    (q.fn = 2 ∧ world ∧ e.glob = false ∧ e.asid = q.b.toNat % 2 ^ 16) ∨ (q.fn = 3 ∧ world ∧ covers) ∨
    ((q.fn = 4 ∨ q.fn = 5) ∧ e.secure = false ∧ e.vmid = q.b.toNat % 2 ^ 16) ∨ (q.fn = 6 ∧ (q.lvl = .m ∨ e.secure = false))

/-- TLB invalidation (R100, R109, R196): a TLBI is held with its scope, below its level it is an illegal instruction; it completes once
earlier stores are performed, nothing older is in flight and no other node is asked, and no core holds an entry that it covers. -/
def Obligations.TlbInvalidation : Prop :=
  ∀ (t : Nat) (ra rb : Reg) (s : State), s.hw.off = false →
    let h := s.hw
    let a := (h.thread t).a
    (h.ready t [] .solo = true → ∀ p ∈ tlbiRows,
      (p.2.2 ≤ Level.num a.level → Answers (p.1 t ra rb) s fun u => OnlyThread t s u ∧ (u.hw.thread t).a = a ∧
        (u.hw.thread t).b.tlbi = some ⟨p.2.1, a.rg ra, a.rg rb, a.level,
          if a.level = .m then !(a.crAt 0xC04).getLsbD 1 else if a.level = .h then false else a.secure, (a.crAt 0x804).toNat, false, []⟩) ∧
      (Level.num a.level < p.2.2 → ∀ pa mt entry, EntryOpen t (sStar a) ⟨0, 0, 0, a.pc⟩ s pa mt entry →
        Answers (p.1 t ra rb) s (Enters t (sStar a) ⟨0, 0, 0, a.pc⟩ pa entry s))) ∧
    (∀ q, (h.thread t).b.tlbi = some q → q.fn < 7 → q.removed = false → h.storesDone t = true →
      h.others = [] → (∀ p ∈ h.gtags, p.2.who ≠ .tlbi t) → (∀ c ∈ h.cores, c.2.walkers = []) →
      (∀ x ∈ h.threads, (∀ o ∈ x.2.b.longs, o.ready = true) ∧ x.2.b.sb = [] ∧ x.2.b.vstWait = [] ∧ x.2.b.outs = [] ∧ x.2.b.ext = [] ∧
        x.2.b.fext = []) → (∀ x ∈ h.slices, x.2.ctxs = [] ∧ x.2.walkers = []) →
      Answers (.tlbiComplete t) s fun u => u.mem = s.mem ∧ (u.hw.thread t).b.tlbi = none ∧ (u.hw.thread t).a.pc = pcAfter a ∧
        KeepsRest a (u.hw.thread t).a ∧ (u.hw.thread t).a.g = a.g ∧
        ∀ c e, (e ∈ (u.hw.core c).itlb ↔ e ∈ (h.core c).itlb ∧ ¬Matches q e) ∧ (e ∈ (u.hw.core c).dtlb ↔ e ∈ (h.core c).dtlb ∧ ¬Matches q e) ∧
          ∀ k, (k, e) ∈ (u.hw.core c).tlb ↔ (k, e) ∈ (h.core c).tlb ∧ ¬Matches q e)

/-! ### Requests to shared engines (R94 to R97, R248, R305, R390) -/

/-- R97: the INST instructions that send an operand. -/
def Sys2Proof.Claims.instRows : List ((Nat → Reg → Reg → Reg → Instr) × Nat) :=
  [(.instQuiesce, 0), (.instReset, 1), (.instCreate, 2), (.instRemove, 4)]

/-- The 64-byte descriptor at va has passed X2 as cached memory, no store of the thread's to its line is on its way, and the core's L1D holds the
line: ws with the thread's own buffered stores (R59, R68, R94). -/
def Sys2Proof.Claims.Described (t : Nat) (va : Word) (s : State) (ws : List Word) : Prop :=
  ∃ pa mt tg, x2All s.mem s.hw t ⟨.desc, 64, false, false, false, false⟩ [(va, 64, 0)] = .ok [⟨pa, mt, tg, 64, 0⟩] ∧ IsMemory tg ∧
    (mt = .wb ∨ mt = .wt) ∧ pa.toNat % 64 = 0 ∧ (s.hw.thread t).b.ext = [] ∧ (s.hw.thread t).b.outOn (lineNo pa) = false ∧
    HeldL1d (coreOf t) (lineNo pa) (s.hw.thread t).acc s.hw ∧ ws = (List.range 8).map (vword (ownLine s.mem s.hw t pa))

/-- QRESV, QREL, QQUERY, CHURN.POST and the INST instructions (R94 to R97, R248, R390): each is a long operation whose request leaves for the
admission controller or for the instance's queue slice; those of H and above are illegal below. -/
def Obligations.EngineRequests : Prop :=
  ∀ (t : Nat) (rd ra rb : Reg) (s : State), s.hw.off = false →
    let h := s.hw
    let a := (h.thread t).a
    let x := h.thread t
    let upper := a.level = .h ∨ a.level = .m
    let i := (a.rg ra).toNat % 512
    let asks := fun (k : LongKind) (op : Nat) (opnd : Word) (bytes : Option (List Word)) (u : State) => ∃ id,
      AwaitsAnswer t (destG rd) k id s u ∧ Sends (.instReq (i / 8) ⟨t, id, op, i, opnd, bytes, x.acc, !(a.crAt 0xC04).getLsbD 1, ⟨x.acc, a.ctx⟩⟩)
        (chamberStop (t / 16)) (chamberStop (i / 8)) s u
    (h.ready t [destG ra] .memLong = true →
      (upper → ∀ p ∈ ([(.qrel, 1), (.qquery, 2)] : List ((Nat → Reg → Reg → Instr) × Nat)), Answers (p.1 t rd ra) s fun u => ∃ id,
        AwaitsAnswer t (destG rd) .adm id s u ∧
          Sends (.adm ⟨t, id, p.2, a.rg ra, []⟩) (chamberStop (t / 16)) (blockStop .admission) s u) ∧
      (upper → (a.rg ra).toNat % 64 = 0 → ∀ ws, Described t (a.rg ra) s ws → Answers (.qresv t rd ra) s fun u => ∃ id,
        AwaitsAnswer t (destG rd) .adm id s u ∧
          Sends (.adm ⟨t, id, 0, 0, ws⟩) (chamberStop (t / 16)) (blockStop .admission) s u) ∧
      (¬upper → ∀ c ∈ ([.qresv, .qrel, .qquery] : List (Nat → Reg → Reg → Instr)), ∀ pa mt entry,
        EntryOpen t .s ⟨0, 0, 0, a.pc⟩ s pa mt entry → Answers (c t rd ra) s (Enters t .s ⟨0, 0, 0, a.pc⟩ pa entry s))) ∧
    (h.ready t [destG ra, destG rb] .memLong = true →
      (h.hasCredit 0 (t / 16) (i / 8) = true →
        (upper → ∀ p ∈ instRows, Answers (p.1 t rd ra rb) s (asks .inst p.2 (a.rg rb) none)) ∧
        ((a.rg rb).toNat % 64 = 0 → ∀ ws, Described t (a.rg rb) s ws →
          Answers (.churnPost t rd ra rb) s (asks .churn 5 0 (some ws)) ∧
          (upper → Answers (.instBind t rd ra rb) s (asks .inst 3 0 (some ws))))) ∧
      (¬upper → ∀ p ∈ instRows, ∀ pa mt entry,
        EntryOpen t .s ⟨0, 0, 0, a.pc⟩ s pa mt entry → Answers (p.1 t rd ra rb) s (Enters t .s ⟨0, 0, 0, a.pc⟩ pa entry s)))

/-! ### Fetch, walks and caches (chapters 05, 07, 08) -/

/-- Word i of a line. -/
def Sys2Proof.Claims.lineWord (v : Vec) (pa : Word) : BitVec 32 := v.extractLsb' (8 * (pa.toNat % 64)) 32

/-- Fetch and translation (R104, R116, R148, R167, R181, R184, R199, R218, R400): a block from L1I, or from a fill that L1I does not take,
enters the instruction queue at the fetch address; a micro-TLB is refilled from the TLB; a walk whose reads are all back makes a TLB entry
or a fault; a predictor clear ends; M consumes a rescue frame. -/
def Obligations.FetchAndTranslation : Prop :=
  (∀ (t k : Nat) (pa : Word) (mt : MemType) (l : CLine) (s : State), s.hw.off = false →
    let h := s.hw
    let core := coreOf t
    let f := (h.thread t).f
    core < numCores → (h.core core).clearing = false → (h.core core).redirect = [] → (h.core core).lastF1 = (t + 3) % 4 →
    h.fetches s.mem t = true → f.held < 8 →
    fetchXlate s.mem h t = .ok [⟨pa, mt, .ddr, 4, 0⟩] → mt = .wb → (h.core core).l1i.en = true → pa.toNat % 4 = 0 →
    (h.core core).l1i.look geoL1I (Word.fld f.fetchPc 13 6) (lineNo pa) = some k → sfind k (h.core core).l1i.lines = some l →
    (h.thread t).acc.admits l.own = true → l.bad = false →
    Answers (.fetchBlock core) s fun u => u.mem = s.mem ∧ u.hw.newest = h.newest ∧ OthersKeep t s u ∧ (u.hw.thread t).a = (h.thread t).a ∧
      (u.hw.core core).lastF1 = t % 4 ∧ ∃ e r, (u.hw.thread t).f.iq = f.iq ++ e :: r ∧ e.pc = f.fetchPc ∧ e.flt = none ∧
        e.word = lineWord (lineVal s.mem h (lineNo pa)) pa) ∧
  (∀ (core : Nat) (s : State), s.hw.off = false → core < numCores → Answers (.predictorClearEnd core) s fun u => u.mem = s.mem ∧
    u.hw.threads = s.hw.threads ∧ (u.hw.core core).clearing = false ∧ (u.hw.core core).second = [] ∧ (u.hw.core core).indirect = [] ∧
    ∀ c, c ≠ core → u.hw.core c = s.hw.core c) ∧
  (∀ (t : Nat) (va : Word) (acc : Access) (r : Regime) (e : TlbEntry) (s : State), s.hw.off = false →
    let x := s.hw.thread t
    let c := s.hw.core (coreOf t)
    let g : Wcfg := ⟨s.hw, r.acc, r.ctx, [], acc, va⟩
    let hits := fun e : TlbEntry => e.hits r.acc.secure g.vmid g.asid va
    x.b.replay = some ⟨va, acc, r⟩ → x.b.walkEnds = [] → (∀ d ∈ c.dtlb, hits d = false) → (c.tlb.map (·.2)).filter hits = [e] →
    Answers (.microTlbRefill t false) s fun u => u.mem = s.mem ∧ OthersKeep t s u ∧ (u.hw.thread t).a = x.a ∧
      (u.hw.thread t).b.replay = none ∧ (u.hw.core (coreOf t)).dtlb = (e :: c.dtlb).take 48) ∧
  (∀ (core w : Nat) (k : Walker) (d : Option Word) (s : State), s.hw.off = false →
    sfind w (s.hw.core core).walkers = some k → k.discard = false → k.data = some d →
    let ans := k.answers ++ [d]
    (∀ l1 l2 st n, walkBoth (k.cfg s.hw) (ans, []) = .ok (l1, l2) st → l1.a = true → l2.a = true → sfree (s.hw.core core).tlb 0 256 = some n →
      Answers (.walkReadReturn core w false) s fun u => u.mem = s.mem ∧ u.hw.threads = s.hw.threads ∧
        sfind w (u.hw.core core).walkers = none ∧ sfind n (u.hw.core core).tlb = some (tlbEntry (k.cfg s.hw) l1 l2)) ∧
    (∀ f qs, walkBoth (k.cfg s.hw) (ans, []) = .flt f qs → Answers (.walkReadReturn core w false) s fun u => u.mem = s.mem ∧
      sfind w (u.hw.core core).walkers = none ∧ (u.hw.core core).tlb = (s.hw.core core).tlb ∧
      (u.hw.thread k.thread).b.walkEnds.head? = some ⟨k.va.toNat / 4096, k.access, k.reg.acc.lvl, some f, none⟩)) ∧
  (∀ (t : Nat) (lvl : Level) (value : Word) (s : State), s.hw.off = false → t < numThreads → Answers (.rescueUsed t lvl value) s fun u =>
    u.mem = s.mem ∧ u.hw.threads = s.hw.threads ∧
      u.hw.regs = if lvl = .m ∧ value.getLsbD 0 = true then sset (rescueReg t 0x50) 0 s.hw.regs else s.hw.regs) ∧
  (∀ (core reg t : Nat) (q : Miss) (pa : Word) (mt : MemType) (tg : Target) (s : State), s.hw.off = false → coreOf t = core →
    sfind reg (s.hw.core core).imiss = some q → q.ready = true → q.err = 0 → q.bad = false → q.alloc = false → (s.hw.core core).clearing = false →
    presBit q.l1s (t % 4) = true → (s.hw.thread t).f.held < 8 → (∀ x, coreOf x = core → x ≠ t → (s.hw.thread x).run ≠ .running) → fetchXlate s.mem s.hw t = .ok [⟨pa, mt, tg, 4, 0⟩] →
    lineNo pa = q.line → pa.toNat % 4 = 0 → (s.hw.thread t).run = .running → (s.hw.thread t).f.fetchStop = false →
    (s.hw.thread t).f.iq.length < 16 → s.hw.judgePA (s.hw.thread t).acc pa 4 = true →
    Answers (.l1iFill core reg) s fun u => u.mem = s.mem ∧ u.hw.newest = s.hw.newest ∧ OthersKeep t s u ∧
      sfind reg (u.hw.core core).imiss = none ∧ ∃ e r, (u.hw.thread t).f.iq = (s.hw.thread t).f.iq ++ e :: r ∧
        e.pc = (s.hw.thread t).f.fetchPc ∧ e.word = lineWord (lineVal s.mem s.hw q.line) pa)

/-- No request of a chamber waits at its L2, but for the registers of one core. -/
def Sys2Proof.Claims.QuietChamber (h : Hw) (c core : Nat) : Prop :=
  (∀ i, i < 4 → 4 * c + i ≠ core → (h.core (4 * c + i)).dmiss = [] ∧ (h.core (4 * c + i)).imiss = []) ∧ (h.core core).imiss = []

/-- Lines inside a chamber (R123, R200 to R202, R204 to R209, R211, R212): a fill of L1D allocates its line and delivers a load that waits;
a fill of L2 allocates its line and lets the core's register go on; a snooped L1D copy goes or becomes S; a written back line is M in L2;
CACHECTL_M enables, refuses, and starts a cleaning, whose end disables and completes the write that started it. -/
def Obligations.ChamberCaches : Prop :=
  (∀ (t reg k w : Nat) (q : Miss) (o : LongOp) (p : Part) (x : CLine) (s : State), s.hw.off = false →
    let h := s.hw
    let core := coreOf t
    sfind reg (h.core core).dmiss = some q → q.ready = true → q.err = 0 → q.alloc = true → (h.core core).l1d.en = true →
    h.l2Line (chamberOf core) q.line = some x → (x.st = .m ∨ x.st = .e) → x.bad = false →
    (∀ i, i < 4 → (h.l1dKey (4 * chamberOf core + i) q.line) = none) →
    (h.core core).walkers = [] → (h.core core).l1d.pick geoL1D (q.line % 128) = some w → k = q.line % 128 * 8 + w → sfind k (h.core core).l1d.lines = none →
    (∀ y, coreOf y = core → y ≠ t → (h.thread y).b.longs = [] ∧ (h.thread y).b.ext = []) → (h.thread t).b.longs = [o] → (h.thread t).b.ext = [] → (h.thread t).b.parked = none →
    o.kind = .load → o.amo = none → o.bad = false → o.parts = [p] → p.done = false → p.off = 0 → p.len = o.size → p.mt = .wb →
    lineNo p.pa = q.line → p.pa.toNat % 64 + p.len ≤ 64 → h.judgePA o.acc p.pa 1 = true →
    Answers (.l1dFill core reg) s fun u => u.mem = s.mem ∧ u.hw.newest = h.newest ∧ OthersKeep t s u ∧ (u.hw.thread t).a = (h.thread t).a ∧
      sfind k (u.hw.core core).l1d.lines = some ⟨q.line, .e, q.own, 0, false⟩ ∧ sfind reg (u.hw.core core).dmiss = none ∧
      ∃ o', (u.hw.thread t).b.longs = [o'] ∧ o'.id = o.id ∧ o'.dest = o.dest ∧ o'.ready = true ∧
        o'.val = (loadedValue o.signed (newestBytes s p.pa p.len)).setWidth 512) ∧
  (∀ (core reg r w k : Nat) (q d : Miss) (s : State), s.hw.off = false →
    let h := s.hw
    let c := chamberOf core
    core < numCores → (h.chamber c).miss = [(reg, q)] → (h.chamber c).wbuf = [] → q.ready = true → q.err = 0 → q.alloc = true →
    (h.chamber c).l2.en = true → h.l2Key c q.line = none → (h.chamber c).l2.pick geoL2 (q.line % 4096) = some w →
    k = q.line % 4096 * 16 + w → sfind k (h.chamber c).l2.lines = none → QuietChamber h c core → (h.core core).dmiss = [(r, d)] →
    d.line = q.line → d.ready = false → d.atPort = false → d.unique = false → (∀ i, i < 4 → q.line ∉ (h.core (4 * c + i)).wbuf) → (∀ i, i < 4 → h.l1dKey (4 * c + i) q.line = none) →
    Answers (.l2Fill c reg) s fun u => u.mem = s.mem ∧ u.hw.newest = h.newest ∧ u.hw.threads = h.threads ∧ (u.hw.chamber c).miss = [] ∧
      sfind k (u.hw.chamber c).l2.lines = some ⟨q.line, if q.unique then (if q.dirty then .m else .e) else .s, q.own, 0, q.bad⟩ ∧
      (u.hw.core core).dmiss = [(r, { d with ready := true, own := q.own, bad := q.bad })]) ∧
  (∀ (core k : Nat) (line : Word) (unique : Bool) (x : CLine) (s : State), s.hw.off = false → core < numCores →
    s.hw.l1dKey core line.toNat = some k → sfind k (s.hw.core core).l1d.lines = some x → (x.st = .m ∨ x.st = .e) →
    s.hw.portPick core = some (.snoop line.toNat unique) → s.hw.l2Accepts (chamberOf core) = true →
    Answers (.l1dSnoop core line unique) s fun u => u.mem = s.mem ∧ u.hw.newest = s.hw.newest ∧ u.hw.threads = s.hw.threads ∧
      (if unique then sfind k (u.hw.core core).l1d.lines = none else ∀ y, sfind k (u.hw.core core).l1d.lines = some y → y.st = .s)) ∧
  (∀ (core l k : Nat) (r : List Nat) (s : State), s.hw.off = false → core < numCores → (s.hw.core core).wbuf = l :: r → s.hw.portPick core = some (.wb l) → s.hw.l2Accepts (chamberOf core) = true →
    s.hw.l2Key (chamberOf core) l = some k → QuietChamber s.hw (chamberOf core) core → (s.hw.core core).dmiss = [] →
    (s.hw.chamber (chamberOf core)).miss = [] →
    Answers (.l1dWriteback core) s fun u => u.mem = s.mem ∧ u.hw.newest = s.hw.newest ∧ u.hw.threads = s.hw.threads ∧
      l ∉ (u.hw.core core).wbuf ∧ ∃ x, sfind k (u.hw.chamber (chamberOf core)).l2.lines = some x ∧ x.st = .m) ∧
  (∀ (t : Nat) (v : Word) (s : State), s.hw.off = false → t < numThreads → (s.hw.thread t).a.level = .m →
    let h := s.hw
    let core := coreOf t
    let c := t / 16
    let x := h.core core
    (h.chamber c).clean = none → v.getLsbD 6 = false → v.getLsbD 0 = x.l1i.en → v.getLsbD 2 = true → (h.chamber c).l2.en = true →
    (v.getLsbD 1 = true → x.l1d.en = false → Answers (.cachectlM t v) s fun u => u.mem = s.mem ∧ u.hw.threads = h.threads ∧
      if x.l1d.inv 1024 then (u.hw.core core).l1d.en = true ∧ (u.hw.core core).refused = x.refused
      else (u.hw.core core).l1d.en = false ∧ (u.hw.core core).refused = true) ∧
    (v.getLsbD 1 = false → x.l1d.en = true → Answers (.cachectlM t v) s fun u => u.mem = s.mem ∧ u.hw.threads = h.threads ∧
      (u.hw.core core).l1d = x.l1d ∧ (u.hw.chamber c).clean = some ⟨t, h.readCr t 0xC06, core, false, true, false, 0⟩)) ∧
  (∀ (t core : Nat) (old : Word) (s : State), s.hw.off = false →
    (s.hw.chamber (chamberOf core)).clean = some ⟨t, old, core, false, true, false, 0⟩ →
    Answers (.cacheDisableCleanComplete (chamberOf core)) s fun u => u.mem = s.mem ∧ u.hw.newest = s.hw.newest ∧
      ((s.hw.thread t).b.solo = none → u.hw.threads = s.hw.threads) ∧
      (∀ rd ra, (s.hw.thread t).b.solo = some (.crw t rd ra 0xC06) → OthersKeep t s u ∧ (u.hw.thread t).b.solo = none ∧
        WritesG (s.hw.thread t).a (u.hw.thread t).a rd old ∧ (u.hw.thread t).a.pc = pcAfter (s.hw.thread t).a) ∧ (u.hw.chamber (chamberOf core)).clean = none ∧ (u.hw.core core).l1d.en = false ∧
      (u.hw.core core).l1d.lines = [] ∧ (u.hw.core core).l1d.cov = 0)

/-! ### Vat slices (chapter 09) -/

/-- One request of a chamber stands in a slice's intake, for a line of this node that it may have, with no other member of the group, and
nothing else of the slice is in progress. -/
def Sys2Proof.Claims.OneRequest (slice : Nat) (r : SReq) (c reg : Nat) (s : State) : Prop :=
  let x := s.hw.slice slice
  slice < numSlices ∧ x.stopped = false ∧ x.intake = [r] ∧ x.txns = [] ∧ x.snps = [] ∧ s.hw.wbbEntry slice r.line = none ∧ r.src = .chamber c reg ∧ c < 72 ∧ r.cream = false ∧ r.fetch = false ∧
    s.hw.localLine r.line = true ∧ s.hw.judge r.acc (lineLocal r.line) (if r.kind = .readShared then 1 else 2) = true ∧ s.hw.others = [] ∧
    x.dirLook r.line = none

/-- The request is answered: the fill leaves for the chamber that asked, nothing of the request remains, memory and newest values stay. -/
def Sys2Proof.Claims.Granted (slice c reg line : Nat) (unique dirty : Bool) (s u : State) : Prop :=
  u.mem = s.mem ∧ u.hw.newest = s.hw.newest ∧ u.hw.threads = s.hw.threads ∧ (u.hw.slice slice).intake = [] ∧ (u.hw.slice slice).txns = [] ∧
    Sends (.fill c reg unique dirty (s.hw.lineOwner line) (s.hw.poisoned line) 0) (chamberStop slice) (chamberStop c) s u

/-- Requests at a slice (R224 to R230, R237, R238): a read of a line that only the Vat holds is answered from it: shared as E with the Vat's
copy kept, unique with the copy gone and its dirt passed on; an upgrade of the only holder is granted; one that nobody holds is asked of
memory; memory's fill is passed on. -/
def Obligations.VatAnswersRequests : Prop :=
  ∀ (slice c reg : Nat) (r : SReq) (s : State), s.hw.off = false → OneRequest slice r c reg s →
    let h := s.hw
    let x := h.slice slice
    let dirty := fun w : VatWay => w.st == .m || w.st == .o
    let place := ∃ n, n < 16 ∧ x.sfPlace r.line = (vatSet r.line * 16 + n, none)
    (∀ w, h.vatLine slice r.line = some w → h.sfForm slice r.line = none → h.dirtyBad c r.line = none → place →
      (r.kind = .readShared → ∀ i ∈ [Instr.readShared slice, .lineOrderRelease slice], Answers i s fun u =>
        Granted slice c reg r.line true false s u ∧ u.hw.vatLine slice r.line = some { w with age := 0 } ∧
          u.hw.sfForm slice r.line = some (.one c true)) ∧
      (r.kind = .readUnique → ∀ i ∈ [Instr.readUnique slice, .lineOrderRelease slice], Answers i s fun u =>
        Granted slice c reg r.line true (dirty w) s u ∧ u.hw.sfForm slice r.line = some (.one c true))) ∧
    (r.kind = .upgrade → (h.l2Line c r.line).isSome → h.vatLine slice r.line = none → h.sfForm slice r.line = some (.one c false) →
      ∀ i ∈ [Instr.upgrade slice, .lineOrderRelease slice], Answers i s fun u =>
        Granted slice c reg r.line true false s u ∧ u.hw.sfForm slice r.line = some (.one c true)) ∧
    (h.vatLine slice r.line = none → h.sfForm slice r.line = none → place →
      lineLocal r.line < 0x0C0000000000 → h.poolDie r.line = none → h.hasCredit 9 slice (h.mcOf r.line) = true → r.kind = .readShared →
      Answers (.readShared slice) s fun u => u.mem = s.mem ∧ u.hw.newest = h.newest ∧ (u.hw.slice slice).intake = [] ∧
        Sends (.memRead (h.mcOf r.line) slice r.line r.acc) (chamberStop slice) (mcStop (h.mcOf r.line) r.line) s u ∧
        ∃ y, (u.hw.slice slice).txns = [y] ∧ y.req = r ∧ y.asked = true)

/-- A fill from memory reaches its slice and answers the read that asked for it (R225, R238). -/
def Sys2Proof.Claims.vatMemoryFill : Prop :=
  ∀ (slice c reg : Nat) (f : Fill) (q : List Fill) (x : Txn) (s : State), s.hw.off = false →
    let h := s.hw
    (h.slice slice).fills = f :: q → (h.slice slice).txns = [x] → x.req.line = f.line → x.asked = true → f.err = 0 → x.poolMiss = false → x.unread = false →
    x.settled = true → x.dirty = false → x.req.kind = .readUnique → x.req.src = .chamber c reg → x.req.cream = false → h.vatLine slice f.line = none →
    Answers (.memoryFill slice) s fun u => u.mem = s.mem ∧ u.hw.newest = h.newest ∧ (u.hw.slice slice).fills = q ∧
      (u.hw.slice slice).txns = [] ∧ sget 0 f.mc (u.hw.slice slice).tokens = sget 0 f.mc (h.slice slice).tokens - 1 ∧
      Sends (.fill c reg true false (h.lineOwner f.line) f.bad 0) (chamberStop slice) (chamberStop c) s u

/-- Snoops and their answers (R200, R227 to R229, R236): a chamber with no L1 copy loses the snooped L2 line and says whether it was dirty;
the answer of one of several holders is taken off the list. -/
def Sys2Proof.Claims.vatSnoops : Prop :=
  (∀ (slice c l k : Nat) (x : CLine) (s : State), s.hw.off = false →
    let h := s.hw
    c < numChambers → (h.chamber c).snoops = [(slice, l, 1)] → (h.chamber c).stopped = false → h.fillComing c l = false →
    (∀ p ∈ (h.chamber c).wbuf, p.1 ≠ l) → h.l2Key c l = some k → sfind k (h.chamber c).l2.lines = some x →
    (∀ i, i < 4 → h.l1dKey (4 * c + i) l = none ∧ l ∉ (h.core (4 * c + i)).wbuf ∧ l1iKeys (h.core (4 * c + i)).l1i l = []) →
    let gone := fun u : State => u.mem = s.mem ∧ u.hw.newest = h.newest ∧ (u.hw.chamber c).snoops = [] ∧
      sfind k (u.hw.chamber c).l2.lines = none ∧
      Sends (.snpAns slice c l (match x.st with | .m => 1 | .o => 4 | .e => 3 | .s => 0)) (chamberStop c) (chamberStop slice) s u
    ((∀ y ∈ (h.slice slice).txns, y.started = true) → Answers (.snoop slice c) s gone) ∧
    ((∃ y ∈ (h.slice slice).txns, y.started = false ∧ y.victimLine = l ∧ y.victims ≠ []) → Answers (.backInvalidation slice c) s gone)) ∧
  (∀ (slice c d l ans : Nat) (x : Txn) (s : State), s.hw.off = false → slice < numSlices →
    ans ∈ [0, 1, 3, 4] → (s.hw.slice slice).answers = [(c, l, ans)] → (s.hw.slice slice).txns = [x] → (s.hw.slice slice).snps = [] → x.wr = false →
    x.req.line = l → x.req.kind = .readUnique →
    x.started = true → x.victims = [] → x.unsent = [] → d ∈ x.snoops → d ≠ c →
    Answers (.snoopAnswer slice c) s fun u => u.mem = s.mem ∧ u.hw.newest = s.hw.newest ∧ (u.hw.slice slice).answers = [] ∧
      (u.hw.slice slice).txns = [{ x with snoops := x.snoops.filter (· != c), dirty := x.dirty || ans == 1 || ans == 4, got := x.got || ans == 1 || ans == 3 }] ∧ u.hw.flits = s.hw.flits)

/-- Fills and snoops of a slice (R200, R225, R227 to R229, R236, R238): a fill from memory reaches its slice and answers the read that asked; a
chamber with no L1 copy loses the snooped L2 line and says whether it was dirty; the answer of one of several holders is taken off the list. -/
def Obligations.VatFillsAndSnoops : Prop := vatMemoryFill ∧ vatSnoops

/-- Lines that leave a chamber, and CMOs at the point of coherence (R215, R217, R225, R234, R236): a dirty writeback of the last holder is M
in the Vat; a clean notice only updates the filter; the write-back buffer's entry is issued to its controller; a CMO writes the newest
value to memory unless it invalidates, and no newer value remains. -/
def Obligations.VatWritebacksAndMaintenance : Prop :=
  (∀ (slice c l k up : Nat) (o dirty : Bool) (s : State), s.hw.off = false →
    let h := s.hw
    slice < numSlices → (h.slice slice).stopped = false → (h.slice slice).wbIn = [(c, l, dirty)] → (h.slice slice).rwbIn = [] →
    (h.slice slice).txns = [] → (h.slice slice).snps = [] → h.wbbEntry slice l = none →
    h.sfForm slice l = some (.one c o) → (h.slice slice).look l = none →
    (∀ p ∈ (h.slice slice).sf, ∀ q ∈ (h.slice slice).sf, p.2.line = l → q.2.line = l → p = q) →
    (let left := fun u : State => u.mem = s.mem ∧ u.hw.newest = h.newest ∧ (u.hw.slice slice).wbIn = [] ∧ u.hw.sfForm slice l = none ∧
       ∀ p ∈ (u.hw.chamber c).wbuf, p.1 ≠ l
     (dirty = true → (h.slice slice).victim (vatSet l) = some (k, up) → sfind k (h.slice slice).ways = none → h.heldAway l none = false →
       ∀ bad, sfind l h.carried = some bad →
       Answers (.writeback slice) s fun u => left u ∧ sfind k (u.hw.slice slice).ways = some ⟨l, .m, 1, 0, bad⟩) ∧
     (dirty = false → Answers (.cleanEviction slice) s fun u => left u ∧ (u.hw.slice slice).ways = (h.slice slice).ways))) ∧
  (∀ (slice e : Nat) (w : WbbEntry) (s : State), s.hw.off = false →
    let h := s.hw
    slice < numSlices → sfind e (h.slice slice).wbb = some w → w.issued = false → h.localLine w.line = true →
    (lineLocal w.line < 0x0C0000000000 → h.poolDie w.line = none → h.hasCredit 10 slice (h.mcOf w.line) = true →
      Answers (.writeBackBufferIssue slice e) s fun u => u.mem = s.mem ∧ sfind e (u.hw.slice slice).wbb = some { w with issued := true } ∧
        Sends (.memWrite (h.mcOf w.line) slice e w.line w.data w.bad) (chamberStop slice) (mcStop (h.mcOf w.line) w.line) s u) ∧
    (0x0C0000000000 ≤ lineLocal w.line → (h.slice slice).txns = [] → Memory.wf s.mem = true → Answers (.writeBackBufferIssue slice e) s fun u =>
      sfind e (u.hw.slice slice).wbb = none ∧ ∀ a, memGet u.mem a = if lineLocal w.line ≤ a ∧ a < lineLocal w.line + 64
        then vbyte w.data (a - lineLocal w.line) else memGet s.mem a)) ∧
  (∀ (slice t op : Nat) (r : SReq) (s : State), s.hw.off = false →
    let h := s.hw
    slice < numSlices → (h.slice slice).stopped = false → (h.slice slice).intake = [r] → (h.slice slice).txns = [] →
    (h.slice slice).snps = [] → h.cmoHeld r.line = false → r.cream = false → r.kind = .cmo op → op < 3 → r.src = .thread t → h.localLine r.line = true → h.others = [] → Memory.wf s.mem = true →
    Answers (.cmoRequest slice) s fun u => sfind r.line u.hw.newest = none ∧
      Sends (.cmoDone t) (chamberStop slice) (chamberStop (t / 16)) s u ∧
      ∀ a, memGet u.mem a = if op ≠ 1 ∧ lineLocal r.line ≤ a ∧ a < lineLocal r.line + 64
        then vbyte (lineVal s.mem h r.line) (a - lineLocal r.line) else memGet s.mem a)

/-! ### Mesh and memory controllers (chapters 11, 12) -/

/-- The mesh (R237, R284, R288 to R294): a lone message moves to the next stop of its route, or reaches its destination and leaves the mesh;
a store of Device memory changes the bytes that it names; a freed entry's credit returns; an aged message whose link grants another raises its
channel's mark, which ends when none is left; a frame restarts its count; a Skim request becomes Whole. -/
def Obligations.MeshMoves : Prop :=
  (∀ (f : Flit) (dir n : Nat) (s : State), s.hw.off = false → s.hw.flits = [f] → f.vc < 4 → f.input < 6 → f.at_ < 160 →
    s.hw.meshRuns = true → nextMove f.at_ f.dst = (dir, n) →
    (dir < 5 ∨ dir = 6 → Answers (.flitHop f.at_ dir) s fun u => u.mem = s.mem ∧ u.hw.threads = s.hw.threads ∧
      u.hw.flits = [{ f with at_ := n, stage := stageAfter f.stage f.at_ dir n, input := inputAfter dir }]) ∧
    (∀ sl r, dir = 5 → f.payload = .req sl r → Answers (.flitHop f.at_ dir) s fun u => u.mem = s.mem ∧ u.hw.flits = [] ∧
      (u.hw.slice sl).intake = (s.hw.slice sl).intake ++ [r] ∧ ∀ k, k ≠ sl → u.hw.slice k = s.hw.slice k) ∧
    (∀ t i v, dir = 5 → f.payload = .answer t i v → (s.hw.chamber (t / 16)).clocked = true → sget [] (t / 16) s.hw.awayQ = [] → Answers (.flitHop f.at_ dir) s fun u => u.mem = s.mem ∧ u.hw.flits = [] ∧
      OthersKeep t s u ∧ (u.hw.thread t).a = (s.hw.thread t).a ∧
        (u.hw.thread t).b.longs = (s.hw.thread t).b.longs.map fun o =>
          if o.id = i then { o with ready := true, val := v.setWidth 512 } else o) ∧
    (∀ who tg acc bank vmid pa len d mask, dir = 5 → f.payload = .dev who tg acc bank vmid pa len (some (d, mask)) 0 →
      (tg = .ddr ∨ ∃ k, tg = .pool k) → s.hw.judge acc (pa.toNat % 2 ^ 48) 2 = true → Memory.wf s.mem = true →
      let base := lineLocal (lineNo pa)
      let off := pa.toNat % 64
      Answers (.flitHop f.at_ dir) s fun u => ∀ x, memGet u.mem x =
        if base ≤ x ∧ x < base + 64 ∧ (mask &&& maskOf off len).getLsbD (x - base) = true then vbyte d (x - base - off) else memGet s.mem x)) ∧
  (∀ (cls sender dest : Nat) (s : State), s.hw.off = false → cls ∉ [0, 6, 7, 9, 11, 12] →
    (∀ p ∈ s.hw.posts, ¬(p.cls = cls ∧ p.snd = sender ∧ p.dest = dest)) →
    let k := creditKey cls sender dest
    sget 0 k s.hw.freed ≠ 0 → Answers (.creditReturn cls sender dest) s fun u => u.mem = s.mem ∧
      u.hw = { s.hw with freed := sset k (sget 0 k s.hw.freed - 1) s.hw.freed, used := sset k (sget 0 k s.hw.used - 1) s.hw.used }) ∧
  (∀ (f : Flit) (s : State), s.hw.off = false → (s.hw.flits.filter fun g => g.id == f.id) = [f] → f.vc < 4 → f.input ≠ 9 →
    (∀ g ∈ s.hw.flits, g.aged = true → g.id = f.id) →
    Answers (.messageAged f.id) s fun u =>
      let lost := (u.hw.arbitrate f.at_ (nextMove f.at_ f.dst).1).map (·.id) ≠ some f.id
      u.mem = s.mem ∧ (u.hw.flits.filter fun g => g.id == f.id) = [{ f with age := max f.age 512 }] ∧
        (lost → sget 0 f.vc u.hw.throttle = 1) ∧
        (¬lost → u.hw.throttle = s.hw.throttle ∧ u.hw.regs = s.hw.regs) ∧
        (lost → sget 0 f.vc s.hw.throttle ≠ 1 → u.hw.reg (admReg 0x18) = s.hw.reg (admReg 0x18) + 1)) ∧
  (∀ (vc : Nat) (s : State), s.hw.off = false → Answers (.starvationThrottleEnd vc) s fun u => u.mem = s.mem ∧ u.hw.flits = s.hw.flits ∧
    if ∃ f ∈ s.hw.flits, f.vc = vc ∧ f.vc < 4 ∧ 512 ≤ f.age then u.hw = s.hw else sfind vc u.hw.throttle = none) ∧
  (∀ (resource : Nat) (s : State), s.hw.off = false → Answers (.creamFrameStart resource) s fun u =>
    u.mem = s.mem ∧ sget 0 resource u.hw.frames = 0 ∧ u.hw = { s.hw with frames := u.hw.frames } ∧
      ∀ k, k ≠ resource → sget 0 k u.hw.frames = sget 0 k s.hw.frames) ∧
  (∀ (resource index : Nat) (s : State), s.hw.off = false →
    (∀ r, resource < 72 → (s.hw.slice resource).intake[index]? = some r → r.weight = 0 → Answers (.skimPromotion resource index) s fun u =>
      u.mem = s.mem ∧ (u.hw.slice resource).intake = (s.hw.slice resource).intake.set index { r with weight := 1 }) ∧
    (72 ≤ resource → resource < 144 → index < 512 → (s.hw.inst index).weight = 0 → Answers (.skimPromotion resource index) s fun u =>
      u.mem = s.mem ∧ u.hw.inst index = { s.hw.inst index with promoted := true }) ∧
    (∀ r, 144 ≤ resource → resource < 160 → (s.hw.mc (resource - 144)).reads[index]? = some r → Answers (.skimPromotion resource index) s fun u =>
      u.mem = s.mem ∧ u.hw.mc (resource - 144) = { s.hw.mc (resource - 144) with promoted := (s.hw.mc (resource - 144)).promoted ++ [r.line] }))

/-- Demand reads and writes at a DDR controller (R234, R237, R238, R294): the only read, when its slice has a fill token, is answered to the slice;
the only write reaches memory, and its slice is told and frees the entry of the write-back buffer; no other byte changes. -/
def Obligations.ControllerReadsAndWrites : Prop :=
  (∀ (mc : Nat) (r : MRead) (s : State), s.hw.off = false →
    let h := s.hw
    mc < 12 → (h.mc mc).reads = [r] → (h.mc mc).writes = [] → h.creamLine r.slice r.line = false → (h.mc mc).failed = false →
    sget 0 mc (h.slice r.slice).tokens < 2 →
    Answers (.memoryRead mc ⟨[], []⟩ ⟨[], []⟩) s fun u => u.mem = s.mem ∧ u.hw.newest = h.newest ∧ (u.hw.mc mc).reads = [] ∧
      sget 0 mc (u.hw.slice r.slice).tokens = sget 0 mc (h.slice r.slice).tokens + 1 ∧
      Sends (.memData r.slice ⟨mc, r.line, h.memBad r.line, 0⟩) (mcStop mc r.line) (chamberStop r.slice) s u) ∧
  (∀ (mc : Nat) (w : MWrite) (s : State), s.hw.off = false →
    let h := s.hw
    mc < 12 → (h.mc mc).reads = [] → (h.mc mc).writes = [w] → w.code ≤ wbNoEntry → (h.mc mc).failed = false → Memory.wf s.mem = true →
    Answers (.memoryWrite mc) s fun u => (u.hw.mc mc).writes = [] ∧ u.hw.memBad w.line = w.bad ∧
      (sfind w.line h.newest = some w.data → sfind w.line u.hw.newest = none) ∧
      Sends (.memDone w.slice mc [w.code] none) (mcStop mc w.line) (chamberStop w.slice) s u ∧
      ∀ a, memGet u.mem a = if lineLocal w.line ≤ a ∧ a < lineLocal w.line + 64 then vbyte w.data (a - lineLocal w.line) else memGet s.mem a) ∧
  (∀ (f : Flit) (sl mc : Nat) (freed : List Nat) (s : State), s.hw.off = false → s.hw.flits = [f] → f.vc < 4 → f.input < 6 → f.at_ < 160 →
    f.dst = f.at_ → s.hw.meshRuns = true → f.payload = .memDone sl mc freed none → (s.hw.slice sl).txns = [] →
    Answers (.flitHop f.at_ 5) s fun u => u.mem = s.mem ∧ u.hw.flits = [] ∧
      (u.hw.slice sl).wbb = (s.hw.slice sl).wbb.filter fun e => !freed.contains e.1)

/-- Upkeep of the memory controllers (R320, R325, R327, R328, R330, R331, R333, R334): temperature, trackers, the paired layout, scrubbing, row
repair, write retries and refresh classes. -/
def Obligations.ControllerUpkeep : Prop :=
  ∀ (mc : Nat) (s : State), s.hw.off = false → mc < 12 →
    let h := s.hw
    let x := h.mc mc
    let now := fun u : State => u.hw.mc mc
    (∀ (t0 t1 : Nat) (ok1 two : Bool), 95 < t0 → Answers (.dimmTemperatureRead mc t0 true t1 ok1 two) s fun u => u.mem = s.mem ∧
      (now u).hot = true ∧ (now u).coolReads = 0 ∧ u.hw.regF (surveyReg mc) 31 24 = h.usable mc / 2) ∧
    (∀ (t0 t1 : Nat) (ok1 : Bool), t0 ≤ 90 → x.hot = true → Answers (.dimmTemperatureRead mc t0 true t1 ok1 false) s fun u =>
      u.mem = s.mem ∧ (now u).hot = decide (x.coolReads < 3) ∧ (now u).coolReads = if x.coolReads < 3 then x.coolReads + 1 else 0) ∧
    (Answers (.activationTrackerClear mc) s fun u => u.mem = s.mem ∧ now u = { x with trackers := [] }) ∧
    (∀ rank, rank < 8 →
      let a := mcReg mc (0x200 + 8 * rank)
      let w := h.reg a
      let k := Word.fld w 31 0
      Word.bit w 63 = true → Word.bit w 62 = false → Word.fld w 61 57 ≠ 31 → x.failed = false → k + 1 < h.rankPairs mc rank → k + 1 < 2 ^ 32 →
      Answers (.pairedConversionStep mc rank (⟨[], []⟩, ⟨[], []⟩)) s fun u => u.mem = s.mem ∧ u.hw.newest = h.newest ∧
        u.hw.reg a = Word.setFld w 31 0 (k + 1)) ∧
    (let n := h.mediumLines mc
     let i := x.scrubAt
     let p := h.placeAt mc i
     n ≠ 0 → x.failed = false → h.regF (surveyReg mc) 47 32 ≠ 0 →
      (h.placeBad p = false → i ∉ x.retention → Answers (.patrolScrubRead mc [] [] ⟨[], []⟩) s fun u => u.mem = s.mem ∧ u.hw.newest = h.newest ∧
        u.hw.poison = h.poison ∧ (now u).scrubAt = (i + 1) % n ∧ (now u).scrubBad = x.scrubBad) ∧
      (h.placeBad p = true → ∀ (e e2 : ReadErr), Answers (.patrolScrubRead mc e.syms e.mis e2) s fun u => u.mem = s.mem ∧ u.hw.newest = h.newest ∧
        u.hw.poison = h.poison ∧ (now u).scrubAt = (i + 1) % n ∧ (now u).scrubBad = x.scrubBad + 1) ∧
      (∀ (e e2 : ReadErr) (l : Nat), h.placeBad p = false → (h.decode p e = .lost ∨ h.decode p e = .dark) → p.line = some l → h.secondary l = none →
        sfind l h.newest = none → Answers (.patrolScrubRead mc e.syms e.mis e2) s fun u => u.mem = s.mem ∧ u.hw.newest = h.newest ∧
          u.hw.memBad l = true)) ∧
    (∀ c : RowCopy, x.copy = some c →
      (c.back = false → Answers (.rowRepairSwitch mc) s fun u => u.mem = s.mem ∧ sfind c.row (now u).remap = some c.spare ∧
        (now u).copy = some { c with back := true }) ∧
      (c.back = true → x.repairs = [] → Answers (.softPpr mc true) s fun u => u.mem = s.mem ∧ sfind c.row (now u).remap = none ∧
        (now u).copy = none)) ∧
    (x.failed = false →
      (Answers (.writeCrcAlert mc false) s fun u => u.mem = s.mem ∧ now u = { x with retries := 0 }) ∧
      (x.retries < 7 → Answers (.writeCrcAlert mc true) s fun u => u.mem = s.mem ∧ now u = { x with retries := x.retries + 1 }) ∧
      (x.retries = 7 → Answers (.writeCrcAlert mc true) s fun u => u.mem = s.mem ∧ (now u).failed = true ∧
        u.hw.regF (surveyReg mc) 3 0 = 6 ∧ u.hw.regF (surveyReg mc) 47 32 = 0)) ∧
    (∀ rank, rank < 8 →
      let a := mcReg mc (0x200 + 8 * rank)
      let since := fun (d : Nat) (l : List (Nat × Nat)) => (l.filter fun p => p.1 == rank && decide (h.time.toNat < p.2 + d * day)).length
      Word.bit (h.reg a) 63 = true →
      Answers (.refreshClassChange mc rank (since 1 x.retTimes) (since 1 x.uncTimes) (since 7 x.retTimes) (sget 86 (rank / 4) x.dimmTemps)) s fun u =>
        u.mem = s.mem ∧ u.hw.regF a 51 50 = if 16 ≤ since 1 x.retTimes ∨ 0 < since 1 x.uncTimes then 2
          else if h.regF (mcReg mc 0x100) 16 16 = 1 ∧ since 7 x.retTimes = 0 ∧ sget 86 (rank / 4) x.dimmTemps ≤ 80 then 0 else 1)

/-! ### Churn (chapter 10) -/

/-- R248, R389, R390: what a post answers for the state of its instance, checked in this order; none where it is accepted. -/
def Sys2Proof.Claims.postRefusal (h : Hw) (r : InstReq) : Option Word :=
  if h.instState r.inst = 0 then some (w64 (2 * 2 ^ 56))
  else if h.mayPost r.inst r.acc r.bank r.regime.ctx.vmid = false then some (w64 (3 * 2 ^ 56))
  else if h.instState r.inst ≠ 2 then some (w64 (4 * 2 ^ 56))
  else if 32 ≤ (h.inst r.inst).queue.length then some (w64 (1 * 2 ^ 56))
  else none

/-- A context of an engine, with the driven offset at which its next unit starts inside the descriptor and room in its window. -/
def Sys2Proof.Claims.UnitOpen (h : Hw) (e c : Nat) (x : ChCtx) : Prop :=
  h.chCtx e c = some x ∧ x.stop = none ∧ x.abandon = false ∧ x.next < dLen x.desc.words ∧ (x.units.filter fun u => decide (x.done ≤ u.pos)).length < 16

/-- R264: one element b of es bytes folded into ACC. -/
def Sys2Proof.Claims.reduceRow (fn es : Nat) (acc : Word) (b : Nat) : Word :=
  let s := (BitVec.ofNat (8 * es) b).toInt
  match fn with
  | 0 => BitVec.ofInt 64 (acc.toInt + s)
  | 1 => BitVec.ofInt 64 (min acc.toInt s)
  | 2 => BitVec.ofInt 64 (max acc.toInt s)
  | 3 => w64 (min acc.toNat b)
  | 4 => w64 (max acc.toNat b)
  | 5 => w64 (acc.toNat &&& b)
  | 6 => w64 (acc.toNat ||| b)
  | 7 => w64 (acc.toNat ^^^ b)
  | _ => w64 (Fmt.double.add 0 acc.toNat b).1

/-- An engine's line request for an instance can leave at once (R238, R241, R297): no reservation covers it, a CHR credit of its slice is free,
and no earlier request waits for one. -/
def Sys2Proof.Claims.ChrOpen (h : Hw) (e inst : Nat) (rd : Bool) (pa : Word) : Prop :=
  h.matching (0x8000 + e) rd (pa.toNat / 64 * 64) 1 inst = none ∧ h.hasCredit 3 e (sliceOf (lineNo pa)) = true ∧
    ∀ p ∈ h.posts, ¬(p.cls = 3 ∧ p.snd = e ∧ p.dest = sliceOf (lineNo pa))

/-- An engine's line request leaves for the slice of its address, with its instance's weight (R246, R271, R293). -/
def Sys2Proof.Claims.ChrSends (e : Nat) (x : ChCtx) (why : EngFor) (pa : Word) (kind : ReqKind) (s u : State) : Prop :=
  u.mem = s.mem ∧ u.hw.newest = s.hw.newest ∧
    Sends (.req (sliceOf (lineNo pa)) ⟨kind, lineNo pa, .eng e why, x.desc.regime.acc, false, (s.hw.inst x.inst).quantum, false,
      s.hw.homePos (lineNo pa)⟩)
      (chamberStop e) (chamberStop (sliceOf (lineNo pa))) s u

/-- The queue slices (R248, R388 to R391, R250, R278): a post is answered with the sequence number or the first refusal; INST.CREATE makes an
absent instance and no other operation finds it; a quiesced instance answers its counts; an engine's free context takes the oldest
descriptor of its instance. -/
def Obligations.ChurnQueueSlices : Prop :=
  ∀ (slice : Nat) (s : State), s.hw.off = false →
    let h := s.hw
    (∀ (r : InstReq) (rest : List InstReq), (h.slice slice).instIn = r :: rest → r.op = 5 →
      let i := r.inst
      let seq := h.regF (instReg i 8) 63 32
      let v := match postRefusal h r with | some v => v | none => w64 seq
      Answers (.churnPostAccept slice) s fun u => u.mem = s.mem ∧ (u.hw.slice slice).instIn = rest ∧
        Sends (.answer r.thread r.id v) (chamberStop slice) (chamberStop (r.thread / 16)) s u ∧ (∀ k, k ≠ i → u.hw.inst k = h.inst k) ∧
        if postRefusal h r = none then
          (u.hw.inst i).queue = (h.inst i).queue ++ [⟨seq, r.bytes.getD [], r.regime⟩] ∧
            u.hw.regF (instReg i 8) 63 32 = (seq + 1) % 2 ^ 32 ∧ u.hw.regF (instReg i 8) 5 0 = (h.inst i).queue.length + 1
        else u.hw.inst i = h.inst i ∧ u.hw.regs = h.regs) ∧
    (∀ (r : InstReq) (rest : List InstReq), (h.slice slice).instIn = r :: rest → r.op < 5 → h.instState r.inst = 0 →
      h.router.signals = [] → r.opnd = 0 →
      Answers (.instanceRequest slice) s fun u => u.mem = s.mem ∧ (u.hw.slice slice).instIn = rest ∧
        Sends (.answer r.thread r.id (if r.op = 2 then 0 else w64 (1 * 2 ^ 56))) (chamberStop slice) (chamberStop (r.thread / 16)) s u ∧
        u.hw.instState r.inst = if r.op = 2 then 1 else 0) ∧
    (∀ (inst t id : Nat), h.instState inst = 3 → (h.inst inst).queue = [] → h.executing inst = false →
      (h.inst inst).quiesce = some (t, id) →
      Answers (.quiesceComplete inst) s fun u => u.mem = s.mem ∧ u.hw.instState inst = 4 ∧ (u.hw.inst inst).quiesce = none ∧
        Sends (.answer t id (w64 ((h.inst inst).ended % 256 * 256 + (h.inst inst).abandoned % 256))) (chamberStop (inst / 8))
          (chamberStop (t / 16)) s u) ∧
    (∀ (i : Nat) (d : Desc) (q : List Desc), slice < numSlices → (h.slice slice).engineOff = false → (h.slice slice).ctxs = [] →
      h.candidates slice = [i] → (h.inst i).queue = d :: q → (h.inst i).abandonQ = false →
      Answers (.descriptorStart slice) s fun u => u.mem = s.mem ∧ (u.hw.inst i).queue = q ∧ ∃ c x, c < 4 ∧
        (u.hw.slice slice).ctxs = [(c, x)] ∧ x.inst = i ∧ x.desc = d ∧ x.next = 0 ∧ x.units = [] ∧ x.done = 0 ∧
          (x.stop.map (·.code)) = dCheck d.words)

/-- Units of a context (R262 to R266, R271): a FILL unit is the pattern's bytes up to the next line; a REDUCE unit reads its element, which is
folded once it is here; a write leaves for its slice, a HIST increment as a far add, and DONE counts it once it is performed; a MOVE's source is
filled after it. -/
def Sys2Proof.Claims.churnUnits : Prop :=
  ∀ (e c : Nat) (x : ChCtx) (s : State), s.hw.off = false → s.hw.chCtx e c = some x →
    let h := s.hw
    let w := x.desc.words
    let same := fun u : State => u.mem = s.mem ∧ u.hw.newest = h.newest
    (∀ (dpa : Word), UnitOpen h e c x → dOp w = 1 → h.engCheck s.mem e c x.desc.regime .store (dDst w + x.next) = .ok dpa →
      let n := min (64 - (dDst w + x.next) % 64) (dLen w - x.next)
      Answers (.unitStart e c) s fun u => same u ∧ u.hw.flits = h.flits ∧ u.hw.chCtx e c = some { x with
        next := x.next + n,
        units := x.units ++ [⟨x.next, n, [], w64 (dDst w + x.next), dpa,
          some ((List.range n).map fun i => (dValue w).extractLsb' (8 * ((dDst w + x.next + i) % 8)) 8), false, false⟩] }) ∧
    (∀ (pa : Word), UnitOpen h e c x → dOp w = 4 → let va := (dSrc w + x.next * dStride w).toNat
      h.engCheck s.mem e c x.desc.regime .load va = .ok pa → ChrOpen h e x.inst true pa →
      Answers (.unitStart e c) s fun u => ChrSends e x (.read c x.next 0) pa (.read (pa.toNat % 64) (dEs w)) s u ∧
        ∃ u0, u0.pos = x.next ∧ u0.len = 1 ∧ u0.reads = [⟨w64 va, pa, dEs w, none, none⟩] ∧ u0.data = none ∧ u0.issued = false ∧
          u.hw.chCtx e c = some { x with next := x.next + 1, units := x.units ++ [u0], out := x.out + 1 }) ∧
    (∀ (u0 : ChUnit) (r : ChRead) (b : Bytes), dOp w = 4 → x.units = [u0] → u0.data = none → u0.issued = false → u0.reads = [r] →
      r.data = some b → r.err = none → b.length = dEs w → dFn w < 9 →
      Answers (.unitReadReturn e c 0) s fun u => same u ∧ u.hw.chCtx e c = some { x with
        units := [], done := u0.pos + 1, acc := reduceRow (dFn w) (dEs w) x.acc (leNat b) }) ∧
    (∀ (u0 : ChUnit) (b : Bytes), x.units = [u0] → x.done ≤ u0.pos → u0.issued = false → u0.data = some b →
      let sent := fun (pa : Word) (va : Word) (k : ReqKind) => ChrOpen h e x.inst false pa →
        Answers (.unitWrite e c) s fun u => ChrSends e x (.write c u0.pos) pa k s u ∧
          u.hw.chCtx e c = some { x with units := [{ u0 with issued := true, dva := va, dpa := pa }], out := x.out + 1 }
      (dOp w ≠ 6 → sent u0.dpa u0.dva (.write (lineWrite u0.dpa b.length (vput 0 0 b) false .wb))) ∧
      (∀ pa, dOp w = 6 → let va := dDst w + 8 * (leNat b / 2 ^ dShift w % 2 ^ dBins w)
        h.engCheck s.mem e c x.desc.regime .atomic va = .ok pa → sent pa (w64 va) (.far (farOp pa 8 1 0 0 .wb)))) ∧
    (∀ (u0 : ChUnit), x.units = [u0] → x.done ≤ u0.pos → u0.issued = true → u0.perf = true →
      Answers (.unitWritePerformed e c) s fun u => same u ∧ u.hw.chCtx e c = some { x with
        done := u0.pos + u0.len, units := if dOp w = 3 ∧ x.noFill = false then [{ u0 with issued := false, perf := false }] else [] }) ∧
    (∀ (u0 : ChUnit) (r : ChRead), dOp w = 3 → x.units = [u0] → u0.pos + u0.len ≤ x.done → u0.reads = [r] →
      (u0.issued = false → x.noFill = false → ChrOpen h e x.inst false r.pa → Answers (.moveSourceFill e c) s fun u =>
        ChrSends e x (.fill c u0.pos 0) r.pa (.write (lineWrite r.pa r.len (vput 0 0 ((List.range r.len).map fun i =>
          (dValue w).extractLsb' (8 * ((r.va.toNat + i) % 8)) 8)) false .wb)) s u ∧
        u.hw.chCtx e c = some { x with units := [{ u0 with issued := true }], out := x.out + 1 }) ∧
      (u0.issued = true → r.data = none → r.err = none → Answers (.moveSourceFill e c) s fun u => same u ∧
        u.hw.chCtx e c = some { x with units := [], sdone := u0.pos + u0.len }))

/-- The end of a descriptor (R273 to R276): with CMPL 0 nothing is written; otherwise the record's eight words leave for their line, and the
end waits for the answer; the instance's count of ended descriptors advances, its completion message is signalled when IRQ asks for it, and the
context is free. -/
def Sys2Proof.Claims.churnCompletions : Prop :=
  ∀ (e c n : Nat) (x : ChCtx) (s : State), s.hw.off = false → s.hw.chCtx e c = some x →
    let h := s.hw
    let w := x.desc.words
    x.out = 0 → (h.slice e).walkers = [] → x.units = [] → x.stop = none → dLen w ≤ x.next → (h.inst x.inst).cmsg = some n →
    (dCmpl w = 0 ∨ ((dCmpl w).toNat % 64 = 0 ∧ x.recd = some (some 0)) → Answers (.completionRecord e c) s fun u =>
      u.mem = s.mem ∧ u.hw.newest = h.newest ∧ u.hw.flits = h.flits ∧ u.hw.chCtx e c = none ∧
      (u.hw.inst x.inst).ended = (h.inst x.inst).ended + 1 ∧
      u.hw.router.signals = h.router.signals ++ if dIrq w then [(x.inst, n)] else []) ∧
    (∀ (pa : Word), dCmpl w ≠ 0 → (dCmpl w).toNat % 64 = 0 → x.recd = none →
      h.engCheck s.mem e c x.desc.regime .record (dCmpl w).toNat = .ok pa → ChrOpen h e x.inst false pa →
      Answers (.completionRecord e c) s fun u => u.hw.chCtx e c = some { x with recd := some none, out := 1 } ∧
        ChrSends e x (.record c) pa (.write (lineWrite pa 64 (lineOf [w64 (1 * 2 ^ 56 + dOp w * 2 ^ 52 + dTag w * 2 ^ 32 + x.desc.seq % 2 ^ 32),
          w64 x.done, x.resultOut 1, x.accOut, 0, 0, 0, 0]) false .wb)) s u)

/-- Units and the end of a descriptor (R262 to R266, R271, R273 to R276): a FILL unit is the pattern's bytes up to the next line; a REDUCE
unit reads its element and folds it; a write leaves for its slice, a HIST increment as a far add, and DONE counts it once it is performed; a
MOVE's source is filled after it. With CMPL 0 no record is written; otherwise its eight words leave for their line; at the end the instance
counts it, its completion message is signalled when IRQ asks for it, and the context is free. -/
def Obligations.ChurnUnitsAndCompletions : Prop := churnUnits ∧ churnCompletions

/-- R252: one lane of a far atomic on lanes. -/
def Sys2Proof.Claims.farLaneRow (op x y : Nat) : Nat :=
  let s := fun n : Nat => (BitVec.ofNat 64 n).toInt
  match op with
  | 0 => (x + y) % 2 ^ 64
  | 4 => if s x < s y then x else y
  | 5 => if s x < s y then y else x
  | _ => (Fmt.double.add 0 x y).1

/-- R252, R253: the new value of size bytes, from the old value, the operand and the expected value. -/
def Sys2Proof.Claims.farResult (op size old b e : Nat) : Nat :=
  let k := 2 ^ (8 * size)
  match op with
  | 1 => old &&& b % k
  | 2 => old ||| b % k
  | 3 => old ^^^ b % k
  | 8 => b % k
  | 9 => if old = e % k then b % k else old
  | _ => if size = 4 then (old + b) % k else
    (List.range (size / 8)).foldl (fun n i => n + 2 ^ (64 * i) * farLaneRow op (old / 2 ^ (64 * i) % 2 ^ 64) (b / 2 ^ (64 * i) % 2 ^ 64)) 0

/-- A far atomic of a line of this node that its slice holds in the Vat, or whose new value can go to memory, is ready at its home engine. -/
def Sys2Proof.Claims.FarReady (sl : Nat) (x : Txn) (o : LineOp) (s : State) : Prop :=
  let h := s.hw
  sl < numSlices ∧ (h.slice sl).engineOff = false ∧ (h.slice sl).txns = [x] ∧ x.came = true ∧ x.settled = true ∧ x.err = 0 ∧
    x.req.kind = .far o ∧ x.req.line = lineNo o.pa ∧ h.localLine x.req.line = true ∧ h.poisoned x.req.line = false ∧
    h.wbbEntry sl x.req.line = none ∧ o.len ∈ [4, 8, 16, 32, 64] ∧ o.op ∈ [0, 1, 2, 3, 4, 5, 8, 9, 10] ∧ (o.len = 4 → o.op ∈ [0, 8, 9]) ∧
    o.pa.toNat % o.len = 0

/-- Far atomics at their home and back, and AtomicOps of root ports (R25, R251 to R256): the home engine makes the new value the line's and
answers the old one, to the thread or to the root port it came from; for a write-back line the Vat keeps the result as M, for another type it
leaves for memory through the write-back buffer first. An error that comes back writes all ones and none leaves the value that came. An AtomicOp
leaves for the slice of its address; one of a size or operation that ports lack, or at no memory, completes as an Unsupported Request and a
misaligned one with Completer Abort. -/
def Obligations.FarResponsesAndAtomicOps : Prop :=
  (∀ (sl : Nat) (x : Txn) (o : LineOp) (s : State), s.hw.off = false → FarReady sl x o s →
    let h := s.hw
    let l := x.req.line
    let old := leNat (newestBytes s o.pa o.len)
    let new := vput (lineVal s.mem h l) (o.pa.toNat % 64) (leBytes o.len (farResult o.op o.len old o.data.toNat o.exp.toNat))
    let stored := fun u : State => u.mem = s.mem ∧ lineVal u.mem u.hw l = new ∧ ∀ k, k ≠ l → sfind k u.hw.newest = sfind k h.newest
    (o.mt = .wb → (h.vatLine sl l).isSome →
      let kept := fun u : State => stored u ∧ (u.hw.slice sl).txns = [] ∧ (u.hw.vatLine sl l).map (·.st) = some .m
      (∀ t id ret, x.req.src = .far t id ret → Answers (.farAtomic sl 0) s fun u => kept u ∧
        Sends (.farAns t id (BitVec.ofNat 512 old) 0) (chamberStop sl) (chamberStop (t / 16)) s u) ∧
      (∀ k, x.req.src = .port k → Answers (.farAtomic sl 0) s fun u => kept u ∧
        Sends (.cpl k ⟨0, false, leBytes o.len old⟩) (chamberStop sl) (portStop k) s u)) ∧
    (o.mt = .nc → (h.slice sl).wbbFree.isSome → Answers (.farAtomic sl 0) s fun u => stored u ∧
      (∀ k, (h.slice sl).look l = some k → sfind k (u.hw.slice sl).ways = none) ∧
      u.hw.wbbEntry sl l = some ⟨l, new, false, false, false⟩ ∧ (u.hw.slice sl).txns = [{ x with old := BitVec.ofNat 512 old, wr := true }])) ∧
  (∀ (t : Nat) (o : LongOp) (p : Part) (s : State), s.hw.off = false → (s.hw.thread t).b.longs = [o] → o.kind = .farAtomic →
    o.ready = false → o.parts = [p] → p.done = true →
    Answers (.farAtomicResponse t) s fun u => u.mem = s.mem ∧ u.hw.newest = s.hw.newest ∧ (u.hw.thread t).a = (s.hw.thread t).a ∧
      OthersKeep t s u ∧ (u.hw.thread t).b.longs = [if p.off = 0 then { o with ready := true }
        else { o with ready := true, val := BitVec.ofNat 512 (2 ^ (8 * o.size) - 1) }]) ∧
  (∀ (port : Nat) (rid : BitVec 16) (pa : Word) (size op : Nat) (b e : Word) (s : State), s.hw.off = false → port < 8 →
    let h := s.hw
    let known := (size = 4 ∨ size = 8) ∧ (op = 0 ∨ op = 8 ∨ op = 9)
    (∀ p ∈ h.posts, ¬(p.cls = 2 ∧ p.snd = port)) → h.matching (0xA000 + port) false (pa.toNat / 64 * 64) 2 rid.toNat = none →
    let ends := fun n : Nat => Answers (.atomicop port rid pa size op b e) s fun u => u.mem = s.mem ∧ u.hw.newest = h.newest ∧
      u.hw.flits = h.flits ∧ sfind port u.hw.cpl = some ⟨n, false, []⟩
    (¬known → ends 1) ∧
    (known → pa.toNat % size ≠ 0 → ends 4) ∧
    (known → pa.toNat % size = 0 → (∀ tg, h.decodePA pa = .ok tg → tg = .reg ∨ ∃ k, tg = .mmio k) → ends 1) ∧
    (∀ tg, known → pa.toNat % size = 0 → h.decodePA pa = .ok tg → tg ≠ .reg → (∀ k, tg ≠ .mmio k) →
      let sl := sliceOf (lineNo pa)
      h.hasCredit 2 port sl = true →
      Answers (.atomicop port rid pa size op b e) s fun u => u.mem = s.mem ∧ u.hw.newest = h.newest ∧
        Sends (.req sl ⟨.far (farOp pa size (b.setWidth 512) op (e.setWidth 512) .wb), lineNo pa, .port port, h.portAcc port, false,
          (h.funcWeight port rid.toNat).getD 16, false, h.homePos (lineNo pa)⟩) (portStop port) (chamberStop sl) s u))

/-! ### Admission (chapter 11) -/

/-- An answer of the admission controller leaves for a thread's long operation; no thread has changed yet. -/
def Sys2Proof.Claims.Answered (t id : Nat) (v : Word) (s u : State) : Prop :=
  u.hw.threads = s.hw.threads ∧ Sends (.answer t id v) (blockStop .admission) (chamberStop (t / 16)) s u

/-- R309: a handle is known when INDEX holds a reservation of its GEN and [63:32] is zero. -/
def Sys2Proof.Claims.Known (h : Hw) (v : Word) (i : Nat) (r : Resv) : Prop :=
  v.toNat < 2 ^ 32 ∧ i = v.toNat % 4096 ∧ sfind i h.resvs = some r ∧ r.gen = v.toNat / 4096

/-- The admission controller (R305 to R307, R309 to R311): queries and releases by handle, a refusal for the descriptor, a grant; the charges
of a released reservation go a frame later; ADM.CAP takes 0 to 153 from H and above. -/
def Obligations.AdmissionAnswers : Prop :=
  ∀ s : State, s.hw.off = false →
    let h := s.hw
    (∀ (q : AdmReq) (rest : List AdmReq), h.admQ = q :: rest → (∀ p ∈ h.resvs, p.2.retire = false) →
      let told := fun (v : Word) (u : State) => u.mem = s.mem ∧ u.hw.admQ = rest ∧ Answered q.thread q.id v s u
      ((∀ i r, ¬Known h q.handle i r) →
        (q.op = 1 → Answers .admissionRequest s fun u => told 1 u ∧ u.hw.resvs = h.resvs) ∧
        (q.op = 2 → Answers .admissionRequest s fun u => told 0 u ∧ u.hw.resvs = h.resvs)) ∧
      (∀ i r, Known h q.handle i r →
        (q.op = 2 → Answers .admissionRequest s fun u => u.hw.resvs = h.resvs ∧
          told (w64 ((if r.live then 1 else 2) * 2 ^ 62 + min r.lat 0xFFFF * 2 ^ 32 + r.overCnt)) u) ∧
        (q.op = 1 → r.live = true → Answers .admissionRequest s fun u => u.mem = s.mem ∧ u.hw.admQ = h.admQ ∧
          u.hw.threads = h.threads ∧ sfind i u.hw.resvs = some { r with retire := true, tok := [] }) ∧
        (q.op = 1 → r.live = false → Answers .admissionRequest s fun u => told 0 u ∧ sfind i u.hw.resvs = none)) ∧
      (q.op = 0 → resvBad q.words = true → Answers .admissionRequest s fun u =>
        told (w64 (2 ^ 63 + 1 * 2 ^ 56 + 0xFFFF * 2 ^ 32)) u ∧ u.hw.resvs = h.resvs ∧ u.hw.reg (admReg 0x10) = h.reg (admReg 0x10) + 1) ∧
      (∀ ch l i, q.op = 0 → h.admTest q.words = .ok (ch, l) → sfree h.resvs 0 4096 = some i → sget 0 i h.gens < 2 ^ 20 →
        let g := if sget 0 i h.gens = 2 ^ 20 - 1 then 1 else sget 0 i h.gens + 1
        Answers .admissionRequest s fun u => told (w64 (min l 0xFFFF * 2 ^ 32 + g * 2 ^ 12 + i)) u ∧ sget 0 i u.hw.gens = g ∧
          ∃ r, sfind i u.hw.resvs = some r ∧ r.words = q.words ∧ r.gen = g ∧ r.live = true ∧ r.charges = ch ∧ r.lat = l ∧ r.overCnt = 0)) ∧
    (∀ (q : AdmReq) (rest : List AdmReq) (p : Nat × Resv), h.admQ = q :: rest → h.resvs = [p] → p.2.retire = true →
      Answers .qrelChargeRemoval s fun u => u.mem = s.mem ∧ u.hw.admQ = rest ∧ Answered q.thread q.id 0 s u ∧
        u.hw.resvs = []) ∧
    (∀ (lvl : Level) (v : Word), h.resvs = [] →
      (lvl = .h ∨ lvl = .m → v.toNat ≤ 153 → Answers (.admCap lvl v) s fun u => u.mem = s.mem ∧ u.hw.regF (admReg 0) 7 0 = v.toNat ∧
        ∀ a, a ≠ admReg 0 → u.hw.reg a = h.reg a) ∧
      ((lvl = .u ∨ lvl = .s) ∨ (154 ≤ v.toNat ∧ v.toNat ≤ 255) → Answers (.admCap lvl v) s fun u =>
        u.mem = s.mem ∧ u.hw.resvs = [] ∧ ∀ a, u.hw.reg a = h.reg a))

/-! ### Links (R344 to R348, R355, R356, R358, R364, R371) -/

/-- A port trains with the BIF and SPLIT that its register holds (R345). -/
def Sys2Proof.Claims.Latched (h : Hw) (k : Nat) : Prop := sget 0 k h.linkCfg = (h.reg (linkReg k 0)).toNat % 2 ^ 17

/-- Link state (R344 to R348, R356, R371): a lane where no link begins is not formed; a link that is down trains, one that is up retrains; training
ends up with the partner's figures, or down with the reason; a link that goes down says why. -/
def Obligations.LinkTraining : Prop :=
  ∀ (k j : Nat) (s : State), s.hw.off = false → k < 18 → j < 16 →
    let h := s.hw
    let l := h.link k j
    let field := fun (u : State) (hi lo : Nat) => u.hw.regF (linkReg k (0x100 + 8 * j)) hi lo
    ((h.latchCfg k).formed k j = 0 → Answers (.linkTraining k j) s fun u => u.mem = s.mem ∧ u.hw.linkState k j = 0) ∧
    (Latched h k → h.formed k j ≠ 0 → h.regF (linkReg k 0) 18 18 = 0 →
      (k < 8 ∨ 14 ≤ k → (k < 8 → sget false k h.pins.perst = false) →
        (h.linkState k j = 1 → Answers (.linkTraining k j) s fun u => u.mem = s.mem ∧ u.hw.linkState k j = 1 ∧
          (u.hw.link k j).training = true) ∧
        (h.linkState k j = 2 → l.retrains = [] → Answers (.linkTraining k j) s fun u => u.mem = s.mem ∧ u.hw.linkState k j = 3 ∧
          (u.hw.link k j).training = true)) ∧
      (8 ≤ k → k < 14 → h.ownPos = none → Answers (.linkTraining k j) s fun u => u.mem = s.mem ∧ u.hw = h)) ∧
    (∀ (partner : Partner) (rate width loss reach margin proto : Nat) (lanefail : BitVec 16), l.training = true → h.linkState k j = 1 →
      let done := Instr.linkTrainingDone k j partner rate width loss reach margin lanefail proto
      let down := fun (r : Nat) => Answers done s fun u => u.mem = s.mem ∧ u.hw.linkState k j = 1 ∧ (u.hw.link k j).training = false ∧
        field u 60 57 = r
      let mine := linkWidth k j (h.formed k j) width (lanefail ||| BitVec.ofNat 16 (sget 0 k h.badLanes)).toNat
      let there := partner.kind = 1 ∧ h.wrongIdentity k partner = false
      (8 ≤ k → l.since + 1250000 < h.time.toNat → down 4) ∧
      ((8 ≤ k → h.time.toNat ≤ l.since + 1250000) →
        (partner.kind = 0 → down 1) ∧ (partner.kind = 2 → down 2) ∧
        (partner.kind = 1 → h.wrongIdentity k partner = true → down 3) ∧
        (there → 8 ≤ k → mine = 0 → down 6) ∧
        (there → 8 ≤ k → mine ≠ 0 → (if k < 14 then 500 else 1500) < reach → down 5) ∧
        (there → l.failing = false → lanefail = 0 → sget 0 k h.badLanes = 0 → width = h.formed k j → width ≠ 0 → loss ≤ 128 → margin < 256 →
          (8 ≤ k → reach ≤ if k < 14 then 500 else 1500) → Answers done s fun u => u.mem = s.mem ∧ u.hw.linkState k j = 2 ∧
            (u.hw.link k j).training = false ∧ field u 60 57 = 0 ∧ field u 56 52 = (if k < 8 then widthFloor width else width) ∧
            field u 51 48 = (if 8 ≤ k then (if rate = 7 then 7 else 8) else max 1 (min rate 6)) ∧ field u 47 40 = loss))) ∧
    (∀ reason, 0 < reason → reason < 10 → h.linkUp k j = true → Answers (.linkDown k j reason) s fun u => u.mem = s.mem ∧
      u.hw.linkState k j = 1 ∧ field u 60 57 = reason ∧ (8 ≤ k → k < 14 → j = 0 → (u.hw.link k j).failing = true))

/-- Messages for group position d leave on link k: no failover holds them and no spare link shares them (R358, R363, R364). -/
def Sys2Proof.Claims.GalTo (h : Hw) (d k : Nat) : Prop :=
  h.route d = some k ∧ (∀ i, i < 6 → d ∉ (h.link (8 + i) 0).heldPos) ∧ h.regF (linkReg 8 0x3000) 5 4 = 0

/-- A message leaves a stop for link j of port k (R19, R237). -/
def Sys2Proof.Claims.ToLink (src k j : Nat) (x : LMsg) (s u : State) : Prop := Sends (.link k j x) src (portStop k) s u

/-- A request or a notice leaves port k for a slice: a credit of its class is free, and no earlier one waits for it (R237, R238). -/
def Sys2Proof.Claims.PortOpen (h : Hw) (cls k sl : Nat) : Prop :=
  h.hasCredit cls k sl = true ∧ ∀ p ∈ h.posts, ¬(p.cls = cls ∧ p.snd = k ∧ p.dest = sl)

/-- Flits, failovers and routes (R355, R356, R358, R362 to R365): a good flit acknowledges and is counted, a bad one asks for a replay, a
reserved FTYPE takes the link down; a failover that ends without an answer marks a request unrouted, to be sent again once; a newer link-state
message is kept; routes lead over one link where the two positions are joined and nowhere where nothing is known; a message for another
position goes on by its route on the next lane. -/
def Sys2Proof.Claims.flitsAndRoutes : Prop :=
  ∀ (k : Nat) (s : State), s.hw.off = false → 8 ≤ k → k < 14 →
    let h := s.hw
    let l := h.link k 0
    (∀ (j q : Nat) (fseq : BitVec 12) (x : LMsg), (h.linkUp k j = true) → j < 16 → (h.link k j).retry = [(q, x)] → (h.link k j).wait = [] →
      q < 4096 → Answers (.flitReceive k j fseq (BitVec.ofNat 12 q) false 0 true) s fun u => u.mem = s.mem ∧ (u.hw.link k j).retry = [] ∧
        (u.hw.link k j).expect = (if fseq.toNat = (h.link k j).expect then (fseq.toNat + 1) % 4096 else (h.link k j).expect) ∧
        (u.hw.link k j).nak = decide (fseq.toNat ≠ (h.link k j).expect)) ∧
    (∀ (fseq ack : BitVec 12) (nak : Bool) (ftype : BitVec 3), h.linkUp k 0 = true →
      Answers (.flitReceive k 0 fseq ack nak ftype false) s (fun u => u.mem = s.mem ∧ u.hw.link k 0 = { l with nak := true }) ∧
      (3 ≤ ftype.toNat → Answers (.flitReceive k 0 fseq ack nak ftype true) s fun u => u.mem = s.mem ∧ u.hw.linkState k 0 = 1 ∧
        u.hw.regF (linkReg k 0x100) 60 57 = 8)) ∧
    (∀ (n op : Nat) (g : GMsg) (x : GTag), l.failing = true → l.retry = [(n, .gal op g)] → l.wait = [] → l.held = [] → 0 < op → op ≤ 5 →
      h.ownPos = some g.spos → sfind g.tag h.gtags = some x → x.resent = false → x.msg.line = g.line →
      Answers (.failoverTimeout k) s fun u => u.mem = s.mem ∧ (u.hw.link k 0).failing = false ∧ (u.hw.link k 0).retry = [] ∧
        sfind g.tag u.hw.gtags = some { x with delay := true }) ∧
    (∀ (pos change : Nat) (mask : BitVec 6), pos < 16 → h.linkUp k 0 = true → h.ownPos ≠ some pos →
      Answers (.linkStateMessage k pos mask change) s fun u => u.mem = s.mem ∧ sfind pos u.hw.lsMap =
        if (match sfind pos h.lsMap with | some e => decide (e.2 < change) | none => true) = true then some (mask.toNat, change) else sfind pos h.lsMap) ∧
    (∀ own, h.ownPos = some own → own < 16 → h.gtags = [] → Answers .routeRecompute s fun u => u.mem = s.mem ∧
      ∀ i, i < 5 → let d := own ^^^ (if i < 4 then 2 ^ i else 15)
        (h.linkUp (8 + i) 0 = true → (sget (0, 0) d h.lsMap).1 / 2 ^ i % 2 = 1 →
          u.hw.reg (linkReg 8 (0x3100 + 8 * d)) = w64 (128 + 16 * i + 1)) ∧
        ((∀ i, i < 6 → h.linkUp (8 + i) 0 = false) → u.hw.reg (linkReg 8 (0x3100 + 8 * d)) = 0)) ∧
    (∀ (op : Nat) (g : GMsg) (r : List (Nat × GMsg)) (k2 : Nat), l.fwd = (op, g) :: r → g.lane < 2 → GalTo h g.dpos k2 → k2 ≠ k → 8 ≤ k2 →
      Answers (.galleryForward k) s fun u => u.mem = s.mem ∧ (u.hw.link k 0).fwd = r ∧
        ToLink (portStop k) k2 0 (.gal op { g with lane := g.lane + 1 }) s u) ∧
    (∀ (tag : Nat) (x : GTag) (k2 : Nat), sfind tag h.gtags = some x → x.delay = true → x.op ≠ 2 → x.op ≠ 4 → GalTo h x.msg.dpos k2 →
      Answers (.unroutedResend tag) s fun u => u.mem = s.mem ∧ sfind tag u.hw.gtags = some { x with delay := false, resent := true } ∧
        ToLink (x.who.stop x.msg.line.toNat) k2 0 (.gal x.op { x.msg with lane := 0 }) s u)

/-! ### Gallery messages (R229, R231, R236, R359 to R362) -/

/-- A port has an entry for messages of every class on a lane (R361). -/
def Sys2Proof.Claims.GalRoom (h : Hw) (k lane : Nat) : Prop := ∀ op, h.galHeld k op lane < classEntries (galClass op)

/-- A message arrives on Gallery port k, in order and for this position (R348, R359, R361). -/
def Sys2Proof.Claims.GalHere (h : Hw) (k : Nat) (g : GMsg) : Prop :=
  8 ≤ k ∧ k < 14 ∧ h.linkUp k 0 = true ∧ g.lane < 3 ∧ g.state < 5 ∧ g.spos < 16 ∧ g.dpos < 16 ∧ g.tag < 4096 ∧ h.ownPos = some g.dpos ∧
    GalRoom h k g.lane

/-- The answer to a message g: its tag and line, from this position back to its source, on lane 0. -/
def Sys2Proof.Claims.reply (g : GMsg) (poison : Bool) (arg : Nat) (data : Vec) : GMsg :=
  ⟨0, g.dpos, g.spos, g.tag, g.line, poison, 0, BitVec.ofNat 17 arg, data, 0⟩

/-- A Gallery message with a reserved field takes the link down as a protocol error, and one for another position is kept to be forwarded
(R348, R359, R362). -/
def Sys2Proof.Claims.galleryElsewhere : Prop :=
  ∀ (k : Nat) (g : GMsg) (s : State), s.hw.off = false → 8 ≤ k → k < 14 → s.hw.linkUp k 0 = true →
    ∀ p ∈ ([(.rds, 0x01), (.rdu, 0x02), (.upg, 0x03), (.own, 0x04), (.far, 0x05), (.snps, 0x10), (.snpi, 0x11), (.wb, 0x20), (.evc, 0x21),
      (.data, 0x30), (.ack, 0x31), (.sdata, 0x32), (.wbif, 0x33), (.farr, 0x34), (.err, 0x35), (.mdone, 0x36), (.galleryTlbi, 0x38),
      (.cmop, 0x39)] : List ((Nat → GMsg → Instr) × Nat)),
    (3 ≤ g.lane ∨ 5 ≤ g.state ∨ 16 ≤ g.spos ∨ 16 ≤ g.dpos ∨ 4096 ≤ g.tag →
      Answers (p.1 k g) s fun u => u.mem = s.mem ∧ u.hw.linkState k 0 = 1 ∧ u.hw.regF (linkReg k 0x100) 60 57 = 8) ∧
    (g.lane < 3 → g.state < 5 → g.spos < 16 → g.dpos < 16 → g.tag < 4096 → s.hw.ownPos ≠ some g.dpos →
      GalRoom s.hw k g.lane → Answers (p.1 k g) s fun u => u.mem = s.mem ∧ u.hw.newest = s.hw.newest ∧
        (u.hw.link k 0).fwd = (s.hw.link k 0).fwd ++ [(p.2, g)])

/-- Flits, failovers, routes and messages for other positions (R348, R355, R356, R358, R359, R362 to R365): a good flit acknowledges and is
counted, a bad one asks for a replay, reserved fields take the link down; a failover that ends without an answer marks a request unrouted, to
be sent again once; a newer link-state message is kept; routes lead over one link where two positions are joined; a message for another
position is kept and goes on by its route on the next lane. -/
def Obligations.GalleryLinkAndRoutes : Prop := flitsAndRoutes ∧ galleryElsewhere

/-- Messages of other members that a slice handles (R25, R225, R229, R236 to R238, R360): reads, ownership requests, far atomics, snoops and
writebacks leave their port for the slice of their line; a request of an address with no target is answered ERR 4. -/
def Sys2Proof.Claims.galleryToSlices (k k2 : Nat) (g : GMsg) (s : State) : Prop :=
  let h := s.hw
  let l := h.node * 2 ^ 42 + g.line.toNat
  let same := fun u : State => u.mem = s.mem ∧ u.hw.newest = h.newest ∧ u.hw.threads = h.threads
  let leaves := fun (i : Instr) (cls sl : Nat) (p : Payload) => PortOpen h cls k sl → Answers i s fun u =>
    same u ∧ Sends p (portStop k) (chamberStop sl) s u
  let acc : Acc := ⟨.s, false, 0⟩
  (∀ p ∈ ([(.rds, .readShared, 0), (.rdu, .readUnique, 0), (.upg, .upgrade, 2), (.own, .readUnique, 1)] :
      List ((Nat → GMsg → Instr) × ReqKind × Nat)),
    (h.lineThere l = true → leaves (p.1 k g) 4 (sliceOf l)
      (.req (sliceOf l) ⟨p.2.1, l, .gallery k g.spos (g.tag + 4096 * p.2.2) g.lane, acc, false, 16, false, none⟩)) ∧
    (h.lineThere l = false → Answers (p.1 k g) s fun u => same u ∧ ToLink (portStop k) k2 0 (.gal 0x35 (reply g false 4 0)) s u)) ∧
  (∀ (op off i rank : Nat) (four ret : Bool), rank < 5 → op ∈ [0, 1, 2, 3, 4, 5, 8, 9, 10] → i < 4 → (four = true → op ∈ [0, 8, 9]) →
    let n := if four then 4 else 8 * 2 ^ i
    off % n = 0 → off < 64 → g.arg = BitVec.ofNat 17 (rank * 2 ^ 14 + off * 256 + (if four then 128 else 0) + op * 8 + i * 2 + if ret then 1 else 0) →
    h.lineThere l = true → leaves (.far k g) 4 (sliceOf l)
      (.req (sliceOf l) ⟨.far (farOp (w64 (l * 64 + off)) n g.data op g.exp (memTypeOf rank)), l, .gfar k g, acc, false, 16, false, none⟩)) ∧
  (let sl := sliceOf g.line.toNat
   leaves (.snps k g) 5 sl (.galSnoop sl k false g) ∧ leaves (.snpi k g) 5 sl (.galSnoop sl k true g) ∧
   leaves (.wb k g) 8 sl (.galWb sl k true g) ∧ leaves (.evc k g) 8 sl (.galWb sl k false g))

/-- What becomes of them at the slice, and of maintenance (R225, R229, R231, R236, R360): a snoop of a line that only the Vat holds dirty is
answered with the data; a writeback is the line's newest value, leaves for memory and is acknowledged; an eviction notice is acknowledged; a
maintenance operation is taken, a TLBI of everything at M having removed every entry. -/
def Sys2Proof.Claims.galleryAtSlices (k k2 : Nat) (g : GMsg) (s : State) : Prop :=
  let h := s.hw
  let l := h.node * 2 ^ 42 + g.line.toNat
  let sl := sliceOf l
  let back := fun (op : Nat) (poison : Bool) (v : Vec) (u : State) =>
    ∃ f, f ∈ u.hw.flits ∧ f.payload = .link k2 0 (.gal op (reply g poison 0 v)) ∧ f.at_ = chamberStop sl ∧ f.dst = portStop k2
  (∀ (n : Nat) (inv : Bool) (f : Flit) (w : VatWay), sfind g.spos h.group = some n → n < 2 ^ 16 →
    h.flits = [f] → f.vc < 4 → f.input < 6 → f.at_ < 160 → h.meshRuns = true → (nextMove f.at_ f.dst).1 = 5 →
    let l := n * 2 ^ 42 + g.line.toNat
    f.payload = .galSnoop (sliceOf l) k inv g → h.sfForm (sliceOf l) l = none → h.vatLine (sliceOf l) l = some w → w.st = .m →
    (h.slice (sliceOf l)).stopped = false → (h.slice (sliceOf l)).wbb = [] → (h.slice (sliceOf l)).snps = [] → (h.slice (sliceOf l)).txns = [] → h.gtags = [] →
    Answers (.flitHop f.at_ 5) s fun u => u.mem = s.mem ∧ (u.hw.slice (sliceOf l)).snps = [] ∧
      (∃ q, u.hw.flits = [q] ∧ q.payload = .link k2 0 (.gal 0x32 (reply g (h.poisoned l) 0 (lineVal s.mem h l))) ∧
        q.at_ = chamberStop (sliceOf l)) ∧
      (inv = false → u.hw.newest = h.newest ∧ (u.hw.vatLine (sliceOf l) l).map (·.st) = some .o)) ∧
  ((h.slice sl).stopped = false → h.lineThere l = true → (h.slice sl).txns = [] → h.wbbEntry sl l = none →
    ((h.slice sl).rwbIn = [(k, true, g)] → lineLocal l < 0x0C0000000000 → h.poolDie l = none → h.hasCredit 10 sl (h.mcOf l) = true →
      Answers (.writeback sl) s fun u => u.mem = s.mem ∧ (u.hw.slice sl).rwbIn = [] ∧ sfind l u.hw.newest = some g.data ∧
        back 0x31 false 0 u ∧ ∃ f, f ∈ u.hw.flits ∧ f.payload = .memWrite (h.mcOf l) sl wbNoEntry l g.data g.poison) ∧
    ((h.slice sl).rwbIn = [(k, false, g)] → Answers (.cleanEviction sl) s fun u => u.mem = s.mem ∧ u.hw.newest = h.newest ∧
      (u.hw.slice sl).rwbIn = [] ∧ back 0x31 false 0 u)) ∧
  (h.maint = [] → (h.link k 0).mnt = [] → Answers (.galleryTlbi k g) s fun u => u.mem = s.mem ∧ u.hw.newest = h.newest ∧ (∃ w, u.hw.maint = [(g, w)]) ∧
    (g.arg.toNat = 6 + 8 * 1 + 16 * 3 → ∀ c, (u.hw.core c).tlb = [] ∧ (u.hw.core c).itlb = [] ∧ (u.hw.core c).dtlb = [])) ∧
  (h.maint = [] → (h.link k 0).mnt = [] → g.arg.toNat % 4 = 0 → Memory.wf s.mem = true → let l := (vword g.data 0).toNat
    h.cmoHeld l = false → h.localLine l = true → Answers (.cmop k g) s fun u => u.hw.maint = [(g, [])] ∧ sfind l u.hw.newest = none ∧
      ∀ a, memGet u.mem a = if lineLocal l ≤ a ∧ a < lineLocal l + 64 then vbyte (lineVal s.mem h l) (a - lineLocal l)
        else memGet s.mem a)

/-- Requests of other members (R25, R225, R229, R231, R236 to R238, R360): what a slice handles leaves its port for the slice of its line, with
every operation and size of a far atomic, or is answered ERR 4 where nothing is there; at the slice a snoop of a line that only the Vat holds
dirty is answered with the data, a writeback leaves for memory and an eviction notice ends, both acknowledged; a maintenance operation is
taken. -/
def Obligations.GalleryRequests : Prop :=
  ∀ (k k2 : Nat) (g : GMsg) (s : State), s.hw.off = false → GalHere s.hw k g → GalTo s.hw g.spos k2 → 8 ≤ k2 → k2 < 14 → s.hw.node < 2 ^ 16 →
    galleryToSlices k k2 g s ∧ galleryAtSlices k k2 g s

/-- One load of thread t is out, in one part that has not come (R110, R123). -/
def Sys2Proof.Claims.OneLoad (h : Hw) (t : Nat) (o : LongOp) (p : Part) : Prop :=
  (h.thread t).b.longs = [o] ∧ o.kind = .load ∧ o.amo = none ∧ o.bad = false ∧ o.parts = [p] ∧ p.done = false ∧ p.off = 0 ∧ p.len = o.size ∧
    (o.size = 1 ∨ o.size = 2 ∨ o.size = 4 ∨ o.size = 8) ∧ p.pa.toNat % 64 + p.len ≤ 64

/-- The load is ready with this value, owed to its register as before. -/
def Sys2Proof.Claims.LoadReady (t : Nat) (o : LongOp) (v : Vec) (s u : State) : Prop :=
  OthersKeep t s u ∧ (u.hw.thread t).a = (s.hw.thread t).a ∧ (u.hw.thread t).b.owed = (s.hw.thread t).b.owed ∧
    ∃ o', (u.hw.thread t).b.longs = [o'] ∧ o'.id = o.id ∧ o'.dest = o.dest ∧ o'.ready = true ∧ o'.val = v

/-- No slice but `sl` has a request in progress, and that one has `ys` (R230). -/
def Sys2Proof.Claims.OnlyTxns (h : Hw) (sl : Nat) (ys : List Txn) : Prop :=
  (h.slice sl).txns = ys ∧ ∀ p ∈ h.slices, p.1 ≠ sl → p.2.txns = []

/-- A request at a proxy slice, for a line of another node, waits only for what it has asked of that node (R224, R229). -/
def Sys2Proof.Claims.AskedAway (h : Hw) (sl l : Nat) (y : Txn) : Prop :=
  OnlyTxns h sl [y] ∧ y.req.line = l ∧ h.localLine l = false ∧ y.asked = true ∧ y.came = false ∧ y.settled = true ∧ y.err = 0 ∧ y.unread = false ∧
    y.dirty = false

/-- Data for a core's request at a proxy slice: it is the line's newest value, and the fill leaves for the chamber (R225, R229). -/
def Sys2Proof.Claims.FilledFrom (sl l c reg : Nat) (unique poison : Bool) (v : Vec) (u : State) : Prop :=
  sfind l u.hw.newest = some v ∧ (u.hw.slice sl).txns = [] ∧
    ∃ f ∈ u.hw.flits, f.at_ = chamberStop sl ∧ f.dst = chamberStop c ∧ ∃ q dirty own, f.payload = .fill c reg q dirty own poison 0 ∧
      (unique = true → q = true)

/-- The answer of another node to a far atomic of a thread leaves its slice for the thread (R255, R256). -/
def Sys2Proof.Claims.FarTold (sl t id : Nat) (v : Vec) (err : Nat) (s u : State) : Prop :=
  u.mem = s.mem ∧ u.hw.threads = s.hw.threads ∧ (u.hw.slice sl).txns = [] ∧
    Sends (.farAns t id v err) (chamberStop sl) (chamberStop (t / 16)) s u

/-- Answers of other members (R55, R171, R224, R229, R231, R234, R236, R359, R360, R362): each completes the request whose tag it carries, and
frees the tag. DATA fills a core's request; for a load it leaves for the thread's chamber, where the load is ready with it, or as all ones after an
ERR. FARR and ACK end a far atomic; ACK ends a writeback; SDATA, the dirty data of a snooped member, reaches memory; WBIF makes the request wait
for that writeback; MDONE ends the wait for a member's maintenance. An unrouted answer keeps the tag for one more try; an answer to no request
changes nothing. -/
def Obligations.GalleryAnswers : Prop :=
  ∀ (k t : Nat) (g : GMsg) (s : State), s.hw.off = false → GalHere s.hw k g →
    let h := s.hw
    let answers : List (Nat → GMsg → Instr) := [.data, .ack, .sdata, .wbif, .farr, .err, .mdone]
    (sfind g.tag h.gtags = none → ∀ i ∈ answers, Answers (i k g) s fun u => u = s) ∧
    (∀ (o : LongOp) (p : Part) (f : Flit) (pa : Word) (v : Vec) (err : Nat), OneLoad h t o p → h.flits = [f] → f.vc < 4 → f.input < 6 → f.at_ < 160 →
      f.dst = f.at_ → h.meshRuns = true → (h.chamber (t / 16)).clocked = true → sget [] (t / 16) h.awayQ = [] →
      f.payload = .coreAns (.load t o.id 0) pa v err → Answers (.flitHop f.at_ 5) s fun u => u.mem = s.mem ∧ u.hw.newest = h.newest ∧
        LoadReady t o (if err = 0 then (loadedValue o.signed (vbytes v 0 o.size)).setWidth 512 else BitVec.allOnes 512) s u) ∧
    (∀ x : GTag, sfind g.tag h.gtags = some x →
      let freed := fun u : State => u.hw.gtags = sdel g.tag h.gtags
      let pa := w64 (sget 0 x.msg.dpos h.group * 2 ^ 48 + x.msg.line.toNat * 64 + x.msg.arg.toNat / 128 % 64)
      let told := fun (who : Waiter) (v : Vec) (err : Nat) (u : State) => u.mem = s.mem ∧ freed u ∧ u.hw.newest = h.newest ∧
        u.hw.threads = h.threads ∧ Sends (.coreAns who pa v err) (portStop k) (chamberStop (t / 16)) s u
      (∀ o p, x.op = 1 → x.who = .load t o.id 0 → OneLoad h t o p → OnlyTxns h 0 [] →
        Answers (.data k g) s (told x.who (vput 0 0 (vbytes g.data (p.pa.toNat % 64) 64)) (if g.poison then 2 else 0)) ∧
        (g.arg.toNat < 16 → Answers (.err k g) s (told x.who 0 (g.arg.toNat + 1)))) ∧
      (∀ sl l y, x.who = .line sl l → AskedAway h sl l y → sl < numSlices →
        (∀ c reg unique, x.op = (if unique then 2 else 1) → y.req.kind = (if unique then .readUnique else .readShared) →
          y.req.src = .chamber c reg → y.req.cream = false →
          Answers (.data k g) s fun u => u.mem = s.mem ∧ freed u ∧ FilledFrom sl l c reg unique g.poison g.data u) ∧
        (∀ o id ret, x.op = 5 → y.req.kind = .far o → y.req.src = .far t id ret →
          (Answers (.farr k g) s fun u => freed u ∧ FarTold sl t id g.data 0 s u) ∧
          (Answers (.ack k g) s fun u => freed u ∧ FarTold sl t id 0 0 s u) ∧
          (g.arg.toNat < 16 → Answers (.err k g) s fun u => freed u ∧ FarTold sl t id 0 (g.arg.toNat + 1) s u))) ∧
      (∀ sl l, x.op = 0x20 → x.who = .line sl l → OnlyTxns h sl [] → Answers (.ack k g) s fun u => u.mem = s.mem ∧ freed u ∧
        ∀ e, e ∈ (u.hw.slice sl).wbb ↔ e ∈ (h.slice sl).wbb ∧ ¬(e.2.line = l ∧ e.2.issued = true)) ∧
      (∀ sl l, x.op = 0x11 → x.who = .line sl l → OnlyTxns h sl [] → sfind l h.newest = none → Memory.wf s.mem = true →
        Answers (.sdata k g) s fun u => freed u ∧ u.hw.memBad l = g.poison ∧ ∀ a, memGet u.mem a =
          if lineLocal l ≤ a ∧ a < lineLocal l + 64 then vbyte g.data (a - lineLocal l) else memGet s.mem a) ∧
      (∀ sl l y, x.op = 0x10 ∨ x.op = 0x11 → x.who = .line sl l → OnlyTxns h sl [y] → y.req.line = l → y.started = true → y.victims = [] →
        y.unsent = [] → y.wr = false → x.msg.dpos ∈ y.remote → Answers (.wbif k g) s fun u => u.mem = s.mem ∧ freed u ∧
          u.hw.newest = h.newest ∧ (u.hw.slice sl).txns = [{ y with
            remote := y.remote.filter (fun p => p != x.msg.dpos && p != 200 + x.msg.dpos), wbWait := y.wbWait ++ [100 + x.msg.dpos] }]) ∧
      (x.op = 0x38 → x.who = .tlbi t → OnlyTxns h 0 [] → Answers (.mdone k g) s (told x.who 0 0)) ∧
      (x.op = 0x39 → x.who = .cmo t → OnlyTxns h 0 [] → Answers (.mdone k g) s fun u => u.mem = s.mem ∧
        u.hw = { h with gtags := sdel g.tag h.gtags }) ∧
      (g.arg.toNat / 16 % 2 = 1 → x.msg.line = g.line → x.resent = false → Answers (.err k g) s fun u => u.mem = s.mem ∧
        u.hw = { h with gtags := sset g.tag { x with delay := true } h.gtags }))

/-! ### Passage and root ports (R66, R225, R349, R352, R353, R367 to R370, R393) -/

/-- A packet arrives on Passage port k, whose link l is up, with no value that R367 reserves; its answers leave on port e, lane j. -/
def Sys2Proof.Claims.PasHere (h : Hw) (k ty : Nat) (p : PPkt) (e j : Nat) : Prop :=
  (∃ l, (h.passUp.find? fun l => l.1 == k) = some l) ∧ pktReserved ty p = false ∧ h.passEgress p.snode.toNat = some (e, j)

/-- The answer to a packet: its tag and address, between the same nodes the other way. -/
def Sys2Proof.Claims.packetBack (h : Hw) (p : PPkt) (err : Nat) (poison : Bool) (data : Vec) : PPkt :=
  { p with dnode := p.snode, snode := BitVec.ofNat 16 h.node, aop := 0, ret := false, err := err, poison := poison, data := data, exp := 0 }

/-- The newest value of a line after bytes are stored at an address: the rest of the line is as it was. -/
def Sys2Proof.Claims.LineBecomes (pa : Word) (bs : Bytes) (s u : State) : Prop :=
  lineVal u.mem u.hw (lineNo pa) = vput (lineVal s.mem s.hw (lineNo pa)) (pa.toNat % 64) bs

/-- One request of a root port or a Passage port stands in the intake of its line's slice, whose line no core holds and no other member shares,
and nothing else of the slice is in progress (R230). -/
def Sys2Proof.Claims.PortRequest (sl : Nat) (r : SReq) (s : State) : Prop :=
  let x := s.hw.slice sl
  sl < numSlices ∧ x.stopped = false ∧ x.intake = [r] ∧ x.txns = [] ∧ x.snps = [] ∧ s.hw.wbbEntry sl r.line = none ∧ r.cream = false ∧
    s.hw.localLine r.line = true ∧ s.hw.others = [] ∧ s.hw.sfForm sl r.line = none

/-- Reads and writes of ports at the slice of their line (R225, R226, R229, R400): a read of a line that the Vat holds is answered with what
`got` makes of its newest value; a write of all of a line, or of one that the Vat holds, becomes its newest value. -/
def Sys2Proof.Claims.portAtSlices (sl : Nat) (r : SReq) (s : State) (got : Vec → Payload) (stop : Nat) : Prop :=
  let h := s.hw
  PortRequest sl r s →
    (∀ off len, r.kind = .read off len → h.judge r.acc (lineLocal r.line) 1 = true → (h.vatLine sl r.line).isSome →
      Answers (.readShared sl) s fun u => u.mem = s.mem ∧ u.hw.newest = h.newest ∧ (u.hw.slice sl).intake = [] ∧ (u.hw.slice sl).txns = [] ∧
        Sends (got (lineVal s.mem h r.line)) (chamberStop sl) stop s u) ∧
    (∀ (pa : Word) (len : Nat) (d : Vec) (bad : Bool), r.kind = .write (lineWrite pa len d bad .wb) → h.judge r.acc (lineLocal r.line) 2 = true →
      len = 64 ∨ (h.vatLine sl r.line).isSome → (h.slice sl).wbbFree.isSome → pa.toNat % 64 + len ≤ 64 →
      Answers (.readUnique sl) s fun u => u.mem = s.mem ∧ (u.hw.slice sl).intake = [] ∧ (u.hw.slice sl).txns = [] ∧
        lineVal u.mem u.hw r.line = vput (lineVal s.mem h r.line) (pa.toNat % 64) (vbytes d 0 len))

/-- Requests of other nodes (R225, R229, R367, R370, R400): a packet with a reserved value takes the link down; a permitted READ, WRITE or
ATOMIC, of every operation, leaves its port for the slice of its line, where it is answered with the line, or stored; a refused one, or an
ATOMIC of a size that AMO.FAR lacks, answers ERROR. -/
def Obligations.PassageRequests : Prop :=
  ∀ (k : Nat) (p : PPkt) (s : State), s.hw.off = false →
    let h := s.hw
    (∀ (l : Nat × Nat), (h.passUp.find? fun l => l.1 == k) = some l → ∀ i ∈ ([(.passageRead, 0), (.passageWrite, 1), (.passageAtomic, 2),
        (.rdata, 3), (.wack, 4), (.aresult, 5), (.passageError, 6)] : List ((Nat → PPkt → Instr) × Nat)), pktReserved i.2 p = true →
      Answers (i.1 k p) s fun u => u.mem = s.mem ∧ u.hw.linkState k l.2 = 1 ∧ u.hw.regF (linkReg k (0x100 + 8 * l.2)) 60 57 = 8) ∧
    (∀ (e j : Nat), let pa := pktPa p
      let l := lineNo pa
      let sl := sliceOf l
      let off := pa.toNat % 64
      let same := fun u : State => u.mem = s.mem ∧ u.hw.newest = h.newest ∧ u.hw.threads = h.threads
      let req := fun kind : ReqKind => (⟨kind, l, .pass k p, ⟨.s, false, 0⟩, false, 16, false, none⟩ : SReq)
      let leaves := fun (i : Instr) (kind : ReqKind) => h.passRefuse k p = none → PortOpen h 4 k sl → Answers i s fun u =>
        same u ∧ Sends (.req sl (req kind)) (portStop k) (chamberStop sl) s u
      let refused := fun (i : Instr) (n : Nat) => Answers i s fun u =>
        same u ∧ ToLink (portStop k) e j (.pas 6 (packetBack h p n false 0)) s u
      (PasHere h k 0 p e j → leaves (.passageRead k p) (.read off p.len) ∧ ∀ n, h.passRefuse k p = some n → refused (.passageRead k p) n) ∧
      (PasHere h k 1 p e j → leaves (.passageWrite k p) (.write (lineWrite pa p.len (vput 0 0 (vbytes p.data off p.len)) p.poison .wb)) ∧
        ∀ n, h.passRefuse k p = some n → refused (.passageWrite k p) n) ∧
      (PasHere h k 2 p e j →
        let sized := (p.len = 4 ∧ (p.aop = 0 ∨ p.aop = 8 ∨ p.aop = 9)) ∨ p.len = 8 ∨ p.len = 16 ∨ p.len = 32 ∨ p.len = 64
        (sized → off % p.len = 0 →
          leaves (.passageAtomic k p) (.far (farOp pa p.len p.data p.aop.toNat p.exp .wb))) ∧
        (h.passRefuse k p = none → ¬sized ∨ off % p.len ≠ 0 → refused (.passageAtomic k p) 4) ∧
        ∀ n, h.passRefuse k p = some n → refused (.passageAtomic k p) n) ∧
      (h.passEgress p.snode.toNat = some (e, j) → ∀ kind, portAtSlices sl (req kind) s
        (fun v => .link e j (.pas 3 (packetBack h p 0 (h.poisoned l) v))) (portStop e)))

/-- Answers of other nodes (R55, R63, R66, R172, R224, R368, R369): the tag is free again; data or an error of a load, the end of a store or its
error leave for the thread's chamber; the result of an atomic, its acknowledgement or its error leaves the proxy slice for the thread; at the
chamber the store is performed, its error made a record; a timeout is ERR 3 and holds the tag back; an answer to no request changes nothing. -/
def Obligations.PassageAnswers : Prop :=
  ∀ (k t : Nat) (p : PPkt) (s : State), s.hw.off = false →
    let h := s.hw
    let told := fun (who : Waiter) (pa : Word) (v : Vec) (err : Nat) (u : State) => u.mem = s.mem ∧ u.hw.newest = h.newest ∧
      u.hw.threads = h.threads ∧ Sends (.coreAns who pa v err) (portStop k) (chamberStop (t / 16)) s u
    (∀ l, (h.passUp.find? fun l => l.1 == k) = some l →
      (∀ i ∈ ([(.rdata, 3), (.wack, 4), (.aresult, 5), (.passageError, 6)] : List ((Nat → PPkt → Instr) × Nat)), pktReserved i.2 p = false →
        h.ptagOf k p = none → Answers (i.1 k p) s fun u => u = s) ∧
      (∀ key pa, let freed := fun u : State => u.mem = s.mem ∧ u.hw.ptags = sdel key h.ptags
        (∀ o q, h.ptagOf k p = some (key, .load t o.id 0, pa) → OneLoad h t o q → OnlyTxns h 0 [] →
          (pktReserved 3 p = false → Answers (.rdata k p) s fun u => freed u ∧
            told (.load t o.id 0) pa (vput 0 0 (vbytes p.data (q.pa.toNat % 64) 64)) (if p.poison then 2 else 0) u) ∧
          (pktReserved 6 p = false → Answers (.passageError k p) s fun u => freed u ∧ told (.load t o.id 0) pa 0 (p.err + 1) u)) ∧
        (∀ sl ln y o id ret, h.ptagOf k p = some (key, .line sl ln, pa) → AskedAway h sl ln y → sl < numSlices → y.req.kind = .far o →
          y.req.src = .far t id ret →
          (pktReserved 5 p = false → Answers (.aresult k p) s fun u => freed u ∧ FarTold sl t id p.data 0 s u) ∧
          (pktReserved 4 p = false → Answers (.wack k p) s fun u => freed u ∧ FarTold sl t id 0 0 s u) ∧
          (pktReserved 6 p = false → Answers (.passageError k p) s fun u => freed u ∧ FarTold sl t id 0 (p.err + 1) s u)) ∧
        (∀ kind sec mt, h.ptagOf k p = some (key, .store t kind sec mt, pa) → OnlyTxns h 0 [] →
          (pktReserved 4 p = false → Answers (.wack k p) s fun u => freed u ∧ told (.store t kind sec mt) pa 0 0 u) ∧
          (pktReserved 6 p = false → Answers (.passageError k p) s fun u => freed u ∧ told (.store t kind sec mt) pa 0 (p.err + 1) u)))) ∧
    (∀ (f : Flit) (pa : Word) (v : Vec) (err kind : Nat) (sec : Bool) (mt : MemType) (n : Nat), h.flits = [f] → f.vc < 4 → f.input < 6 → f.at_ < 160 →
      f.dst = f.at_ → h.meshRuns = true → (h.chamber (t / 16)).clocked = true → sget [] (t / 16) h.awayQ = [] →
      (h.thread t).b.outs = [(lineNo pa, mt, n)] → f.payload = .coreAns (.store t kind sec mt) pa v err →
      Answers (.flitHop f.at_ 5) s fun u => u.mem = s.mem ∧ u.hw.newest = h.newest ∧ OthersKeep t s u ∧ (u.hw.thread t).a = (h.thread t).a ∧
        (u.hw.thread t).b.outs = [] ∧ (err ≠ 0 → Recorded t sec ⟨pa, kind, err - 1⟩ s u)) ∧
    (∀ (j tag : Nat) (x : PTag), let key := (16 * k + j) * 4096 + tag
      sfind key h.ptags = some x → OnlyTxns h 0 [] →
      (∀ o q, x.who = some (.load t o.id 0) → OneLoad h t o q → Answers (.passageTimeout k j tag) s fun u => u.mem = s.mem ∧
        told (.load t o.id 0) x.pa 0 4 u ∧ sfind key u.hw.ptags = some { x with who := none }) ∧
      (x.who = none → Answers (.passageTagReuse k j tag) s fun u => u.mem = s.mem ∧ u.hw = { h with ptags := sdel key h.ptags }))

/-- What devices below a root port do (R25, R225, R229, R241, R349, R352, R353, R374, R393, R396, R400): a DMA read or write within a line leaves
the port for the slice of its line, which completes a read with the newest bytes and stores a write; where the address has no target a read
completes as an Unsupported Request, as a translation request does, and a refused one as Completer Abort; the completion of a read of PCIe space,
or its absence, and the acknowledgement of a write leave for the thread's chamber; LTR keeps the smaller latency; the slot status and the
revocations of R393. -/
def Obligations.RootPortTraffic : Prop :=
  ∀ (port : Nat) (rid : BitVec 16) (pa : Word) (s : State), s.hw.off = false → port < 8 →
    let h := s.hw
    let l := lineNo pa
    let sl := sliceOf l
    let same := fun u : State => u.mem = s.mem ∧ u.hw.newest = h.newest ∧ u.hw.threads = h.threads
    let req := fun kind : ReqKind =>
      (⟨kind, l, .port port, h.portAcc port, false, (h.funcWeight port rid.toNat).getD 16, false, h.homePos l⟩ : SReq)
    let takes := fun (rd : Bool) => h.portBusy port (if rd then 2 else 1) = false ∧ h.ingressFull port rid rd pa = false
    let leaves := fun (i : Instr) (rd : Bool) (kind : ReqKind) => takes rd → h.portReaches pa = true →
      h.matching (0xA000 + port) rd (pa.toNat / 64 * 64) 2 rid.toNat = none → h.hasCredit (if rd then 2 else 1) port sl = true →
      Answers i s fun u => same u ∧ Sends (.req sl (req kind)) (portStop port) (chamberStop sl) s u
    (∀ n, 0 < n → pa.toNat % 64 + n ≤ 64 → leaves (.dmaRead port rid pa (some n)) true (.read (pa.toNat % 64) n)) ∧
    (∀ n, (∀ k, n = some k → 0 < k ∧ pa.toNat % 64 + k ≤ 64 ∧ h.portReaches pa = false) → takes true → Answers (.dmaRead port rid pa n) s fun u =>
      same u ∧ u.hw.flits = h.flits ∧ sfind port u.hw.cpl = some ⟨1, false, []⟩) ∧
    (∀ (bs : Bytes) (poison : Bool), bs ≠ [] → pa.toNat % 64 + bs.length ≤ 64 → h.msgAddr pa = false ∨ bs.length ≠ 4 →
      leaves (.dmaWrite port rid pa bs poison) false (.write (lineWrite pa bs.length (vput 0 0 bs) poison .wb)) ∧
      (takes false → h.portReaches pa = false → Answers (.dmaWrite port rid pa bs poison) s fun u => same u ∧ u.hw.flits = h.flits)) ∧
    (∀ off len, portAtSlices sl (req (.read off len)) s (fun v => .cpl port ⟨0, h.poisoned l, vbytes v off len⟩) (portStop port) ∧
      (PortRequest sl (req (.read off len)) s → h.judge (h.portAcc port) (lineLocal l) 1 = false → Answers (.readShared sl) s fun u =>
        same u ∧ Sends (.cpl port ⟨4, false, []⟩) (chamberStop sl) (portStop port) s u)) ∧
    (∀ o, portAtSlices sl (req (.write o)) s (fun _ => .cpl port ⟨0, false, []⟩) (portStop port)) ∧
    (∀ (id t off : Nat) (at_ : Word) (wr : Bool) (v : Vec), let who := if wr then Waiter.store t off false .strict else .load t off 0
      h.mmio = [⟨port, id, who, at_, wr⟩] →
      let told := fun (v : Vec) (err : Nat) (u : State) => same u ∧ u.hw.mmio = [] ∧
        Sends (.coreAns who at_ v err) (portStop port) (chamberStop (t / 16)) s u
      (Answers (.mmioCompletion port id true v) s (told (if wr then 0 else v) 0)) ∧
      (wr = false → Answers (.mmioCompletion port id false v) s (told 0 1) ∧ Answers (.mmioCompletionTimeout port id) s fun u => told 0 1 u ∧
        Word.bit (u.hw.reg (linkReg port 0x10)) 2 = true)) ∧
    (∀ (j : Nat) (a b : BitVec 32), j < 16 → h.linkUp port j = true → Answers (.ltrMessage port j a b) s fun u => u.mem = s.mem ∧
      u.hw.reg (linkReg port (0x200 + 8 * j)) = w64 (min a.toNat b.toNat) ∧
      Word.bit (u.hw.reg (linkReg port 0x10)) 1 = (Word.bit (h.reg (linkReg port 0x10)) 1 ||
        decide (h.reg (linkReg port (0x200 + 8 * j)) ≠ w64 (min a.toNat b.toNat)))) ∧
    (∀ (i : Nat) (r : Resv), h.resvs = [(i, r)] → r.live = true → r.retire = false → resvKind r.words = 2 → Word.fld (wd r.words 1) 2 0 = port →
      (resvBind r.words = rid.toNat → Answers (.functionLevelReset port rid) s fun u => u.mem = s.mem ∧
        u.hw.resvs = [(i, { r with live := false, charges := [], tok := [] })]) ∧
      (resvBind r.words ≠ rid.toNat → Answers (.functionLevelReset port rid) s fun u => u = s)) ∧
    (∀ event, event < 16 → event ≠ 5 → Answers (.hotplugSlotEvent port event) s fun u => u.mem = s.mem ∧
      sget 0 port u.hw.slotStat / 2 ^ event % 2 = 1 ∧ Word.bit (u.hw.reg (linkReg port 0x10)) 5 = true)

/-! ### Interrupts (chapter 14) -/

/-- The inbox of a thread: 0 normal S, 1 secure S, 2 H, 3 M. -/
def Sys2Proof.Claims.inbox (h : Hw) (t box : Nat) : Inbox := sget Inbox.empty box (h.thread t).inbox

/-- A record joins the inbox, which is otherwise as it was. -/
def Sys2Proof.Claims.Queues (t box : Nat) (r : IntRec) (s u : State) : Prop :=
  u.mem = s.mem ∧ inbox u.hw t box = { inbox s.hw t box with queued := (inbox s.hw t box).queued ++ [r] } ∧
    (∀ b, b ≠ box → inbox u.hw t b = inbox s.hw t b) ∧ OthersKeep t s u ∧ (u.hw.thread t).a = (s.hw.thread t).a

/-- A message that has reached the stop of the router or of a chamber whose clock runs: the only one in the mesh (R288). -/
def Sys2Proof.Claims.Arrived (h : Hw) (f : Flit) (p : Payload) : Prop :=
  h.flits = [f] ∧ f.vc < 4 ∧ f.input < 6 ∧ f.at_ < 160 ∧ f.dst = f.at_ ∧ h.meshRuns = true ∧ f.payload = p

/-- A request of the router or of a thread about a descriptor or a remap entry leaves for the slice of its line (R381, R385, R386). -/
def Sys2Proof.Claims.AsksHome (src : Requester) (k : ReqKind) (acc : Acc) (pa : Word) (stop : Nat) (s u : State) : Prop :=
  let sl := sliceOf (lineNo pa)
  ∃ f ∈ u.hw.flits, f.at_ = stop ∧ f.dst = chamberStop sl ∧
    f.payload = .req sl ⟨k, lineNo pa, src, acc, false, 16, false, s.hw.homePos (lineNo pa)⟩

/-- Messages of devices (R19, R375, R381, R382): a message leaves its port for the router; there an ID outside the table is dropped and counted;
without a cached entry its entry is read at home; with one, cached or just read, a valid physical entry puts a record into the inbox of its level
and a virtual entry sends the far atomic on its descriptor; an entry that cannot be read drops the message. -/
def Obligations.InterruptMessages : Prop :=
  ∀ (port lvl vec t : Nat) (rid : BitVec 16) (id : BitVec 24) (pid : Word) (f : Flit) (s : State), s.hw.off = false →
    let h := s.hw
    let n := id.toNat
    let o := Origin.device port rid
    let size := 2 ^ h.regF (routerReg 0x100000) 4 0
    let phys : Word := w64 (2 ^ 63 + lvl * 2 ^ 60 + vec)
    let virt : Word := w64 (2 ^ 63 + 2 ^ 62 + vec)
    let box := 2 * (lvl - 1)
    let entryAt := w64 (h.node * 2 ^ 48 + (h.regF (routerReg 0x100000) 47 12 * 4096 + 16 * n) % 2 ^ 48)
    let open_ := fun pa : Word => h.ownMem pa = true ∧ h.posts = [] ∧ h.hasCredit 2 8 (sliceOf (lineNo pa)) = true
    let m := h.router.nextPost
    port < 8 → h.portSecure port = false → lvl = 1 ∨ lvl = 2 → t < numThreads →
    Answers (.interruptMessage o id) s (fun u => u.mem = s.mem ∧ Sends (.irq o n) (portStop port) (blockStop .router) s u) ∧
    (Arrived h f (.irq o n) →
      let takes := Answers (.flitHop f.at_ 5) s
      (size ≤ n → takes fun u => u.mem = s.mem ∧ u.hw.threads = h.threads ∧ u.hw.router = h.router ∧
        u.hw.reg (routerReg 0x100018) = h.reg (routerReg 0x100018) + 1) ∧
      (n < size → sfind n h.router.cache = none → open_ entryAt → takes fun u => u.mem = s.mem ∧ u.hw.threads = h.threads ∧
        u.hw.router = { h.router with looking := h.router.looking ++ [⟨m, o, n, none⟩], nextPost := m + 1 } ∧
        AsksHome (.router m) (.read (entryAt.toNat % 64) 16) ⟨.s, false, 0⟩ entryAt (blockStop .router) s u) ∧
      (n < size → sfind n h.router.cache = some (phys, w64 t) → (inbox h t box).queued = [] → vec < 4096 →
        takes (Queues t box ⟨true, n, vec, 0, false⟩ s)) ∧
      (n < size → vec < 256 → Word.fld pid 5 0 = 0 → sfind n h.router.cache = some (virt, pid) → open_ pid → takes fun u => u.mem = s.mem ∧
        u.hw.threads = h.threads ∧
        u.hw.router = { h.router with posting := h.router.posting ++ [⟨m, n, pid, vec, false, none⟩], nextPost := m + 1 } ∧
        AsksHome (.router m) (.far (farOp pid 64 (BitVec.ofNat 512 (2 ^ vec + 2 ^ 318)) 2 0 .wb)) ⟨.s, false, 0⟩ pid (blockStop .router) s u)) ∧
    (∀ (idx q : Nat) (v : Vec) (err : Nat), h.router.looking[idx]? = some ⟨q, o, n, some (v, err)⟩ →
      (err = 0 → (inbox h t box).queued = [] → vec < 4096 → h.router.cache.length < 4096 → vword v 0 = phys → vword v 1 = w64 t →
        Answers (.remapEntryReadReturn (h.msgSecure o) idx) s fun u => Queues t box ⟨true, n, vec, 0, false⟩ s u ∧
          sfind n u.hw.router.cache = some (phys, w64 t) ∧ u.hw.router.looking = h.router.looking.eraseIdx idx) ∧
      (err ≠ 0 → Answers (.remapEntryReadReturn (h.msgSecure o) idx) s fun u => u.mem = s.mem ∧ u.hw.threads = h.threads ∧
        u.hw.router = { h.router with looking := h.router.looking.eraseIdx idx } ∧
        u.hw.reg (routerReg 0x100018) = h.reg (routerReg 0x100018) + 1))

/-- Posted virtual interrupts (R383 to R386): the far atomic's old value decides whether the descriptor's thread is notified or its doorbell rung;
a notification for the active descriptor starts a pull, which swaps PIR with zero at home and ORs it into VPEND; a fold ORs VPEND into PIR at home
and clears it; VCTL starts both. -/
def Obligations.PostedInterrupts : Prop :=
  ∀ (t : Nat) (s : State), s.hw.off = false → t < numThreads →
    let h := s.hw
    let vpend := fun (h : Hw) (i : Nat) => h.reg (intrReg t (0x40 + 8 * i))
    let pid := h.reg (intrReg t 0x28)
    let active := Word.bit (h.reg (intrReg t 0x20)) 63 = true
    let open_ := h.ownMem pid = true ∧ h.posts = [] ∧ h.hasCredit 0 (t / 16) (sliceOf (lineNo pid)) = true
    let m := (h.thread t).b.nextId
    let asks := fun (op : Nat) (d : Vec) (u : State) =>
      AsksHome (.core t (.vint t m)) (.far (farOp pid 32 d op 0 .wb)) ⟨.h, false, 0⟩ pid (chamberStop (t / 16)) s u
    let pulls := fun u : State => (u.hw.thread t).vint = (h.thread t).vint ++ [⟨false, pid, m, true, none⟩] ∧
      Word.bit (u.hw.reg (intrReg t 0x20)) 61 = true ∧ asks 8 0 u
    let ended := fun u : State => u.mem = s.mem ∧ u.hw.newest = h.newest ∧ (u.hw.thread t).vint = [] ∧
      Word.bit (u.hw.reg (intrReg t 0x20)) 61 = false
    (∀ n id p vec sec old, h.router.posting = [⟨n, id, p, vec, sec, some (old, 0)⟩] →
      let ctl := vword old 4
      Answers (.pidAtomicResult sec 0) s fun u => u.mem = s.mem ∧ u.hw.newest = h.newest ∧ u.hw.threads = h.threads ∧ u.hw.router.posting = [] ∧
        u.hw.router.notifs = h.router.notifs ++ (if Word.bit ctl 63 then [(Word.fld ctl 10 0, p)] else []) ∧
        u.hw.router.doorbells = h.router.doorbells ++
          (if !Word.bit ctl 63 && !Word.bit ctl 62 && Word.bit (vword old 5) 63 then [Word.fld (vword old 5) 23 0] else [])) ∧
    (∀ p, (t, p) ∈ h.router.notifs → ¬(active ∧ p = pid) → Answers (.virtualNotification t p) s fun u => u.mem = s.mem ∧
      u.hw.router.notifs = h.router.notifs.erase (t, p) ∧ u.hw.threads = h.threads) ∧
    ((t, pid) ∈ h.router.notifs → active → open_ → Answers (.virtualNotification t pid) s fun u => u.mem = s.mem ∧
      u.hw.router.notifs = h.router.notifs.erase (t, pid) ∧ pulls u) ∧
    (∀ fold p id old, (h.thread t).vint = [⟨fold, p, id, true, some (old, 0)⟩] →
      (fold = false → Answers (.pullResult t) s fun u => ended u ∧ ∀ i, i < 4 → vpend u.hw i = vpend h i ||| vword old i) ∧
      (fold = true → Answers (.foldComplete t) s fun u => ended u ∧ ∀ i, i < 4 → vpend u.hw i = vpend h i)) ∧
    (∀ fold p id old err, (h.thread t).vint = [⟨fold, p, id, true, some (old, err)⟩] → err ≠ 0 →
      Answers (if fold then .foldComplete t else .pullResult t) s fun u => ended u ∧ Recorded t false ⟨p, 4, err - 1⟩ s u ∧
        ∀ i, i < 4 → vpend u.hw i = vpend h i) ∧
    (∀ lvl : Level, lvl = .h ∨ lvl = .m →
      (open_ → Answers (.vctlPull (t / 16) (t % 16) lvl) s fun u => u.mem = s.mem ∧ (u.hw.thread t).a = (h.thread t).a ∧ pulls u) ∧
      (∀ vmid, vmid < 2 ^ 16 → (h.thread t).vint = [] →
        let set := fun u : State => u.mem = s.mem ∧ u.hw.regF (intrReg t 0x20) 15 0 = vmid ∧ Word.bit (u.hw.reg (intrReg t 0x20)) 63 = false
        (¬active → Answers (.vctlActive (t / 16) (t % 16) lvl (w64 vmid)) s fun u => set u ∧ u.hw.threads = h.threads) ∧
        (active → open_ → Answers (.vctlActive (t / 16) (t % 16) lvl (w64 vmid)) s fun u => set u ∧
          (u.hw.thread t).vint = [⟨true, pid, m, true, none⟩] ∧ (∀ i, i < 4 → vpend u.hw i = 0) ∧
          asks 2 (lineOf ((List.range 4).map fun i => vpend h i)) u))) ∧
    (∀ (lvl : Level) (v : Word), lvl = .u ∨ lvl = .s →
      Answers (.vctlPull (t / 16) (t % 16) lvl) s (fun u => u = s) ∧ Answers (.vctlActive (t / 16) (t % 16) lvl v) s fun u => u = s)

/-- Inboxes, claims and wired sources (R373, R377 to R380): a record of a source that is queued coalesces, else it queues, spills or is lost; a
spilled record moves in when there is room; a claim's release lets a source that is still up send again; a rising level sends; a route
entry and an invalidation are written from H and M alone. -/
def Obligations.InboxesAndWiredSources : Prop :=
  ∀ (t box : Nat) (s : State), s.hw.off = false → t < numThreads → box < 4 →
    let h := s.hw
    let b := inbox h t box
    (∀ (r : IntRec) (m : Bool) (src vec : Nat), src < 2 ^ 24 → vec < 4096 →
      (b.queued = [r] → r.source = src → r.message = m → Answers (.inboxRecord t box m src vec) s fun u => u.mem = s.mem ∧
        inbox u.hw t box = { b with queued := [{ r with count := min (r.count + 1) 255 }] }) ∧
      ((∀ q ∈ b.queued, q.source ≠ src ∨ q.message ≠ m) →
        (b.queued.length < 32 → Answers (.inboxRecord t box m src vec) s (Queues t box ⟨m, src, vec, 0, false⟩ s)) ∧
        (32 ≤ b.queued.length → h.router.spill.length < 1024 → Answers (.inboxRecord t box m src vec) s fun u => u.mem = s.mem ∧
          u.hw.threads = h.threads ∧ u.hw.router.spill = h.router.spill ++ [(t, box, ⟨m, src, vec, 0, false⟩)]) ∧
        (32 ≤ b.queued.length → 1024 ≤ h.router.spill.length → Answers (.inboxRecord t box m src vec) s fun u => u.mem = s.mem ∧
          inbox u.hw t box = { b with lost := true } ∧ u.hw.router.spill = h.router.spill ∧
          u.hw.reg (routerReg 0x100018) = h.reg (routerReg 0x100018) + 1))) ∧
    (∀ (r : IntRec), h.router.spill = [(t, box, r)] → b.queued.length < 32 → (∀ q ∈ b.queued, q.source ≠ r.source ∨ q.message ≠ r.message) →
      Answers (.spillQueueMove t box) s fun u => Queues t box r s u ∧ u.hw.router.spill = []) ∧
    (∀ (lvl : Level) (sec : Bool), lvl = .m ∨ (lvl = .h ∧ (box = 0 ∨ box = 2)) ∨ (lvl = .s ∧ box = if sec then 1 else 0) →
      let a := intrReg t (8 * box)
      Word.bit (h.reg a) 63 = true → Word.bit (h.reg a) 62 = true → Answers (.iclaim (t / 16) (t % 16) box lvl sec) s fun u =>
        u.mem = s.mem ∧ u.hw.threads = h.threads ∧ u.hw.reg a = 0 ∧ ∀ k, k ≠ a → u.hw.reg k = h.reg k) ∧
    (∀ (n vec : Nat), n < 4096 → vec < 4096 → b.queued = [] →
      let w := h.reg (wireReg n)
      Word.bit w 63 = true → Word.bit w 58 = false → Word.fld w 60 59 = 2 → box = 2 → Word.fld w 42 32 = t → Word.fld w 11 0 = vec →
      let sent := fun u : State => Queues t box ⟨false, n, vec, 0, false⟩ s u ∧ Word.bit (u.hw.reg (wireReg n)) 62 = true
      (Word.bit w 62 = false → Word.bit w 61 = false → h.srcLevel n = true → Answers (.wiredLevelChange n) s fun u =>
        sent u ∧ Word.bit (u.hw.reg (wireReg n)) 61 = true) ∧
      (h.srcLevel n = false → Answers (.wiredLevelChange n) s fun u => u.mem = s.mem ∧ u.hw.threads = h.threads ∧
        Word.bit (u.hw.reg (wireReg n)) 61 = false) ∧
      (∀ chamber lt c2, chamber < numChambers → lt < 16 → c2 = 16 * chamber + lt → Word.bit w 61 = true →
        h.reg (intrReg c2 0x10) = w64 (2 ^ 63 + n * 2 ^ 24 + vec) → Answers (.iclaim chamber lt 2 .h false) s fun u =>
          sent u ∧ u.hw.reg (intrReg c2 0x10) = 0)) ∧
    (∀ (n vec : Nat), n < 4096 → vec < 4096 → Word.fld (h.reg (wireReg n)) 60 59 < 3 → Word.bit (h.reg (wireReg n)) 58 = false →
      Word.bit (h.reg (wireReg n)) 61 = false → let v : Word := w64 (2 ^ 63 + 2 * 2 ^ 59 + t * 2 ^ 32 + vec)
      Answers (.routerWire n .h v) s (fun u => u.mem = s.mem ∧ u.hw.threads = h.threads ∧ u.hw.regF (wireReg n) 63 63 = 1 ∧
        u.hw.regF (wireReg n) 60 59 = 2 ∧ u.hw.regF (wireReg n) 42 32 = t ∧ u.hw.regF (wireReg n) 11 0 = vec) ∧
      Answers (.routerWire n .s v) s (fun u => u.mem = s.mem ∧ u.hw.threads = h.threads ∧ u.hw.reg (wireReg n) = h.reg (wireReg n))) ∧
    (∀ id, id < 2 ^ 24 → h.router.looking = [] →
      Answers (.routerInval .h (w64 id)) s (fun u => u.mem = s.mem ∧ u.hw.threads = h.threads ∧
        u.hw.router = { h.router with cache := h.router.cache.filter (fun e => e.1 != id), inval := some h.router.nextPost } ∧
        Word.bit (u.hw.reg (routerReg 0x100010)) 0 = true) ∧
      Answers (.routerInval .s (w64 id)) s (fun u => u = s)) ∧
    (∀ n, h.router.inval = some n →
      ((∀ p ∈ h.router.posting, n ≤ p.n) → Answers .routerInvalComplete s fun u => u.mem = s.mem ∧ u.hw.router.inval = none ∧
        Word.bit (u.hw.reg (routerReg 0x100010)) 0 = false) ∧
      ((∃ p ∈ h.router.posting, p.n < n) → Answers .routerInvalComplete s fun u => u = s))

/-! ### Worlds, timers, registers (chapters 15 and 2) -/

/-- Timers, hand-overs and the secure watchdog (R154, R411, R412, R416, R417, R437): TIME at its compare value wakes a core; M alone starts a
hand-over, which stays busy with the block it names, and one to the world that holds the block ends with STATUS 2; M alone kicks the watchdog;
near its end it asserts its source, and at its end it writes the cause and has a warm reset follow. -/
def Obligations.TimersHandoversWatchdog : Prop :=
  ∀ (t : Nat) (s : State), s.hw.off = false → t < numThreads →
    let h := s.hw
    (∀ which, let k := if which = 0 then 0x405 else if which = 1 then sKey true 0x405 else 0x806
      (h.time.toNat < ((h.thread t).a.crAt k).toNat → Answers (.timecmpMatch t which) s fun u => u = s) ∧
      (((h.thread t).a.crAt k).toNat ≤ h.time.toNat → h.trans = [] → h.scopeState 0 (t / 4) = .drip → (h.chamber (t / 16)).park = none →
        h.scopeState 1 (t / 16) = .run → h.scopeState 2 (t / 288) = .run → h.pkg.state = .run → h.pkg.target = none →
        Answers (.timecmpMatch t which) s fun u => u.mem = s.mem ∧ u.hw.threads = h.threads ∧ u.hw.scopeState 0 (t / 4) = .run)) ∧
    (∀ (norm forced : Bool) (i : Nat) (lvl : Level), h.hand = none →
      let names := fun (kind : Nat) (u : State) => u.mem = s.mem ∧ u.hw.threads = h.threads ∧ Word.bit (u.hw.reg (chkReg 0x20010)) 62 = true ∧
        ∃ x, u.hw.hand = some x ∧ Word.fld x.word 61 60 = kind ∧ Word.bit x.word 59 = norm ∧ Word.fld x.word 11 0 = i
      let held := fun (u : State) => u.mem = s.mem ∧ u.hw.hand = none ∧ u.hw.regF (chkReg 0x20010) 58 56 = 2
      (lvl ≠ .m → ∀ c ∈ [Instr.handoverRootPort lvl norm i forced, .handoverChurnInstance lvl norm i, .handoverWiredSource lvl norm i],
        Answers c s fun u => u = s) ∧
      (i < 8 → (h.portSecure i = norm → Answers (.handoverRootPort .m norm i forced) s (names 0)) ∧
        (h.portSecure i ≠ norm → Answers (.handoverRootPort .m norm i forced) s held)) ∧
      (i < 512 → h.instState i = 1 ∨ h.instState i = 4 →
        (Word.bit (h.reg (rinstReg i)) 60 = norm →
          Answers (.handoverChurnInstance .m norm i) s fun u => names 1 u ∧ u.hw.instState i = 5) ∧
        (Word.bit (h.reg (rinstReg i)) 60 ≠ norm → Answers (.handoverChurnInstance .m norm i) s held)) ∧
      (i < 4096 → let sec := decide (h.regF (wireReg i) 60 59 = 3 ∨ Word.bit (h.reg (wireReg i)) 58 = true)
        (sec = norm → Answers (.handoverWiredSource .m norm i) s (names 2)) ∧
        (sec ≠ norm → Answers (.handoverWiredSource .m norm i) s held))) ∧
    (((h.thread t).a.level = .m → Answers (.wdkickM t) s fun u => u.mem = s.mem ∧ u.hw.swdt = h.regF (chkReg 0x20100) 47 32 * 65536 ∧
        sfind 0x052 u.hw.wired = none ∧ u.hw.threads = h.threads) ∧
      ((h.thread t).a.level ≠ .m → Answers (.wdkickM t) s fun u => u = s)) ∧
    (h.swdtOn = true → 0 < h.regF (chkReg 0x20100) 31 16 → 0 < h.swdt → h.swdt ≤ h.regF (chkReg 0x20100) 31 16 * 65536 →
      Answers .watchdogPreExpiry s fun u => u.mem = s.mem ∧ sfind 0x052 u.hw.wired = some true ∧
        Word.bit (u.hw.reg (wireReg 0x052)) 61 = true) ∧
    (h.swdtOn = true → h.swdt = 0 → h.wdFire = none → h.bootWait = none → Answers .watchdogExpiry s fun u => u.mem = s.mem ∧
      u.hw.wdFire = some (6, 0) ∧ u.hw.regF (kprReg 0) 63 56 = 6 ∧ u.hw.reg (kprReg 8) = h.reg (kprReg 0) ∧
      u.hw.keeper.notif / 2 % 2 = 1 ∧ u.hw.threads = h.threads)

/-- Registers that software writes (R9, R27, R28, R311, R357, R371, R393, R395, R401, R507): 4 or 8 bytes, aligned, on this node, by a level
that may; the rest is ignored. A locked region is not written. A function entry that changes its requester revokes its reservations. -/
def Obligations.RegisterWrites : Prop :=
  ∀ (lvl : Level) (sec : Bool) (v : Word) (s : State), s.hw.off = false →
    let h := s.hw
    let same := fun (u : State) => u.mem = s.mem ∧ u.hw.threads = h.threads ∧ ∀ a, u.hw.reg a = h.reg a
    (∀ c, c < numChambers → h.node < 2 ^ 16 →
      let a := chamberReg c 0x2000
      let addr := fun (n : Nat) => w64 (h.node * 2 ^ 48 + a + n)
      (lvl = .h ∨ lvl = .m →
        Answers (.registerWrite (addr 0) lvl sec 8 v) s (fun u => u.mem = s.mem ∧ u.hw.threads = h.threads ∧ u.hw.reg a = v ∧
          ∀ k, k ≠ a → u.hw.reg k = h.reg k) ∧
        Answers (.registerWrite (addr 4) lvl sec 4 v) s (fun u => u.mem = s.mem ∧ u.hw.threads = h.threads ∧
          u.hw.reg a = Word.setFld (h.reg a) 63 32 (v.toNat % 2 ^ 32) ∧ ∀ k, k ≠ a → u.hw.reg k = h.reg k)) ∧
      (lvl = .u ∨ lvl = .s → Answers (.registerWrite (addr 0) lvl sec 8 v) s same) ∧
      Answers (.registerWrite (addr 0) lvl sec 2 v) s (fun u => u = s) ∧ Answers (.registerWrite (addr 4) lvl sec 8 v) s (fun u => u = s)) ∧
    (∀ addr size, addr.toNat / 2 ^ 48 ≠ h.node → Answers (.registerWrite addr lvl sec size v) s fun u => u = s) ∧
    (∀ n, n < 64 →
      let at_ := chkReg (0x20 * n + 16)
      (Word.bit (h.reg at_) 62 = false →
        (∀ word, word < 2 → Answers (.regionRegisterWrite n word .m v) s fun u => u.mem = s.mem ∧ u.hw.threads = h.threads ∧
          u.hw.regF (chkReg (0x20 * n + 8 * word)) 47 12 = Word.fld v 47 12) ∧
        (Word.fld v 57 56 < 3 → Answers (.regionRegisterWrite n 2 .m v) s fun u => u.mem = s.mem ∧ u.hw.threads = h.threads ∧
          u.hw.regF at_ 63 63 = Word.fld v 63 63 ∧ u.hw.regF at_ 57 56 = Word.fld v 57 56 ∧ u.hw.regF at_ 43 32 = Word.fld v 43 32 ∧
          u.hw.regF at_ 2 0 = Word.fld v 2 0)) ∧
      (∀ word, word < 3 → lvl ≠ .m ∨ Word.bit (h.reg at_) 62 = true → Answers (.regionRegisterWrite n word lvl v) s same)) ∧
    (∀ n, n < 16 → let a := chkReg (0x10100 + 8 * n)
      Answers (.packageDecodeRegisterWrite (w64 a) .m v) s (fun u => u.mem = s.mem ∧ u.hw.threads = h.threads ∧
        u.hw.regF a 63 63 = Word.fld v 63 63 ∧ u.hw.regF a 15 0 = Word.fld v 15 0) ∧
      (lvl ≠ .m → Answers (.packageDecodeRegisterWrite (w64 a) lvl v) s same)) ∧
    (∀ port n, port < 8 → n < 256 → h.portSecure port = false → let a := linkReg port (0x1000 + 8 * n)
      (lvl = .u ∨ lvl = .s → Answers (.linkFunc port n lvl v) s same) ∧
      (lvl = .h ∨ lvl = .m → Answers (.linkFunc port n lvl v) s (fun u => u.mem = s.mem ∧ u.hw.threads = h.threads ∧
        u.hw.regF a 63 63 = Word.fld v 63 63 ∧ u.hw.regF a 15 0 = Word.fld v 15 0 ∧
        ∀ i r, h.resvs = [(i, r)] → r.live = true → r.retire = false → resvKind r.words = 2 → Word.fld (wd r.words 1) 2 0 = port →
          Word.bit (h.reg a) 63 = true → resvBind r.words = h.regF a 15 0 → Word.fld v 15 0 ≠ h.regF a 15 0 →
          u.hw.resvs = [(i, { r with live := false, charges := [], tok := [] })])))

/-! ### Patrol and the incident log (chapter 18) -/

/-- Patrol (R472 to R478): the next unit is taken out of service; a passing march returns it; a failure that the fewest spare rows and columns
left to the way cover is repaired and queued for fusing, another retires the way; a slice out of time ends untested and counts. -/
def Obligations.PatrolSlices : Prop :=
  ∀ (b j w : Nat) (s : State), s.hw.off = false → b < 4 → j < 18 → w < 24 →
    let h := s.hw
    let u0 := 1152 + 24 * j + w
    let sl := 18 * b + j
    let held := fun (h : Hw) => sget false w (h.slice sl).offline
    let stat := fun (h : Hw) (hi lo : Nat) => h.regF (logReg (0x1100 + 8 * b)) hi lo
    (∀ p ∈ (h.slice sl).ways, p.1 % 24 ≠ w) →
    ((h.patrolOf b).cur = none → (h.patrolOf b).front = [] → h.regF (logReg 0x1000) 63 63 = 1 → stat h 15 0 = u0 → h.unitSkips b u0 = false →
      Answers (.patrolUnitStart b) s fun u => u.mem = s.mem ∧ (u.hw.patrolOf b).cur = some u0 ∧ held u.hw = true ∧ stat u.hw 15 0 = u0 + 1) ∧
    ((h.patrolOf b).cur = some u0 →
      let ends := fun u : State => u.mem = s.mem ∧ (u.hw.patrolOf b).cur = none ∧ sfind u0 (u.hw.patrolOf b).skipped = none
      let r := h.repairsOf b
      (∀ measured ok, Answers (.patrolSliceComplete b measured [] ok) s fun u => ends u ∧ held u.hw = false) ∧
      (∀ measured bits ok, bits ≠ [] → r.queue.length < 64 → r.queue.length < 128 - r.fuses.length - r.spoiled →
        let cover := if ok then coverOf (2 - sget 0 u0 r.rows) (2 - sget 0 u0 r.cols) bits else none
        (∀ x y, cover = some (x, y) → Answers (.patrolSliceComplete b measured bits ok) s fun u => ends u ∧ held u.hw = false ∧
          sget 0 u0 (u.hw.repairsOf b).rows = sget 0 u0 r.rows + x ∧ sget 0 u0 (u.hw.repairsOf b).cols = sget 0 u0 r.cols + y ∧
          (u.hw.repairsOf b).queue = r.queue ++ [⟨u0, x, y, false⟩]) ∧
        (cover = none → held h = true → Answers (.patrolSliceComplete b measured bits ok) s fun u => ends u ∧ held u.hw = true ∧
          sfind u0 (u.hw.repairsOf b).retired = some true ∧ (u.hw.repairsOf b).queue = r.queue ++ [⟨u0, 0, 0, true⟩])) ∧
      (Answers (.patrolSliceTimeout b) s fun u => u.mem = s.mem ∧ (u.hw.patrolOf b).cur = none ∧ held u.hw = false ∧
        sget 0 u0 (u.hw.patrolOf b).skipped = sget 0 u0 (h.patrolOf b).skipped + 1 ∧
        stat u.hw 47 32 = min (stat h 47 32 + 1) 65535))

/-- Error records and the log (R479 to R488, R490): a record takes a place in its bank, counts on one of its kind when the bank is full, or
is counted as lost; the collector gives it an entry with its severity and source; PEEK and RD move only forward within their bounds; a read
of LOG.STAT acknowledges; LOG.FATAL is cleared by a 1; an hour of life is counted. -/
def Obligations.RecordsAndLog : Prop :=
  ∀ (b src : Nat) (sec : Bool) (x : Record) (s : State), s.hw.off = false → b < 6 → src < 2 ^ 16 →
    let h := s.hw
    let r : Record := { x with w3 := h.time }
    let k := h.bank b
    let type := Word.fld x.w0 63 56
    (type < 0x10 ∨ 0x13 < type →
      (k.recs.length < 32 → Answers (.errorRecord x src sec b) s fun u => u.mem = s.mem ∧ u.hw.threads = h.threads ∧
        (u.hw.bank b).recs = k.recs ++ [⟨r, src, sec, Record.sev r, 0, h.time, h.time⟩] ∧
        u.hw.regF (logReg (0x100 + 8 * b)) 5 0 = k.recs.length + 1) ∧
      (∀ y q, k.recs = y :: q → 32 ≤ k.recs.length → y.src = src → Word.fld y.body.w0 63 56 = type → y.cnt < 65535 →
        Answers (.errorRecord x src sec b) s fun u => u.mem = s.mem ∧ (u.hw.bank b).recs = { y with cnt := y.cnt + 1, last := h.time } :: q) ∧
      (32 ≤ k.recs.length → (∀ y ∈ k.recs, y.src ≠ src) → Answers (.errorRecord x src sec b) s fun u => u.mem = s.mem ∧
        (u.hw.bank b).recs = k.recs ∧ (u.hw.bank b).ovf.isSome = true)) ∧
    (∀ w, type = 0x12 → Word.fld x.w0 47 44 = 3 → Word.fld x.w0 43 32 < 72 → let n := Word.fld x.w0 43 32
      h.vatLine n (lineNo x.w1) = some w → w.st = .m ∨ w.st = .o → Answers (.errorRecord x src sec b) s fun u => u.mem = s.mem ∧
        u.hw.newest = h.newest ∧ u.hw.vatLine n (lineNo x.w1) = some { w with bad := true }) ∧
    (∀ y q, h.nextBank = some b → k.ovf = none → k.recs = y :: q → y.sev < 8 → h.regF (logReg 8) 63 63 = 0 → h.logU < 3840 → h.reg (logReg 0x10) ≤ w64 (2 ^ 32 - 2) →
      let wr := (h.reg (logReg 0x10)).toNat
      let e := logReg (0x40000 + 64 * (wr % 4096))
      Answers (.logRecord b) s fun u => u.mem = s.mem ∧ (u.hw.bank b).recs = q ∧ u.hw.reg (logReg 0x10) = w64 (wr + 1) ∧
        u.hw.lossNext = false ∧ u.hw.regF e 63 56 = Word.fld y.body.w0 63 56 ∧ u.hw.regF e 55 53 = y.sev ∧
        u.hw.regF e 52 52 = b2n y.sec ∧ u.hw.regF e 51 51 = b2n h.lossNext ∧ u.hw.regF e 47 32 = y.src % 2 ^ 16 ∧
        u.hw.reg (e + 32) = y.body.w0 ∧ u.hw.reg (e + 40) = y.body.w1 ∧ u.hw.reg (e + 48) = y.body.w2 ∧ u.hw.reg (e + 56) = y.body.w3) ∧
    (∀ (lvl : Level) (v : Word), lvl = .h ∨ lvl = .m → v.toNat < 2 ^ 32 →
      let rd := (h.reg (logReg 0x20)).toNat
      let pk := (h.reg (logReg 0x18)).toNat
      let wr := (h.reg (logReg 0x10)).toNat
      rd ≤ pk → pk ≤ wr → wr < 2 ^ 32 →
      Answers (.logPeek lvl v) s (fun u => u.mem = s.mem ∧ u.hw.threads = h.threads ∧
        u.hw.reg (logReg 0x18) = if rd ≤ v.toNat ∧ v.toNat ≤ wr then v else h.reg (logReg 0x18)) ∧
      Answers (.logRd lvl v) s (fun u => u.mem = s.mem ∧ u.hw.threads = h.threads ∧
        u.hw.reg (logReg 0x20) = if rd ≤ v.toNat ∧ v.toNat ≤ pk then v else h.reg (logReg 0x20))) ∧
    (∀ lvl : Level, lvl = .h ∨ lvl = .m → Answers (.logStat lvl) s (fun u => u.mem = s.mem ∧ u.hw = { h with dropNew := false }) ∧
      Answers (.logFatal lvl (w64 (2 ^ 63))) s (fun u => u.mem = s.mem ∧ u.hw.threads = h.threads ∧
        u.hw.regF (logReg 0x38) 63 63 = 0 ∧ u.hw.regF (logReg 0x38) 47 32 = h.regF (logReg 0x38) 47 32) ∧
      Answers (.logFatal lvl 0) s (fun u => u.mem = s.mem ∧ u.hw.reg (logReg 0x38) = h.reg (logReg 0x38))) ∧
    (b < 4 → let a := logReg (0x2000 + 0x40 * b)
      let temp := sget 0 b h.hottest
      let bin := if temp ≤ 65 then 0 else if temp ≤ 85 then 1 else if temp ≤ 95 then 2 else if temp ≤ 105 then 3 else 4
      let weight := if temp ≤ 65 then 1 else if temp ≤ 85 then 4 else if temp ≤ 95 then 8 else if temp ≤ 105 then 16 else 32
      Answers (.lifeHourTick b) s fun u => u.mem = s.mem ∧ u.hw.threads = h.threads ∧
        u.hw.reg (a + 8 * bin) = h.reg (a + 8 * bin) + 1 ∧ u.hw.reg (a + 0x28) = h.reg (a + 0x28) + w64 weight)

/-! ### Power (chapter 16) -/

/-- Readings of rails (R418, R420, R499): a good reading is shown and ends a row of failures, the fourth failure in a row degrades a core
rail; a core rail that reports its set-point lets the raises that wait for it glide; another rail that is not good stops the device, but
one that Deep Sump lets the board switch off; an alert alone changes nothing. -/
def Sys2Proof.Claims.railReadings (r mv da : Nat) (s : State) : Prop :=
  s.hw.off = false → mv < 2 ^ 16 → da < 2 ^ 16 →
    let h := s.hw
    let a := pwrReg (0x600 + 8 * r)
    let glides := fun u : State => ∀ i, i < 6 → (u.hw.chamber (6 * r + i)).change =
      (h.chamber (6 * r + i)).change.map fun (y : FreqChange) => { y with gliding := true }
    (Answers .pmbAlert s fun u => u = s) ∧
    (r < 12 →
      (∀ reached, (h.rail r).want = none → Answers (.coreRailRead r true mv da reached) s fun u => u.mem = s.mem ∧
        u.hw.regF a 47 32 = mv ∧ u.hw.regF a 31 16 = da ∧ u.hw.regF a 63 48 = h.regF a 63 48 ∧ (u.hw.rail r).fails = 0) ∧
      (∀ v, (h.rail r).want = some v →
        (Answers (.coreRailRead r true mv da true) s fun u => u.mem = s.mem ∧ u.hw.regF a 47 32 = mv ∧ u.hw.regF a 31 16 = da ∧
          (u.hw.rail r).want = none ∧ glides u) ∧
        (Answers (.avsSetpointPoll r true true) s fun u => u.mem = s.mem ∧ u.hw.regs = h.regs ∧ (u.hw.rail r).want = none ∧
          (u.hw.rail r).fails = 0 ∧ glides u) ∧
        (Answers (.avsSetpointPoll r false true) s fun u => u.mem = s.mem ∧ u.hw = h.updRail r fun y => { y with fails := 0 })) ∧
      (∀ c, c = Instr.coreRailRead r false mv da false ∨ (c = Instr.avsSetpointPoll r false false ∧ (h.rail r).want.isSome = true) →
        ((h.rail r).fails < 3 → Answers c s fun u => u.mem = s.mem ∧ u.hw.regs = h.regs ∧ (u.hw.rail r).fails = (h.rail r).fails + 1) ∧
        (3 ≤ (h.rail r).fails → Answers c s fun u => u.mem = s.mem ∧ u.hw.regF a 0 0 = 1 ∧ (u.hw.rail r).fails = 0))) ∧
    (16 ≤ r → r < 36 → let v := if r < 22 then 800 else if r < 24 then 750 else if r < 26 then 1200 else if r < 30 then 1100
        else if r < 35 then 750 else 1800
      let kept := 26 ≤ r ∧ r < 30 ∨ r = 34 ∨ r = 35
      (v * 19 ≤ mv * 20 → mv * 20 ≤ v * 21 → Answers (.pmbusRailRead r true mv true) s fun u => u.mem = s.mem ∧
        u.hw = h.updRail r fun y => { y with fails := 0, mv := mv }) ∧
      (∀ good, mv * 10 < v * 9 ∨ good = false → h.pkg.state ≠ .deep ∨ kept → Answers (.pmbusRailRead r true mv good) s fun u =>
        u.mem = s.mem ∧ u.hw.off = true ∧ u.hw.pins.pwrok = false ∧ u.hw.regF (kprReg 0) 63 56 = 2) ∧
      (∀ good, h.pkg.state = .deep → ¬kept → Answers (.pmbusRailRead r true mv good) s fun u => u.mem = s.mem ∧
        u.hw = h.updRail r fun y => { y with fails := 0, mv := mv }) ∧
      (∀ good, (h.rail r).fails < 3 → Answers (.pmbusRailRead r false mv good) s fun u => u.mem = s.mem ∧
        u.hw = h.updRail r fun y => { y with fails := (h.rail r).fails + 1 }))

/-- Clocks and limits (R4, R424 to R426, R445): a request is a multiple of 25 MHz from 400 to the bin's highest clock, from S or above; a glide
ends with the clock granted; a limit outside its range is refused; a sample of the limiter moves the ceiling by 25 MHz. -/
def Sys2Proof.Claims.clocksAndLimits (c req watts : Nat) (lvl : Level) (s : State) : Prop :=
  s.hw.off = false →
    let h := s.hw
    let a := pwrReg (0x100 + 8 * c)
    let lim := pwrReg 0
    (c < numChambers →
      (lvl ≠ .u → req < 2 ^ 16 → Answers (.pwrFreq c lvl req) s fun u => u.mem = s.mem ∧ u.hw.threads = h.threads ∧
        u.hw.regF a 15 0 = (if req % 25 = 0 ∧ 400 ≤ req ∧ req ≤ h.binMax then req else h.regF a 15 0) ∧ u.hw.regF a 47 32 = h.regF a 47 32) ∧
      (lvl = .u → Answers (.pwrFreq c lvl req) s fun u => u = s) ∧
      (∀ y, (h.chamber c).change = some y → y.gliding = true → y.target < 2 ^ 16 → Answers (.freqGlideComplete c) s fun u => u.mem = s.mem ∧
        (u.hw.chamber c).freq = y.target ∧ u.hw.regF a 47 32 = y.target ∧ u.hw.regF a 15 0 = h.regF a 15 0) ∧
      ((∀ y, (h.chamber c).change = some y → y.gliding = false) → Answers (.freqGlideComplete c) s fun u => u = s)) ∧
    (Answers (.pwrLimit .m watts) s fun u => u.mem = s.mem ∧ u.hw.threads = h.threads ∧
      u.hw.regF lim 15 0 = (if 400 ≤ watts ∧ watts ≤ h.binTop then watts else h.regF lim 15 0)) ∧
    (lvl ≠ .m → Answers (.pwrLimit lvl watts) s fun u => u = s) ∧
    (let keep := 10 * h.regF lim 31 24
     let xs := (watts :: h.limiter).take keep
     let sum := xs.foldl (· + ·) 0
     let top := h.regF lim 15 0 * xs.length
     0 < keep → Answers (.packageLimiterTick watts) s fun u => u.mem = s.mem ∧ u.hw.threads = h.threads ∧ u.hw.limiter = xs ∧
       u.hw.pkgCeil = (if top < sum then max 400 (h.pkgCeil - 25) else if sum * 100 < 98 * top then min h.binMax (h.pkgCeil + 25) else h.pkgCeil) ∧
       u.hw.regF (pwrReg 8) 63 48 = min (sum / xs.length) 65535)

/-- Temperature and droop (R374, R427 to R429, R473, R501): a reading moves a chamber's ceiling, the second in a row of 110 °C trips; droop
levels apply, count, and end in their order, unless every detector of the chamber is out of service. -/
def Sys2Proof.Claims.heatAndDroop (c temp : Nat) (s : State) : Prop :=
  s.hw.off = false → c < numChambers →
    let h := s.hw
    let a := pwrReg (0x1000 + 8 * c)
    let level := fun (h : Hw) => (h.chamber c).droop
    (sget false c h.badSensor = false →
      (temp < 110 → Answers (.thermalRead c temp) s fun u => u.mem = s.mem ∧ u.hw.threads = h.threads ∧ sget 0 c u.hw.temps = temp ∧
        (u.hw.chamber c).ceiling = (if 100 < temp then max 400 ((h.chamber c).ceiling - 100)
          else if temp < 100 then min h.binMax ((h.chamber c).ceiling + 25) else (h.chamber c).ceiling) ∧ u.hw.off = false) ∧
      (110 ≤ temp →
        (sget 0 c h.tooHot = 0 → Answers (.thermalRead c temp) s fun u => u.mem = s.mem ∧ u.hw.off = false ∧ sget 0 c u.hw.tooHot = 1) ∧
        (0 < sget 0 c h.tooHot → Answers (.thermalRead c temp) s fun u => u.mem = s.mem ∧ u.hw.off = true ∧ u.hw.pins.thermtrip = true ∧
          u.hw.regF (kprReg 0) 63 56 = 2 ∧ u.hw.reg (kprReg 8) = h.reg (kprReg 0)))) ∧
    ((h.chamber c).detectOff ≠ 15 →
      (level h = 0 → Answers (.droopLevel1 c) s fun u => u.mem = s.mem ∧ u.hw.threads = h.threads ∧ level u.hw = 1 ∧
        u.hw.regF a 31 0 = min (h.regF a 31 0 + 1) (2 ^ 32 - 1)) ∧
      (level h < 2 → Answers (.droopLevel2 c) s fun u => u.mem = s.mem ∧ u.hw.threads = h.threads ∧ level u.hw = 2 ∧
        u.hw.regF a 63 32 = min (h.regF a 63 32 + 1) (2 ^ 32 - 1) ∧ Word.bit (u.hw.reg (pwrReg 0x20)) 5 = true ∧
        Word.bit (u.hw.reg (chamberReg c 0x1000)) 4 = true)) ∧
    ((h.chamber c).detectOff = 15 → (Answers (.droopLevel1 c) s fun u => u = s) ∧ Answers (.droopLevel2 c) s fun u => u = s) ∧
    (level h = 2 → Answers (.droopRecovery c) s fun u => u.mem = s.mem ∧ u.hw.regs = h.regs ∧ level u.hw = 1) ∧
    (level h = 1 → Answers (.droopLevel1End c) s fun u => u.mem = s.mem ∧ u.hw.regs = h.regs ∧ level u.hw = 0)

/-- Rails, clocks, limits, temperature and droop (R4, R420, R424 to R429, R473, R499, R501): what readings, requests and events of the power
controller leave. The floor of 400 MHz under a temperature ceiling is the model's choice (log 54). -/
def Obligations.RailsAndClocks : Prop :=
  ∀ (n x y : Nat) (lvl : Level) (s : State), railReadings n x y s ∧ clocksAndLimits n x y lvl s ∧ heatAndDroop n x s

/-- Entering and leaving the states of a core, chamber or die (R430 to R435, R441, R442): an entry starts where a deeper state is permitted
and ends in it; a wake leaves a state that stopped nothing at once; otherwise its steps pass one after the other, step 1 is tried twice,
and a core comes back from Sump with its L1 caches invalid. A tolerance of the current state or a deeper one wakes nothing. -/
def Sys2Proof.Claims.scopeStates (scope n : Nat) (s : State) : Prop :=
  s.hw.off = false → scope < 3 → n < scopeCount scope →
    let h := s.hw
    let now := fun (h : Hw) => h.scopeState scope n
    let under := fun (h : Hw) => sfind (scope * 1024 + n) h.trans
    let parked : Bool := match scope with
      | 0 => (h.chamber (n / 4)).park.isSome
      | 1 => (h.chamber n).park.isSome
      | _ => false
    (under h = none → parked = false →
      ((now h).num < (h.deepest scope n).num → Answers (.powerStateEntry scope n) s fun u => u.mem = s.mem ∧ now u.hw = now h ∧
        under u.hw = some ⟨h.deepest scope n, 0, 0, false⟩) ∧
      ((h.deepest scope n).num ≤ (now h).num → Answers (.powerStateEntry scope n) s fun u => u = s)) ∧
    (∀ st, under h = some ⟨st, 0, 0, false⟩ → h.scopeQuiet s.mem scope n st = true →
      Answers (.powerStateEntryComplete scope n) s fun u => under u.hw = none ∧ now u.hw = st) ∧
    (under h = none → parked = false → ∀ cause block source,
      (cause ≠ 8 → now h = .drip → Answers (.wakeEvent scope n cause block source) s fun u => u.mem = s.mem ∧ now u.hw = .run ∧
        u.hw.threads = h.threads) ∧
      (cause ≠ 8 → now h = .sump → scope < 2 → Answers (.wakeEvent scope n cause block source) s fun u => u.mem = s.mem ∧ now u.hw = .sump ∧
        under u.hw = some ⟨.run, 1, 0, false⟩) ∧
      (cause = 8 → (now h).num ≤ (h.deepest scope n).num → Answers (.wakeEvent scope n cause block source) s fun u => u = s)) ∧
    (∀ st t, now h = .sump → scope = 0 → t < 9 →
      (under h = some ⟨st, 1, t, false⟩ → Answers (.wakeStepReady 0 n) s fun u => u.mem = s.mem ∧ under u.hw = some ⟨st, 4, 0, false⟩) ∧
      (under h = some ⟨st, 4, t, false⟩ → Answers (.wakeStepReady 0 n) s fun u => u.mem = s.mem ∧ under u.hw = none ∧ now u.hw = st ∧
        (u.hw.core n).l1d.lines = [] ∧ (u.hw.core n).l1i.lines = [])) ∧
    (∀ st, (under h = some ⟨st, 1, 0, false⟩ → Answers (.wakeStepTimeout scope n) s fun u => u.mem = s.mem ∧ under u.hw = some ⟨st, 1, 1, false⟩) ∧
      (under h = some ⟨st, 1, 1, false⟩ → Answers (.wakeStepTimeout scope n) s fun u => u.mem = s.mem ∧ now u.hw = now h ∧
        u.hw.keeper.notif / 4 % 2 = 1 ∧ u.hw.regF (pwrReg 0x2100) 2 0 = (h.regF (pwrReg 0x2100) 2 0 + 1) % 8) ∧
      (under h = some ⟨st, 4, 0, false⟩ → h.wdFire = none → h.bootWait = none → Answers (.wakeStepTimeout scope n) s fun u => u.mem = s.mem ∧
        u.hw.wdFire = some (8, 0)))

/-- Package entry (R434, R436, R438, R439): Drip is entered at once and a deeper state prepared; READY from every participant commits it, a
REFUSE, a port that refuses, a missing answer or a wake event ends the attempt with nothing stopped; after COMMIT the stops pass in order,
and a timeout or withdrawn READY undoes them. -/
def Sys2Proof.Claims.packageEntry (i ans : Nat) (s : State) : Prop :=
  s.hw.off = false →
    let h := s.hw
    let p := h.pkg
    let aborts := fun u : State => u.mem = s.mem ∧ u.hw.pkg.target = none ∧ u.hw.pkg.refused = true ∧ u.hw.pkg.state = p.state ∧
      u.hw.reg (pwrReg 0x918) = h.reg (pwrReg 0x918) + 1
    let undoes := fun (block : Nat) (u : State) => u.mem = s.mem ∧ u.hw.pkg.wstep = 6 - p.step ∧
      ∃ w, u.hw.pkg.wake = some w ∧ w.cause = 6 ∧ w.block = block
    (p.target = none → p.wake = none → p.stuck = false →
      (p.state = .run → h.deepest 3 0 = .drip → Answers (.powerStateEntry 3 0) s fun u => u.mem = s.mem ∧ u.hw.pkg.state = .drip ∧
        u.hw.regF (pwrReg 8) 31 28 = 1) ∧
      (2 ≤ (h.deepest 3 0).num → p.state.num < (h.deepest 3 0).num →
        (∀ c, c = Instr.powerStateEntry 3 0 ∨ (c = Instr.prepareRetry ∧ p.refused = true) → Answers c s fun u => u.mem = s.mem ∧
          u.hw.pkg.target = some (h.deepest 3 0) ∧ u.hw.pkg.step = 1 ∧ u.hw.pkg.ready = [] ∧ u.hw.pkg.state = p.state)) ∧
      (p.refused = false → Answers .prepareRetry s fun u => u = s) ∧ (Answers .prepareTimeout s fun u => u = s)) ∧
    (∀ st, p.target = some st → p.step = 1 →
      (Answers .prepareTimeout s aborts) ∧
      (i < 182 → ans ≠ 0 ∨ h.portRefuses i st = true → Answers (.prepareAnswer i ans) s aborts) ∧
      (i < 182 → h.portRefuses i st = false → h.pmeDone i st = true → i ∉ p.ready → Answers (.prepareAnswer i 0) s fun u => u.mem = s.mem ∧
        u.hw.pkg.ready = i :: p.ready ∧ u.hw.pkg.step = (if p.ready.length = 181 then 2 else 1) ∧ u.hw.pkg.target = some st) ∧
      (p.stuck = false → p.wake = none → ∀ cause block source, 1 ≤ cause → cause ≤ 8 → Answers (.wakeEvent 3 0 cause block source) s aborts) ∧
      (∀ k j, st = .deep → h.linkUp k j = true → (k, j) ∉ p.acks → Answers (.pmeToAck k j) s fun u => u.mem = s.mem ∧
        u.hw.pkg.acks = (k, j) :: p.acks)) ∧
    (∀ st, p.target = some st → 2 ≤ p.step → p.wake = none → p.stuck = false →
      (p.step ≤ 5 → Answers .commitStepTimeout s (undoes (blockId 9 0))) ∧
      (i < 182 → 2 ≤ ans → p.step ≤ 5 → Answers (.prepareAnswer i ans) s (undoes (partBlock i))) ∧
      (p.step = 3 ∨ p.step = 4 ∨ (p.step = 2 ∧ st = .still) → Answers .commitStepDone s fun u => u.mem = s.mem ∧
        u.hw.pkg = { p with step := p.step + 1 }) ∧
      (p.step = 5 → Answers .commitStepDone s fun u => u.mem = s.mem ∧ u.hw.pkg.state = st ∧ u.hw.pkg.target = none ∧
        u.hw.regF (pwrReg 8) 31 28 = st.num ∧ (st = .deep → u.hw.pins.slpDeep = true) ∧
        (st ≠ .still → u.hw.newest = h.newest ∧ ∀ r, r < 12 → u.hw.regF (pwrReg (0x600 + 8 * r)) 63 48 = 600)))

/-- Package exit (R437, R441 to R443): a wake event starts the first step that its state stopped, each ready signal the next, and the last
returns to Run with a record of the exit; without an entry or exit under way nothing is acknowledged. -/
def Sys2Proof.Claims.packageExit (s : State) : Prop :=
  s.hw.off = false →
    let h := s.hw
    let p := h.pkg
    (∀ cause block source, 1 ≤ cause → cause ≤ 8 → p.target = none → p.wake = none → p.stuck = false →
      (p.state = .drip ∨ p.state = .run → Answers (.wakeEvent 3 0 cause block source) s fun u => u.mem = s.mem ∧ u.hw.pkg.state = .run) ∧
      (2 ≤ p.state.num → Answers (.wakeEvent 3 0 cause block source) s fun u => u.mem = s.mem ∧ u.hw.pkg.state = p.state ∧
        u.hw.pkg.wstep = (if p.state = .still then 2 else 1) ∧ (p.state ≠ .still → u.hw.pins.slpDeep = false) ∧
        ∃ w, u.hw.pkg.wake = some w ∧ w.cause = cause ∧ w.block = block ∧ w.source = source ∧ w.state = p.state.num)) ∧
    (∀ w, p.wake = some w → p.stuck = false → w.state < 16 → w.step < 16 →
      (p.wstep < 4 → Answers (.wakeStepReady 3 0) s fun u => u.mem = s.mem ∧ u.hw.pkg.wstep = p.wstep + 1 ∧ u.hw.pkg.wake = some w) ∧
      (4 ≤ p.wstep → p.state ≠ .deep → p.target ≠ some .deep → Answers (.wakeStepReady 3 0) s fun u => u.mem = s.mem ∧
        u.hw.pkg.state = .run ∧ u.hw.pkg.wake = none ∧ u.hw.pkg.target = none ∧
        let a := pwrReg (0x2000 + 0x20 * ((h.regF (pwrReg 0x2100) 2 0 + 1) % 8))
        u.hw.regF a 63 56 = w.cause % 256 ∧ u.hw.regF a 47 32 = w.block % 2 ^ 16 ∧ u.hw.reg (a + 8) = w.time ∧
        Word.bit (u.hw.reg (pwrReg 0x20)) 2 = true)) ∧
    (p.target = none → Answers .commitStepDone s fun u => u = s) ∧ (p.target = none → Answers .commitStepTimeout s fun u => u = s)

/-- Requests from software (R411, R414, R415, R444, R445): from H or M alone; what the table does not name is INVALID, a block held by the
secure world defers a request of H, the others begin and end DONE once the block is there; deep sleep is a package-level request. A
request deferred on a free block is performed. -/
def Sys2Proof.Claims.blockRequests (n : Nat) (lvl : Level) (s : State) : Prop :=
  s.hw.off = false →
    let h := s.hw
    let a := pwrReg 0x800
    let c := pwrReg 0x900
    let answer := fun (v : Nat) (u : State) => u.mem = s.mem ∧ u.hw.regF a 62 62 = 0 ∧ u.hw.regF a 61 60 = v
    let busy := fun (b act : Nat) (u : State) => u.mem = s.mem ∧ u.hw.regF a 62 62 = 1 ∧ u.hw.blkreq = some ⟨b, act⟩
    let held := fun (b act : Nat) (u : State) => answer 1 u ∧ sfind b u.hw.deferred = some act
    (lvl = .u ∨ lvl = .s → ∀ x ∈ [Instr.blkreqUnpark lvl n, .blkreqParkDrip lvl n, .blkreqParkStill lvl n, .blkreqParkSump lvl n,
        .blkreqEngineRelease lvl n, .blkreqEngineGate lvl n 1, .blkreqSlotPowerOn lvl n, .blkreqSlotPowerOff lvl n, .pwrPkgctl lvl (w64 (2 ^ 63))],
      Answers x s fun u => u = s) ∧
    (lvl = .h ∨ lvl = .m → h.blkreq = none → h.regF a 62 62 = 0 →
      (72 ≤ n → n < 4096 → ∀ x ∈ [Instr.blkreqUnpark lvl n, .blkreqParkDrip lvl n, .blkreqParkStill lvl n, .blkreqParkSump lvl n,
        .blkreqEngineRelease lvl n, .blkreqEngineGate lvl n 1, .blkreqSlotPowerOn lvl n, .blkreqSlotPowerOff lvl n], Answers x s (answer 2)) ∧
      (n < 72 → h.saveOk = true → ∀ act, act < 4 →
        let x := [Instr.blkreqUnpark lvl n, .blkreqParkDrip lvl n, .blkreqParkStill lvl n, .blkreqParkSump lvl n].getD act (.blkreqUnpark lvl n)
        (lvl = .m ∨ h.secureHeld n = false → Answers x s fun u => busy n act u ∧
          (u.hw.chamber n).park = [none, some PState.drip, some .still, some .sump].getD act none) ∧
        (lvl = .h → h.secureHeld n = true → Answers x s (held n act))) ∧
      (n < 72 → ∀ act, act = 1 ∨ act = 2 →
        (lvl = .m ∨ h.secureHeld (4096 + n) = false → (Answers (.blkreqEngineRelease lvl n) s fun u => busy (4096 + n) 0 u ∧
            (u.hw.slice n).engineOff = false) ∧
          Answers (.blkreqEngineGate lvl n act) s fun u => busy (4096 + n) act u ∧ (u.hw.slice n).engineOff = true) ∧
        (lvl = .h → h.secureHeld (4096 + n) = true → (Answers (.blkreqEngineRelease lvl n) s (held (4096 + n) 0)) ∧
          Answers (.blkreqEngineGate lvl n act) s (held (4096 + n) act))) ∧
      (n < 8 →
        (lvl = .m ∨ h.secureHeld (4 * 4096 + n) = false → (Answers (.blkreqSlotPowerOn lvl n) s (busy (4 * 4096 + n) 0)) ∧
          Answers (.blkreqSlotPowerOff lvl n) s (busy (4 * 4096 + n) 3)) ∧
        (lvl = .h → h.secureHeld (4 * 4096 + n) = true → (Answers (.blkreqSlotPowerOn lvl n) s (held (4 * 4096 + n) 0)) ∧
          Answers (.blkreqSlotPowerOff lvl n) s (held (4 * 4096 + n) 3)))) ∧
    ((h.blkreq = none → Answers .blkreqDone s fun u => u = s) ∧
      (n < 72 → h.blkreq = some ⟨n, 0⟩ → sfind (1024 + n) h.trans = none → (h.chamber n).pstate = .run → Answers .blkreqDone s fun u =>
        answer 0 u ∧ u.hw.blkreq = none) ∧
      (n < 72 → h.blkreq = some ⟨4096 + n, 1⟩ → (h.slice n).ctxs = [] → Answers .blkreqDone s fun u => answer 0 u ∧ u.hw.blkreq = none) ∧
      (n < 72 → h.blkreq = some ⟨4096 + n, 1⟩ → (h.slice n).ctxs ≠ [] → Answers .blkreqDone s fun u => u = s)) ∧
    (h.regF c 63 63 = 0 → lvl = .h ∨ lvl = .m →
      (lvl = .m ∨ h.anySecure = false → Answers (.pwrPkgctl lvl (w64 (2 ^ 63))) s fun u => u.mem = s.mem ∧ u.hw.regF c 63 63 = 1 ∧
        u.hw.regF c 62 61 = 0) ∧
      (lvl = .h → h.anySecure = true → h.regF (chkReg 0x20020) 0 0 = 0 → Answers (.pwrPkgctl lvl (w64 (2 ^ 63))) s fun u => u.mem = s.mem ∧
        u.hw.regF c 63 63 = 0 ∧ u.hw.regF c 62 61 = 1 ∧ sfind (9 * 4096) u.hw.deferred = some 0)) ∧
    (sfind n h.deferred = none → Answers (.deferredRequestPerform n) s fun u => u = s) ∧
    (n < 72 → sfind n h.deferred = some 1 → h.blkreq = none →
      (h.secureHeld n = false → Answers (.deferredRequestPerform n) s fun u => busy n 1 u ∧ sfind n u.hw.deferred = none ∧
        Word.bit (u.hw.reg (pwrReg 0x20)) 0 = true ∧ (u.hw.chamber n).park = some .drip) ∧
      (h.secureHeld n = true → Answers (.deferredRequestPerform n) s fun u => u = s))

/-- Power states, requests and power failure (R420, R430 to R445, R447, R493). -/
def Obligations.PowerStates : Prop :=
  ∀ (scope n x : Nat) (lvl : Level) (s : State),
    scopeStates scope n s ∧ packageEntry n x s ∧ packageExit s ∧ blockRequests n lvl s ∧
      (s.hw.off = false → ∀ rail, Answers (.powerFailure rail) s fun u => u.mem = s.mem ∧ u.hw.off = true ∧ u.hw.pins.pwrok = false ∧
        u.hw.regF (kprReg 0) 63 56 = 2 ∧ u.hw.reg (kprReg 8) = s.hw.reg (kprReg 0) ∧ u.hw.threads = s.hw.threads)

/-! ### Reset and boot (chapters 16 and 18) -/

/-- Keeper's registers: RSTCAUSE, RSTPREV, BOOTSTAT, REFCLK and DEBUG. -/
def Sys2Proof.Claims.bootErrIs (n : Nat) (u : State) : Prop := u.hw.regF (kprReg 0x10) 63 56 = n ∧ u.hw.off = true ∧ u.hw.bootWait = none

/-- Cold triggers and the first steps of a boot (R446 to R448, R451, R457, R471, R492, R501): a trigger that does not stand changes nothing;
VDD_AON and COLDRST# leave the device at step 1 with memory lost and fuses and flash kept; a crystal, PWROK, the reference clock, fuses,
rails and images are checked in this order, and each that fails leaves its number. -/
def Sys2Proof.Claims.coldBoot (boot : Boot) (cause edges : Nat) (s : State) : Prop :=
  let h := s.hw
  let refclk := kprReg 0x18
  let waits := fun (step c : Nat) (u : State) => u.hw.bootWait = some ⟨step, c, boot⟩ ∧ u.hw.off = true
  let passes := fun (n : Nat) => 99970 ≤ n ∧ n ≤ 100030
  let keeps := fun u : State => u.mem = [] ∧ u.hw.threads = Hw.reset.threads ∧ u.hw.keeper.fuses = h.keeper.fuses ∧
    u.hw.keeper.flash = h.keeper.flash ∧ u.hw.reg (kprReg 0x408) = h.keeper.persist.getD 0
  let from4 := fun (c : Instr) (cs n : Nat) =>
    (¬passes n → Answers c s fun u => u.mem = s.mem ∧ waits 4 cs u ∧ u.hw.regF (kprReg 0x10) 63 56 = 2 ∧ u.hw.regF refclk 62 62 = 0) ∧
    (passes n →
      (boot.fusesOk = false → Answers c s fun u => u.mem = s.mem ∧ bootErrIs 3 u ∧ u.hw.regF refclk 62 62 = 1) ∧
      (boot.fusesOk = true →
        (boot.railsOk = false → Answers c s fun u => u.mem = s.mem ∧ bootErrIs 4 u) ∧
        (boot.railsOk = true →
          (h.keeper.flashBad = true ∨ (∀ e ∈ h.slotsOf 1, h.imageCode e ≠ 0) → Answers c s fun u => u.mem = s.mem ∧ bootErrIs 5 u ∧
            ∀ r, r < 12 → u.hw.regF (pwrReg (0x600 + 8 * r)) 63 48 = 780) ∧
          (h.keeper.flashBad = false → ∀ e1 ∈ h.slotsOf 1, h.imageCode e1 = 0 →
            ((∀ e ∈ h.slotsOf 2, h.imageCode e ≠ 0) → Answers c s fun u => u.mem = s.mem ∧ bootErrIs 6 u) ∧
            (∀ e2 ∈ h.slotsOf 2, h.imageCode e2 = 0 → boot.cut = none → Answers c s fun u =>
              let a := (u.hw.thread 0).a
              u.hw.off = false ∧ u.hw.bootWait = none ∧ u.hw.regF (chkReg 0x10000) 15 0 = boot.node.toNat ∧
                ((u.hw.regF (kprReg 0x10) 63 56 = 7 ∧ u.mem = s.mem) ∨ (u.hw.regF (kprReg 0x10) 63 56 = 8 ∧ u.mem = s.mem) ∨
                  (u.hw.regF (kprReg 0x10) 63 56 = 0 ∧ u.hw.regF (kprReg 0x10) 55 52 = 2 ∧ (u.hw.thread 0).run = .running ∧ a.level = .m ∧
                    a.secure = true ∧ a.rg 1 = boot.cfgAddr ∧
                    ∃ e ∈ h.slotsOf 3, a.pc = w64 (h.imgNat e 0x10 8 + h.imgNat e 0x18 8))))))))
  (cause ≠ 0 → cause ≠ 1 → (cause = 3 → h.keeper.resetDue ≠ some (0, 0)) →
    (cause = 2 ∨ cause = 9 → h.off = false ∨ h.bootWait ≠ none ∨ h.regF (kprReg 0) 63 56 ≠ cause) → Answers (.coldReset cause boot) s fun u => u = s) ∧
  (Answers (.coldReset 0 boot) s fun u => keeps u ∧ waits 1 0 u ∧ u.hw.pins.coldrst = false ∧ u.hw.pins.pwrok = false ∧
    u.hw.pins.thermtrip = false ∧ u.hw.reg (kprReg 0) = 0 ∧ u.hw.regF (kprReg 0x20) 3 0 = 0) ∧
  (Answers (.coldReset 1 boot) s fun u => keeps u ∧ waits 1 1 u ∧ u.hw.pins.coldrst = false ∧ u.hw.pins.pwrok = h.pins.pwrok ∧
    u.hw.regF (kprReg 0) 63 56 = 1 ∧ u.hw.reg (kprReg 8) = h.reg (kprReg 0) ∧ u.hw.regF (kprReg 0x20) 1 0 = h.regF (kprReg 0x20) 3 2) ∧
  (∀ c, (c = 2 ∨ c = 9) → h.off = true → h.bootWait = none → h.regF (kprReg 0) 63 56 = c → h.pins.coldrst = true →
    (boot.xtalOk = false → Answers (.coldReset c boot) s fun u => keeps u ∧ bootErrIs 1 u ∧ u.hw.reg (kprReg 0) = h.reg (kprReg 0)) ∧
    (boot.xtalOk = true → h.pins.pwrok = false → Answers (.coldReset c boot) s fun u => keeps u ∧ waits 3 c u ∧
      u.hw.regF refclk 63 63 = 1)) ∧
  ((h.bootWait = none → Answers .coldrstRelease s fun u => u.mem = s.mem ∧ u.hw.pins.coldrst = true ∧ u.hw.regs = h.regs) ∧
    (h.bootWait = some ⟨1, cause, boot⟩ →
      (boot.xtalOk = false → Answers .coldrstRelease s fun u => u.mem = s.mem ∧ bootErrIs 1 u) ∧
      (boot.xtalOk = true → h.pins.pwrok = false → Answers .coldrstRelease s fun u => u.mem = s.mem ∧ waits 3 cause u ∧
        u.hw.pins.coldrst = true ∧ u.hw.regF refclk 63 63 = 1))) ∧
  ((h.bootWait = none → Answers .pwrokAssert s fun u => u.mem = s.mem ∧
      u.hw = { h with pins := { h.pins with pwrok := true, thermtrip := false } }) ∧
    (h.bootWait = some ⟨3, cause, boot⟩ → from4 .pwrokAssert cause boot.refEdges)) ∧
  ((h.bootWait = some ⟨4, cause, boot⟩ → from4 (.refclkCount edges) cause edges) ∧
    (h.bootWait = none → h.off = false → Answers (.refclkCount edges) s fun u => u.mem = s.mem ∧ u.hw.off = false ∧
      u.hw.regF refclk 62 62 = (if passes edges then 1 else 0) ∧
      u.hw.regF refclk 31 0 = (BitVec.ofInt 32 (((edges : Int) - 100000) * 10)).toNat) ∧
    (h.bootWait = none → h.off = true → Answers (.refclkCount edges) s fun u => u = s)) ∧
  (h.off = false → Answers .refclkLost s fun u => u.mem = s.mem ∧ u.hw.off = true ∧ u.hw.regF (kprReg 0) 63 56 = 9 ∧
    u.hw.reg (kprReg 8) = h.reg (kprReg 0) ∧ u.hw.regF refclk 62 62 = 0)

/-- Warm reset (R9, R417, R446, R450, R453, R471): it runs once triggered, with its cause, the one before it and the count of warm resets; what
training found stays, and the threads, responses and links start again. -/
def Sys2Proof.Claims.warmBoot (boot : Boot) (cause thread : Nat) (flushed : Bool) (lost : List Nat) (s : State) : Prop :=
  s.hw.off = false →
    let h := s.hw
    let w := Instr.warmReset cause thread flushed boot lost
    (h.wdFire ≠ some (cause, thread) → Answers w s fun u => u = s) ∧
    (h.wdFire = some (cause, thread) → cause < 256 →
      (Answers w s fun u => u.hw.wdFire = none ∧ u.hw.regF (kprReg 0) 31 16 = min (h.regF (kprReg 0) 31 16 + 1) 65535 ∧
        (cause ≠ 6 → cause ≠ 7 → u.hw.regF (kprReg 0) 63 56 = cause ∧ u.hw.regF (kprReg 0) 55 55 = b2n flushed ∧
          u.hw.reg (kprReg 8) = h.reg (kprReg 0)) ∧
        (cause = 6 ∨ cause = 7 → u.hw.regF (kprReg 0) 63 56 = h.regF (kprReg 0) 63 56 ∧ u.hw.reg (kprReg 8) = h.reg (kprReg 8)) ∧
        u.hw.time = h.time ∧ u.hw.newest = [] ∧ u.hw.flits = [] ∧ u.hw.keeper.resps = [] ∧ u.hw.keeper.fuses = h.keeper.fuses ∧
        ∀ c, c < 12 → u.hw.reg (mcReg c 0) = h.reg (mcReg c 0)) ∧
      (h.keeper.flashBad = true → Answers w s fun u => bootErrIs 5 u ∧ u.hw.threads = Hw.reset.threads))

/-- The Keeper mailbox (R446, R448, R451, R452, R459, R471): M alone releases a stopped thread, asks for a warm reset, a survey or a
measurement; a survey changes no other bit of a LINK.STAT than the margin of a link that
is up, which is a free value. -/
def Sys2Proof.Claims.mailbox (t : Nat) (lvl : Level) (s : State) : Prop :=
  s.hw.off = false →
    let h := s.hw
    let go := w64 (2 ^ 63)
    (lvl ≠ .m → ∀ v, ∀ c ∈ [Instr.kprRelease lvl v, .kprRstreq lvl v, .kprSurvey lvl v, .kprMeasidx lvl v], Answers c s fun u => u = s) ∧
    (t < numThreads →
      ((h.thread t).run = .stopped → Answers (.kprRelease .m (go + w64 t)) s fun u =>
        let x := u.hw.thread t
        u.mem = s.mem ∧ x.run = .running ∧ x.a.level = .m ∧ x.a.secure = true ∧ x.a.pc = h.reg (kprReg 0x100) ∧ x.a.g = [] ∧
          ∀ k, k ≠ t → u.hw.thread k = h.thread k) ∧
      ((h.thread t).run ≠ .stopped → Answers (.kprRelease .m (go + w64 t)) s fun u => u.mem = s.mem ∧ u.hw.threads = h.threads)) ∧
    (h.wdFire = none → h.bootWait = none → Answers (.kprRstreq .m go) s fun u => u.mem = s.mem ∧ u.hw.threads = h.threads ∧
      u.hw.wdFire = some (5, 0)) ∧
    (Answers (.kprSurvey .m go) s fun u => u.mem = s.mem ∧ u.hw.threads = h.threads ∧ u.hw.regF (kprReg 0x200) 62 62 = 1 ∧
      u.hw.regF (kprReg 0x200) 31 0 = h.regF (kprReg 0x200) 31 0) ∧
    (h.regF (kprReg 0x200) 62 62 = 1 → Answers .surveyComplete s fun u => u.mem = s.mem ∧ u.hw.threads = h.threads ∧
      u.hw.regF (kprReg 0x200) 62 62 = 0 ∧
      u.hw.regF (kprReg 0x200) 31 0 = (h.regF (kprReg 0x200) 31 0 + 1) % 2 ^ 32 ∧ Word.bit (u.hw.reg (kprReg 0x120)) 0 = true ∧
      ∀ k j, k < 18 → j < 16 →
        let stat := fun (h : Hw) (hi lo : Nat) => h.regF (linkReg k (0x100 + 8 * j)) hi lo
        stat u.hw 63 24 = stat h 63 24 ∧ stat u.hw 15 0 = stat h 15 0 ∧ (h.linkUp k j = false → stat u.hw 23 16 = stat h 23 16)) ∧
    (h.regF (kprReg 0x200) 62 62 = 0 → Answers .surveyComplete s fun u => u = s) ∧
    (∀ i, 0x10 ≤ i → i ≤ 0xEF →
      let data := (List.range 6).flatMap fun k => leBytes 8 (h.reg (kprReg (0x340 + 8 * k))).toNat
      (Answers (.kprMeasidx .m (w64 i)) s fun u => u.mem = s.mem ∧ u.hw.keeper = h.keeper ∧ u.hw.regF (kprReg 0x300) 7 0 = i) ∧
      (Answers (.kprMeasidx .m (go + w64 i)) s fun u => u.mem = s.mem ∧ u.hw.meas i = Config.sha384 (h.meas i ++ data) ∧
        ∀ k, k ≠ i → u.hw.meas k = h.meas k))

/-- Resets, the boot and the Keeper mailbox (R446 to R452, R455, R459, R471). -/
def Obligations.ResetAndBoot : Prop :=
  ∀ (boot : Boot) (cause n : Nat) (flushed : Bool) (lost : List Nat) (lvl : Level) (s : State),
    coldBoot boot cause n s ∧ warmBoot boot cause n flushed lost s ∧ mailbox n lvl s

/-! ### Basette and the test port (chapters 18 and 20) -/

/-- A frame of a command arrives that Keeper checks (R448, R461, R462, R470): the boot has come past its clock without an error, no request
runs, and the frame is whole. -/
def Sys2Proof.Claims.Arrives (f : Frame) (s : State) : Prop :=
  s.hw.bootWait = none ∧ s.hw.regF (kprReg 0x10) 63 56 = 0 ∧ s.hw.keeper.resetDue = none ∧ s.hw.hand = none ∧
    f.crc = crc32c (frameCovered f) ∧ f.ver = 1 ∧ f.len ≤ 1024 ∧ f.payload.length = f.len ∧ f.flags.toNat / 8 = 0

/-- A critical frame whose tag and counter pass (R461, R463, R464). -/
def Sys2Proof.Claims.Signed (f : Frame) (s : State) : Prop :=
  Arrives f s ∧ f.flags.getLsbD 0 = true ∧ (∃ k, s.hw.basetteKey = some k ∧ f.tag = Config.hmac128 k (frameTagged f)) ∧
    (s.hw.reg (kprReg 0x408)).toNat < f.counter.toNat ∧ (s.hw.keeper.persist.getD 0).toNat > f.counter.toNat

/-- The answer waits behind those before it; threads, memory and flash are as they were. -/
def Sys2Proof.Claims.Replies (f : Frame) (crit : Bool) (status : Nat) (payload : Bytes) (s u : State) : Prop :=
  u.mem = s.mem ∧ u.hw.threads = s.hw.threads ∧
    u.hw.keeper.resps = s.hw.keeper.resps ++ [⟨f.cmd, f.seq, crit, status, payload, f.counter⟩]

/-- An SPDM message that the responder serves (R458): its code is one of those that are supported (log 59), its version is at least 1.3 but for
GET_VERSION, and a session is asked for only while fewer than 4 stand. -/
def Sys2Proof.Claims.spdmRuns (msg : Bytes) (h : Hw) : Prop :=
  let code := leNat ((msg.drop 1).take 1)
  spdmCodes.contains code = true ∧ (code = 0x84 ∨ 0x13 ≤ leNat (msg.take 1)) ∧ (code = 0xE4 → h.keeper.sessions < 4)

/-- Sessions after a message: KEY_EXCHANGE opens one and END_SESSION closes one (R458). -/
def Sys2Proof.Claims.sessionsAfter (code n : Nat) : Nat := if code = 0xE4 then n + 1 else if code = 0xEC then n - 1 else n

/-- Commands that are not critical, and what refuses a request (R4, R458, R461 to R466, R470). Layouts of answers that the spec leaves open are
the model's choice (log 58, 63). -/
def Sys2Proof.Claims.plainCommands (f : Frame) (s : State) : Prop :=
  let h := s.hw
  let r := fun (n : Nat) (bs : Bytes) => Replies f false n bs s
  let field := fun (o n : Nat) => leNat ((f.payload.drop o).take n)
  let counter := fun (h : Hw) (lo : Nat) => h.regF (kprReg 0x400) (lo + 15) lo
  (∀ p ∈ [(Instr.getStatus f, 1), (.getSurvey f, 2), (.surveyNow f, 3), (.spdm f, 4), (.getIncidents f, 5), (.flashWrite f, 6),
      (.getCounter f, 7), (.reset f, 0x10), (.powerLimit f, 0x11), (.debugUnlock f, 0x12), (.fwActivate f, 0x13), (.handover f, 0x14),
      (.commitSvn f, 0x15), (.keySet f, 0x15), (.revokeBasetteKey f, 0x15), (.revokeImageKey f, 0x15)], f.cmd ≠ p.2 → Answers p.1 s fun u => u = s) ∧
  (Arrives f s → f.flags.getLsbD 0 = false →
    (f.cmd = 1 → Answers (.getStatus f) s (r 0 (leBytes 8 (h.reg (kprReg 0x10)).toNat ++ leBytes 8 (h.reg (kprReg 0)).toNat
      ++ leBytes 8 (h.reg (kprReg 8)).toNat ++ leBytes 4 (h.regF (kprReg 0x200) 31 0)))) ∧
    (f.cmd = 2 → Answers (.getSurvey f) s (r 0 (((surveyRegs.flatMap fun a => leBytes 8 (h.reg a).toNat).drop (field 0 4)).take 1024))) ∧
    (f.cmd = 3 → Answers (.surveyNow f) s fun u => r 0 [] u ∧ u.hw.regF (kprReg 0x200) 62 62 = 1) ∧
    (f.cmd = 5 → let wr := (h.reg (logReg 0x10)).toNat
      field 0 4 ≤ wr → wr < 2 ^ 32 → wr ≤ field 0 4 + 4096 → Answers (.getIncidents f) s (r 0 ((List.range (min (wr - field 0 4) 16)).flatMap fun k =>
        (List.range 8).flatMap fun i => leBytes 8 (h.reg (logReg (0x40000 + 64 * ((field 0 4 + k) % 4096)) + 8 * i)).toNat))) ∧
    (f.cmd = 7 → Answers (.getCounter f) s (r 0 (leBytes 8 (h.reg (kprReg 0x408)).toNat))) ∧
    (f.cmd = 4 → let code := leNat ((f.payload.drop 1).take 1)
      let ver := leNat (f.payload.take 1)
      (code ≠ 0x84 → ver < 0x13 → Answers (.spdm f) s (r 0 [0x13, 0x7F, 0x41, 0])) ∧
      (0x13 ≤ ver → spdmCodes.contains code = false → Answers (.spdm f) s (r 0 [0x13, 0x7F, 0x07, 0])) ∧
      (code = 0xE4 → 0x13 ≤ ver → 4 ≤ h.keeper.sessions → Answers (.spdm f) s (r 0 [0x13, 0x7F, 0x0A, 0])) ∧
      (spdmRuns f.payload h → Answers (.spdm f) s fun u =>
        r 0 (Config.spdmAnswer h.fresh h.measRecord f.payload) u ∧ u.hw.keeper.sessions = sessionsAfter code h.keeper.sessions)) ∧
    (f.cmd = 6 → let a := field 0 4
      let n := f.payload.length - 4
      (4 ≤ f.payload.length → h.flashMay a n = true → Answers (.flashWrite f) s fun u => r 0 [] u ∧
        ∀ i, u.hw.flashByte i = if a ≤ i ∧ i < a + n then f.payload.getD (4 + i - a) 0 else h.flashByte i) ∧
      (f.payload.length < 4 ∨ h.flashMay a n = false → Answers (.flashWrite f) s fun u => r 6 [] u ∧ u.hw.keeper.flash = h.keeper.flash)) ∧
    (f.cmd = 0 ∨ 0x15 < f.cmd → Answers (.unknownCommand f) s (r 1 [])) ∧
    (f.cmd = 0x11 → Answers (.powerLimit f) s fun u => r 3 [] u ∧ counter u.hw 48 = min (counter h 48 + 1) 65535 ∧
      u.hw.reg (pwrReg 0) = h.reg (pwrReg 0))) ∧
  (h.bootWait = none → h.keeper.resetDue = none → h.hand = none → f.cmd = 7 → f.crc ≠ crc32c (frameCovered f) →
    Answers (.getCounter f) s fun u => r 2 [] u ∧ counter u.hw 16 = min (counter h 16 + 1) 65535) ∧
  (h.bootWait = none → h.keeper.resetDue ≠ none → f.cmd = 7 → Answers (.getCounter f) s (r 7 [])) ∧
  (Arrives f s → f.flags.getLsbD 0 = true → f.cmd = 0x11 →
    (h.basetteKey = none → Answers (.powerLimit f) s (r 10 [])) ∧
    (∀ k, h.basetteKey = some k →
      (f.tag ≠ Config.hmac128 k (frameTagged f) → Answers (.powerLimit f) s (Replies f true 4 [] s)) ∧
      (f.tag = Config.hmac128 k (frameTagged f) → f.counter.toNat ≤ (h.reg (kprReg 0x408)).toNat → Answers (.powerLimit f) s fun u =>
        Replies f true 5 [] s u ∧ counter u.hw 32 = min (counter h 32 + 1) 65535 ∧ u.hw.reg (pwrReg 0) = h.reg (pwrReg 0)))) ∧
  (h.off = false → ∀ port msg, port < 8 → leNat ((msg.drop 1).take 1) ≠ 0x84 → leNat (msg.take 1) < 0x13 →
    Answers (.doeSpdmRequest port msg) s fun u => u.mem = s.mem ∧ sfind port u.hw.keeper.doe = some [0x13, 0x7F, 0x41, 0] ∧
      u.hw.keeper.resps = h.keeper.resps) ∧
  (h.off = false → ∀ port msg, port < 8 → spdmRuns msg h → Answers (.doeSpdmRequest port msg) s fun u => u.mem = s.mem ∧
    u.hw.threads = h.threads ∧ sfind port u.hw.keeper.doe = some (Config.spdmAnswer h.fresh h.measRecord msg) ∧
    u.hw.keeper.sessions = sessionsAfter (leNat ((msg.drop 1).take 1)) h.keeper.sessions ∧ u.hw.keeper.resps = h.keeper.resps) ∧
  (h.off = false → ∀ port msg, 8 ≤ port → Answers (.doeSpdmRequest port msg) s fun u => u = s)

/-- Critical commands (R4, R411, R412, R446, R455, R456, R462 to R468): one that passes has its effect, moves LASTCTR to its counter and is
counted as an event; what it may not do ends with STATUS 6 and no effect. -/
def Sys2Proof.Claims.criticalCommands (f : Frame) (s : State) : Prop :=
  let h := s.hw
  let k := h.keeper
  let field := fun (o n : Nat) => leNat ((f.payload.drop o).take n)
  let ok := fun (u : State) => Replies f true 0 [] s u ∧ u.hw.reg (kprReg 0x408) = f.counter ∧ Word.bit (u.hw.reg (kprReg 0x120)) 1 = true
  let no := fun (n : Nat) (bs : Bytes) (u : State) => Replies f true n bs s u ∧ u.hw.reg (kprReg 0x408) = f.counter ∧ u.hw.keeper.fuses = k.fuses ∧
    u.hw.keeper.flash = k.flash ∧ u.hw.hand = none ∧ u.hw.keeper.resetDue = none
  Signed f s →
    (f.cmd = 0x10 →
      (f.payload ≠ [] → field 0 1 ≤ 1 → Answers (.reset f) s fun u => ok u ∧ u.hw.keeper.resetDue = some (field 0 1, 250000)) ∧
      (f.payload = [] ∨ 1 < field 0 1 → Answers (.reset f) s (no 6 []))) ∧
    (f.cmd = 0x11 → let w := field 0 2
      (400 ≤ w → w ≤ h.binTop → Answers (.powerLimit f) s fun u => ok u ∧ u.hw.regF (pwrReg 0) 15 0 = w) ∧
      (w < 400 ∨ h.binTop < w → Answers (.powerLimit f) s fun u => no 6 [] u ∧ u.hw.reg (pwrReg 0) = h.reg (pwrReg 0))) ∧
    (f.cmd = 0x12 →
      (f.payload ≠ [] → field 0 1 ≤ 2 → Answers (.debugUnlock f) s fun u => ok u ∧ u.hw.regF (kprReg 0x20) 3 2 = field 0 1 ∧
        u.hw.regF (kprReg 0x20) 1 0 = h.regF (kprReg 0x20) 1 0) ∧
      (f.payload = [] ∨ 2 < field 0 1 → Answers (.debugUnlock f) s (no 6 []))) ∧
    (f.cmd = 0x13 →
      ((∀ e ∈ h.dirEnts, e.type = field 0 1 → e.slot ≠ field 1 1) → Answers (.fwActivate f) s (no 6 [1])) ∧
      (∀ e, h.dirEnts.filter (fun x => decide (x.type = field 0 1 ∧ x.slot = field 1 1)) = [e] → 1 ≤ e.type → e.type ≤ 3 →
        (h.imageCode e = 0 → Answers (.fwActivate f) s fun u => ok u ∧ u.hw.flashByte (16 * e.idx + 2) = 1 ∧
          ∀ x ∈ h.dirEnts, x.type = e.type → x.idx ≠ e.idx → u.hw.flashByte (16 * x.idx + 2) = 0) ∧
        (h.imageCode e ≠ 0 → Answers (.fwActivate f) s (no 6 [BitVec.ofNat 8 (h.imageCode e)])))) ∧
    (f.cmd = 0x14 → field 0 1 = 0 → field 1 1 ≤ 1 → field 2 2 < 8 → let p := field 2 2
      (h.portSecure p = decide (field 1 1 = 1) → Answers (.handover f) s fun u => u.mem = s.mem ∧ u.hw.keeper.resps = k.resps ∧
        u.hw.regF (chkReg 0x20010) 62 62 = 1 ∧ ∃ x, u.hw.hand = some x ∧ x.frame = some f) ∧
      (h.portSecure p ≠ decide (field 1 1 = 1) → Answers (.handover f) s (no 6 [2]))) ∧
    (f.cmd = 0x15 → field 0 1 = 0 → let t := field 1 1
      let v := field 2 1
      (3 ≤ f.payload.length → 1 ≤ t → t ≤ 3 → sget 0 t k.fuses.svn = w64 (2 ^ h.rollback t - 1) → h.rollback t < v → v ≤ sget 0 t k.svn → v ≤ 64 → k.fuseBad = false →
        Answers (.commitSvn f) s fun u => ok u ∧ u.hw.rollback t = v) ∧
      (t < 1 ∨ 3 < t ∨ v ≤ h.rollback t ∨ sget 0 t k.svn < v → Answers (.commitSvn f) s (no 6 []))) ∧
    (f.cmd = 0x15 → field 0 1 = 1 → f.payload.length = 49 →
      (∀ i, (List.range 4).find? (fun i => (sfind i k.fuses.bkey).isNone && !sget false i k.fuses.brevoked) = some i → k.fuseBad = false →
        Answers (.keySet f) s fun u => ok u ∧ sfind i u.hw.keeper.fuses.bkey = some (f.payload.drop 1)) ∧
      ((∀ i, i < 4 → (sfind i k.fuses.bkey).isSome = true ∨ sget false i k.fuses.brevoked = true) → Answers (.keySet f) s (no 6 [])) ∧
      (∀ i, i < 4 → (sfind i k.fuses.bkey).isNone = true → sget false i k.fuses.brevoked = false → k.fuseBad = true →
        Answers (.keySet f) s (no 9 []))) ∧
    (f.cmd = 0x15 → field 0 1 = 2 → 2 ≤ f.payload.length → let i := field 1 1
      (i < 4 → k.fuseBad = false → Answers (.revokeBasetteKey f) s fun u => ok u ∧ sget false i u.hw.keeper.fuses.brevoked = true) ∧
      (4 ≤ i → Answers (.revokeBasetteKey f) s (no 6 []))) ∧
    (f.cmd = 0x15 → field 0 1 = 3 → 2 ≤ f.payload.length → let i := field 1 1
      (i < 8 → k.fuseBad = false → Answers (.revokeImageKey f) s fun u => ok u ∧ sget false i u.hw.keeper.fuses.irevoked = true) ∧
      (8 ≤ i → Answers (.revokeImageKey f) s (no 6 [])))

/-- Hand-overs end (R411, R412): the block belongs to the world that was named, BUSY is 0 and STATUS tells how it ended; a request of Basette
is answered with it. -/
def Sys2Proof.Claims.handoverEnds (s : State) : Prop :=
  s.hw.off = false →
    let h := s.hw
    let a := chkReg 0x20010
    (h.hand = none → Answers .handoverComplete s fun u => u = s) ∧
    (∀ x : Hand, h.hand = some x → x.status < 8 →
      let i := Word.fld x.word 11 0
      let normal := Word.bit x.word 59
      let ends := fun (u : State) => u.mem = s.mem ∧ u.hw.hand = none ∧ u.hw.regF a 62 62 = 0 ∧ u.hw.regF a 58 56 = x.status ∧
        (x.frame = none → u.hw.keeper.resps = h.keeper.resps) ∧
        ∀ f, x.frame = some f → u.hw.keeper.resps = h.keeper.resps ++ [⟨f.cmd, f.seq, f.flags.getLsbD 0, 0, [BitVec.ofNat 8 x.status], f.counter⟩]
      (Word.fld x.word 61 60 = 0 → i < 8 → Answers .handoverComplete s fun u => ends u ∧ u.hw.portSecure i = !normal) ∧
      (Word.fld x.word 61 60 = 2 → Answers .handoverComplete s fun u => ends u ∧
        u.hw.reg (routerReg (8 * i)) = w64 (if normal then 2 * 2 ^ 59 else 3 * 2 ^ 59)))

/-- The bus and the Lantern port (R451, R460 to R462, R465, R500). What a LANTERN_EXTENSION does at a debug level that opens it is not
stated, and there the model refuses it. -/
def Sys2Proof.Claims.busAndTap (bits : Bytes) (s : State) : Prop :=
  let h := s.hw
  let k := h.keeper
  let level := h.regF (kprReg 0x20) 1 0
  let tap := fun (t : Tap) (u : State) => u.mem = s.mem ∧ u.hw = { h with tap := t }
  let passes := tap { h.tap with ir := 0, dr := [0], drives := false }
  (Answers .bypass s passes) ∧
  (Answers .idcode s (tap { h.tap with ir := 1, dr := leBytes 4 Config.idcode.toNat, drives := false })) ∧
  (Answers (.samplePreload bits) s fun u => u.mem = s.mem ∧ u.hw.tap.ir = 2 ∧ u.hw.tap.boundary = bits ∧ u.hw.tap.drives = false ∧
    u.hw.regs = h.regs) ∧
  (h.pins.coldrst = false ∨ level = 2 → Answers (.extest bits) s fun u => u.mem = s.mem ∧ u.hw.tap.ir = 3 ∧ u.hw.tap.boundary = bits ∧
    u.hw.tap.drives = true ∧ u.hw.regs = h.regs) ∧
  (h.pins.coldrst = true → level ≠ 2 → Answers (.extest bits) s passes) ∧
  (∀ code normal, level = 0 ∨ (level = 1 ∧ normal = false) → Answers (.lanternExtension code normal) s passes) ∧
  (Answers .tapReset s (tap { Tap.reset with boundary := h.tap.boundary })) ∧
  (Answers .dynamicAddressAssignment s fun u => u.mem = s.mem ∧ u.hw.regF (kprReg 0x18) 61 61 = 1 ∧ u.hw.keeper.mute = false ∧
    u.hw.keeper.naks = 0 ∧ (h.regF (kprReg 0x18) 61 61 = 0 → u.hw.regF (kprReg 0x200) 31 0 = (h.regF (kprReg 0x200) 31 0 + 1) % 2 ^ 32)) ∧
  (k.resps ≠ [] ∨ k.notif ≠ 0 → k.mute = false → h.regF (kprReg 0x18) 61 61 = 1 →
    (Answers (.inBandInterrupt true) s fun u => u.mem = s.mem ∧ u.hw = { h with keeper := { k with naks := 0 } }) ∧
    (k.naks < 2 → Answers (.inBandInterrupt false) s fun u => u.mem = s.mem ∧ u.hw = { h with keeper := { k with naks := k.naks + 1 } }) ∧
    (2 ≤ k.naks → Answers (.inBandInterrupt false) s fun u => u.mem = s.mem ∧ u.hw.keeper.mute = true ∧ u.hw.keeper.resps = k.resps)) ∧
  (k.resps = [] → k.notif = 0 → (∀ acked, Answers (.inBandInterrupt acked) s fun u => u = s) ∧ Answers .responseRead s fun u => u = s) ∧
  (∀ r rest, k.resps = r :: rest → k.notif = 0 → r.crit = false → r.cmd < 256 → r.status < 256 → r.payload.length < 2 ^ 16 →
    let body := leBytes 1 1 ++ leBytes 1 r.cmd ++ leBytes 2 r.payload.length ++ leBytes 2 r.seq.toNat ++ leBytes 1 2 ++ leBytes 1 r.status
      ++ r.payload
    (r.cmd ≠ 0x10 ∨ r.status ≠ 0 → Answers .responseRead s fun u => u.mem = s.mem ∧ u.hw.keeper.resps = rest ∧
      u.hw.keeper.sent = body ++ leBytes 4 (crc32c body).toNat ∧ u.hw.wdFire = h.wdFire)) ∧
  (∀ r rest n, k.resps = r :: rest → r.cmd = 0x10 → r.status = 0 → k.resetDue = some (1, n) → h.wdFire = none → h.bootWait = none →
    Answers .responseRead s fun u => u.mem = s.mem ∧ u.hw.keeper.resps = rest ∧ u.hw.wdFire = some (4, 0) ∧ u.hw.keeper.resetDue = none)

/-- Basette and the test port (R411, R412, R455, R456, R458 to R468, R500): frames that are not critical or not accepted, critical frames, the
end of a hand-over, the bus and the Lantern port. -/
def Obligations.BasetteAndLantern : Prop :=
  ∀ (f : Frame) (bits : Bytes) (s : State), plainCommands f s ∧ criticalCommands f s ∧ handoverEnds s ∧ busAndTap bits s

/-! ### The whole block -/

/-- Requests to set the power limit (R4): one above the bin's top or below 400 W is refused, by a store of PWR.LIMIT as by the command of
Basette; the limit in force stays, and a record of type 0x56 reports it. -/
def Obligations.PowerLimitRefusals : Prop :=
  ∀ (w : Nat) (sec : Bool) (v : Word) (f : Frame) (s : State), s.hw.off = false → w < 2 ^ 16 → w < 400 ∨ s.hw.binTop < w →
    (s.hw.bank 4).recs.length < 32 →
    let h := s.hw
    let limit := fun (h : Hw) => h.regF (pwrReg 0) 15 0
    let reports := fun (u : State) => ∃ r : Held, (u.hw.bank 4).recs = (h.bank 4).recs ++ [r] ∧ Word.fld r.body.w0 63 56 = 0x56 ∧
      Word.fld r.body.w0 15 0 = w
    (Answers (.pwrLimit .m w) s fun u => u.mem = s.mem ∧ u.hw.threads = h.threads ∧ limit u.hw = limit h ∧ reports u) ∧
    (Word.fld v 15 0 = w → Answers (.registerWrite (w64 (h.node * 2 ^ 48 + pwrReg 0)) .m sec 8 v) s fun u => u.mem = s.mem ∧
      limit u.hw = limit h ∧ reports u) ∧
    (Signed f s → f.cmd = 0x11 → leNat (f.payload.take 2) = w → Answers (.powerLimit f) s fun u => Replies f true 6 [] s u ∧
      limit u.hw = limit h ∧ reports u)

/-- Every command answers a next state: no data and no state makes the block stop, but an instruction of the test port that the debug level
opens and whose effect is not stated (R500). -/
def Obligations.NoCommandStops : Prop :=
  ∀ (c : Instr) (s : State), (∃ u, exec c s = .next u) ∨
    ∃ code normal, c = .lanternExtension code normal ∧ s.hw.regF (kprReg 0x20) 1 0 ≠ 0 ∧ exec c s = .refused .lanternExtension

/-- Memory stays in its canonical form, addresses ascending and no byte listed that reads as an unlisted one does (log 1), whatever command
is in front (R24, R25, R219). -/
def Obligations.StepsKeepMemoryForm : Prop :=
  ∀ s u : State, Memory.wf s.mem = true → step s = .next u → Memory.wf u.mem = true

/-- The state after reset (R34, R446, R448): no command waits, memory is in its form and lists nothing, no thread runs, and its registers are
zero, at M in the secure world. -/
def Obligations.ResetState : Prop :=
  State.reset.pending = [] ∧ State.reset.mem = [] ∧ Memory.wf State.reset.mem = true ∧
    ∀ t, (State.reset.hw.thread t).a.level = .m ∧ (State.reset.hw.thread t).a.secure = true ∧
      (State.reset.hw.thread t).run = .stopped ∧ ∀ r, (State.reset.hw.thread t).a.rg r = 0

/-- Words written out from the formats and tables of the instruction set decode to their instructions (R38 to R41, R43, R53, R61, R77 to R79,
R92, R98). -/
def Obligations.SpecWordsDecode : Prop :=
  insnDecode 0 0x4CA30018#32 = some (.ld 0 5 3 0x18) ∧ insnDecode 0 0x84A0FFFD#32 = some (.bne 0 5 0 true 0x7FFD) ∧
  insnDecode 0 0x1CE00008#32 = some (.ori 0 7 0 8) ∧ insnDecode 0 0xE0074002#32 = some (.crs 0 0 7 0x400) ∧
  insnDecode 0 0xE0070001#32 = some (.crw 0 0 7 0) ∧ insnDecode 0 0xA0810060#32 = some (.loopSet 0 4 1 3) ∧
  insnDecode 0 0xD02322F0#32 = some (.vgather 0 1 3 4 2 3 3) ∧ insnDecode 0 0xC44320C0#32 = some (.vfadd 0 2 3 4 0 3 false) ∧
  insnDecode 0 0xB3FC0000#32 = some (.fence 0 15 15) ∧ insnDecode 0 0x10000000#32 = some (.addi 0 0 0 0) ∧ insnDecode 0 0#32 = none

/-- Encoding and decoding agree: what a well-formed instruction is encoded as decodes to it (R38, R39). -/
def Obligations.DecodeOfEncode : Prop :=
  ∀ (i : Instr) (w : BitVec 32), wellFormed i = true → insnEncode i = some w → ∃ t, insnDecode t w = some i
end

