-- ==== Sys2Proof/Laws/Outcome.lean ====
section
/-! SUPPORT. What the shared forms of a command can answer (the outcome of a command, Machine/Ops.lean): always a next state, with the
queue as it was, and memory as it was where the form does not write it. -/

namespace Sys2Proof.Machine

/-- A command that leaves memory alone: the one state it answers. -/
theorem State.onHw_eq (s : State) (f : List Host.Cell → Hw → Hw) :
    s.onHw f = .next { s with hw := if s.hw.off then s.hw else f s.mem s.hw } := by
  unfold State.onHw State.onAon
  split <;> rfl

/-- A command that may write memory: the one state it answers. -/
theorem State.onAll_eq (s : State) (f : List Host.Cell → Hw → List Host.Cell × Hw) :
    s.onAll f = .next { s with hw := if s.hw.off then s.hw else (f s.mem s.hw).2, mem := if s.hw.off then s.mem else (f s.mem s.hw).1 } := by
  unfold State.onAll State.onAonAll
  split <;> rfl

theorem State.onHw_run {s : State} (h : s.hw.off = false) (f : List Host.Cell → Hw → Hw) :
    s.onHw f = .next { s with hw := f s.mem s.hw } := by simp [State.onHw_eq, h]

theorem State.onAll_run {s : State} (h : s.hw.off = false) (f : List Host.Cell → Hw → List Host.Cell × Hw) :
    s.onAll f = .next { s with hw := (f s.mem s.hw).2, mem := (f s.mem s.hw).1 } := by simp [State.onAll_eq, h]

/-- While every clock is stopped, a command of the clocked domain changes nothing (R447). -/
theorem State.onHw_off {s : State} (h : s.hw.off = true) (f : List Host.Cell → Hw → Hw) : s.onHw f = .next s := by
  simp [State.onHw, h]

theorem State.onAll_off {s : State} (h : s.hw.off = true) (f : List Host.Cell → Hw → List Host.Cell × Hw) : s.onAll f = .next s := by
  simp [State.onAll, h]

theorem State.onHw_inv {s t : State} {f : List Host.Cell → Hw → Hw} (h : s.onHw f = .next t) :
    t.mem = s.mem ∧ t.pending = s.pending := by
  rw [State.onHw_eq] at h; cases h; exact ⟨rfl, rfl⟩

theorem State.onAon_inv {s t : State} {f : List Host.Cell → Hw → Hw} (h : s.onAon f = .next t) :
    t.mem = s.mem ∧ t.pending = s.pending := by
  unfold State.onAon at h; cases h; exact ⟨rfl, rfl⟩

theorem State.onAll_inv {s t : State} {f : List Host.Cell → Hw → List Host.Cell × Hw} (h : s.onAll f = .next t) :
    t.pending = s.pending ∧ (t.mem = s.mem ∨ t.mem = (f s.mem s.hw).1) := by
  rw [State.onAll_eq] at h
  cases h
  refine ⟨rfl, ?_⟩
  show (if s.hw.off then s.mem else _) = _ ∨ (if s.hw.off then s.mem else _) = _
  split
  · exact .inl rfl
  · exact .inr rfl

theorem State.onAonAll_inv {s t : State} {f : List Host.Cell → Hw → List Host.Cell × Hw} (h : s.onAonAll f = .next t) :
    t.pending = s.pending ∧ t.mem = (f s.mem s.hw).1 := by
  unfold State.onAonAll at h; cases h; exact ⟨rfl, rfl⟩

end Sys2Proof.Machine
end

