-- ==== Sys2Proof/Laws/SMap.lean ====
section
/-! SUPPORT. Reading what was written in a finite map. -/

namespace Sys2Proof.Machine

@[simp] theorem sget_nil {α : Type} (d : α) (k : Nat) : sget d k ([] : SMap α) = d := rfl

@[simp] theorem sfind_nil {α : Type} (k : Nat) : sfind k ([] : SMap α) = none := rfl

/-- Reading back what was written. -/
@[simp] theorem sget_sset_same {α : Type} (d : α) (k : Nat) (v : α) (m : SMap α) :
    sget d k (sset k v m) = v := by
  induction m with
  | nil => simp [sset, sget]
  | cons p r ih =>
    obtain ⟨j, w⟩ := p
    simp only [sset]
    split
    · simp [sget]
    · split
      · simp [sget]
      · rename_i h1 h2; simp [sget, h2, ih]

/-- A write at one number leaves every other number alone. -/
theorem sget_sset_ne {α : Type} (d : α) {k i : Nat} (h : i ≠ k) (v : α) (m : SMap α) :
    sget d i (sset k v m) = sget d i m := by
  induction m with
  | nil => simp [sset, sget, h]
  | cons p r ih =>
    obtain ⟨j, w⟩ := p
    simp only [sset]
    split
    · simp [sget, h]
    · split
      · rename_i h1 h2; subst h2; simp [sget, h]
      · simp [sget, ih]

theorem sget_sset {α : Type} (d : α) (k i : Nat) (v : α) (m : SMap α) :
    sget d i (sset k v m) = if i = k then v else sget d i m := by
  by_cases h : i = k
  · subst h; simp
  · simp [h, sget_sset_ne d h]

@[simp] theorem sget_supd_same {α : Type} (d : α) (k : Nat) (f : α → α) (m : SMap α) :
    sget d k (supd d k f m) = f (sget d k m) := by simp [supd]

theorem sget_supd_ne {α : Type} (d : α) {k i : Nat} (h : i ≠ k) (f : α → α) (m : SMap α) :
    sget d i (supd d k f m) = sget d i m := by simp [supd, sget_sset_ne d h]

/-- A written number is listed with its value. -/
@[simp] theorem sfind_sset_same {α : Type} (k : Nat) (v : α) (m : SMap α) : sfind k (sset k v m) = some v := by
  induction m with
  | nil => simp [sset, sfind]
  | cons p r ih =>
    obtain ⟨j, w⟩ := p
    simp only [sset]
    split
    · simp [sfind]
    · split
      · simp [sfind]
      · rename_i h1 h2; simp [sfind, h2, ih]

theorem sfind_sset_ne {α : Type} {k i : Nat} (h : i ≠ k) (v : α) (m : SMap α) : sfind i (sset k v m) = sfind i m := by
  induction m with
  | nil => simp [sset, sfind, h]
  | cons p r ih =>
    obtain ⟨j, w⟩ := p
    simp only [sset]
    split
    · simp [sfind, h]
    · split
      · rename_i h1 h2; subst h2; simp [sfind, h]
      · simp [sfind, ih]

end Sys2Proof.Machine
end

