-- ==== Sys2Proof/Laws/State.lean ====
section
/-! SUPPORT. What the updates of State leave alone, one lemma per field and update, true by rfl; and reading a component back. -/

namespace Sys2Proof.Machine

@[simp] theorem Hw.updThread_cores (h : Hw) (t : Nat) (f : Thread → Thread) : (h.updThread t f).cores = h.cores := rfl
@[simp] theorem Hw.updThread_chambers (h : Hw) (t : Nat) (f : Thread → Thread) : (h.updThread t f).chambers = h.chambers := rfl
@[simp] theorem Hw.updThread_slices (h : Hw) (t : Nat) (f : Thread → Thread) : (h.updThread t f).slices = h.slices := rfl
@[simp] theorem Hw.updThread_mcs (h : Hw) (t : Nat) (f : Thread → Thread) : (h.updThread t f).mcs = h.mcs := rfl
@[simp] theorem Hw.updThread_insts (h : Hw) (t : Nat) (f : Thread → Thread) : (h.updThread t f).insts = h.insts := rfl
@[simp] theorem Hw.updThread_regs (h : Hw) (t : Nat) (f : Thread → Thread) : (h.updThread t f).regs = h.regs := rfl
@[simp] theorem Hw.updThread_locks (h : Hw) (t : Nat) (f : Thread → Thread) : (h.updThread t f).locks = h.locks := rfl
@[simp] theorem Hw.updThread_newest (h : Hw) (t : Nat) (f : Thread → Thread) : (h.updThread t f).newest = h.newest := rfl
@[simp] theorem Hw.updThread_poison (h : Hw) (t : Nat) (f : Thread → Thread) : (h.updThread t f).poison = h.poison := rfl
@[simp] theorem Hw.updThread_carried (h : Hw) (t : Nat) (f : Thread → Thread) : (h.updThread t f).carried = h.carried := rfl
@[simp] theorem Hw.updThread_flits (h : Hw) (t : Nat) (f : Thread → Thread) : (h.updThread t f).flits = h.flits := rfl
@[simp] theorem Hw.updThread_flitId (h : Hw) (t : Nat) (f : Thread → Thread) : (h.updThread t f).flitId = h.flitId := rfl
@[simp] theorem Hw.updThread_posts (h : Hw) (t : Nat) (f : Thread → Thread) : (h.updThread t f).posts = h.posts := rfl
@[simp] theorem Hw.updThread_awayQ (h : Hw) (t : Nat) (f : Thread → Thread) : (h.updThread t f).awayQ = h.awayQ := rfl
@[simp] theorem Hw.updThread_portSnoops (h : Hw) (t : Nat) (f : Thread → Thread) : (h.updThread t f).portSnoops = h.portSnoops := rfl
@[simp] theorem Hw.updThread_meshCycles (h : Hw) (t : Nat) (f : Thread → Thread) : (h.updThread t f).meshCycles = h.meshCycles := rfl
@[simp] theorem Hw.updThread_used (h : Hw) (t : Nat) (f : Thread → Thread) : (h.updThread t f).used = h.used := rfl
@[simp] theorem Hw.updThread_freed (h : Hw) (t : Nat) (f : Thread → Thread) : (h.updThread t f).freed = h.freed := rfl
@[simp] theorem Hw.updThread_rrPtr (h : Hw) (t : Nat) (f : Thread → Thread) : (h.updThread t f).rrPtr = h.rrPtr := rfl
@[simp] theorem Hw.updThread_throttle (h : Hw) (t : Nat) (f : Thread → Thread) : (h.updThread t f).throttle = h.throttle := rfl
@[simp] theorem Hw.updThread_frames (h : Hw) (t : Nat) (f : Thread → Thread) : (h.updThread t f).frames = h.frames := rfl
@[simp] theorem Hw.updThread_resvs (h : Hw) (t : Nat) (f : Thread → Thread) : (h.updThread t f).resvs = h.resvs := rfl
@[simp] theorem Hw.updThread_gens (h : Hw) (t : Nat) (f : Thread → Thread) : (h.updThread t f).gens = h.gens := rfl
@[simp] theorem Hw.updThread_admQ (h : Hw) (t : Nat) (f : Thread → Thread) : (h.updThread t f).admQ = h.admQ := rfl
@[simp] theorem Hw.updThread_resvCount (h : Hw) (t : Nat) (f : Thread → Thread) : (h.updThread t f).resvCount = h.resvCount := rfl
@[simp] theorem Hw.updThread_bin (h : Hw) (t : Nat) (f : Thread → Thread) : (h.updThread t f).bin = h.bin := rfl
@[simp] theorem Hw.updThread_swdt (h : Hw) (t : Nat) (f : Thread → Thread) : (h.updThread t f).swdt = h.swdt := rfl
@[simp] theorem Hw.updThread_swdtOn (h : Hw) (t : Nat) (f : Thread → Thread) : (h.updThread t f).swdtOn = h.swdtOn := rfl
@[simp] theorem Hw.updThread_wdFire (h : Hw) (t : Nat) (f : Thread → Thread) : (h.updThread t f).wdFire = h.wdFire := rfl
@[simp] theorem Hw.updThread_wired (h : Hw) (t : Nat) (f : Thread → Thread) : (h.updThread t f).wired = h.wired := rfl
@[simp] theorem Hw.updThread_dirMem (h : Hw) (t : Nat) (f : Thread → Thread) : (h.updThread t f).dirMem = h.dirMem := rfl
@[simp] theorem Hw.updThread_links (h : Hw) (t : Nat) (f : Thread → Thread) : (h.updThread t f).links = h.links := rfl
@[simp] theorem Hw.updThread_linkCfg (h : Hw) (t : Nat) (f : Thread → Thread) : (h.updThread t f).linkCfg = h.linkCfg := rfl
@[simp] theorem Hw.updThread_perstLeft (h : Hw) (t : Nat) (f : Thread → Thread) : (h.updThread t f).perstLeft = h.perstLeft := rfl
@[simp] theorem Hw.updThread_lsMap (h : Hw) (t : Nat) (f : Thread → Thread) : (h.updThread t f).lsMap = h.lsMap := rfl
@[simp] theorem Hw.updThread_gtags (h : Hw) (t : Nat) (f : Thread → Thread) : (h.updThread t f).gtags = h.gtags := rfl
@[simp] theorem Hw.updThread_ptags (h : Hw) (t : Nat) (f : Thread → Thread) : (h.updThread t f).ptags = h.ptags := rfl
@[simp] theorem Hw.updThread_mmio (h : Hw) (t : Nat) (f : Thread → Thread) : (h.updThread t f).mmio = h.mmio := rfl
@[simp] theorem Hw.updThread_slotStat (h : Hw) (t : Nat) (f : Thread → Thread) : (h.updThread t f).slotStat = h.slotStat := rfl
@[simp] theorem Hw.updThread_banks (h : Hw) (t : Nat) (f : Thread → Thread) : (h.updThread t f).banks = h.banks := rfl
@[simp] theorem Hw.updThread_lastBank (h : Hw) (t : Nat) (f : Thread → Thread) : (h.updThread t f).lastBank = h.lastBank := rfl
@[simp] theorem Hw.updThread_patrol (h : Hw) (t : Nat) (f : Thread → Thread) : (h.updThread t f).patrol = h.patrol := rfl
@[simp] theorem Hw.updThread_repairs (h : Hw) (t : Nat) (f : Thread → Thread) : (h.updThread t f).repairs = h.repairs := rfl
@[simp] theorem Hw.updThread_lossNext (h : Hw) (t : Nat) (f : Thread → Thread) : (h.updThread t f).lossNext = h.lossNext := rfl
@[simp] theorem Hw.updThread_dropNew (h : Hw) (t : Nat) (f : Thread → Thread) : (h.updThread t f).dropNew = h.dropNew := rfl
@[simp] theorem Hw.updThread_hottest (h : Hw) (t : Nat) (f : Thread → Thread) : (h.updThread t f).hottest = h.hottest := rfl
@[simp] theorem Hw.updThread_badSensor (h : Hw) (t : Nat) (f : Thread → Thread) : (h.updThread t f).badSensor = h.badSensor := rfl
@[simp] theorem Hw.updThread_badLanes (h : Hw) (t : Nat) (f : Thread → Thread) : (h.updThread t f).badLanes = h.badLanes := rfl
@[simp] theorem Hw.updThread_under (h : Hw) (t : Nat) (f : Thread → Thread) : (h.updThread t f).under = h.under := rfl
@[simp] theorem Hw.updThread_router (h : Hw) (t : Nat) (f : Thread → Thread) : (h.updThread t f).router = h.router := rfl
@[simp] theorem Hw.updThread_rails (h : Hw) (t : Nat) (f : Thread → Thread) : (h.updThread t f).rails = h.rails := rfl
@[simp] theorem Hw.updThread_temps (h : Hw) (t : Nat) (f : Thread → Thread) : (h.updThread t f).temps = h.temps := rfl
@[simp] theorem Hw.updThread_tooHot (h : Hw) (t : Nat) (f : Thread → Thread) : (h.updThread t f).tooHot = h.tooHot := rfl
@[simp] theorem Hw.updThread_limiter (h : Hw) (t : Nat) (f : Thread → Thread) : (h.updThread t f).limiter = h.limiter := rfl
@[simp] theorem Hw.updThread_pkgCeil (h : Hw) (t : Nat) (f : Thread → Thread) : (h.updThread t f).pkgCeil = h.pkgCeil := rfl
@[simp] theorem Hw.updThread_trans (h : Hw) (t : Nat) (f : Thread → Thread) : (h.updThread t f).trans = h.trans := rfl
@[simp] theorem Hw.updThread_dies (h : Hw) (t : Nat) (f : Thread → Thread) : (h.updThread t f).dies = h.dies := rfl
@[simp] theorem Hw.updThread_pkg (h : Hw) (t : Nat) (f : Thread → Thread) : (h.updThread t f).pkg = h.pkg := rfl
@[simp] theorem Hw.updThread_blkreq (h : Hw) (t : Nat) (f : Thread → Thread) : (h.updThread t f).blkreq = h.blkreq := rfl
@[simp] theorem Hw.updThread_deferred (h : Hw) (t : Nat) (f : Thread → Thread) : (h.updThread t f).deferred = h.deferred := rfl
@[simp] theorem Hw.updThread_hand (h : Hw) (t : Nat) (f : Thread → Thread) : (h.updThread t f).hand = h.hand := rfl
@[simp] theorem Hw.updThread_keeper (h : Hw) (t : Nat) (f : Thread → Thread) : (h.updThread t f).keeper = h.keeper := rfl
@[simp] theorem Hw.updThread_tap (h : Hw) (t : Nat) (f : Thread → Thread) : (h.updThread t f).tap = h.tap := rfl
@[simp] theorem Hw.updThread_pins (h : Hw) (t : Nat) (f : Thread → Thread) : (h.updThread t f).pins = h.pins := rfl
@[simp] theorem Hw.updThread_off (h : Hw) (t : Nat) (f : Thread → Thread) : (h.updThread t f).off = h.off := rfl
@[simp] theorem Hw.updThread_bootWait (h : Hw) (t : Nat) (f : Thread → Thread) : (h.updThread t f).bootWait = h.bootWait := rfl
@[simp] theorem Hw.updThread_maint (h : Hw) (t : Nat) (f : Thread → Thread) : (h.updThread t f).maint = h.maint := rfl
@[simp] theorem Hw.updThread_mirror (h : Hw) (t : Nat) (f : Thread → Thread) : (h.updThread t f).mirror = h.mirror := rfl
@[simp] theorem Hw.updThread_mirrorAsked (h : Hw) (t : Nat) (f : Thread → Thread) : (h.updThread t f).mirrorAsked = h.mirrorAsked := rfl
@[simp] theorem Hw.updThread_cpl (h : Hw) (t : Nat) (f : Thread → Thread) : (h.updThread t f).cpl = h.cpl := rfl
@[simp] theorem Hw.updThread_time (h : Hw) (t : Nat) (f : Thread → Thread) : (h.updThread t f).time = h.time := rfl
@[simp] theorem Hw.updThread_fresh (h : Hw) (t : Nat) (f : Thread → Thread) : (h.updThread t f).fresh = h.fresh := rfl
@[simp] theorem Hw.updThread_core (h : Hw) (t : Nat) (f : Thread → Thread) (k : Nat) : (h.updThread t f).core k = h.core k := rfl
@[simp] theorem Hw.updThread_chamber (h : Hw) (t : Nat) (f : Thread → Thread) (k : Nat) : (h.updThread t f).chamber k = h.chamber k := rfl
@[simp] theorem Hw.updThread_slice (h : Hw) (t : Nat) (f : Thread → Thread) (k : Nat) : (h.updThread t f).slice k = h.slice k := rfl
@[simp] theorem Hw.updThread_mc (h : Hw) (t : Nat) (f : Thread → Thread) (k : Nat) : (h.updThread t f).mc k = h.mc k := rfl
@[simp] theorem Hw.updThread_inst (h : Hw) (t : Nat) (f : Thread → Thread) (k : Nat) : (h.updThread t f).inst k = h.inst k := rfl
@[simp] theorem Hw.updThread_reg (h : Hw) (t : Nat) (f : Thread → Thread) (k : Nat) : (h.updThread t f).reg k = h.reg k := rfl

@[simp] theorem Hw.updCore_threads (h : Hw) (c : Nat) (f : Core → Core) : (h.updCore c f).threads = h.threads := rfl
@[simp] theorem Hw.updCore_chambers (h : Hw) (c : Nat) (f : Core → Core) : (h.updCore c f).chambers = h.chambers := rfl
@[simp] theorem Hw.updCore_slices (h : Hw) (c : Nat) (f : Core → Core) : (h.updCore c f).slices = h.slices := rfl
@[simp] theorem Hw.updCore_mcs (h : Hw) (c : Nat) (f : Core → Core) : (h.updCore c f).mcs = h.mcs := rfl
@[simp] theorem Hw.updCore_insts (h : Hw) (c : Nat) (f : Core → Core) : (h.updCore c f).insts = h.insts := rfl
@[simp] theorem Hw.updCore_regs (h : Hw) (c : Nat) (f : Core → Core) : (h.updCore c f).regs = h.regs := rfl
@[simp] theorem Hw.updCore_locks (h : Hw) (c : Nat) (f : Core → Core) : (h.updCore c f).locks = h.locks := rfl
@[simp] theorem Hw.updCore_newest (h : Hw) (c : Nat) (f : Core → Core) : (h.updCore c f).newest = h.newest := rfl
@[simp] theorem Hw.updCore_poison (h : Hw) (c : Nat) (f : Core → Core) : (h.updCore c f).poison = h.poison := rfl
@[simp] theorem Hw.updCore_carried (h : Hw) (c : Nat) (f : Core → Core) : (h.updCore c f).carried = h.carried := rfl
@[simp] theorem Hw.updCore_flits (h : Hw) (c : Nat) (f : Core → Core) : (h.updCore c f).flits = h.flits := rfl
@[simp] theorem Hw.updCore_flitId (h : Hw) (c : Nat) (f : Core → Core) : (h.updCore c f).flitId = h.flitId := rfl
@[simp] theorem Hw.updCore_posts (h : Hw) (c : Nat) (f : Core → Core) : (h.updCore c f).posts = h.posts := rfl
@[simp] theorem Hw.updCore_awayQ (h : Hw) (c : Nat) (f : Core → Core) : (h.updCore c f).awayQ = h.awayQ := rfl
@[simp] theorem Hw.updCore_portSnoops (h : Hw) (c : Nat) (f : Core → Core) : (h.updCore c f).portSnoops = h.portSnoops := rfl
@[simp] theorem Hw.updCore_meshCycles (h : Hw) (c : Nat) (f : Core → Core) : (h.updCore c f).meshCycles = h.meshCycles := rfl
@[simp] theorem Hw.updCore_used (h : Hw) (c : Nat) (f : Core → Core) : (h.updCore c f).used = h.used := rfl
@[simp] theorem Hw.updCore_freed (h : Hw) (c : Nat) (f : Core → Core) : (h.updCore c f).freed = h.freed := rfl
@[simp] theorem Hw.updCore_rrPtr (h : Hw) (c : Nat) (f : Core → Core) : (h.updCore c f).rrPtr = h.rrPtr := rfl
@[simp] theorem Hw.updCore_throttle (h : Hw) (c : Nat) (f : Core → Core) : (h.updCore c f).throttle = h.throttle := rfl
@[simp] theorem Hw.updCore_frames (h : Hw) (c : Nat) (f : Core → Core) : (h.updCore c f).frames = h.frames := rfl
@[simp] theorem Hw.updCore_resvs (h : Hw) (c : Nat) (f : Core → Core) : (h.updCore c f).resvs = h.resvs := rfl
@[simp] theorem Hw.updCore_gens (h : Hw) (c : Nat) (f : Core → Core) : (h.updCore c f).gens = h.gens := rfl
@[simp] theorem Hw.updCore_admQ (h : Hw) (c : Nat) (f : Core → Core) : (h.updCore c f).admQ = h.admQ := rfl
@[simp] theorem Hw.updCore_resvCount (h : Hw) (c : Nat) (f : Core → Core) : (h.updCore c f).resvCount = h.resvCount := rfl
@[simp] theorem Hw.updCore_bin (h : Hw) (c : Nat) (f : Core → Core) : (h.updCore c f).bin = h.bin := rfl
@[simp] theorem Hw.updCore_swdt (h : Hw) (c : Nat) (f : Core → Core) : (h.updCore c f).swdt = h.swdt := rfl
@[simp] theorem Hw.updCore_swdtOn (h : Hw) (c : Nat) (f : Core → Core) : (h.updCore c f).swdtOn = h.swdtOn := rfl
@[simp] theorem Hw.updCore_wdFire (h : Hw) (c : Nat) (f : Core → Core) : (h.updCore c f).wdFire = h.wdFire := rfl
@[simp] theorem Hw.updCore_wired (h : Hw) (c : Nat) (f : Core → Core) : (h.updCore c f).wired = h.wired := rfl
@[simp] theorem Hw.updCore_dirMem (h : Hw) (c : Nat) (f : Core → Core) : (h.updCore c f).dirMem = h.dirMem := rfl
@[simp] theorem Hw.updCore_links (h : Hw) (c : Nat) (f : Core → Core) : (h.updCore c f).links = h.links := rfl
@[simp] theorem Hw.updCore_linkCfg (h : Hw) (c : Nat) (f : Core → Core) : (h.updCore c f).linkCfg = h.linkCfg := rfl
@[simp] theorem Hw.updCore_perstLeft (h : Hw) (c : Nat) (f : Core → Core) : (h.updCore c f).perstLeft = h.perstLeft := rfl
@[simp] theorem Hw.updCore_lsMap (h : Hw) (c : Nat) (f : Core → Core) : (h.updCore c f).lsMap = h.lsMap := rfl
@[simp] theorem Hw.updCore_gtags (h : Hw) (c : Nat) (f : Core → Core) : (h.updCore c f).gtags = h.gtags := rfl
@[simp] theorem Hw.updCore_ptags (h : Hw) (c : Nat) (f : Core → Core) : (h.updCore c f).ptags = h.ptags := rfl
@[simp] theorem Hw.updCore_mmio (h : Hw) (c : Nat) (f : Core → Core) : (h.updCore c f).mmio = h.mmio := rfl
@[simp] theorem Hw.updCore_slotStat (h : Hw) (c : Nat) (f : Core → Core) : (h.updCore c f).slotStat = h.slotStat := rfl
@[simp] theorem Hw.updCore_banks (h : Hw) (c : Nat) (f : Core → Core) : (h.updCore c f).banks = h.banks := rfl
@[simp] theorem Hw.updCore_lastBank (h : Hw) (c : Nat) (f : Core → Core) : (h.updCore c f).lastBank = h.lastBank := rfl
@[simp] theorem Hw.updCore_patrol (h : Hw) (c : Nat) (f : Core → Core) : (h.updCore c f).patrol = h.patrol := rfl
@[simp] theorem Hw.updCore_repairs (h : Hw) (c : Nat) (f : Core → Core) : (h.updCore c f).repairs = h.repairs := rfl
@[simp] theorem Hw.updCore_lossNext (h : Hw) (c : Nat) (f : Core → Core) : (h.updCore c f).lossNext = h.lossNext := rfl
@[simp] theorem Hw.updCore_dropNew (h : Hw) (c : Nat) (f : Core → Core) : (h.updCore c f).dropNew = h.dropNew := rfl
@[simp] theorem Hw.updCore_hottest (h : Hw) (c : Nat) (f : Core → Core) : (h.updCore c f).hottest = h.hottest := rfl
@[simp] theorem Hw.updCore_badSensor (h : Hw) (c : Nat) (f : Core → Core) : (h.updCore c f).badSensor = h.badSensor := rfl
@[simp] theorem Hw.updCore_badLanes (h : Hw) (c : Nat) (f : Core → Core) : (h.updCore c f).badLanes = h.badLanes := rfl
@[simp] theorem Hw.updCore_under (h : Hw) (c : Nat) (f : Core → Core) : (h.updCore c f).under = h.under := rfl
@[simp] theorem Hw.updCore_router (h : Hw) (c : Nat) (f : Core → Core) : (h.updCore c f).router = h.router := rfl
@[simp] theorem Hw.updCore_rails (h : Hw) (c : Nat) (f : Core → Core) : (h.updCore c f).rails = h.rails := rfl
@[simp] theorem Hw.updCore_temps (h : Hw) (c : Nat) (f : Core → Core) : (h.updCore c f).temps = h.temps := rfl
@[simp] theorem Hw.updCore_tooHot (h : Hw) (c : Nat) (f : Core → Core) : (h.updCore c f).tooHot = h.tooHot := rfl
@[simp] theorem Hw.updCore_limiter (h : Hw) (c : Nat) (f : Core → Core) : (h.updCore c f).limiter = h.limiter := rfl
@[simp] theorem Hw.updCore_pkgCeil (h : Hw) (c : Nat) (f : Core → Core) : (h.updCore c f).pkgCeil = h.pkgCeil := rfl
@[simp] theorem Hw.updCore_trans (h : Hw) (c : Nat) (f : Core → Core) : (h.updCore c f).trans = h.trans := rfl
@[simp] theorem Hw.updCore_dies (h : Hw) (c : Nat) (f : Core → Core) : (h.updCore c f).dies = h.dies := rfl
@[simp] theorem Hw.updCore_pkg (h : Hw) (c : Nat) (f : Core → Core) : (h.updCore c f).pkg = h.pkg := rfl
@[simp] theorem Hw.updCore_blkreq (h : Hw) (c : Nat) (f : Core → Core) : (h.updCore c f).blkreq = h.blkreq := rfl
@[simp] theorem Hw.updCore_deferred (h : Hw) (c : Nat) (f : Core → Core) : (h.updCore c f).deferred = h.deferred := rfl
@[simp] theorem Hw.updCore_hand (h : Hw) (c : Nat) (f : Core → Core) : (h.updCore c f).hand = h.hand := rfl
@[simp] theorem Hw.updCore_keeper (h : Hw) (c : Nat) (f : Core → Core) : (h.updCore c f).keeper = h.keeper := rfl
@[simp] theorem Hw.updCore_tap (h : Hw) (c : Nat) (f : Core → Core) : (h.updCore c f).tap = h.tap := rfl
@[simp] theorem Hw.updCore_pins (h : Hw) (c : Nat) (f : Core → Core) : (h.updCore c f).pins = h.pins := rfl
@[simp] theorem Hw.updCore_off (h : Hw) (c : Nat) (f : Core → Core) : (h.updCore c f).off = h.off := rfl
@[simp] theorem Hw.updCore_bootWait (h : Hw) (c : Nat) (f : Core → Core) : (h.updCore c f).bootWait = h.bootWait := rfl
@[simp] theorem Hw.updCore_maint (h : Hw) (c : Nat) (f : Core → Core) : (h.updCore c f).maint = h.maint := rfl
@[simp] theorem Hw.updCore_mirror (h : Hw) (c : Nat) (f : Core → Core) : (h.updCore c f).mirror = h.mirror := rfl
@[simp] theorem Hw.updCore_mirrorAsked (h : Hw) (c : Nat) (f : Core → Core) : (h.updCore c f).mirrorAsked = h.mirrorAsked := rfl
@[simp] theorem Hw.updCore_cpl (h : Hw) (c : Nat) (f : Core → Core) : (h.updCore c f).cpl = h.cpl := rfl
@[simp] theorem Hw.updCore_time (h : Hw) (c : Nat) (f : Core → Core) : (h.updCore c f).time = h.time := rfl
@[simp] theorem Hw.updCore_fresh (h : Hw) (c : Nat) (f : Core → Core) : (h.updCore c f).fresh = h.fresh := rfl
@[simp] theorem Hw.updCore_thread (h : Hw) (c : Nat) (f : Core → Core) (k : Nat) : (h.updCore c f).thread k = h.thread k := rfl
@[simp] theorem Hw.updCore_chamber (h : Hw) (c : Nat) (f : Core → Core) (k : Nat) : (h.updCore c f).chamber k = h.chamber k := rfl
@[simp] theorem Hw.updCore_slice (h : Hw) (c : Nat) (f : Core → Core) (k : Nat) : (h.updCore c f).slice k = h.slice k := rfl
@[simp] theorem Hw.updCore_mc (h : Hw) (c : Nat) (f : Core → Core) (k : Nat) : (h.updCore c f).mc k = h.mc k := rfl
@[simp] theorem Hw.updCore_inst (h : Hw) (c : Nat) (f : Core → Core) (k : Nat) : (h.updCore c f).inst k = h.inst k := rfl
@[simp] theorem Hw.updCore_reg (h : Hw) (c : Nat) (f : Core → Core) (k : Nat) : (h.updCore c f).reg k = h.reg k := rfl

@[simp] theorem Hw.updChamber_threads (h : Hw) (c : Nat) (f : Chamber → Chamber) : (h.updChamber c f).threads = h.threads := rfl
@[simp] theorem Hw.updChamber_cores (h : Hw) (c : Nat) (f : Chamber → Chamber) : (h.updChamber c f).cores = h.cores := rfl
@[simp] theorem Hw.updChamber_slices (h : Hw) (c : Nat) (f : Chamber → Chamber) : (h.updChamber c f).slices = h.slices := rfl
@[simp] theorem Hw.updChamber_mcs (h : Hw) (c : Nat) (f : Chamber → Chamber) : (h.updChamber c f).mcs = h.mcs := rfl
@[simp] theorem Hw.updChamber_insts (h : Hw) (c : Nat) (f : Chamber → Chamber) : (h.updChamber c f).insts = h.insts := rfl
@[simp] theorem Hw.updChamber_regs (h : Hw) (c : Nat) (f : Chamber → Chamber) : (h.updChamber c f).regs = h.regs := rfl
@[simp] theorem Hw.updChamber_locks (h : Hw) (c : Nat) (f : Chamber → Chamber) : (h.updChamber c f).locks = h.locks := rfl
@[simp] theorem Hw.updChamber_newest (h : Hw) (c : Nat) (f : Chamber → Chamber) : (h.updChamber c f).newest = h.newest := rfl
@[simp] theorem Hw.updChamber_poison (h : Hw) (c : Nat) (f : Chamber → Chamber) : (h.updChamber c f).poison = h.poison := rfl
@[simp] theorem Hw.updChamber_carried (h : Hw) (c : Nat) (f : Chamber → Chamber) : (h.updChamber c f).carried = h.carried := rfl
@[simp] theorem Hw.updChamber_flits (h : Hw) (c : Nat) (f : Chamber → Chamber) : (h.updChamber c f).flits = h.flits := rfl
@[simp] theorem Hw.updChamber_flitId (h : Hw) (c : Nat) (f : Chamber → Chamber) : (h.updChamber c f).flitId = h.flitId := rfl
@[simp] theorem Hw.updChamber_posts (h : Hw) (c : Nat) (f : Chamber → Chamber) : (h.updChamber c f).posts = h.posts := rfl
@[simp] theorem Hw.updChamber_awayQ (h : Hw) (c : Nat) (f : Chamber → Chamber) : (h.updChamber c f).awayQ = h.awayQ := rfl
@[simp] theorem Hw.updChamber_portSnoops (h : Hw) (c : Nat) (f : Chamber → Chamber) : (h.updChamber c f).portSnoops = h.portSnoops := rfl
@[simp] theorem Hw.updChamber_meshCycles (h : Hw) (c : Nat) (f : Chamber → Chamber) : (h.updChamber c f).meshCycles = h.meshCycles := rfl
@[simp] theorem Hw.updChamber_used (h : Hw) (c : Nat) (f : Chamber → Chamber) : (h.updChamber c f).used = h.used := rfl
@[simp] theorem Hw.updChamber_freed (h : Hw) (c : Nat) (f : Chamber → Chamber) : (h.updChamber c f).freed = h.freed := rfl
@[simp] theorem Hw.updChamber_rrPtr (h : Hw) (c : Nat) (f : Chamber → Chamber) : (h.updChamber c f).rrPtr = h.rrPtr := rfl
@[simp] theorem Hw.updChamber_throttle (h : Hw) (c : Nat) (f : Chamber → Chamber) : (h.updChamber c f).throttle = h.throttle := rfl
@[simp] theorem Hw.updChamber_frames (h : Hw) (c : Nat) (f : Chamber → Chamber) : (h.updChamber c f).frames = h.frames := rfl
@[simp] theorem Hw.updChamber_resvs (h : Hw) (c : Nat) (f : Chamber → Chamber) : (h.updChamber c f).resvs = h.resvs := rfl
@[simp] theorem Hw.updChamber_gens (h : Hw) (c : Nat) (f : Chamber → Chamber) : (h.updChamber c f).gens = h.gens := rfl
@[simp] theorem Hw.updChamber_admQ (h : Hw) (c : Nat) (f : Chamber → Chamber) : (h.updChamber c f).admQ = h.admQ := rfl
@[simp] theorem Hw.updChamber_resvCount (h : Hw) (c : Nat) (f : Chamber → Chamber) : (h.updChamber c f).resvCount = h.resvCount := rfl
@[simp] theorem Hw.updChamber_bin (h : Hw) (c : Nat) (f : Chamber → Chamber) : (h.updChamber c f).bin = h.bin := rfl
@[simp] theorem Hw.updChamber_swdt (h : Hw) (c : Nat) (f : Chamber → Chamber) : (h.updChamber c f).swdt = h.swdt := rfl
@[simp] theorem Hw.updChamber_swdtOn (h : Hw) (c : Nat) (f : Chamber → Chamber) : (h.updChamber c f).swdtOn = h.swdtOn := rfl
@[simp] theorem Hw.updChamber_wdFire (h : Hw) (c : Nat) (f : Chamber → Chamber) : (h.updChamber c f).wdFire = h.wdFire := rfl
@[simp] theorem Hw.updChamber_wired (h : Hw) (c : Nat) (f : Chamber → Chamber) : (h.updChamber c f).wired = h.wired := rfl
@[simp] theorem Hw.updChamber_dirMem (h : Hw) (c : Nat) (f : Chamber → Chamber) : (h.updChamber c f).dirMem = h.dirMem := rfl
@[simp] theorem Hw.updChamber_links (h : Hw) (c : Nat) (f : Chamber → Chamber) : (h.updChamber c f).links = h.links := rfl
@[simp] theorem Hw.updChamber_linkCfg (h : Hw) (c : Nat) (f : Chamber → Chamber) : (h.updChamber c f).linkCfg = h.linkCfg := rfl
@[simp] theorem Hw.updChamber_perstLeft (h : Hw) (c : Nat) (f : Chamber → Chamber) : (h.updChamber c f).perstLeft = h.perstLeft := rfl
@[simp] theorem Hw.updChamber_lsMap (h : Hw) (c : Nat) (f : Chamber → Chamber) : (h.updChamber c f).lsMap = h.lsMap := rfl
@[simp] theorem Hw.updChamber_gtags (h : Hw) (c : Nat) (f : Chamber → Chamber) : (h.updChamber c f).gtags = h.gtags := rfl
@[simp] theorem Hw.updChamber_ptags (h : Hw) (c : Nat) (f : Chamber → Chamber) : (h.updChamber c f).ptags = h.ptags := rfl
@[simp] theorem Hw.updChamber_mmio (h : Hw) (c : Nat) (f : Chamber → Chamber) : (h.updChamber c f).mmio = h.mmio := rfl
@[simp] theorem Hw.updChamber_slotStat (h : Hw) (c : Nat) (f : Chamber → Chamber) : (h.updChamber c f).slotStat = h.slotStat := rfl
@[simp] theorem Hw.updChamber_banks (h : Hw) (c : Nat) (f : Chamber → Chamber) : (h.updChamber c f).banks = h.banks := rfl
@[simp] theorem Hw.updChamber_lastBank (h : Hw) (c : Nat) (f : Chamber → Chamber) : (h.updChamber c f).lastBank = h.lastBank := rfl
@[simp] theorem Hw.updChamber_patrol (h : Hw) (c : Nat) (f : Chamber → Chamber) : (h.updChamber c f).patrol = h.patrol := rfl
@[simp] theorem Hw.updChamber_repairs (h : Hw) (c : Nat) (f : Chamber → Chamber) : (h.updChamber c f).repairs = h.repairs := rfl
@[simp] theorem Hw.updChamber_lossNext (h : Hw) (c : Nat) (f : Chamber → Chamber) : (h.updChamber c f).lossNext = h.lossNext := rfl
@[simp] theorem Hw.updChamber_dropNew (h : Hw) (c : Nat) (f : Chamber → Chamber) : (h.updChamber c f).dropNew = h.dropNew := rfl
@[simp] theorem Hw.updChamber_hottest (h : Hw) (c : Nat) (f : Chamber → Chamber) : (h.updChamber c f).hottest = h.hottest := rfl
@[simp] theorem Hw.updChamber_badSensor (h : Hw) (c : Nat) (f : Chamber → Chamber) : (h.updChamber c f).badSensor = h.badSensor := rfl
@[simp] theorem Hw.updChamber_badLanes (h : Hw) (c : Nat) (f : Chamber → Chamber) : (h.updChamber c f).badLanes = h.badLanes := rfl
@[simp] theorem Hw.updChamber_under (h : Hw) (c : Nat) (f : Chamber → Chamber) : (h.updChamber c f).under = h.under := rfl
@[simp] theorem Hw.updChamber_router (h : Hw) (c : Nat) (f : Chamber → Chamber) : (h.updChamber c f).router = h.router := rfl
@[simp] theorem Hw.updChamber_rails (h : Hw) (c : Nat) (f : Chamber → Chamber) : (h.updChamber c f).rails = h.rails := rfl
@[simp] theorem Hw.updChamber_temps (h : Hw) (c : Nat) (f : Chamber → Chamber) : (h.updChamber c f).temps = h.temps := rfl
@[simp] theorem Hw.updChamber_tooHot (h : Hw) (c : Nat) (f : Chamber → Chamber) : (h.updChamber c f).tooHot = h.tooHot := rfl
@[simp] theorem Hw.updChamber_limiter (h : Hw) (c : Nat) (f : Chamber → Chamber) : (h.updChamber c f).limiter = h.limiter := rfl
@[simp] theorem Hw.updChamber_pkgCeil (h : Hw) (c : Nat) (f : Chamber → Chamber) : (h.updChamber c f).pkgCeil = h.pkgCeil := rfl
@[simp] theorem Hw.updChamber_trans (h : Hw) (c : Nat) (f : Chamber → Chamber) : (h.updChamber c f).trans = h.trans := rfl
@[simp] theorem Hw.updChamber_dies (h : Hw) (c : Nat) (f : Chamber → Chamber) : (h.updChamber c f).dies = h.dies := rfl
@[simp] theorem Hw.updChamber_pkg (h : Hw) (c : Nat) (f : Chamber → Chamber) : (h.updChamber c f).pkg = h.pkg := rfl
@[simp] theorem Hw.updChamber_blkreq (h : Hw) (c : Nat) (f : Chamber → Chamber) : (h.updChamber c f).blkreq = h.blkreq := rfl
@[simp] theorem Hw.updChamber_deferred (h : Hw) (c : Nat) (f : Chamber → Chamber) : (h.updChamber c f).deferred = h.deferred := rfl
@[simp] theorem Hw.updChamber_hand (h : Hw) (c : Nat) (f : Chamber → Chamber) : (h.updChamber c f).hand = h.hand := rfl
@[simp] theorem Hw.updChamber_keeper (h : Hw) (c : Nat) (f : Chamber → Chamber) : (h.updChamber c f).keeper = h.keeper := rfl
@[simp] theorem Hw.updChamber_tap (h : Hw) (c : Nat) (f : Chamber → Chamber) : (h.updChamber c f).tap = h.tap := rfl
@[simp] theorem Hw.updChamber_pins (h : Hw) (c : Nat) (f : Chamber → Chamber) : (h.updChamber c f).pins = h.pins := rfl
@[simp] theorem Hw.updChamber_off (h : Hw) (c : Nat) (f : Chamber → Chamber) : (h.updChamber c f).off = h.off := rfl
@[simp] theorem Hw.updChamber_bootWait (h : Hw) (c : Nat) (f : Chamber → Chamber) : (h.updChamber c f).bootWait = h.bootWait := rfl
@[simp] theorem Hw.updChamber_maint (h : Hw) (c : Nat) (f : Chamber → Chamber) : (h.updChamber c f).maint = h.maint := rfl
@[simp] theorem Hw.updChamber_mirror (h : Hw) (c : Nat) (f : Chamber → Chamber) : (h.updChamber c f).mirror = h.mirror := rfl
@[simp] theorem Hw.updChamber_mirrorAsked (h : Hw) (c : Nat) (f : Chamber → Chamber) : (h.updChamber c f).mirrorAsked = h.mirrorAsked := rfl
@[simp] theorem Hw.updChamber_cpl (h : Hw) (c : Nat) (f : Chamber → Chamber) : (h.updChamber c f).cpl = h.cpl := rfl
@[simp] theorem Hw.updChamber_time (h : Hw) (c : Nat) (f : Chamber → Chamber) : (h.updChamber c f).time = h.time := rfl
@[simp] theorem Hw.updChamber_fresh (h : Hw) (c : Nat) (f : Chamber → Chamber) : (h.updChamber c f).fresh = h.fresh := rfl
@[simp] theorem Hw.updChamber_thread (h : Hw) (c : Nat) (f : Chamber → Chamber) (k : Nat) : (h.updChamber c f).thread k = h.thread k := rfl
@[simp] theorem Hw.updChamber_core (h : Hw) (c : Nat) (f : Chamber → Chamber) (k : Nat) : (h.updChamber c f).core k = h.core k := rfl
@[simp] theorem Hw.updChamber_slice (h : Hw) (c : Nat) (f : Chamber → Chamber) (k : Nat) : (h.updChamber c f).slice k = h.slice k := rfl
@[simp] theorem Hw.updChamber_mc (h : Hw) (c : Nat) (f : Chamber → Chamber) (k : Nat) : (h.updChamber c f).mc k = h.mc k := rfl
@[simp] theorem Hw.updChamber_inst (h : Hw) (c : Nat) (f : Chamber → Chamber) (k : Nat) : (h.updChamber c f).inst k = h.inst k := rfl
@[simp] theorem Hw.updChamber_reg (h : Hw) (c : Nat) (f : Chamber → Chamber) (k : Nat) : (h.updChamber c f).reg k = h.reg k := rfl

@[simp] theorem Hw.updSlice_threads (h : Hw) (n : Nat) (f : Slice → Slice) : (h.updSlice n f).threads = h.threads := rfl
@[simp] theorem Hw.updSlice_cores (h : Hw) (n : Nat) (f : Slice → Slice) : (h.updSlice n f).cores = h.cores := rfl
@[simp] theorem Hw.updSlice_chambers (h : Hw) (n : Nat) (f : Slice → Slice) : (h.updSlice n f).chambers = h.chambers := rfl
@[simp] theorem Hw.updSlice_mcs (h : Hw) (n : Nat) (f : Slice → Slice) : (h.updSlice n f).mcs = h.mcs := rfl
@[simp] theorem Hw.updSlice_insts (h : Hw) (n : Nat) (f : Slice → Slice) : (h.updSlice n f).insts = h.insts := rfl
@[simp] theorem Hw.updSlice_regs (h : Hw) (n : Nat) (f : Slice → Slice) : (h.updSlice n f).regs = h.regs := rfl
@[simp] theorem Hw.updSlice_locks (h : Hw) (n : Nat) (f : Slice → Slice) : (h.updSlice n f).locks = h.locks := rfl
@[simp] theorem Hw.updSlice_newest (h : Hw) (n : Nat) (f : Slice → Slice) : (h.updSlice n f).newest = h.newest := rfl
@[simp] theorem Hw.updSlice_poison (h : Hw) (n : Nat) (f : Slice → Slice) : (h.updSlice n f).poison = h.poison := rfl
@[simp] theorem Hw.updSlice_carried (h : Hw) (n : Nat) (f : Slice → Slice) : (h.updSlice n f).carried = h.carried := rfl
@[simp] theorem Hw.updSlice_flits (h : Hw) (n : Nat) (f : Slice → Slice) : (h.updSlice n f).flits = h.flits := rfl
@[simp] theorem Hw.updSlice_flitId (h : Hw) (n : Nat) (f : Slice → Slice) : (h.updSlice n f).flitId = h.flitId := rfl
@[simp] theorem Hw.updSlice_posts (h : Hw) (n : Nat) (f : Slice → Slice) : (h.updSlice n f).posts = h.posts := rfl
@[simp] theorem Hw.updSlice_awayQ (h : Hw) (n : Nat) (f : Slice → Slice) : (h.updSlice n f).awayQ = h.awayQ := rfl
@[simp] theorem Hw.updSlice_portSnoops (h : Hw) (n : Nat) (f : Slice → Slice) : (h.updSlice n f).portSnoops = h.portSnoops := rfl
@[simp] theorem Hw.updSlice_meshCycles (h : Hw) (n : Nat) (f : Slice → Slice) : (h.updSlice n f).meshCycles = h.meshCycles := rfl
@[simp] theorem Hw.updSlice_used (h : Hw) (n : Nat) (f : Slice → Slice) : (h.updSlice n f).used = h.used := rfl
@[simp] theorem Hw.updSlice_freed (h : Hw) (n : Nat) (f : Slice → Slice) : (h.updSlice n f).freed = h.freed := rfl
@[simp] theorem Hw.updSlice_rrPtr (h : Hw) (n : Nat) (f : Slice → Slice) : (h.updSlice n f).rrPtr = h.rrPtr := rfl
@[simp] theorem Hw.updSlice_throttle (h : Hw) (n : Nat) (f : Slice → Slice) : (h.updSlice n f).throttle = h.throttle := rfl
@[simp] theorem Hw.updSlice_frames (h : Hw) (n : Nat) (f : Slice → Slice) : (h.updSlice n f).frames = h.frames := rfl
@[simp] theorem Hw.updSlice_resvs (h : Hw) (n : Nat) (f : Slice → Slice) : (h.updSlice n f).resvs = h.resvs := rfl
@[simp] theorem Hw.updSlice_gens (h : Hw) (n : Nat) (f : Slice → Slice) : (h.updSlice n f).gens = h.gens := rfl
@[simp] theorem Hw.updSlice_admQ (h : Hw) (n : Nat) (f : Slice → Slice) : (h.updSlice n f).admQ = h.admQ := rfl
@[simp] theorem Hw.updSlice_resvCount (h : Hw) (n : Nat) (f : Slice → Slice) : (h.updSlice n f).resvCount = h.resvCount := rfl
@[simp] theorem Hw.updSlice_bin (h : Hw) (n : Nat) (f : Slice → Slice) : (h.updSlice n f).bin = h.bin := rfl
@[simp] theorem Hw.updSlice_swdt (h : Hw) (n : Nat) (f : Slice → Slice) : (h.updSlice n f).swdt = h.swdt := rfl
@[simp] theorem Hw.updSlice_swdtOn (h : Hw) (n : Nat) (f : Slice → Slice) : (h.updSlice n f).swdtOn = h.swdtOn := rfl
@[simp] theorem Hw.updSlice_wdFire (h : Hw) (n : Nat) (f : Slice → Slice) : (h.updSlice n f).wdFire = h.wdFire := rfl
@[simp] theorem Hw.updSlice_wired (h : Hw) (n : Nat) (f : Slice → Slice) : (h.updSlice n f).wired = h.wired := rfl
@[simp] theorem Hw.updSlice_dirMem (h : Hw) (n : Nat) (f : Slice → Slice) : (h.updSlice n f).dirMem = h.dirMem := rfl
@[simp] theorem Hw.updSlice_links (h : Hw) (n : Nat) (f : Slice → Slice) : (h.updSlice n f).links = h.links := rfl
@[simp] theorem Hw.updSlice_linkCfg (h : Hw) (n : Nat) (f : Slice → Slice) : (h.updSlice n f).linkCfg = h.linkCfg := rfl
@[simp] theorem Hw.updSlice_perstLeft (h : Hw) (n : Nat) (f : Slice → Slice) : (h.updSlice n f).perstLeft = h.perstLeft := rfl
@[simp] theorem Hw.updSlice_lsMap (h : Hw) (n : Nat) (f : Slice → Slice) : (h.updSlice n f).lsMap = h.lsMap := rfl
@[simp] theorem Hw.updSlice_gtags (h : Hw) (n : Nat) (f : Slice → Slice) : (h.updSlice n f).gtags = h.gtags := rfl
@[simp] theorem Hw.updSlice_ptags (h : Hw) (n : Nat) (f : Slice → Slice) : (h.updSlice n f).ptags = h.ptags := rfl
@[simp] theorem Hw.updSlice_mmio (h : Hw) (n : Nat) (f : Slice → Slice) : (h.updSlice n f).mmio = h.mmio := rfl
@[simp] theorem Hw.updSlice_slotStat (h : Hw) (n : Nat) (f : Slice → Slice) : (h.updSlice n f).slotStat = h.slotStat := rfl
@[simp] theorem Hw.updSlice_banks (h : Hw) (n : Nat) (f : Slice → Slice) : (h.updSlice n f).banks = h.banks := rfl
@[simp] theorem Hw.updSlice_lastBank (h : Hw) (n : Nat) (f : Slice → Slice) : (h.updSlice n f).lastBank = h.lastBank := rfl
@[simp] theorem Hw.updSlice_patrol (h : Hw) (n : Nat) (f : Slice → Slice) : (h.updSlice n f).patrol = h.patrol := rfl
@[simp] theorem Hw.updSlice_repairs (h : Hw) (n : Nat) (f : Slice → Slice) : (h.updSlice n f).repairs = h.repairs := rfl
@[simp] theorem Hw.updSlice_lossNext (h : Hw) (n : Nat) (f : Slice → Slice) : (h.updSlice n f).lossNext = h.lossNext := rfl
@[simp] theorem Hw.updSlice_dropNew (h : Hw) (n : Nat) (f : Slice → Slice) : (h.updSlice n f).dropNew = h.dropNew := rfl
@[simp] theorem Hw.updSlice_hottest (h : Hw) (n : Nat) (f : Slice → Slice) : (h.updSlice n f).hottest = h.hottest := rfl
@[simp] theorem Hw.updSlice_badSensor (h : Hw) (n : Nat) (f : Slice → Slice) : (h.updSlice n f).badSensor = h.badSensor := rfl
@[simp] theorem Hw.updSlice_badLanes (h : Hw) (n : Nat) (f : Slice → Slice) : (h.updSlice n f).badLanes = h.badLanes := rfl
@[simp] theorem Hw.updSlice_under (h : Hw) (n : Nat) (f : Slice → Slice) : (h.updSlice n f).under = h.under := rfl
@[simp] theorem Hw.updSlice_router (h : Hw) (n : Nat) (f : Slice → Slice) : (h.updSlice n f).router = h.router := rfl
@[simp] theorem Hw.updSlice_rails (h : Hw) (n : Nat) (f : Slice → Slice) : (h.updSlice n f).rails = h.rails := rfl
@[simp] theorem Hw.updSlice_temps (h : Hw) (n : Nat) (f : Slice → Slice) : (h.updSlice n f).temps = h.temps := rfl
@[simp] theorem Hw.updSlice_tooHot (h : Hw) (n : Nat) (f : Slice → Slice) : (h.updSlice n f).tooHot = h.tooHot := rfl
@[simp] theorem Hw.updSlice_limiter (h : Hw) (n : Nat) (f : Slice → Slice) : (h.updSlice n f).limiter = h.limiter := rfl
@[simp] theorem Hw.updSlice_pkgCeil (h : Hw) (n : Nat) (f : Slice → Slice) : (h.updSlice n f).pkgCeil = h.pkgCeil := rfl
@[simp] theorem Hw.updSlice_trans (h : Hw) (n : Nat) (f : Slice → Slice) : (h.updSlice n f).trans = h.trans := rfl
@[simp] theorem Hw.updSlice_dies (h : Hw) (n : Nat) (f : Slice → Slice) : (h.updSlice n f).dies = h.dies := rfl
@[simp] theorem Hw.updSlice_pkg (h : Hw) (n : Nat) (f : Slice → Slice) : (h.updSlice n f).pkg = h.pkg := rfl
@[simp] theorem Hw.updSlice_blkreq (h : Hw) (n : Nat) (f : Slice → Slice) : (h.updSlice n f).blkreq = h.blkreq := rfl
@[simp] theorem Hw.updSlice_deferred (h : Hw) (n : Nat) (f : Slice → Slice) : (h.updSlice n f).deferred = h.deferred := rfl
@[simp] theorem Hw.updSlice_hand (h : Hw) (n : Nat) (f : Slice → Slice) : (h.updSlice n f).hand = h.hand := rfl
@[simp] theorem Hw.updSlice_keeper (h : Hw) (n : Nat) (f : Slice → Slice) : (h.updSlice n f).keeper = h.keeper := rfl
@[simp] theorem Hw.updSlice_tap (h : Hw) (n : Nat) (f : Slice → Slice) : (h.updSlice n f).tap = h.tap := rfl
@[simp] theorem Hw.updSlice_pins (h : Hw) (n : Nat) (f : Slice → Slice) : (h.updSlice n f).pins = h.pins := rfl
@[simp] theorem Hw.updSlice_off (h : Hw) (n : Nat) (f : Slice → Slice) : (h.updSlice n f).off = h.off := rfl
@[simp] theorem Hw.updSlice_bootWait (h : Hw) (n : Nat) (f : Slice → Slice) : (h.updSlice n f).bootWait = h.bootWait := rfl
@[simp] theorem Hw.updSlice_maint (h : Hw) (n : Nat) (f : Slice → Slice) : (h.updSlice n f).maint = h.maint := rfl
@[simp] theorem Hw.updSlice_mirror (h : Hw) (n : Nat) (f : Slice → Slice) : (h.updSlice n f).mirror = h.mirror := rfl
@[simp] theorem Hw.updSlice_mirrorAsked (h : Hw) (n : Nat) (f : Slice → Slice) : (h.updSlice n f).mirrorAsked = h.mirrorAsked := rfl
@[simp] theorem Hw.updSlice_cpl (h : Hw) (n : Nat) (f : Slice → Slice) : (h.updSlice n f).cpl = h.cpl := rfl
@[simp] theorem Hw.updSlice_time (h : Hw) (n : Nat) (f : Slice → Slice) : (h.updSlice n f).time = h.time := rfl
@[simp] theorem Hw.updSlice_fresh (h : Hw) (n : Nat) (f : Slice → Slice) : (h.updSlice n f).fresh = h.fresh := rfl
@[simp] theorem Hw.updSlice_thread (h : Hw) (n : Nat) (f : Slice → Slice) (k : Nat) : (h.updSlice n f).thread k = h.thread k := rfl
@[simp] theorem Hw.updSlice_core (h : Hw) (n : Nat) (f : Slice → Slice) (k : Nat) : (h.updSlice n f).core k = h.core k := rfl
@[simp] theorem Hw.updSlice_chamber (h : Hw) (n : Nat) (f : Slice → Slice) (k : Nat) : (h.updSlice n f).chamber k = h.chamber k := rfl
@[simp] theorem Hw.updSlice_mc (h : Hw) (n : Nat) (f : Slice → Slice) (k : Nat) : (h.updSlice n f).mc k = h.mc k := rfl
@[simp] theorem Hw.updSlice_inst (h : Hw) (n : Nat) (f : Slice → Slice) (k : Nat) : (h.updSlice n f).inst k = h.inst k := rfl
@[simp] theorem Hw.updSlice_reg (h : Hw) (n : Nat) (f : Slice → Slice) (k : Nat) : (h.updSlice n f).reg k = h.reg k := rfl

@[simp] theorem Hw.updMc_threads (h : Hw) (m : Nat) (f : Mc → Mc) : (h.updMc m f).threads = h.threads := rfl
@[simp] theorem Hw.updMc_cores (h : Hw) (m : Nat) (f : Mc → Mc) : (h.updMc m f).cores = h.cores := rfl
@[simp] theorem Hw.updMc_chambers (h : Hw) (m : Nat) (f : Mc → Mc) : (h.updMc m f).chambers = h.chambers := rfl
@[simp] theorem Hw.updMc_slices (h : Hw) (m : Nat) (f : Mc → Mc) : (h.updMc m f).slices = h.slices := rfl
@[simp] theorem Hw.updMc_insts (h : Hw) (m : Nat) (f : Mc → Mc) : (h.updMc m f).insts = h.insts := rfl
@[simp] theorem Hw.updMc_regs (h : Hw) (m : Nat) (f : Mc → Mc) : (h.updMc m f).regs = h.regs := rfl
@[simp] theorem Hw.updMc_locks (h : Hw) (m : Nat) (f : Mc → Mc) : (h.updMc m f).locks = h.locks := rfl
@[simp] theorem Hw.updMc_newest (h : Hw) (m : Nat) (f : Mc → Mc) : (h.updMc m f).newest = h.newest := rfl
@[simp] theorem Hw.updMc_poison (h : Hw) (m : Nat) (f : Mc → Mc) : (h.updMc m f).poison = h.poison := rfl
@[simp] theorem Hw.updMc_carried (h : Hw) (m : Nat) (f : Mc → Mc) : (h.updMc m f).carried = h.carried := rfl
@[simp] theorem Hw.updMc_flits (h : Hw) (m : Nat) (f : Mc → Mc) : (h.updMc m f).flits = h.flits := rfl
@[simp] theorem Hw.updMc_flitId (h : Hw) (m : Nat) (f : Mc → Mc) : (h.updMc m f).flitId = h.flitId := rfl
@[simp] theorem Hw.updMc_posts (h : Hw) (m : Nat) (f : Mc → Mc) : (h.updMc m f).posts = h.posts := rfl
@[simp] theorem Hw.updMc_awayQ (h : Hw) (m : Nat) (f : Mc → Mc) : (h.updMc m f).awayQ = h.awayQ := rfl
@[simp] theorem Hw.updMc_portSnoops (h : Hw) (m : Nat) (f : Mc → Mc) : (h.updMc m f).portSnoops = h.portSnoops := rfl
@[simp] theorem Hw.updMc_meshCycles (h : Hw) (m : Nat) (f : Mc → Mc) : (h.updMc m f).meshCycles = h.meshCycles := rfl
@[simp] theorem Hw.updMc_used (h : Hw) (m : Nat) (f : Mc → Mc) : (h.updMc m f).used = h.used := rfl
@[simp] theorem Hw.updMc_freed (h : Hw) (m : Nat) (f : Mc → Mc) : (h.updMc m f).freed = h.freed := rfl
@[simp] theorem Hw.updMc_rrPtr (h : Hw) (m : Nat) (f : Mc → Mc) : (h.updMc m f).rrPtr = h.rrPtr := rfl
@[simp] theorem Hw.updMc_throttle (h : Hw) (m : Nat) (f : Mc → Mc) : (h.updMc m f).throttle = h.throttle := rfl
@[simp] theorem Hw.updMc_frames (h : Hw) (m : Nat) (f : Mc → Mc) : (h.updMc m f).frames = h.frames := rfl
@[simp] theorem Hw.updMc_resvs (h : Hw) (m : Nat) (f : Mc → Mc) : (h.updMc m f).resvs = h.resvs := rfl
@[simp] theorem Hw.updMc_gens (h : Hw) (m : Nat) (f : Mc → Mc) : (h.updMc m f).gens = h.gens := rfl
@[simp] theorem Hw.updMc_admQ (h : Hw) (m : Nat) (f : Mc → Mc) : (h.updMc m f).admQ = h.admQ := rfl
@[simp] theorem Hw.updMc_resvCount (h : Hw) (m : Nat) (f : Mc → Mc) : (h.updMc m f).resvCount = h.resvCount := rfl
@[simp] theorem Hw.updMc_bin (h : Hw) (m : Nat) (f : Mc → Mc) : (h.updMc m f).bin = h.bin := rfl
@[simp] theorem Hw.updMc_swdt (h : Hw) (m : Nat) (f : Mc → Mc) : (h.updMc m f).swdt = h.swdt := rfl
@[simp] theorem Hw.updMc_swdtOn (h : Hw) (m : Nat) (f : Mc → Mc) : (h.updMc m f).swdtOn = h.swdtOn := rfl
@[simp] theorem Hw.updMc_wdFire (h : Hw) (m : Nat) (f : Mc → Mc) : (h.updMc m f).wdFire = h.wdFire := rfl
@[simp] theorem Hw.updMc_wired (h : Hw) (m : Nat) (f : Mc → Mc) : (h.updMc m f).wired = h.wired := rfl
@[simp] theorem Hw.updMc_dirMem (h : Hw) (m : Nat) (f : Mc → Mc) : (h.updMc m f).dirMem = h.dirMem := rfl
@[simp] theorem Hw.updMc_links (h : Hw) (m : Nat) (f : Mc → Mc) : (h.updMc m f).links = h.links := rfl
@[simp] theorem Hw.updMc_linkCfg (h : Hw) (m : Nat) (f : Mc → Mc) : (h.updMc m f).linkCfg = h.linkCfg := rfl
@[simp] theorem Hw.updMc_perstLeft (h : Hw) (m : Nat) (f : Mc → Mc) : (h.updMc m f).perstLeft = h.perstLeft := rfl
@[simp] theorem Hw.updMc_lsMap (h : Hw) (m : Nat) (f : Mc → Mc) : (h.updMc m f).lsMap = h.lsMap := rfl
@[simp] theorem Hw.updMc_gtags (h : Hw) (m : Nat) (f : Mc → Mc) : (h.updMc m f).gtags = h.gtags := rfl
@[simp] theorem Hw.updMc_ptags (h : Hw) (m : Nat) (f : Mc → Mc) : (h.updMc m f).ptags = h.ptags := rfl
@[simp] theorem Hw.updMc_mmio (h : Hw) (m : Nat) (f : Mc → Mc) : (h.updMc m f).mmio = h.mmio := rfl
@[simp] theorem Hw.updMc_slotStat (h : Hw) (m : Nat) (f : Mc → Mc) : (h.updMc m f).slotStat = h.slotStat := rfl
@[simp] theorem Hw.updMc_banks (h : Hw) (m : Nat) (f : Mc → Mc) : (h.updMc m f).banks = h.banks := rfl
@[simp] theorem Hw.updMc_lastBank (h : Hw) (m : Nat) (f : Mc → Mc) : (h.updMc m f).lastBank = h.lastBank := rfl
@[simp] theorem Hw.updMc_patrol (h : Hw) (m : Nat) (f : Mc → Mc) : (h.updMc m f).patrol = h.patrol := rfl
@[simp] theorem Hw.updMc_repairs (h : Hw) (m : Nat) (f : Mc → Mc) : (h.updMc m f).repairs = h.repairs := rfl
@[simp] theorem Hw.updMc_lossNext (h : Hw) (m : Nat) (f : Mc → Mc) : (h.updMc m f).lossNext = h.lossNext := rfl
@[simp] theorem Hw.updMc_dropNew (h : Hw) (m : Nat) (f : Mc → Mc) : (h.updMc m f).dropNew = h.dropNew := rfl
@[simp] theorem Hw.updMc_hottest (h : Hw) (m : Nat) (f : Mc → Mc) : (h.updMc m f).hottest = h.hottest := rfl
@[simp] theorem Hw.updMc_badSensor (h : Hw) (m : Nat) (f : Mc → Mc) : (h.updMc m f).badSensor = h.badSensor := rfl
@[simp] theorem Hw.updMc_badLanes (h : Hw) (m : Nat) (f : Mc → Mc) : (h.updMc m f).badLanes = h.badLanes := rfl
@[simp] theorem Hw.updMc_under (h : Hw) (m : Nat) (f : Mc → Mc) : (h.updMc m f).under = h.under := rfl
@[simp] theorem Hw.updMc_router (h : Hw) (m : Nat) (f : Mc → Mc) : (h.updMc m f).router = h.router := rfl
@[simp] theorem Hw.updMc_rails (h : Hw) (m : Nat) (f : Mc → Mc) : (h.updMc m f).rails = h.rails := rfl
@[simp] theorem Hw.updMc_temps (h : Hw) (m : Nat) (f : Mc → Mc) : (h.updMc m f).temps = h.temps := rfl
@[simp] theorem Hw.updMc_tooHot (h : Hw) (m : Nat) (f : Mc → Mc) : (h.updMc m f).tooHot = h.tooHot := rfl
@[simp] theorem Hw.updMc_limiter (h : Hw) (m : Nat) (f : Mc → Mc) : (h.updMc m f).limiter = h.limiter := rfl
@[simp] theorem Hw.updMc_pkgCeil (h : Hw) (m : Nat) (f : Mc → Mc) : (h.updMc m f).pkgCeil = h.pkgCeil := rfl
@[simp] theorem Hw.updMc_trans (h : Hw) (m : Nat) (f : Mc → Mc) : (h.updMc m f).trans = h.trans := rfl
@[simp] theorem Hw.updMc_dies (h : Hw) (m : Nat) (f : Mc → Mc) : (h.updMc m f).dies = h.dies := rfl
@[simp] theorem Hw.updMc_pkg (h : Hw) (m : Nat) (f : Mc → Mc) : (h.updMc m f).pkg = h.pkg := rfl
@[simp] theorem Hw.updMc_blkreq (h : Hw) (m : Nat) (f : Mc → Mc) : (h.updMc m f).blkreq = h.blkreq := rfl
@[simp] theorem Hw.updMc_deferred (h : Hw) (m : Nat) (f : Mc → Mc) : (h.updMc m f).deferred = h.deferred := rfl
@[simp] theorem Hw.updMc_hand (h : Hw) (m : Nat) (f : Mc → Mc) : (h.updMc m f).hand = h.hand := rfl
@[simp] theorem Hw.updMc_keeper (h : Hw) (m : Nat) (f : Mc → Mc) : (h.updMc m f).keeper = h.keeper := rfl
@[simp] theorem Hw.updMc_tap (h : Hw) (m : Nat) (f : Mc → Mc) : (h.updMc m f).tap = h.tap := rfl
@[simp] theorem Hw.updMc_pins (h : Hw) (m : Nat) (f : Mc → Mc) : (h.updMc m f).pins = h.pins := rfl
@[simp] theorem Hw.updMc_off (h : Hw) (m : Nat) (f : Mc → Mc) : (h.updMc m f).off = h.off := rfl
@[simp] theorem Hw.updMc_bootWait (h : Hw) (m : Nat) (f : Mc → Mc) : (h.updMc m f).bootWait = h.bootWait := rfl
@[simp] theorem Hw.updMc_maint (h : Hw) (m : Nat) (f : Mc → Mc) : (h.updMc m f).maint = h.maint := rfl
@[simp] theorem Hw.updMc_mirror (h : Hw) (m : Nat) (f : Mc → Mc) : (h.updMc m f).mirror = h.mirror := rfl
@[simp] theorem Hw.updMc_mirrorAsked (h : Hw) (m : Nat) (f : Mc → Mc) : (h.updMc m f).mirrorAsked = h.mirrorAsked := rfl
@[simp] theorem Hw.updMc_cpl (h : Hw) (m : Nat) (f : Mc → Mc) : (h.updMc m f).cpl = h.cpl := rfl
@[simp] theorem Hw.updMc_time (h : Hw) (m : Nat) (f : Mc → Mc) : (h.updMc m f).time = h.time := rfl
@[simp] theorem Hw.updMc_fresh (h : Hw) (m : Nat) (f : Mc → Mc) : (h.updMc m f).fresh = h.fresh := rfl
@[simp] theorem Hw.updMc_thread (h : Hw) (m : Nat) (f : Mc → Mc) (k : Nat) : (h.updMc m f).thread k = h.thread k := rfl
@[simp] theorem Hw.updMc_core (h : Hw) (m : Nat) (f : Mc → Mc) (k : Nat) : (h.updMc m f).core k = h.core k := rfl
@[simp] theorem Hw.updMc_chamber (h : Hw) (m : Nat) (f : Mc → Mc) (k : Nat) : (h.updMc m f).chamber k = h.chamber k := rfl
@[simp] theorem Hw.updMc_slice (h : Hw) (m : Nat) (f : Mc → Mc) (k : Nat) : (h.updMc m f).slice k = h.slice k := rfl
@[simp] theorem Hw.updMc_inst (h : Hw) (m : Nat) (f : Mc → Mc) (k : Nat) : (h.updMc m f).inst k = h.inst k := rfl
@[simp] theorem Hw.updMc_reg (h : Hw) (m : Nat) (f : Mc → Mc) (k : Nat) : (h.updMc m f).reg k = h.reg k := rfl

@[simp] theorem Hw.updInst_threads (h : Hw) (i : Nat) (f : Inst → Inst) : (h.updInst i f).threads = h.threads := rfl
@[simp] theorem Hw.updInst_cores (h : Hw) (i : Nat) (f : Inst → Inst) : (h.updInst i f).cores = h.cores := rfl
@[simp] theorem Hw.updInst_chambers (h : Hw) (i : Nat) (f : Inst → Inst) : (h.updInst i f).chambers = h.chambers := rfl
@[simp] theorem Hw.updInst_slices (h : Hw) (i : Nat) (f : Inst → Inst) : (h.updInst i f).slices = h.slices := rfl
@[simp] theorem Hw.updInst_mcs (h : Hw) (i : Nat) (f : Inst → Inst) : (h.updInst i f).mcs = h.mcs := rfl
@[simp] theorem Hw.updInst_regs (h : Hw) (i : Nat) (f : Inst → Inst) : (h.updInst i f).regs = h.regs := rfl
@[simp] theorem Hw.updInst_locks (h : Hw) (i : Nat) (f : Inst → Inst) : (h.updInst i f).locks = h.locks := rfl
@[simp] theorem Hw.updInst_newest (h : Hw) (i : Nat) (f : Inst → Inst) : (h.updInst i f).newest = h.newest := rfl
@[simp] theorem Hw.updInst_poison (h : Hw) (i : Nat) (f : Inst → Inst) : (h.updInst i f).poison = h.poison := rfl
@[simp] theorem Hw.updInst_carried (h : Hw) (i : Nat) (f : Inst → Inst) : (h.updInst i f).carried = h.carried := rfl
@[simp] theorem Hw.updInst_flits (h : Hw) (i : Nat) (f : Inst → Inst) : (h.updInst i f).flits = h.flits := rfl
@[simp] theorem Hw.updInst_flitId (h : Hw) (i : Nat) (f : Inst → Inst) : (h.updInst i f).flitId = h.flitId := rfl
@[simp] theorem Hw.updInst_posts (h : Hw) (i : Nat) (f : Inst → Inst) : (h.updInst i f).posts = h.posts := rfl
@[simp] theorem Hw.updInst_awayQ (h : Hw) (i : Nat) (f : Inst → Inst) : (h.updInst i f).awayQ = h.awayQ := rfl
@[simp] theorem Hw.updInst_portSnoops (h : Hw) (i : Nat) (f : Inst → Inst) : (h.updInst i f).portSnoops = h.portSnoops := rfl
@[simp] theorem Hw.updInst_meshCycles (h : Hw) (i : Nat) (f : Inst → Inst) : (h.updInst i f).meshCycles = h.meshCycles := rfl
@[simp] theorem Hw.updInst_used (h : Hw) (i : Nat) (f : Inst → Inst) : (h.updInst i f).used = h.used := rfl
@[simp] theorem Hw.updInst_freed (h : Hw) (i : Nat) (f : Inst → Inst) : (h.updInst i f).freed = h.freed := rfl
@[simp] theorem Hw.updInst_rrPtr (h : Hw) (i : Nat) (f : Inst → Inst) : (h.updInst i f).rrPtr = h.rrPtr := rfl
@[simp] theorem Hw.updInst_throttle (h : Hw) (i : Nat) (f : Inst → Inst) : (h.updInst i f).throttle = h.throttle := rfl
@[simp] theorem Hw.updInst_frames (h : Hw) (i : Nat) (f : Inst → Inst) : (h.updInst i f).frames = h.frames := rfl
@[simp] theorem Hw.updInst_resvs (h : Hw) (i : Nat) (f : Inst → Inst) : (h.updInst i f).resvs = h.resvs := rfl
@[simp] theorem Hw.updInst_gens (h : Hw) (i : Nat) (f : Inst → Inst) : (h.updInst i f).gens = h.gens := rfl
@[simp] theorem Hw.updInst_admQ (h : Hw) (i : Nat) (f : Inst → Inst) : (h.updInst i f).admQ = h.admQ := rfl
@[simp] theorem Hw.updInst_resvCount (h : Hw) (i : Nat) (f : Inst → Inst) : (h.updInst i f).resvCount = h.resvCount := rfl
@[simp] theorem Hw.updInst_bin (h : Hw) (i : Nat) (f : Inst → Inst) : (h.updInst i f).bin = h.bin := rfl
@[simp] theorem Hw.updInst_swdt (h : Hw) (i : Nat) (f : Inst → Inst) : (h.updInst i f).swdt = h.swdt := rfl
@[simp] theorem Hw.updInst_swdtOn (h : Hw) (i : Nat) (f : Inst → Inst) : (h.updInst i f).swdtOn = h.swdtOn := rfl
@[simp] theorem Hw.updInst_wdFire (h : Hw) (i : Nat) (f : Inst → Inst) : (h.updInst i f).wdFire = h.wdFire := rfl
@[simp] theorem Hw.updInst_wired (h : Hw) (i : Nat) (f : Inst → Inst) : (h.updInst i f).wired = h.wired := rfl
@[simp] theorem Hw.updInst_dirMem (h : Hw) (i : Nat) (f : Inst → Inst) : (h.updInst i f).dirMem = h.dirMem := rfl
@[simp] theorem Hw.updInst_links (h : Hw) (i : Nat) (f : Inst → Inst) : (h.updInst i f).links = h.links := rfl
@[simp] theorem Hw.updInst_linkCfg (h : Hw) (i : Nat) (f : Inst → Inst) : (h.updInst i f).linkCfg = h.linkCfg := rfl
@[simp] theorem Hw.updInst_perstLeft (h : Hw) (i : Nat) (f : Inst → Inst) : (h.updInst i f).perstLeft = h.perstLeft := rfl
@[simp] theorem Hw.updInst_lsMap (h : Hw) (i : Nat) (f : Inst → Inst) : (h.updInst i f).lsMap = h.lsMap := rfl
@[simp] theorem Hw.updInst_gtags (h : Hw) (i : Nat) (f : Inst → Inst) : (h.updInst i f).gtags = h.gtags := rfl
@[simp] theorem Hw.updInst_ptags (h : Hw) (i : Nat) (f : Inst → Inst) : (h.updInst i f).ptags = h.ptags := rfl
@[simp] theorem Hw.updInst_mmio (h : Hw) (i : Nat) (f : Inst → Inst) : (h.updInst i f).mmio = h.mmio := rfl
@[simp] theorem Hw.updInst_slotStat (h : Hw) (i : Nat) (f : Inst → Inst) : (h.updInst i f).slotStat = h.slotStat := rfl
@[simp] theorem Hw.updInst_banks (h : Hw) (i : Nat) (f : Inst → Inst) : (h.updInst i f).banks = h.banks := rfl
@[simp] theorem Hw.updInst_lastBank (h : Hw) (i : Nat) (f : Inst → Inst) : (h.updInst i f).lastBank = h.lastBank := rfl
@[simp] theorem Hw.updInst_patrol (h : Hw) (i : Nat) (f : Inst → Inst) : (h.updInst i f).patrol = h.patrol := rfl
@[simp] theorem Hw.updInst_repairs (h : Hw) (i : Nat) (f : Inst → Inst) : (h.updInst i f).repairs = h.repairs := rfl
@[simp] theorem Hw.updInst_lossNext (h : Hw) (i : Nat) (f : Inst → Inst) : (h.updInst i f).lossNext = h.lossNext := rfl
@[simp] theorem Hw.updInst_dropNew (h : Hw) (i : Nat) (f : Inst → Inst) : (h.updInst i f).dropNew = h.dropNew := rfl
@[simp] theorem Hw.updInst_hottest (h : Hw) (i : Nat) (f : Inst → Inst) : (h.updInst i f).hottest = h.hottest := rfl
@[simp] theorem Hw.updInst_badSensor (h : Hw) (i : Nat) (f : Inst → Inst) : (h.updInst i f).badSensor = h.badSensor := rfl
@[simp] theorem Hw.updInst_badLanes (h : Hw) (i : Nat) (f : Inst → Inst) : (h.updInst i f).badLanes = h.badLanes := rfl
@[simp] theorem Hw.updInst_under (h : Hw) (i : Nat) (f : Inst → Inst) : (h.updInst i f).under = h.under := rfl
@[simp] theorem Hw.updInst_router (h : Hw) (i : Nat) (f : Inst → Inst) : (h.updInst i f).router = h.router := rfl
@[simp] theorem Hw.updInst_rails (h : Hw) (i : Nat) (f : Inst → Inst) : (h.updInst i f).rails = h.rails := rfl
@[simp] theorem Hw.updInst_temps (h : Hw) (i : Nat) (f : Inst → Inst) : (h.updInst i f).temps = h.temps := rfl
@[simp] theorem Hw.updInst_tooHot (h : Hw) (i : Nat) (f : Inst → Inst) : (h.updInst i f).tooHot = h.tooHot := rfl
@[simp] theorem Hw.updInst_limiter (h : Hw) (i : Nat) (f : Inst → Inst) : (h.updInst i f).limiter = h.limiter := rfl
@[simp] theorem Hw.updInst_pkgCeil (h : Hw) (i : Nat) (f : Inst → Inst) : (h.updInst i f).pkgCeil = h.pkgCeil := rfl
@[simp] theorem Hw.updInst_trans (h : Hw) (i : Nat) (f : Inst → Inst) : (h.updInst i f).trans = h.trans := rfl
@[simp] theorem Hw.updInst_dies (h : Hw) (i : Nat) (f : Inst → Inst) : (h.updInst i f).dies = h.dies := rfl
@[simp] theorem Hw.updInst_pkg (h : Hw) (i : Nat) (f : Inst → Inst) : (h.updInst i f).pkg = h.pkg := rfl
@[simp] theorem Hw.updInst_blkreq (h : Hw) (i : Nat) (f : Inst → Inst) : (h.updInst i f).blkreq = h.blkreq := rfl
@[simp] theorem Hw.updInst_deferred (h : Hw) (i : Nat) (f : Inst → Inst) : (h.updInst i f).deferred = h.deferred := rfl
@[simp] theorem Hw.updInst_hand (h : Hw) (i : Nat) (f : Inst → Inst) : (h.updInst i f).hand = h.hand := rfl
@[simp] theorem Hw.updInst_keeper (h : Hw) (i : Nat) (f : Inst → Inst) : (h.updInst i f).keeper = h.keeper := rfl
@[simp] theorem Hw.updInst_tap (h : Hw) (i : Nat) (f : Inst → Inst) : (h.updInst i f).tap = h.tap := rfl
@[simp] theorem Hw.updInst_pins (h : Hw) (i : Nat) (f : Inst → Inst) : (h.updInst i f).pins = h.pins := rfl
@[simp] theorem Hw.updInst_off (h : Hw) (i : Nat) (f : Inst → Inst) : (h.updInst i f).off = h.off := rfl
@[simp] theorem Hw.updInst_bootWait (h : Hw) (i : Nat) (f : Inst → Inst) : (h.updInst i f).bootWait = h.bootWait := rfl
@[simp] theorem Hw.updInst_maint (h : Hw) (i : Nat) (f : Inst → Inst) : (h.updInst i f).maint = h.maint := rfl
@[simp] theorem Hw.updInst_mirror (h : Hw) (i : Nat) (f : Inst → Inst) : (h.updInst i f).mirror = h.mirror := rfl
@[simp] theorem Hw.updInst_mirrorAsked (h : Hw) (i : Nat) (f : Inst → Inst) : (h.updInst i f).mirrorAsked = h.mirrorAsked := rfl
@[simp] theorem Hw.updInst_cpl (h : Hw) (i : Nat) (f : Inst → Inst) : (h.updInst i f).cpl = h.cpl := rfl
@[simp] theorem Hw.updInst_time (h : Hw) (i : Nat) (f : Inst → Inst) : (h.updInst i f).time = h.time := rfl
@[simp] theorem Hw.updInst_fresh (h : Hw) (i : Nat) (f : Inst → Inst) : (h.updInst i f).fresh = h.fresh := rfl
@[simp] theorem Hw.updInst_thread (h : Hw) (i : Nat) (f : Inst → Inst) (k : Nat) : (h.updInst i f).thread k = h.thread k := rfl
@[simp] theorem Hw.updInst_core (h : Hw) (i : Nat) (f : Inst → Inst) (k : Nat) : (h.updInst i f).core k = h.core k := rfl
@[simp] theorem Hw.updInst_chamber (h : Hw) (i : Nat) (f : Inst → Inst) (k : Nat) : (h.updInst i f).chamber k = h.chamber k := rfl
@[simp] theorem Hw.updInst_slice (h : Hw) (i : Nat) (f : Inst → Inst) (k : Nat) : (h.updInst i f).slice k = h.slice k := rfl
@[simp] theorem Hw.updInst_mc (h : Hw) (i : Nat) (f : Inst → Inst) (k : Nat) : (h.updInst i f).mc k = h.mc k := rfl
@[simp] theorem Hw.updInst_reg (h : Hw) (i : Nat) (f : Inst → Inst) (k : Nat) : (h.updInst i f).reg k = h.reg k := rfl

@[simp] theorem Hw.setReg_threads (h : Hw) (a : Nat) (w : Word) : (h.setReg a w).threads = h.threads := rfl
@[simp] theorem Hw.setReg_cores (h : Hw) (a : Nat) (w : Word) : (h.setReg a w).cores = h.cores := rfl
@[simp] theorem Hw.setReg_chambers (h : Hw) (a : Nat) (w : Word) : (h.setReg a w).chambers = h.chambers := rfl
@[simp] theorem Hw.setReg_slices (h : Hw) (a : Nat) (w : Word) : (h.setReg a w).slices = h.slices := rfl
@[simp] theorem Hw.setReg_mcs (h : Hw) (a : Nat) (w : Word) : (h.setReg a w).mcs = h.mcs := rfl
@[simp] theorem Hw.setReg_insts (h : Hw) (a : Nat) (w : Word) : (h.setReg a w).insts = h.insts := rfl
@[simp] theorem Hw.setReg_locks (h : Hw) (a : Nat) (w : Word) : (h.setReg a w).locks = h.locks := rfl
@[simp] theorem Hw.setReg_newest (h : Hw) (a : Nat) (w : Word) : (h.setReg a w).newest = h.newest := rfl
@[simp] theorem Hw.setReg_poison (h : Hw) (a : Nat) (w : Word) : (h.setReg a w).poison = h.poison := rfl
@[simp] theorem Hw.setReg_carried (h : Hw) (a : Nat) (w : Word) : (h.setReg a w).carried = h.carried := rfl
@[simp] theorem Hw.setReg_flits (h : Hw) (a : Nat) (w : Word) : (h.setReg a w).flits = h.flits := rfl
@[simp] theorem Hw.setReg_flitId (h : Hw) (a : Nat) (w : Word) : (h.setReg a w).flitId = h.flitId := rfl
@[simp] theorem Hw.setReg_posts (h : Hw) (a : Nat) (w : Word) : (h.setReg a w).posts = h.posts := rfl
@[simp] theorem Hw.setReg_awayQ (h : Hw) (a : Nat) (w : Word) : (h.setReg a w).awayQ = h.awayQ := rfl
@[simp] theorem Hw.setReg_portSnoops (h : Hw) (a : Nat) (w : Word) : (h.setReg a w).portSnoops = h.portSnoops := rfl
@[simp] theorem Hw.setReg_meshCycles (h : Hw) (a : Nat) (w : Word) : (h.setReg a w).meshCycles = h.meshCycles := rfl
@[simp] theorem Hw.setReg_used (h : Hw) (a : Nat) (w : Word) : (h.setReg a w).used = h.used := rfl
@[simp] theorem Hw.setReg_freed (h : Hw) (a : Nat) (w : Word) : (h.setReg a w).freed = h.freed := rfl
@[simp] theorem Hw.setReg_rrPtr (h : Hw) (a : Nat) (w : Word) : (h.setReg a w).rrPtr = h.rrPtr := rfl
@[simp] theorem Hw.setReg_throttle (h : Hw) (a : Nat) (w : Word) : (h.setReg a w).throttle = h.throttle := rfl
@[simp] theorem Hw.setReg_frames (h : Hw) (a : Nat) (w : Word) : (h.setReg a w).frames = h.frames := rfl
@[simp] theorem Hw.setReg_resvs (h : Hw) (a : Nat) (w : Word) : (h.setReg a w).resvs = h.resvs := rfl
@[simp] theorem Hw.setReg_gens (h : Hw) (a : Nat) (w : Word) : (h.setReg a w).gens = h.gens := rfl
@[simp] theorem Hw.setReg_admQ (h : Hw) (a : Nat) (w : Word) : (h.setReg a w).admQ = h.admQ := rfl
@[simp] theorem Hw.setReg_resvCount (h : Hw) (a : Nat) (w : Word) : (h.setReg a w).resvCount = h.resvCount := rfl
@[simp] theorem Hw.setReg_bin (h : Hw) (a : Nat) (w : Word) : (h.setReg a w).bin = h.bin := rfl
@[simp] theorem Hw.setReg_swdt (h : Hw) (a : Nat) (w : Word) : (h.setReg a w).swdt = h.swdt := rfl
@[simp] theorem Hw.setReg_swdtOn (h : Hw) (a : Nat) (w : Word) : (h.setReg a w).swdtOn = h.swdtOn := rfl
@[simp] theorem Hw.setReg_wdFire (h : Hw) (a : Nat) (w : Word) : (h.setReg a w).wdFire = h.wdFire := rfl
@[simp] theorem Hw.setReg_wired (h : Hw) (a : Nat) (w : Word) : (h.setReg a w).wired = h.wired := rfl
@[simp] theorem Hw.setReg_dirMem (h : Hw) (a : Nat) (w : Word) : (h.setReg a w).dirMem = h.dirMem := rfl
@[simp] theorem Hw.setReg_links (h : Hw) (a : Nat) (w : Word) : (h.setReg a w).links = h.links := rfl
@[simp] theorem Hw.setReg_linkCfg (h : Hw) (a : Nat) (w : Word) : (h.setReg a w).linkCfg = h.linkCfg := rfl
@[simp] theorem Hw.setReg_perstLeft (h : Hw) (a : Nat) (w : Word) : (h.setReg a w).perstLeft = h.perstLeft := rfl
@[simp] theorem Hw.setReg_lsMap (h : Hw) (a : Nat) (w : Word) : (h.setReg a w).lsMap = h.lsMap := rfl
@[simp] theorem Hw.setReg_gtags (h : Hw) (a : Nat) (w : Word) : (h.setReg a w).gtags = h.gtags := rfl
@[simp] theorem Hw.setReg_ptags (h : Hw) (a : Nat) (w : Word) : (h.setReg a w).ptags = h.ptags := rfl
@[simp] theorem Hw.setReg_mmio (h : Hw) (a : Nat) (w : Word) : (h.setReg a w).mmio = h.mmio := rfl
@[simp] theorem Hw.setReg_slotStat (h : Hw) (a : Nat) (w : Word) : (h.setReg a w).slotStat = h.slotStat := rfl
@[simp] theorem Hw.setReg_banks (h : Hw) (a : Nat) (w : Word) : (h.setReg a w).banks = h.banks := rfl
@[simp] theorem Hw.setReg_lastBank (h : Hw) (a : Nat) (w : Word) : (h.setReg a w).lastBank = h.lastBank := rfl
@[simp] theorem Hw.setReg_patrol (h : Hw) (a : Nat) (w : Word) : (h.setReg a w).patrol = h.patrol := rfl
@[simp] theorem Hw.setReg_repairs (h : Hw) (a : Nat) (w : Word) : (h.setReg a w).repairs = h.repairs := rfl
@[simp] theorem Hw.setReg_lossNext (h : Hw) (a : Nat) (w : Word) : (h.setReg a w).lossNext = h.lossNext := rfl
@[simp] theorem Hw.setReg_dropNew (h : Hw) (a : Nat) (w : Word) : (h.setReg a w).dropNew = h.dropNew := rfl
@[simp] theorem Hw.setReg_hottest (h : Hw) (a : Nat) (w : Word) : (h.setReg a w).hottest = h.hottest := rfl
@[simp] theorem Hw.setReg_badSensor (h : Hw) (a : Nat) (w : Word) : (h.setReg a w).badSensor = h.badSensor := rfl
@[simp] theorem Hw.setReg_badLanes (h : Hw) (a : Nat) (w : Word) : (h.setReg a w).badLanes = h.badLanes := rfl
@[simp] theorem Hw.setReg_under (h : Hw) (a : Nat) (w : Word) : (h.setReg a w).under = h.under := rfl
@[simp] theorem Hw.setReg_router (h : Hw) (a : Nat) (w : Word) : (h.setReg a w).router = h.router := rfl
@[simp] theorem Hw.setReg_rails (h : Hw) (a : Nat) (w : Word) : (h.setReg a w).rails = h.rails := rfl
@[simp] theorem Hw.setReg_temps (h : Hw) (a : Nat) (w : Word) : (h.setReg a w).temps = h.temps := rfl
@[simp] theorem Hw.setReg_tooHot (h : Hw) (a : Nat) (w : Word) : (h.setReg a w).tooHot = h.tooHot := rfl
@[simp] theorem Hw.setReg_limiter (h : Hw) (a : Nat) (w : Word) : (h.setReg a w).limiter = h.limiter := rfl
@[simp] theorem Hw.setReg_pkgCeil (h : Hw) (a : Nat) (w : Word) : (h.setReg a w).pkgCeil = h.pkgCeil := rfl
@[simp] theorem Hw.setReg_trans (h : Hw) (a : Nat) (w : Word) : (h.setReg a w).trans = h.trans := rfl
@[simp] theorem Hw.setReg_dies (h : Hw) (a : Nat) (w : Word) : (h.setReg a w).dies = h.dies := rfl
@[simp] theorem Hw.setReg_pkg (h : Hw) (a : Nat) (w : Word) : (h.setReg a w).pkg = h.pkg := rfl
@[simp] theorem Hw.setReg_blkreq (h : Hw) (a : Nat) (w : Word) : (h.setReg a w).blkreq = h.blkreq := rfl
@[simp] theorem Hw.setReg_deferred (h : Hw) (a : Nat) (w : Word) : (h.setReg a w).deferred = h.deferred := rfl
@[simp] theorem Hw.setReg_hand (h : Hw) (a : Nat) (w : Word) : (h.setReg a w).hand = h.hand := rfl
@[simp] theorem Hw.setReg_keeper (h : Hw) (a : Nat) (w : Word) : (h.setReg a w).keeper = h.keeper := rfl
@[simp] theorem Hw.setReg_tap (h : Hw) (a : Nat) (w : Word) : (h.setReg a w).tap = h.tap := rfl
@[simp] theorem Hw.setReg_pins (h : Hw) (a : Nat) (w : Word) : (h.setReg a w).pins = h.pins := rfl
@[simp] theorem Hw.setReg_off (h : Hw) (a : Nat) (w : Word) : (h.setReg a w).off = h.off := rfl
@[simp] theorem Hw.setReg_bootWait (h : Hw) (a : Nat) (w : Word) : (h.setReg a w).bootWait = h.bootWait := rfl
@[simp] theorem Hw.setReg_maint (h : Hw) (a : Nat) (w : Word) : (h.setReg a w).maint = h.maint := rfl
@[simp] theorem Hw.setReg_mirror (h : Hw) (a : Nat) (w : Word) : (h.setReg a w).mirror = h.mirror := rfl
@[simp] theorem Hw.setReg_mirrorAsked (h : Hw) (a : Nat) (w : Word) : (h.setReg a w).mirrorAsked = h.mirrorAsked := rfl
@[simp] theorem Hw.setReg_cpl (h : Hw) (a : Nat) (w : Word) : (h.setReg a w).cpl = h.cpl := rfl
@[simp] theorem Hw.setReg_time (h : Hw) (a : Nat) (w : Word) : (h.setReg a w).time = h.time := rfl
@[simp] theorem Hw.setReg_fresh (h : Hw) (a : Nat) (w : Word) : (h.setReg a w).fresh = h.fresh := rfl
@[simp] theorem Hw.setReg_thread (h : Hw) (a : Nat) (w : Word) (k : Nat) : (h.setReg a w).thread k = h.thread k := rfl
@[simp] theorem Hw.setReg_core (h : Hw) (a : Nat) (w : Word) (k : Nat) : (h.setReg a w).core k = h.core k := rfl
@[simp] theorem Hw.setReg_chamber (h : Hw) (a : Nat) (w : Word) (k : Nat) : (h.setReg a w).chamber k = h.chamber k := rfl
@[simp] theorem Hw.setReg_slice (h : Hw) (a : Nat) (w : Word) (k : Nat) : (h.setReg a w).slice k = h.slice k := rfl
@[simp] theorem Hw.setReg_mc (h : Hw) (a : Nat) (w : Word) (k : Nat) : (h.setReg a w).mc k = h.mc k := rfl
@[simp] theorem Hw.setReg_inst (h : Hw) (a : Nat) (w : Word) (k : Nat) : (h.setReg a w).inst k = h.inst k := rfl

@[simp] theorem Hw.thread_updThread_same (h : Hw) (t : Nat) (f : Thread → Thread) : (h.updThread t f).thread t = f (h.thread t) := by
  simp [Hw.thread, Hw.updThread]
theorem Hw.thread_updThread_ne (h : Hw) (t : Nat) (f : Thread → Thread) {k : Nat} (hk : k ≠ t) : (h.updThread t f).thread k = h.thread k := by
  simp [Hw.thread, Hw.updThread, supd, sget_sset_ne _ hk]
@[simp] theorem Hw.core_updCore_same (h : Hw) (c : Nat) (f : Core → Core) : (h.updCore c f).core c = f (h.core c) := by
  simp [Hw.core, Hw.updCore]
theorem Hw.core_updCore_ne (h : Hw) (c : Nat) (f : Core → Core) {k : Nat} (hk : k ≠ c) : (h.updCore c f).core k = h.core k := by
  simp [Hw.core, Hw.updCore, supd, sget_sset_ne _ hk]
@[simp] theorem Hw.chamber_updChamber_same (h : Hw) (c : Nat) (f : Chamber → Chamber) : (h.updChamber c f).chamber c = f (h.chamber c) := by
  simp [Hw.chamber, Hw.updChamber]
theorem Hw.chamber_updChamber_ne (h : Hw) (c : Nat) (f : Chamber → Chamber) {k : Nat} (hk : k ≠ c) : (h.updChamber c f).chamber k = h.chamber k := by
  simp [Hw.chamber, Hw.updChamber, supd, sget_sset_ne _ hk]
@[simp] theorem Hw.slice_updSlice_same (h : Hw) (n : Nat) (f : Slice → Slice) : (h.updSlice n f).slice n = f (h.slice n) := by
  simp [Hw.slice, Hw.updSlice]
theorem Hw.slice_updSlice_ne (h : Hw) (n : Nat) (f : Slice → Slice) {k : Nat} (hk : k ≠ n) : (h.updSlice n f).slice k = h.slice k := by
  simp [Hw.slice, Hw.updSlice, supd, sget_sset_ne _ hk]
@[simp] theorem Hw.mc_updMc_same (h : Hw) (m : Nat) (f : Mc → Mc) : (h.updMc m f).mc m = f (h.mc m) := by
  simp [Hw.mc, Hw.updMc]
theorem Hw.mc_updMc_ne (h : Hw) (m : Nat) (f : Mc → Mc) {k : Nat} (hk : k ≠ m) : (h.updMc m f).mc k = h.mc k := by
  simp [Hw.mc, Hw.updMc, supd, sget_sset_ne _ hk]
@[simp] theorem Hw.inst_updInst_same (h : Hw) (i : Nat) (f : Inst → Inst) : (h.updInst i f).inst i = f (h.inst i) := by
  simp [Hw.inst, Hw.updInst]
theorem Hw.inst_updInst_ne (h : Hw) (i : Nat) (f : Inst → Inst) {k : Nat} (hk : k ≠ i) : (h.updInst i f).inst k = h.inst k := by
  simp [Hw.inst, Hw.updInst, supd, sget_sset_ne _ hk]

@[simp] theorem Hw.reg_setReg_same (h : Hw) (a : Nat) (w : Word) : (h.setReg a w).reg a = w := by simp [Hw.reg, Hw.setReg]
theorem Hw.reg_setReg_ne (h : Hw) {a b : Nat} (hb : b ≠ a) (w : Word) : (h.setReg a w).reg b = h.reg b := by
  simp [Hw.reg, Hw.setReg, sfind_sset_ne hb]

/-! The registers of a thread (R7, R36). -/

@[simp] theorem Arch.rg_zero (a : Arch) : a.rg 0 = 0 := rfl
@[simp] theorem Arch.wg_zero (a : Arch) (w : Word) : a.wg 0 w = a := rfl
@[simp] theorem Arch.rm_zero (a : Arch) : a.rm 0 = onesW := rfl
@[simp] theorem Arch.wm_zero (a : Arch) (w : Word) : a.wm 0 w = a := rfl

theorem Arch.rg_wg (a : Arch) (r q : Reg) (w : Word) : (a.wg r w).rg q = if q = r ∧ r ≠ 0 then w else a.rg q := by
  by_cases hr : r = 0
  · subst hr; simp [Arch.wg]
  · simp only [Arch.wg, Arch.rg, ne_eq, hr, not_false_eq_true, and_true, if_false]
    by_cases hq : q = 0
    · rw [if_pos hq, if_pos hq, if_neg fun e => hr (e.symm.trans hq)]
    · rw [if_neg hq, if_neg hq]
      by_cases e : q = r
      · subst e; simp
      · rw [if_neg e, sget_sset_ne _ fun x => e (BitVec.eq_of_toNat_eq x)]

@[simp] theorem Arch.rv_wv_same (a : Arch) (r : Reg) (w : Vec) : (a.wv r w).rv r = w := by simp [Arch.rv, Arch.wv]
@[simp] theorem Arch.setCr_crAt_same (a : Arch) (k : Nat) (w : Word) : (a.setCr k w).crAt k = w := by simp [Arch.crAt, Arch.setCr]
theorem Arch.setCr_crAt_ne (a : Arch) {k n : Nat} (h : n ≠ k) (w : Word) : (a.setCr k w).crAt n = a.crAt n := by
  simp [Arch.crAt, Arch.setCr, sget_sset_ne _ h]

end Sys2Proof.Machine
end

