-- ==== Sys2Proof/Laws/Issue.lean ====
section
/-! SUPPORT. What completion and the forms of integer instructions do to a thread (R57, R90, R106, R114): one lemma per shared
operation. -/

namespace Sys2Proof.Machine

open Sys2Proof.Safety

theorem sset_sset {α : Type} (k : Nat) (v w : α) (m : SMap α) : sset k w (sset k v m) = sset k w m := by
  induction m with
  | nil => simp [sset]
  | cons p r ih =>
    obtain ⟨j, x⟩ := p
    simp only [sset]
    split
    · simp [sset]
    · split
      · rename_i h1 h2; subst h2; simp [sset]
      · rename_i h1 h2; simp [sset, h1, h2, ih]

theorem Hw.updThread_updThread (h : Hw) (t : Nat) (f g : Thread → Thread) :
    (h.updThread t f).updThread t g = h.updThread t fun x => g (f x) := by
  simp [Hw.updThread, supd, sset_sset]

@[simp] theorem Arch.wg_crAt (a : Arch) (r : Reg) (w : Word) (k : Nat) : (a.wg r w).crAt k = a.crAt k := by
  unfold Arch.wg; split <;> rfl
@[simp] theorem Arch.wg_pc (a : Arch) (r : Reg) (w : Word) : (a.wg r w).pc = a.pc := by unfold Arch.wg; split <;> rfl
@[simp] theorem Arch.wg_v (a : Arch) (r : Reg) (w : Word) : (a.wg r w).v = a.v := by unfold Arch.wg; split <;> rfl
@[simp] theorem Arch.wg_m (a : Arch) (r : Reg) (w : Word) : (a.wg r w).m = a.m := by unfold Arch.wg; split <;> rfl
@[simp] theorem Arch.wg_level (a : Arch) (r : Reg) (w : Word) : (a.wg r w).level = a.level := by unfold Arch.wg; split <;> rfl
@[simp] theorem Arch.wg_secure (a : Arch) (r : Reg) (w : Word) : (a.wg r w).secure = a.secure := by unfold Arch.wg; split <;> rfl
@[simp] theorem Arch.wg_ctx (a : Arch) (r : Reg) (w : Word) : (a.wg r w).ctx = a.ctx := by unfold Arch.wg; split <;> rfl
@[simp] theorem Arch.wg_setCr (a : Arch) (r : Reg) (w v : Word) (k : Nat) : (a.wg r w).setCr k v = (a.setCr k v).wg r w := by
  unfold Arch.wg; split <;> rfl
@[simp] theorem Arch.setCr_rg (a : Arch) (k : Nat) (w : Word) (r : Reg) : (a.setCr k w).rg r = a.rg r := rfl
@[simp] theorem Arch.setCr_pc (a : Arch) (k : Nat) (w : Word) : (a.setCr k w).pc = a.pc := rfl
@[simp] theorem Arch.setCr_v (a : Arch) (k : Nat) (w : Word) : (a.setCr k w).v = a.v := rfl
@[simp] theorem Arch.setCr_m (a : Arch) (k : Nat) (w : Word) : (a.setCr k w).m = a.m := rfl
@[simp] theorem Arch.setCr_level (a : Arch) (k : Nat) (w : Word) : (a.setCr k w).level = a.level := rfl
@[simp] theorem Arch.setCr_secure (a : Arch) (k : Nat) (w : Word) : (a.setCr k w).secure = a.secure := rfl
@[simp] theorem Arch.setCr_ctx (a : Arch) (k : Nat) (w : Word) : (a.setCr k w).ctx = a.ctx := rfl

/-- The end test moves the pc and counts LOOP_COUNT down; it changes nothing else (R57). -/
theorem Arch.endTest_eq (a : Arch) :
    a.endTest = if countAfter a = a.crAt 1 then { a with pc := pcAfter a } else { a.setCr 1 (countAfter a) with pc := pcAfter a } := by
  unfold Arch.endTest pcAfter countAfter
  by_cases h1 : a.crAt 1 ≠ 0 ∧ a.pc = a.crAt 3
  · have hne : a.crAt 1 - 1 ≠ a.crAt 1 := by
      intro e
      have h3 : (a.crAt 1 - 1).toNat = (a.crAt 1).toNat := by rw [e]
      rw [BitVec.toNat_sub] at h3
      have h4 := (a.crAt 1).isLt
      have h5 : (1 : Word).toNat = 1 := rfl
      omega
    rw [if_pos h1, if_pos h1, if_neg hne]
    by_cases h2 : 1 < (a.crAt 1).toNat
    · rw [if_pos h2, if_pos ⟨h1.1, h1.2, h2⟩]
    · rw [if_neg h2, if_neg fun e => h2 e.2.2]
      have h3 : a.crAt 1 = 1 := by
        apply BitVec.eq_of_toNat_eq
        have h4 : (a.crAt 1).toNat ≠ 0 := fun e => h1.1 (BitVec.eq_of_toNat_eq e)
        show _ = 1
        omega
      simp [h3]
  · have h2 : ¬(a.crAt 1 ≠ 0 ∧ a.pc = a.crAt 3 ∧ 1 < (a.crAt 1).toNat) := fun e => h1 ⟨e.1, e.2.1⟩
    simp only [if_neg h1, if_neg h2, if_true]

theorem Arch.endTest_pc (a : Arch) : a.endTest.pc = pcAfter a := by rw [Arch.endTest_eq]; split <;> rfl
theorem Arch.endTest_count (a : Arch) : a.endTest.crAt 1 = countAfter a := by
  rw [Arch.endTest_eq]
  split
  · rename_i h; rw [h]; rfl
  · exact Arch.setCr_crAt_same _ _ _
theorem Arch.endTest_crAt (a : Arch) {k : Nat} (h : k ≠ 1) : a.endTest.crAt k = a.crAt k := by
  rw [Arch.endTest_eq]
  split
  · rfl
  · exact Arch.setCr_crAt_ne _ h _
theorem Arch.endTest_keeps (a : Arch) : a.endTest.g = a.g ∧ a.endTest.v = a.v ∧ a.endTest.m = a.m ∧ a.endTest.level = a.level ∧
    a.endTest.secure = a.secure ∧ a.endTest.ctx = a.ctx := by
  rw [Arch.endTest_eq]; split <;> exact ⟨rfl, rfl, rfl, rfl, rfl, rfl⟩
@[simp] theorem Arch.endTest_rg (a : Arch) (r : Reg) : a.endTest.rg r = a.rg r := by
  unfold Arch.rg; rw [a.endTest_keeps.1]

/-- The registers of a thread whose instruction completes. -/
def Arch.done (a : Arch) (n : Next) : Arch :=
  let a1 := a.setCr 0x011 (a.crAt 0x011 + 1)
  match n with
  | .seq => a1.endTest
  | .noTest => { a1 with pc := a1.pc + 4 }
  | .to p => { a1 with pc := p }

/-- A thread whose instruction completes. -/
def Thread.done (x : Thread) (n : Next) : Thread :=
  { x with a := x.a.done n, f := x.f.advance (x.a.done n) x.a.pc, b := { x.b with walkEnds := [], ext := [] } }

/-- The secure watchdog's two fields replaced. -/
def Hw.watch (h : Hw) (on : Bool) (w : Nat) : Hw := { h with swdtOn := on, swdt := w }

@[simp] theorem Hw.watch_thread (h : Hw) (on : Bool) (w k : Nat) : (h.watch on w).thread k = h.thread k := rfl

/-- Completion changes one thread, and may start the secure watchdog. -/
theorem Hw.complete_eq (h : Hw) (t : Nat) (n : Next) :
    ∃ on w, h.complete t n = (h.updThread t fun x => x.done n).watch on w := by
  have e : h.updThread t (fun x => x.done n) = h.updThread t (fun _ => (h.thread t).done n) := rfl
  rw [e]
  unfold Hw.complete
  simp only
  split
  · exact ⟨_, _, rfl⟩
  · exact ⟨h.swdtOn, h.swdt, rfl⟩

theorem Hw.complete_thread (h : Hw) (t : Nat) (n : Next) : (h.complete t n).thread t = (h.thread t).done n := by
  obtain ⟨on, w, e⟩ := h.complete_eq t n
  rw [e, Hw.watch_thread, Hw.thread_updThread_same]

@[simp] theorem Hw.complete_arch (h : Hw) (t : Nat) (n : Next) : ((h.complete t n).thread t).a = (h.thread t).a.done n := by
  rw [Hw.complete_thread]; rfl

theorem Hw.complete_other (h : Hw) {t k : Nat} (hk : k ≠ t) (n : Next) : (h.complete t n).thread k = h.thread k := by
  obtain ⟨on, w, e⟩ := h.complete_eq t n
  rw [e, Hw.watch_thread, Hw.thread_updThread_ne h t _ hk]

/-- What a completed instruction that only wrote general register rd leaves: see `IntegerDone`. -/
theorem Arch.done_wg (a : Arch) (rd : Reg) (w : Word) :
    WritesG a ((a.wg rd w).done .seq) rd w ∧ ((a.wg rd w).done .seq).pc = pcAfter a ∧
      ((a.wg rd w).done .seq).crAt 1 = countAfter a ∧ KeepsRest a ((a.wg rd w).done .seq) := by
  have k := (((a.wg rd w).setCr 0x011 ((a.wg rd w).crAt 0x011 + 1)).endTest_keeps)
  refine ⟨⟨?_, ?_⟩, ?_, ?_, ?_⟩
  · show (Arch.endTest _).rg rd = _
    rw [Arch.endTest_rg, Arch.setCr_rg, Arch.rg_wg]
    by_cases h : rd = 0
    · subst h; rfl
    · rw [if_pos ⟨rfl, h⟩, if_neg h]
  · intro r hr
    show (Arch.endTest _).rg r = _
    rw [Arch.endTest_rg, Arch.setCr_rg, Arch.rg_wg, if_neg fun e => hr e.1]
  · show (Arch.endTest _).pc = _
    rw [Arch.endTest_pc]
    unfold pcAfter
    simp [Arch.setCr_crAt_ne]
  · show (Arch.endTest _).crAt 1 = _
    rw [Arch.endTest_count]
    unfold countAfter
    simp [Arch.setCr_crAt_ne]
  · refine ⟨?_, ?_, ?_, ?_, ?_, ?_, ?_⟩
    · exact k.2.1.trans (by simp)
    · exact k.2.2.1.trans (by simp)
    · exact k.2.2.2.1.trans (by simp)
    · exact k.2.2.2.2.1.trans (by simp)
    · exact k.2.2.2.2.2.trans (by simp)
    · intro i h1 h2
      exact (Arch.endTest_crAt _ h1).trans (by rw [Arch.setCr_crAt_ne _ h2, Arch.wg_crAt])
    · exact (Arch.endTest_crAt _ (by decide)).trans (by simp)

/-- An integer instruction that is ready (R37): all that it does. -/
theorem Hw.intOp_done (t : Nat) (srcs : List Reg) (rd : Reg) (f : Arch → Word) (s : State)
    (hr : s.hw.ready t (srcs.map destG) .int = true) :
    IntegerDone t rd (f (s.hw.thread t).a) s { s with hw := s.hw.intOp t srcs rd f } := by
  have e : s.hw.intOp t srcs rd f = (s.hw.writeG t rd (f (s.hw.thread t).a)).complete t .seq := by
    unfold Hw.intOp; rw [if_pos hr]
  have ha : ((s.hw.writeG t rd (f (s.hw.thread t).a)).thread t).a = (s.hw.thread t).a.wg rd (f (s.hw.thread t).a) :=
    congrArg Thread.a (Hw.thread_updThread_same s.hw t _)
  have d := Arch.done_wg (s.hw.thread t).a rd (f (s.hw.thread t).a)
  rw [← ha, ← Hw.complete_arch, ← e] at d
  refine ⟨⟨rfl, rfl, ?_⟩, d⟩
  obtain ⟨on, w, hc⟩ := (s.hw.writeG t rd (f (s.hw.thread t).a)).complete_eq t .seq
  show ∃ x on w, s.hw.intOp t srcs rd f = _
  rw [e, hc]
  unfold Hw.writeG
  rw [Hw.updThread_updThread]
  exact ⟨_, on, w, rfl⟩

end Sys2Proof.Machine
end

