-- ==== Sys2Proof/Laws/Mem.lean ====
section
/-! SUPPORT. Memory: its canonical form, reading after writing, and that every write keeps the form. -/

namespace Sys2Proof.Machine

/-- The canonical form as a statement about the list's pairs. -/
theorem Memory.wf_iff (m : List Host.Cell) :
    Memory.wf m = true ↔ m.Pairwise (fun p q => p.1 < q.1) ∧ ∀ p ∈ m, p.2 ≠ 0 := by
  induction m with
  | nil => simp [Memory.wf]
  | cons p r ih =>
    obtain ⟨j, b⟩ := p
    cases r with
    | nil => simp [Memory.wf]
    | cons q r =>
      obtain ⟨k, c⟩ := q
      simp only [Memory.wf, Bool.and_eq_true, bne_iff_ne, decide_eq_true_eq, ih]
      constructor
      · rintro ⟨⟨hb, hjk⟩, hp, hz⟩
        refine ⟨List.Pairwise.cons ?_ hp, ?_⟩
        · intro x hx
          rcases List.mem_cons.1 hx with rfl | hx
          · exact hjk
          · exact lt_trans hjk ((List.pairwise_cons.1 hp).1 x hx)
        · intro x hx
          rcases List.mem_cons.1 hx with rfl | hx
          · exact hb
          · exact hz x hx
      · rintro ⟨hp, hz⟩
        have hp' := List.pairwise_cons.1 hp
        exact ⟨⟨hz (j, b) (by simp), hp'.1 (k, c) (by simp)⟩, hp'.2, fun x hx => hz x (List.mem_cons_of_mem _ hx)⟩

@[simp] theorem Memory.wf_nil : Memory.wf [] = true := rfl

/-- Every address of a memory with a byte stored was there before or is the one stored to. -/
theorem mem_memSet {a : Nat} {v : Byte} {m : List Host.Cell} {x : Host.Cell} (h : x ∈ memSet a v m) :
    x ∈ m ∨ (x = (a, v) ∧ v ≠ 0) := by
  induction m with
  | nil => simp only [memSet] at h; split at h <;> simp_all
  | cons p r ih =>
    obtain ⟨j, b⟩ := p
    simp only [memSet] at h
    split at h
    · split at h <;> simp_all
      tauto
    · split at h
      · split at h <;> simp_all
        tauto
      · rcases List.mem_cons.1 h with rfl | h
        · simp
        · rcases ih h with h | h
          · exact .inl (List.mem_cons_of_mem _ h)
          · exact .inr h

/-- Storing a byte keeps the canonical form. -/
theorem Memory.wf_memSet {a : Nat} {v : Byte} {m : List Host.Cell} (h : Memory.wf m = true) :
    Memory.wf (memSet a v m) = true := by
  rw [Memory.wf_iff] at *
  refine ⟨?_, ?_⟩
  · obtain ⟨hp, -⟩ := h
    induction m with
    | nil => simp only [memSet]; split <;> simp
    | cons p r ih =>
      obtain ⟨j, b⟩ := p
      have hp' := List.pairwise_cons.1 hp
      simp only [memSet]
      split
      · split
        · exact hp
        · refine List.Pairwise.cons ?_ hp
          intro x hx
          rcases List.mem_cons.1 hx with rfl | hx
          · assumption
          · exact lt_trans (by assumption) (hp'.1 x hx)
      · split
        · split
          · exact hp'.2
          · rename_i h1 h2 h3; subst h2; exact List.Pairwise.cons hp'.1 hp'.2
        · refine List.Pairwise.cons ?_ (ih hp'.2)
          intro x hx
          rcases mem_memSet hx with hx | ⟨rfl, -⟩
          · exact hp'.1 x hx
          · show j < a; omega
  · intro x hx
    rcases mem_memSet hx with hx | ⟨rfl, hv⟩
    · exact h.2 x hx
    · exact hv

/-- Storing bytes keeps the canonical form. -/
theorem Memory.wf_memPut {bs : Bytes} {a : Nat} {m : List Host.Cell} (h : Memory.wf m = true) :
    Memory.wf (memPut a bs m) = true := by
  induction bs generalizing a m with
  | nil => exact h
  | cons b r ih => exact ih (Memory.wf_memSet h)

theorem memGet_eq_zero {m : List Host.Cell} {a : Nat} (h : ∀ p ∈ m, p.1 ≠ a) : memGet m a = 0 := by
  induction m with
  | nil => rfl
  | cons p r ih =>
    obtain ⟨j, b⟩ := p
    have := h (j, b) (by simp)
    simp only [memGet, if_neg (Ne.symm this)]
    exact ih fun q hq => h q (List.mem_cons_of_mem _ hq)

/-- Storing a byte leaves every other byte alone. -/
theorem memGet_memSet_ne {a c : Nat} (h : c ≠ a) (v : Byte) (m : List Host.Cell) :
    memGet (memSet a v m) c = memGet m c := by
  induction m with
  | nil => simp only [memSet]; split <;> simp [memGet, h]
  | cons p r ih =>
    obtain ⟨j, b⟩ := p
    simp only [memSet]
    split
    · split <;> simp [memGet, h]
    · split
      · rename_i h1 h2
        subst h2
        split <;> simp [memGet, h]
      · simp only [memGet, ih]

/-- A stored byte reads back. -/
theorem memGet_memSet_same {a : Nat} {v : Byte} {m : List Host.Cell} (hw : Memory.wf m = true) :
    memGet (memSet a v m) a = v := by
  rw [Memory.wf_iff] at hw
  obtain ⟨hp, -⟩ := hw
  induction m with
  | nil => simp only [memSet]; split <;> simp_all [memGet]
  | cons p r ih =>
    obtain ⟨j, b⟩ := p
    have hp' := List.pairwise_cons.1 hp
    simp only [memSet]
    split
    · rename_i h1
      split
      · rename_i hv
        subst hv
        apply memGet_eq_zero
        intro x hx
        rcases List.mem_cons.1 hx with rfl | hx
        · show j ≠ a; omega
        · have h2 : j < x.1 := hp'.1 x hx
          omega
      · simp [memGet]
    · split
      · rename_i h1 h2
        subst h2
        split
        · rename_i hv
          subst hv
          apply memGet_eq_zero
          intro x hx
          have h2 : a < x.1 := hp'.1 x hx
          omega
        · simp [memGet]
      · rename_i h1 h2
        simp only [memGet, if_neg h2]
        exact ih hp'.2

/-- Stored bytes leave every byte outside their range alone. -/
theorem memGet_memPut_ne {bs : Bytes} {a c : Nat} {m : List Host.Cell} (h : c < a ∨ a + bs.length ≤ c) :
    memGet (memPut a bs m) c = memGet m c := by
  induction bs generalizing a m with
  | nil => rfl
  | cons b r ih =>
    simp only [List.length_cons] at h
    rw [memPut, ih (by omega), memGet_memSet_ne (by omega)]

@[simp] theorem leBytes_length (n v : Nat) : (leBytes n v).length = n := by
  induction n generalizing v with
  | zero => rfl
  | succ n ih => simp [leBytes, ih]

@[simp] theorem vbytes_length (v : Vec) (off n : Nat) : (vbytes v off n).length = n := leBytes_length _ _

/-- What a write to the place of a line's newest value can do to memory: nothing, or store the 64 bytes of the line. -/
theorem cohWrite_mem (l : Nat) (data : Vec) (mask : BitVec 64) (p : List Host.Cell × Hw) :
    (cohWrite l data mask p).1 = p.1 ∨ ∃ bs : Bytes, bs.length = 64 ∧ (cohWrite l data mask p).1 = memPut (lineLocal l) bs p.1 := by
  by_cases hn : (sfind l p.2.newest).isSome = true
  · left; unfold cohWrite; rw [if_pos hn]
  · right; exact ⟨vbytes (vmerge (memLine p.1 (lineLocal l)) data mask) 0 64, vbytes_length _ _ _, by unfold cohWrite; rw [if_neg hn]⟩

/-- A write to the place of a line's newest value keeps the canonical form. -/
theorem Memory.wf_cohWrite {l : Nat} {data : Vec} {mask : BitVec 64} {p : List Host.Cell × Hw} (h : Memory.wf p.1 = true) :
    Memory.wf (cohWrite l data mask p).1 = true := by
  rcases cohWrite_mem l data mask p with e | ⟨bs, -, e⟩
  · rw [e]; exact h
  · rw [e]; exact Memory.wf_memPut h

/-- A write to the place of a line's newest value leaves the bytes of every other line alone. -/
theorem memGet_cohWrite {l : Nat} {data : Vec} {mask : BitVec 64} {p : List Host.Cell × Hw} {a : Nat}
    (h : a < lineLocal l ∨ lineLocal l + 64 ≤ a) : memGet (cohWrite l data mask p).1 a = memGet p.1 a := by
  rcases cohWrite_mem l data mask p with e | ⟨bs, hl, e⟩
  · rw [e]
  · rw [e]; exact memGet_memPut_ne (by omega)

end Sys2Proof.Machine
end

