-- ==== Sys2Proof/Tests/Slice0.lean ====
section
/-! SUPPORT. Small checks: decoding words of the spec's formats, ill-formed commands, witnesses for the statements, one-step results. -/

namespace Sys2Proof.Tests

set_option Elab.async false

open Sys2Proof Sys2Proof.Machine Sys2Proof.Safety Sys2Proof.Claims

/-! ### Small states -/

/-- The block after reset with its clocks running, 1 GiB of DDR on channel 0 whose first 256 KiB are the normal
world's, and what a test changes. -/
def dev (f : Hw → Hw) : State :=
  let h := ({ Hw.reset with off := false, bootWait := none }.updMc 0 fun x => { x with capacity := 2 ^ 30 }).setReg (chkReg 0x10008) (w64 (2 ^ 30))
    |>.setReg (chkReg 8) 0x3F000 |>.setReg (chkReg 16) (w64 (2 ^ 63 + 7))
  ⟨f h, [], []⟩

/-- Thread t runs with these registers. -/
def runs (t : Nat) (a : Arch) (h : Hw) : Hw := h.updThread t fun x => { x with a := a, run := .running }

/-- Registers at M with g1, g2 and g3 given. -/
def regs3 (x y z : Word) : Arch := { Arch.reset with pc := 0x1000, g := [(1, x), (2, y), (3, z)] }

/-- The L1D of core c holds a line. -/
def withL1d (c l : Nat) (st : LSt) (h : Hw) : Hw :=
  h.updL1d c fun x => { x with en := true, lines := sset (l % 128 * 8 + l / 128 % 8) ⟨l, st, .normal, 0, false⟩ x.lines }

/-- Core c holds, clean and alone, the lines of the handlers' addresses and of the frames that the tests use. -/
def vectors (c : Nat) (h : Hw) : Hw :=
  [0, 1, 2, 3, 4, 5, 0x80, 0x81].foldl (fun h l => withL1d c l .e h) h

/-- Thread 0 at M, ready, with its L1D holding line 0 of memory. -/
def t0 (x y z : Word) : State := dev fun h => withL1d 0 0 .m (runs 0 (regs3 x y z) h)

/-- What an access or a decode answers, as a test that the kernel evaluates. -/
def onePiece (x : X2) (pa : Word) (mt : MemType) (tg : Target) (n : Nat) : Bool :=
  match x with
  | .ok [p] => decide (p.pa = pa ∧ p.mt = mt ∧ p.tg = tg ∧ p.len = n ∧ p.off = 0)
  | _ => false

theorem x2_of {x : X2} {pa : Word} {mt : MemType} {tg : Target} {n : Nat} (h : onePiece x pa mt tg n = true) : x = .ok [⟨pa, mt, tg, n, 0⟩] := by
  unfold onePiece at h
  split at h
  · rename_i p; obtain ⟨a, b, c, d, e⟩ := p; simp_all
  · cases h

def answersOk {ε α : Type} [DecidableEq α] (x : Except ε α) (a : α) : Bool :=
  match x with
  | .ok y => decide (y = a)
  | .error _ => false

theorem ok_of {ε α : Type} [DecidableEq α] {x : Except ε α} {a : α} (h : answersOk x a = true) : x = .ok a := by
  cases x <;> simp_all [answersOk]

def echkOk {α β : Type} [DecidableEq β] (x : EChk α) (f : α → β) (b : β) : Bool :=
  match x with
  | .ok y => decide (f y = b)
  | _ => false

theorem echk_of {α β : Type} [DecidableEq β] {x : EChk α} {f : α → β} {b : β} (h : echkOk x f b = true) : ∃ y, x = .ok y ∧ f y = b := by
  cases x <;> simp_all [echkOk]

/-- Whether the conditions of an entry hold. -/
def entryTest (t : Nat) (x : Level) (c : Cause) (s : State) (pa : Word) (mt : MemType) (entry : Word) : Bool :=
  let h := s.hw.applyCtx t
  let a := (h.thread t).a
  let acc : Acc := ⟨x, entryWorld x a.secure, 0⟩
  decide (a.geode = 0) &&
    echkOk (frameChk s.mem h t acc .push 0 (a.crAt (lvlKey x acc.secure 2) - 64)) (fun r => (r.1, r.2.1)) (pa, mt) &&
    echkOk (handlerRead s.mem h t acc (a.crAt (lvlKey x acc.secure 1) + w64 (8 * c.code))) id entry &&
    decide ((h.thread t).b.sb.length < 16) && decide ((h.thread t).b.vstWait = [])

theorem entry_of {t : Nat} {x : Level} {c : Cause} {s : State} {pa : Word} {mt : MemType} {entry : Word}
    (h : entryTest t x c s pa mt entry = true) : EntryOpen t x c s pa mt entry := by
  simp only [entryTest, Bool.and_eq_true, decide_eq_true_eq] at h
  obtain ⟨⟨p, m, tg⟩, k, e⟩ := echk_of h.1.1.1.2
  obtain ⟨w, k2, rfl⟩ := echk_of h.1.1.2
  cases e
  exact ⟨h.1.1.1.1, ⟨tg, k⟩, k2, h.1.2, h.2⟩

/-- Registers at a level and world, with g1 to g3 and the stack pointers of every level at 0x2040. -/
def regsAt (l : Level) (sec : Bool) (x y z : Word) : Arch :=
  { regs3 x y z with level := l, secure := sec, cr := [(0x402, 0x2040), (0x802, 0x2040), (0xC02, 0x2040), (0x1402, 0x2040)] }

/-- Thread 0 at a level and world. -/
def at_ (l : Level) (sec : Bool) (x y z : Word) : State := dev fun h => vectors 0 (runs 0 (regsAt l sec x y z) h)

/-! ### Witnesses: integer, memory and atomic instructions -/

theorem witness_StepRunsFrontCommand :
    ({ t0 0 0 0 with pending := [.bypass, .idcode] } : State).pending = .bypass :: [.idcode] := rfl

theorem witness_CommandsKeepQueue : ∃ u, exec .bypass (t0 0 0 0) = .next u := ⟨_, rfl⟩

theorem witness_IntegerResults :
    (t0 8 2 3).hw.off = false ∧ (t0 8 2 3).hw.ready 0 [destG 1, destG 2] .int = true ∧ (t0 8 2 3).hw.ready 0 [destG 31] .int = true ∧
      (t0 8 2 3).hw.ready 0 [] .int = true := by decide +kernel

theorem witness_DivisionResults : (t0 8 2 3).hw.ready 0 [destG 1, destG 2] .div = true := by decide +kernel

/-- Thread 0 with a finished long operation that owns g31. -/
def longDone : State := dev fun h => (runs 0 (regs3 8 2 3) h).updThread 0 fun x =>
  { x with b := { x.b with longs := [⟨7, .load, .g 31, true, 5, 0, false, 8, false, [], none, false, false, ⟨.m, true, 0⟩, false⟩], owed := [(.g 31, 7)], nextId := 8 } }

theorem witness_DivisionResults_writeback :
    (((longDone.hw.thread 0).b.longs.find? fun o => o.id == 7 && o.ready).map (·.val)) = some 5 := by decide +kernel

theorem memory_ddr : IsMemory .ddr := ⟨by decide, by decide, by intro k; simp⟩

theorem held_zero (x y z : Word) : HeldL1d 0 0 ((t0 x y z).hw.thread 0).acc (t0 x y z).hw := ⟨rfl, ⟨0, .m, .normal, 0, false⟩, rfl, rfl, rfl⟩

theorem hits {acc : Access} {n : Nat} (h : onePiece (x2Scalar (t0 56 2 3).mem (t0 56 2 3).hw 0 acc 56 n) 56 .wb .ddr n = true) (hn : n ≤ 8) :
    HitsL1d 0 acc 56 n (t0 56 2 3) 56 :=
  have e : (56 : Word).toNat = 56 := rfl
  have q : ((t0 56#64 2#64 3#64).hw.thread 0).b.longs = [] := rfl
  ⟨⟨.ddr, x2_of h, memory_ddr⟩, by omega, by decide +kernel, by decide +kernel,
    ⟨by decide +kernel, by simp [Back.pendingOn, q], by simp [q]⟩, held_zero 56 2 3⟩

theorem witness_LoadsDeliverNewestBytes : (t0 56 2 3).hw.ready 0 [destG 1] .mem = true ∧ HitsL1d 0 .load 56 8 (t0 56 2 3) 56 ∧
    HitsL1d 0 .load 56 1 (t0 56 2 3) 56 ∧ (t0 56 2 3).hw.releaseOut 0 ((t0 56 2 3).hw.nextLong 0) = false :=
  ⟨by decide +kernel, hits (by decide +kernel) (by decide), hits (by decide +kernel) (by decide), by decide +kernel⟩

theorem witness_StoresEnterBuffer : (t0 56 2 3).hw.ready 0 [destG 2, destG 1] .mem = true ∧
    ((t0 56 2 3).hw.thread 0).b.deviceWaits .wb = false ∧ ((t0 56 2 3).hw.thread 0).b.sb.length < 16 ∧
    x2Scalar (t0 56 2 3).mem (t0 56 2 3).hw 0 .store 56 8 = .ok [⟨56, .wb, .ddr, 8, 0⟩] :=
  ⟨by decide +kernel, by decide +kernel, by decide +kernel, x2_of (by decide +kernel)⟩

theorem witness_LocalAtomicsReadModifyWrite : AtomicOpen 0 1 8 true true (t0 56 2 3) 56 ∧
    (t0 56 2 3).hw.ready 0 [destG 1, destG 2, destG 3] .mem = true ∧
    ∃ tg, x2All (t0 56 2 3).mem (t0 56 2 3).hw 0 ⟨.casLoad, 8, false, false, true, false⟩ [(56, 8, 0)] = .ok [⟨56, .wb, tg, 8, 0⟩] :=
  ⟨⟨⟨.ddr, x2_of (by decide +kernel)⟩, by decide +kernel, by decide, by decide +kernel,
    fun _ => ⟨by decide +kernel, by decide +kernel⟩, fun _ => by decide +kernel, by decide +kernel, by decide +kernel, by decide +kernel,
    by decide +kernel, by decide +kernel⟩, by decide +kernel, .ddr, x2_of (by decide +kernel)⟩

/-! ### Witnesses: control flow, exceptions, control registers, geodes -/

theorem witness_BranchesAndJumps : (t0 8 2 3).hw.ready 0 [destG 1, destG 2] .mem = true ∧ (t0 8 2 3).hw.ready 0 [] .mem = true ∧
    (BitVec.ofInt 64 ((((t0 8 2 3).hw.thread 0).a.rg 1).toInt + (4#14).toInt)).toNat % 4 = 0 := by decide +kernel

theorem witness_BranchesAndJumps_misaligned : (at_ .m true 2 2 3).hw.ready 0 [destG 1] .mem = true ∧
    EntryOpen 0 .m ⟨1, 0, 2, 0x1000⟩ (at_ .m true 2 2 3) 0x2000 .wb 0 := ⟨by decide +kernel, entry_of (by decide +kernel)⟩

theorem witness_LoopsAndFences : (at_ .s false 9 0 0).hw.ready 0 [] .solo = true ∧ (1 : BitVec 5).toNat ≤ (1 : BitVec 11).toNat ∧
    ((at_ .s false 9 0 0).hw.thread 0).a.rg 1 ≠ 0 ∧ ((at_ .s false 9 0 0).hw.thread 0).a.rg 2 = 0 ∧
    (at_ .s false 9 0 0).hw.fenceDone 0 15 = true ∧ (at_ .s false 9 0 0).hw.storesDone 0 = true ∧ (at_ .s false 9 0 0).hw.cleanOver 0 = true := by decide +kernel

/-- Thread 0 of t0 with a store in its buffer. -/
def storeWaits : State := dev fun h => (runs 0 (regsAt .m true 0 0 0) h).updThread 0 fun x =>
  { x with b := { x.b with sb := [⟨0, 0, .wb, 5, 1, false, .store, ⟨.m, true, 0⟩, some .ddr, 0⟩] } }

theorem witness_LoopsAndFences_held : storeWaits.hw.ready 0 [] .solo = true ∧ storeWaits.hw.fenceDone 0 4 = false ∧
    storeWaits.hw.storesDone 0 = false := by decide +kernel

theorem witness_WaitsAndHeldSolos : (at_ .s true 0 0 0).hw.ready 0 [] .solo = true ∧ ((at_ .s true 0 0 0).hw.thread 0).a.level ≠ .u ∧
    ((at_ .s true 0 0 0).hw.thread 0).a.secure = true := by decide +kernel

/-- Thread 0 at normal S with WTRAP of H. -/
def wtrap : State := dev fun h => vectors 0 (runs 0 { regsAt .s false 0 0 0 with cr := [(0x802, 0x2040), (0x807, 4)] } h)

theorem witness_WaitsAndHeldSolos_trap : wtrap.hw.ready 0 [] .solo = true ∧ ((wtrap.hw.thread 0).a.crAt 0x807).getLsbD 2 = true ∧
    EntryOpen 0 .h ⟨16, 0, 0, 0x1000⟩ wtrap 0x2000 .wb 0 := ⟨by decide +kernel, by decide +kernel, entry_of (by decide +kernel)⟩

/-- Thread 0 waits at normal S; its timer is due, and its interrupts are not enabled. -/
def waits : State := dev fun h => (runs 0 { regsAt .s false 0 0 0 with cr := [(0x405, 0)] } h).updThread 0 fun x => { x with run := .waiting .s false }

theorem witness_WaitsAndHeldSolos_resume : (waits.hw.thread 0).run = .waiting .s false ∧ waits.hw.pendingInts 0 ≠ [] ∧
    waits.hw.threadUp 0 = true ∧ waits.hw.takable 0 = [] := by decide +kernel

/-- Thread 0 holds a fence that can issue. -/
def heldFence : State := dev fun h => (runs 0 (regsAt .m true 0 0 0) h).updThread 0 fun x => { x with b := { x.b with solo := some (.fence 0 15 15) } }

theorem witness_WaitsAndHeldSolos_release : (heldFence.hw.thread 0).b.solo = some (.fence 0 15 15) ∧
    heldFence.hw.threadUp 0 = true ∧ heldFence.hw.fenceDone 0 15 = true := by decide +kernel

theorem witness_ControlRegisterAccess : (at_ .m true 5 0 0).hw.ready 0 [] .solo = true ∧ ((at_ .m true 5 0 0).hw.thread 0).a.crOk 0 = true ∧
    ((at_ .m true 5 0 0).hw.thread 0).b.vecDone = true ∧ ((at_ .m true 5 0 0).hw.thread 0).a.crOk 0xC05 = true ∧
    ((at_ .m true 5 0 0).hw.thread 0).a.crOk 0x400 = true ∧ (at_ .u false 0 0 0).hw.ready 0 [] .solo = true ∧
    ((at_ .u false 0 0 0).hw.thread 0).a.crOk 0x400 = false := by decide +kernel

theorem witness_ControlRegisterAccess_above : EntryOpen 0 .s ⟨0, 0, 0, 0x1000⟩ (at_ .u false 0 0 0) 0x2000 .wb 0 := entry_of (by decide +kernel)

theorem witness_CallsAndExceptionEntry :
    (let s := at_ .u false 0 0 0; EntryOpen 0 .s ⟨11, 0, 0, 0x1004⟩ s 0x2000 .wb 0) ∧
    (let s := at_ .s false 0 0 0; EntryOpen 0 .h ⟨12, 0, 0, 0x1004⟩ s 0x2000 .wb 0) ∧
    (let s := at_ .h false 0 0 0; EntryOpen 0 .m ⟨13, 0, 0, 0x1004⟩ s 0x2000 .wb 0) ∧
    insnDecode 0 0#32 = none :=
  ⟨entry_of (by decide +kernel), entry_of (by decide +kernel), entry_of (by decide +kernel), by decide +kernel⟩

/-- Thread 0 at normal S with its timer due and interrupts enabled. -/
def timerDue : State := dev fun h => vectors 0 (runs 0 { regsAt .s false 0 0 0 with cr := [(0x400, 2), (0x402, 0x2040), (0x405, 0)] } h)

theorem witness_CallsAndExceptionEntry_interrupt : (timerDue.hw.takable 0).head? = some (.s, false, 33) ∧ timerDue.hw.threadUp 0 = true ∧
    (timerDue.hw.thread 0).b.tlbi = none ∧ (timerDue.hw.thread 0).b.solo = none ∧ (timerDue.hw.thread 0).run = .running ∧ EntryOpen 0 .s ⟨33, 0, 0, 0x1000⟩ timerDue 0x2000 .wb 0 :=
  ⟨by decide +kernel, by decide +kernel, by decide +kernel, by decide +kernel, by decide +kernel, entry_of (by decide +kernel)⟩

/-- What a translation answers, as a test that the kernel evaluates. -/
def xltOk (x : Xlt) (pa : Word) (mt : MemType) : Bool :=
  match x with
  | .ok p m _ => decide (p = pa ∧ m = mt)
  | _ => false

theorem xlt_of {x : Xlt} {pa : Word} {mt : MemType} (h : xltOk x pa mt = true) : ∃ e, x = .ok pa mt e := by
  cases x <;> simp_all [xltOk]

/-- M returns to U of its world: an empty frame at 0x2040. -/
theorem witness_ReturnsAndGeodes : (at_ .m true 0 0 0).hw.ready 0 [] .solo = true ∧ FrameHeld 0 0x2040 0x2040 (at_ .m true 0 0 0) ∧
    (let s := at_ .m true 0 0 0
     lvlOf (Word.fld (vword (ownLine s.mem s.hw 0 0x2040) 1) 10 9) = .u ∧ Word.fld (vword (ownLine s.mem s.hw 0 0x2040) 1) 43 32 = 0) := by
  obtain ⟨e, h⟩ := xlt_of (x := (at_ .m true 0 0 0).hw.xlate (at_ .m true 0 0 0).mem 0 false ((at_ .m true 0 0 0).hw.thread 0).regime .load 0x2040)
    (pa := 0x2040) (mt := .wb) (by decide +kernel)
  exact ⟨by decide +kernel, ⟨.wb, .wb, .ddr, e, h, ok_of (by decide +kernel), memory_ddr, .inl rfl, rfl, by decide +kernel, rfl,
    ⟨0x81, .e, .normal, 0, false⟩, rfl, rfl, rfl⟩, by decide +kernel⟩

/-- The line of geode 1's control block: STATE 2, one slot, entry at 0x3000; the slot that follows it is empty. -/
def gcbLine : Vec := vput 0 0 (leBytes 8 (2 * 2 ^ 61 + 2 ^ 48) ++ leBytes 8 0x3000 ++ leBytes 8 0x3000 ++ leBytes 8 0 ++ leBytes 8 0x5000)

/-- Thread 0 with these registers, and the control block of geode 1 at 0x4040 and the line of its slot alone in the L1D of its core. -/
def geodeReady (a : Arch) : State :=
  let s := dev fun h => withL1d 0 0x140 .m (withL1d 0 0x101 .m ((runs 0 a h).setReg (chkReg 0x20000) 0x4000))
  { s with hw := { s.hw with newest := [(0x101, gcbLine)] } }

/-- What the device reads as the one line there. -/
def lineOk (x : (Hw → Hw) ⊕ List Vec) (v : Vec) : Bool :=
  match x with
  | .inr [w] => decide (w = v)
  | _ => false

theorem line_of {x : (Hw → Hw) ⊕ List Vec} {v : Vec} (h : lineOk x v = true) : x = .inr [v] := by
  unfold lineOk at h
  split at h
  · simp_all
  · cases h

theorem witness_ReturnsAndGeodes_enter : (geodeReady (regsAt .s false 1 0 0)).hw.ready 0 [] .solo = true ∧
    (let s := geodeReady (regsAt .s false 1 0 0)
     LineAt 0 (s.hw.gcb 1) gcbLine s ∧ gcbState gcbLine = 2 ∧ Word.bit (vword gcbLine 5) 63 = false ∧ freeSlot (vword gcbLine 0) = some 0 ∧
     GeodeWritable 0 1 gcbLine (slotPA gcbLine 0) s ∧
     ∃ e, s.hw.xlate s.mem 0 false ⟨⟨.u, false, 0⟩, (s.hw.thread 0).a.ctx⟩ .fetch (vword gcbLine 1) = .ok (vword gcbLine 2) .wb e) ∧
    (let s := geodeReady { regsAt .u false 1 0 0 with cr := [(5, 1)] }
     s.hw.ready 0 [] .solo = true ∧ LineAt 0 (s.hw.gcb 1) gcbLine s ∧ LineAt 0 (slotPA gcbLine 0) 0 s ∧
     GeodeWritable 0 1 gcbLine (slotPA gcbLine 0) s) :=
  ⟨by decide +kernel, ⟨line_of (by decide +kernel), by decide +kernel, by decide +kernel, by decide +kernel, ⟨by decide +kernel, by decide +kernel⟩,
    xlt_of (by decide +kernel)⟩, by decide +kernel, line_of (by decide +kernel), line_of (by decide +kernel), by decide +kernel, by decide +kernel⟩

/-! ### Witnesses: vector instructions -/

/-- Thread 0 at M whose masks m1, m2 and m3 have no, one and two elements; its L1D holds line 0. -/
def vec : State := dev fun h => withL1d 0 0 .m (runs 0 { regs3 0 8 3 with m := [(2, 1), (3, 3)] } h)

theorem witness_VectorIntegerResults : VecOpen 0 ([.v 2, srcB 3 true] ++ underMask 1 2) .long vec ∧
    VecOpen 0 ([.v 2, srcB 3 false] ++ underMask 1 0) .long vec ∧ disabledAt ((at_ .s false 0 0 0).hw.thread 0).a = some .h ∧
    disabledAt ((at_ .s true 0 0 0).hw.thread 0).a = some .m :=
  ⟨⟨by decide +kernel, by decide +kernel, by decide +kernel⟩, ⟨by decide +kernel, by decide +kernel, by decide +kernel⟩, by decide +kernel,
    by decide +kernel⟩

theorem witness_VectorIntegerResults_disabled : (at_ .s false 0 0 0).hw.ready 0 [.v 1, .v 2, .v 3] .long = true ∧
    EntryOpen 0 .h ⟨10, 0, 0, 0x1000⟩ (at_ .s false 0 0 0) 0x2000 .wb 0 := ⟨by decide +kernel, entry_of (by decide +kernel)⟩

theorem witness_VectorFloatResults : VecOpen 0 ([.v 1, .v 2, .v 3] ++ maskSrc 2) .long vec ∧ VecOpen 0 ([.v 2, .v 3] ++ underMask 1 2) .vroot vec ∧
    VecOpen 0 ([.v 2] ++ underMask 1 2) .long vec :=
  ⟨⟨by decide +kernel, by decide +kernel, by decide +kernel⟩, ⟨by decide +kernel, by decide +kernel, by decide +kernel⟩,
    ⟨by decide +kernel, by decide +kernel, by decide +kernel⟩⟩

theorem witness_VectorReductions : VecOpen 0 ([.v 2] ++ maskSrc 1) .long vec ∧
    activeList ((vec.hw.thread 0).a.rv 2) 64 ((vec.hw.thread 0).a.rm 1) = [] ∧
    activeList ((vec.hw.thread 0).a.rv 2) 64 ((vec.hw.thread 0).a.rm 3) = [0, 0] :=
  ⟨⟨by decide +kernel, by decide +kernel, by decide +kernel⟩, by decide +kernel, by decide +kernel⟩

theorem witness_VectorPermutesAndMoves : VecOpen 0 ([.v 2, destG 3] ++ underMask 1 2) .long vec ∧ VecOpen 0 [.v 2, destG 3] .long vec ∧
    VecOpen 0 ([destG 2] ++ underMask 1 2) .long vec ∧ VecOpen 0 [.v 1, destG 2, destG 3] .long vec :=
  ⟨⟨by decide +kernel, by decide +kernel, by decide +kernel⟩, ⟨by decide +kernel, by decide +kernel, by decide +kernel⟩,
    ⟨by decide +kernel, by decide +kernel, by decide +kernel⟩, ⟨by decide +kernel, by decide +kernel, by decide +kernel⟩⟩

theorem witness_VectorMasks : VecOpen 0 ([.v 1, .v 2] ++ maskSrc 2) .long vec ∧ VecOpen 0 [maskDest 7, maskDest 0] .long vec ∧
    VecOpen 0 [destG 3] .long vec :=
  ⟨⟨by decide +kernel, by decide +kernel, by decide +kernel⟩, ⟨by decide +kernel, by decide +kernel, by decide +kernel⟩,
    ⟨by decide +kernel, by decide +kernel, by decide +kernel⟩⟩

theorem element_hits {w : Want} {n off : Nat} (h : (match x2One vec.mem vec.hw 0 w 0 n off with
      | .ok [p] => decide (p.pa = 0 ∧ p.mt = .wb ∧ p.tg = .ddr ∧ p.len = n ∧ p.off = off)
      | _ => false) = true) : ElementHits 0 w 0 n off vec 0 := by
  have q : (vec.hw.thread 0).b.longs = [] := rfl
  refine ⟨⟨.ddr, ?_, memory_ddr⟩, by decide +kernel, by decide +kernel, ⟨by decide +kernel, by simp [Back.pendingOn, q], by simp [q]⟩,
    rfl, ⟨0, .m, .normal, 0, false⟩, rfl, rfl, rfl⟩
  revert h
  split
  · rename_i p hp; obtain ⟨a, b, c, d, e⟩ := p; intro h; simp_all
  · intro h; cases h

theorem witness_VectorMemory : vec.hw.ready 0 ([.v 1, destG 1] ++ maskSrc 0) .memLong = true ∧ vec.hw.ready 0 ([destG 1] ++ underMask 1 0) .memLong = true ∧
    ElementHits 0 ⟨.load, 64, false, true, false, false⟩ 0 64 0 vec 0 ∧ (vec.hw.thread 0).b.sb.length ≤ 14 ∧
    x2One vec.mem vec.hw 0 ⟨.store, 64, false, true, false, false⟩ 0 64 0 = .ok [⟨0, .wb, .ddr, 64, 0⟩] :=
  ⟨by decide +kernel, by decide +kernel, element_hits (by decide +kernel), by decide +kernel, x2_of (by decide +kernel)⟩

/-- Under m2 only element 0 is active, of every form. -/
theorem witness_VectorMemory_elements : vec.hw.ready 0 ([.v 1, destG 1, .v 3] ++ maskSrc 2) .memLong = true ∧
    vec.hw.ready 0 ([destG 1, .v 3] ++ underMask 1 2) .memLong = true ∧
    (∀ j, ((vec.hw.thread 0).a.rm 2).getLsbD j = true → j = 0) ∧
    ElementHits 0 ⟨.load, 8, false, false, false, false⟩ 0 8 0 vec 0 ∧
    x2One vec.mem vec.hw 0 ⟨.store, 8, false, false, false, false⟩ 0 8 0 = .ok [⟨0, .wb, .ddr, 8, 0⟩] := by
  refine ⟨by decide +kernel, by decide +kernel, fun j h => ?_, element_hits (by decide +kernel), x2_of (by decide +kernel)⟩
  have e : (vec.hw.thread 0).a.rm 2 = 1 := by decide +kernel
  rw [e] at h
  have : j < 64 := by by_contra hc; rw [BitVec.getLsbD_of_ge _ _ (by omega)] at h; cases h
  revert h; interval_cases j <;> decide

/-! ### Witnesses: stores, far atomics, maintenance, engines -/

/-- Thread 0 at M with a store-buffer entry; its L1D holds line 0 of memory. -/
def withSb (e : SbEntry) : State := dev fun h => (withL1d 0 0 .m (runs 0 (regsAt .m true 0 0x2000 3) h)).updThread 0 fun x => { x with b := { x.b with sb := [e] } }

/-- An entry that stores byte 0 of an address. -/
def entryAt (pa : Word) (mt : MemType) (k : SbKind) : SbEntry :=
  ⟨lineNo pa, pa, mt, 5, 1, false, k, ⟨.m, true, 0⟩, some .ddr, 0⟩

theorem witness_StoresDrain : (let s := withSb (entryAt 0 .wb .store)
      (s.hw.thread 0).b.sb.head? = some (entryAt 0 .wb .store) ∧ s.hw.drainTurn 0 = true ∧ (s.hw.thread 0).b.pendingOn 0 0 1 = false ∧
        (s.hw.thread 0).b.outOn 0 = false ∧ s.hw.writable 0 0 = true ∧ (⟨.m, true, 0⟩ : Acc).admits (s.hw.copyOwner 0 0) = true) ∧
    (let s := withSb (entryAt 0 .strict .store); s.hw.drainTurn 0 = true ∧ (s.hw.thread 0).b.pendingOn 0 0 1 = false ∧
      (s.hw.thread 0).b.outOn 0 = false) ∧
    (withSb { entryAt 0 .wb .store with tg := none }).hw.drainTurn 0 = true := by decide +kernel

theorem witness_StoresDrain_entry (pa : Word) (mt : MemType) : IsStore (entryAt pa mt .store) := by intro a b c d h; cases h

theorem witness_StoresDrain_others :
    (let s := dev fun h => h.updThread 0 fun x => { x with b := { x.b with vstWait := [entryAt 0 .wb .store] } }
     (s.hw.thread 0).b.vstWait = [entryAt 0 .wb .store] ∧ (s.hw.thread 0).b.sb.length < 16) ∧
    (let s := withSb (entryAt 0 .wb (.cmo 0 false 9 0))
     (s.hw.thread 0).b.sb.head? = some (entryAt 0 .wb (.cmo 0 false 9 0)) ∧ (∀ p ∈ s.hw.gtags, p.2.who ≠ .cmo 0)) := by decide +kernel

theorem witness_FarAtomicsAndParkedLoads : (t0 8 2 3).hw.ready 0 [destG 1, destG 2] .memLong = true ∧
    x2All (t0 8 2 3).mem (t0 8 2 3).hw 0 ⟨.atomic, 8, false, false, false, true⟩ [(8, 8, 0)] = .ok [⟨8, .wb, .ddr, 8, 0⟩] ∧
    (t0 8 2 3).hw.farWaits 0 ((t0 8 2 3).hw.nextLong 0) ⟨8, .wb, .ddr, 8, 0⟩ true true = false ∧
    (t0 8 2 3).hw.regulateT 0 ((t0 8 2 3).hw.thread 0).resvVmid false 0 = ((t0 8 2 3).hw, false) ∧
    (t0 8 2 3).hw.hasCredit 0 0 (sliceOf 0) = true ∧ (t0 8 2 3).hw.posts = [] :=
  ⟨by decide +kernel, x2_of (by decide +kernel), by decide +kernel, rfl, by decide +kernel, by decide +kernel⟩

/-- Thread 0 has a parked load of 8 bytes at 0. -/
def parkedLoad : State := dev fun h => (withL1d 0 0 .m (runs 0 (regs3 0 2 3) h)).updThread 0 fun x =>
  { x with b := { x.b with longs := [⟨7, .load, .g 31, false, 0, 0, false, 8, false, [⟨0, .wb, 8, 0, false, .ddr⟩], none, false, false, ⟨.m, true, 0⟩, false⟩],
                           owed := [(.g 31, 7)], nextId := 8, parked := some ⟨7, false, 0⟩ } }

theorem witness_FarAtomicsAndParkedLoads_parked : (parkedLoad.hw.thread 0).b.parked = some ⟨7, false, 0⟩ ∧
    ((parkedLoad.hw.thread 0).b.longs.find? (fun x => x.id == 7)).map (fun o => (o.parts, o.size)) = some ([⟨0, .wb, 8, 0, false, .ddr⟩], 8) ∧
    (parkedLoad.hw.thread 0).b.outOn 0 = false ∧ (parkedLoad.hw.thread 0).b.pendingOn 7 0 (maskOf 0 8) = false ∧
    HeldL1d 0 0 ⟨.m, true, 0⟩ parkedLoad.hw :=
  ⟨by decide +kernel, by decide +kernel, by decide +kernel, by decide +kernel, rfl, ⟨0, .m, .normal, 0, false⟩, rfl, rfl, rfl⟩

theorem witness_CacheMaintenance : (at_ .u false 0 0 0).hw.ready 0 [destG 1] .mem = true ∧
    x2One (at_ .u false 0 0 0).mem (at_ .u false 0 0 0).hw 0 ⟨.cmo, 4, true, true, false, false⟩ 0 64 0 = .ok [⟨0, .wb, .ddr, 64, 0⟩] ∧
    EntryOpen 0 .s ⟨0, 0, 0, 0x1000⟩ (at_ .u false 0 0 0) 0x2000 .wb 0 ∧ (at_ .m true 0 0 0).hw.ready 0 [destG 1] .mem = true ∧
    (withSb (entryAt 0 .wb (.cmo 2 false 0 0))).hw.l1dKey 0 0 = some 0 ∧
    ((withSb (entryAt 0 .wb (.cmo 2 false 0 0))).hw.drainTurn 0 = true ∧
      ((withSb (entryAt 0 .wb (.cmo 2 false 0 0))).hw.thread 0).b.pendingOn 0 0 (BitVec.allOnes 64) = false) :=
  ⟨by decide +kernel, x2_of (by decide +kernel), entry_of (by decide +kernel), by decide +kernel, by decide +kernel, by decide +kernel⟩

/-- Thread 0 holds a TLBI. -/
def tlbiHeld : State := dev fun h => (runs 0 (regsAt .m true 0 0 0) h).updThread 0 fun x =>
  { x with b := { x.b with tlbi := some ⟨6, 0, 0, .m, true, 0, false, []⟩ } }

theorem witness_TlbInvalidation : (at_ .m true 0 0 0).hw.ready 0 [] .solo = true ∧ (at_ .s false 0 0 0).hw.ready 0 [] .solo = true ∧
    (tlbiHeld.hw.thread 0).b.tlbi = some ⟨6, 0, 0, .m, true, 0, false, []⟩ ∧ tlbiHeld.hw.storesDone 0 = true ∧ tlbiHeld.hw.group = [] ∧
    tlbiHeld.hw.gtags = [] ∧ tlbiHeld.hw.cores = [] ∧ tlbiHeld.hw.slices = [] ∧
    (∀ x ∈ tlbiHeld.hw.threads, (∀ o ∈ x.2.b.longs, o.ready = true) ∧ x.2.b.sb = [] ∧ x.2.b.vstWait = [] ∧ x.2.b.outs = [] ∧ x.2.b.ext = [] ∧ x.2.b.fext = []) := by decide +kernel

theorem witness_TlbInvalidation_below : EntryOpen 0 .s ⟨0, 0, 0, 0x1000⟩ (at_ .s false 0 0 0) 0x2000 .wb 0 := entry_of (by decide +kernel)

theorem described (l : Level) (sec : Bool) (h : onePiece (x2All (at_ l sec 0 0 0).mem (at_ l sec 0 0 0).hw 0 ⟨.desc, 64, false, false, false, false⟩ [(0, 64, 0)]) 0 .wb .ddr 64 = true) :
    Described 0 0 (at_ l sec 0 0 0) ((List.range 8).map (vword (ownLine (at_ l sec 0 0 0).mem (at_ l sec 0 0 0).hw 0 0))) :=
  ⟨0, .wb, .ddr, x2_of h, memory_ddr, .inl rfl, rfl, rfl, rfl, ⟨rfl, ⟨0, .e, .normal, 0, false⟩, rfl, rfl, rfl⟩, rfl⟩

theorem witness_EngineRequests : (at_ .h false 0 0 0).hw.ready 0 [destG 1, destG 2] .memLong = true ∧ (at_ .h false 0 0 0).hw.hasCredit 0 0 0 = true ∧
    (∃ ws, Described 0 0 (at_ .h false 0 0 0) ws) ∧ (∃ ws, Described 0 0 (at_ .u false 0 0 0) ws) ∧
    EntryOpen 0 .s ⟨0, 0, 0, 0x1000⟩ (at_ .u false 0 0 0) 0x2000 .wb 0 :=
  ⟨by decide +kernel, by decide +kernel, ⟨_, described _ _ (by decide +kernel)⟩,
    ⟨_, described _ _ (by decide +kernel)⟩, entry_of (by decide +kernel)⟩

/-! ### Witnesses: fetch, walks, caches, Vat slices -/

/-- A miss register that waits to fill this cache with a line. -/
def missOfLine (l : Nat) : Miss := 
  ⟨l, true, true, false, 1, true, false, 0, .normal, false, 0, 1, true, false, 0, ⟨.m, true, 0⟩, none, false, false, 0, none⟩

/-- Thread 0 at M about to fetch at 0. -/
def fetching (f : Core → Core) : State := dev fun h => ((runs 0 (regs3 0 0 0) h).updFront 0 fun x => { x with fetchPc := 0, iq := [] }).updCore 0 f

/-- Its block is in L1I. -/
def inL1i : State := fetching fun c => { c with lastF1 := 3, l1i := { c.l1i with en := true, lines := [(0, ⟨0, .s, .normal, 0, false⟩)] } }

theorem witness_FetchAndTranslation_fetch : inL1i.hw.off = false ∧ (inL1i.hw.core 0).clearing = false ∧ (inL1i.hw.core 0).redirect = [] ∧ (inL1i.hw.thread 0).f.held < 8 ∧ (inL1i.hw.core 0).lastF1 = (0 + 3) % 4 ∧
    inL1i.hw.fetches [] 0 = true ∧ (inL1i.hw.core 0).l1i.look geoL1I 0 0 = some 0 ∧
    sfind 0 (inL1i.hw.core 0).l1i.lines = some ⟨0, .s, .normal, 0, false⟩ ∧ (inL1i.hw.thread 0).acc.admits .normal = true := by decide +kernel

theorem witness_FetchAndTranslation_address : fetchXlate [] inL1i.hw 0 = .ok [⟨0, .wb, .ddr, 4, 0⟩] := x2_of (by decide +kernel)

/-- A TLB entry for the page of address 0, and a thread whose access at 0 waits for a translation. -/
def page0 : TlbEntry := ⟨false, 0, 0, true, 0, 0, 5, 31, 0, 31, 9, .wb⟩
def atS : Regime := ⟨⟨.s, false, 0⟩, ⟨0, 0, 0, 0⟩⟩
def replays : State := dev fun h => ((runs 0 (regsAt .s false 0 0 0) h).updBack 0 fun x => { x with replay := some ⟨0, .load, atS⟩ }).updCore 0
  fun c => { c with tlb := [(0, page0)] }

theorem witness_FetchAndTranslation_refill : (replays.hw.thread 0).b.replay = some ⟨0, .load, atS⟩ ∧ (replays.hw.thread 0).b.walkEnds = [] ∧
    (replays.hw.core 0).dtlb = [] ∧ ((replays.hw.core 0).tlb.map (·.2)).filter (fun e => e.hits false 0 0 0) = [page0] := by decide +kernel

/-- A walk for address 0 at S with three table pointers read, and what the last table's entry was found to be. -/
def walk0 (d : Option Word) : Walker :=
  ⟨0, 0, .load, ⟨⟨.s, false, 0⟩, ⟨0x1001, 0, 0, 0⟩⟩, [], [some 0x1001, some 0x1001, some 0x1001], true, some d, false⟩
def walking (d : Option Word) : State := dev fun h => (runs 0 (regsAt .s false 0 0 0) h).updCore 0 fun c => { c with walkers := [(0, walk0 d)] }

/-- How the walk ends: with a translation whose accessed marks are set, or with a fault. -/
def walkEnd (d : Option Word) : Option Bool :=
  match walkBoth ((walk0 d).cfg (walking d).hw) ((walk0 d).answers ++ [d], []) with
  | .ok l _ => if l.1.a && l.2.a then some true else none
  | .flt .. => some false
  | _ => none

theorem witness_FetchAndTranslation_walk : walkEnd (some 0) = some false ∧ walkEnd (some 0x506F) = some true ∧
    sfind 0 ((walking (some 0)).hw.core 0).walkers = some (walk0 (some 0)) ∧ sfree ((walking (some 0)).hw.core 0).tlb 0 256 = some 0 := by
  decide +kernel

/-- A fill that L1I does not take. -/
def filling : State := fetching fun c => { c with imiss := [(0, { missOfLine 0 with alloc := false })] }

theorem witness_FetchAndTranslation_fill : fetchXlate [] filling.hw 0 = .ok [⟨0, .wb, .ddr, 4, 0⟩] ∧
    sfind 0 (filling.hw.core 0).imiss = some { missOfLine 0 with alloc := false } ∧ (filling.hw.thread 0).run = .running ∧
    (filling.hw.thread 0).f.fetchStop = false ∧ (filling.hw.thread 0).f.iq.length < 16 ∧ (filling.hw.thread 0).f.held < 8 ∧ presBit (missOfLine 0).l1s 0 = true ∧
    (filling.hw.core 0).clearing = false ∧ filling.hw.judgePA (filling.hw.thread 0).acc 0 4 = true ∧
    (∀ x, x < 4 → x ≠ 0 → (filling.hw.thread x).run ≠ .running) :=
  ⟨x2_of (by decide +kernel), by decide +kernel⟩

/-- Thread 0 waits for a load of 8 bytes at 0, whose line waits in a miss register of its core; L2 has the line. -/
def loadFill : State := dev fun h => (((runs 0 (regs3 0 2 3) h).updBack 0 fun x =>
    { x with longs := [⟨7, .load, .g 31, false, 0, 0, false, 8, false, [⟨0, .wb, 8, 0, false, .ddr⟩], none, false, false, ⟨.m, true, 0⟩, false⟩],
             owed := [(.g 31, 7)], nextId := 8 }).updCore 0 fun c => { c with dmiss := [(0, missOfLine 0)], l1d := { c.l1d with en := true } }).updL2 0
  fun c => { c with en := true, lines := [(0, ⟨0, .e, .normal, 1, false⟩)] }

theorem witness_ChamberCaches_l1dFill : (loadFill.hw.core 0).walkers = [] ∧ sfind 0 (loadFill.hw.core 0).dmiss = some (missOfLine 0) ∧ loadFill.hw.l2Line 0 0 = some ⟨0, .e, .normal, 1, false⟩ ∧
    (∀ i, i < 4 → loadFill.hw.l1dKey i 0 = none) ∧ (loadFill.hw.core 0).l1d.pick geoL1D 0 = some 0 ∧ sfind 0 (loadFill.hw.core 0).l1d.lines = none ∧
    (∀ y, y < 4 → y ≠ 0 → (loadFill.hw.thread y).b.longs = [] ∧ (loadFill.hw.thread y).b.ext = []) ∧ (loadFill.hw.thread 0).b.ext = [] ∧ (loadFill.hw.thread 0).b.parked = none ∧
    loadFill.hw.judgePA ⟨.m, true, 0⟩ 0 1 = true := by decide +kernel

/-- The L2 of chamber 0 waits for line 0, which core 0 asked for. -/
def l2Filling (unique : Bool) : State := dev fun h => (h.updCore 0 fun c => { c with dmiss := [(0, { missOfLine 0 with ready := false, unique := false })] }).updChamber 0
  fun c => { c with l2 := { c.l2 with en := true }, miss := [(31, { missOfLine 0 with unique := unique })] }

theorem witness_ChamberCaches_l2Fill : ((l2Filling true).hw.chamber 0).wbuf = [] ∧ (l2Filling true).hw.l2Key 0 0 = none ∧
    ((l2Filling true).hw.chamber 0).l2.pick geoL2 0 = some 0 ∧ QuietChamber (l2Filling true).hw 0 0 ∧ QuietChamber (l2Filling false).hw 0 0 ∧
    (∀ i, i < 4 → (l2Filling true).hw.l1dKey i 0 = none ∧ 0 ∉ ((l2Filling true).hw.core i).wbuf) := by
  refine ⟨by decide +kernel, by decide +kernel, by decide +kernel, ⟨?_, by decide +kernel⟩, ⟨?_, by decide +kernel⟩, by decide +kernel⟩ <;>
    (have h : ∀ i, i < 4 → i ≠ 0 → ∀ b, ((l2Filling b).hw.core i).dmiss = [] ∧ ((l2Filling b).hw.core i).imiss = [] := by decide +kernel
     intro i hi hn; have e : 4 * 0 + i = i := by omega
     rw [e] at hn ⊢; exact h i hi hn _)

/-- Core 0 holds line 0 as M; core 1 waits for it. -/
def snooped (unique : Bool) : State := dev fun h => (withL1d 0 0 .m h).updCore 1 fun c => { c with dmiss := [(15, { missOfLine 0 with ready := false, unique := unique })] }

theorem witness_ChamberCaches_snoop : ∀ b, (snooped b).hw.l1dKey 0 0 = some 0 ∧ sfind 0 ((snooped b).hw.core 0).l1d.lines = some ⟨0, .m, .normal, 0, false⟩ ∧
    (snooped b).hw.portPick 0 = some (.snoop 0 b) ∧ (snooped b).hw.l2Accepts 0 = true ∧ ((snooped b).hw.core 1).dmiss = [(15, { missOfLine 0 with ready := false, unique := b })] := by decide +kernel

/-- Core 0 writes line 0 back to L2. -/
def writesBack : State := dev fun h => (h.updCore 0 fun c => { c with wbuf := [0] }).updL2 0 fun c => { c with en := true, lines := [(0, ⟨0, .e, .normal, 1, false⟩)] }

theorem witness_ChamberCaches_writeback : (writesBack.hw.core 0).wbuf = [0] ∧ writesBack.hw.portPick 0 = some (.wb 0) ∧ writesBack.hw.l2Accepts 0 = true ∧ writesBack.hw.l2Key 0 0 = some 0 ∧ (writesBack.hw.core 0).dmiss = [] ∧
    (writesBack.hw.chamber 0).miss = [] ∧ (writesBack.hw.core 0).imiss = [] ∧ ∀ i, i < 4 → (writesBack.hw.core i).dmiss = [] ∧ (writesBack.hw.core i).imiss = [] := by
  decide +kernel

/-- Thread 0 at M with L2 enabled, its L1D enabled or not and invalid or not. -/
def ctlM (en : Bool) (cov : Nat) : State := dev fun h => ((runs 0 (regs3 0 0 0) h).updL1d 0 fun c => { c with en := en, cov := cov }).updL2 0 fun c => { c with en := true }

theorem witness_ChamberCaches_cachectl : (∀ p ∈ [(false, 0), (false, 2 ^ 1024 - 1), (true, 0)],
    (ctlM p.1 p.2).hw.off = false ∧ ((ctlM p.1 p.2).hw.thread 0).a.level = .m ∧ ((ctlM p.1 p.2).hw.chamber 0).clean = none ∧
      ((ctlM p.1 p.2).hw.core 0).l1i.en = false ∧ ((ctlM p.1 p.2).hw.core 0).l1d.en = p.1 ∧ ((ctlM p.1 p.2).hw.chamber 0).l2.en = true) ∧
    ((ctlM false 0).hw.core 0).l1d.inv 1024 = false ∧ ((ctlM false (2 ^ 1024 - 1)).hw.core 0).l1d.inv 1024 = true := by decide +kernel

theorem witness_ChamberCaches_cleaned : (let s := dev fun h => h.updChamber 71 fun c => { c with clean := some ⟨1151, 0, 287, false, true, false, 0⟩ }
    (s.hw.chamber (chamberOf 287)).clean = some ⟨1151, 0, 287, false, true, false, 0⟩) := by decide +kernel

/-- Line 0's slice holds one request of chamber 0. -/
def asking (k : ReqKind) (f : Slice → Slice) : State :=
  dev fun h => h.updSlice (sliceOf 0) fun x => f { x with intake := [⟨k, 0, .chamber 0 31, ⟨.m, true, 0⟩, false, 0, false, none⟩] }

theorem asking_one (k : ReqKind) (f : Slice → Slice) (h : (let x := (asking k f).hw.slice (sliceOf 0)
    x.stopped = false ∧ x.snps = [] ∧ (asking k f).hw.wbbEntry (sliceOf 0) 0 = none ∧ x.intake = [⟨k, 0, .chamber 0 31, ⟨.m, true, 0⟩, false, 0, false, none⟩] ∧ x.txns = [] ∧ (asking k f).hw.localLine 0 = true ∧
      (asking k f).hw.others = [] ∧ x.dirLook 0 = none)) : OneRequest (sliceOf 0) ⟨k, 0, .chamber 0 31, ⟨.m, true, 0⟩, false, 0, false, none⟩ 0 31 (asking k f) :=
  ⟨by decide +kernel, h.1, h.2.2.2.1, h.2.2.2.2.1, h.2.1, h.2.2.1, rfl, by decide, rfl, rfl, h.2.2.2.2.2.1, rfl, h.2.2.2.2.2.2.1,
    h.2.2.2.2.2.2.2⟩

/-- The Vat holds line 0, dirty. -/
def vatHas (x : Slice) : Slice := { x with ways := [(vatSet 0 * 24, ⟨0, .m, 1, 0, false⟩)] }
/-- Chamber 0 holds line 0, shared. -/
def chamberHas (x : Slice) : Slice := { x with sf := [(vatSet 0 * 16, ⟨0, .one 0 false⟩)] }

theorem witness_VatAnswersRequests : (∀ k ∈ [ReqKind.readShared, .readUnique], OneRequest (sliceOf 0) ⟨k, 0, .chamber 0 31, ⟨.m, true, 0⟩, false, 0, false, none⟩ 0 31 (asking k vatHas)) ∧
    OneRequest (sliceOf 0) ⟨.upgrade, 0, .chamber 0 31, ⟨.m, true, 0⟩, false, 0, false, none⟩ 0 31 (asking .upgrade chamberHas) ∧
    OneRequest (sliceOf 0) ⟨.readShared, 0, .chamber 0 31, ⟨.m, true, 0⟩, false, 0, false, none⟩ 0 31 (asking .readShared id) := by
  refine ⟨?_, asking_one _ _ (by decide +kernel), asking_one _ _ (by decide +kernel)⟩
  intro k hk; simp only [List.mem_cons, List.not_mem_nil, or_false] at hk
  obtain rfl | rfl := hk <;> exact asking_one _ _ (by decide +kernel)

theorem witness_VatAnswersRequests_states :
    (∀ k ∈ [ReqKind.readShared, .readUnique], (asking k vatHas).hw.vatLine (sliceOf 0) 0 = some ⟨0, .m, 1, 0, false⟩ ∧
      (asking k vatHas).hw.sfForm (sliceOf 0) 0 = none ∧ (asking k vatHas).hw.dirtyBad 0 0 = none ∧ ((asking k vatHas).hw.slice (sliceOf 0)).sfPlace 0 = (vatSet 0 * 16 + 0, none)) ∧
    (asking .upgrade chamberHas).hw.vatLine (sliceOf 0) 0 = none ∧ (asking .upgrade chamberHas).hw.sfForm (sliceOf 0) 0 = some (.one 0 false) ∧
    (((asking .upgrade chamberHas).hw.updL2 0 fun c => { c with en := true, lines := [(0, ⟨0, .s, .normal, 0, false⟩)] }).l2Line 0 0).isSome = true ∧
    (let s := asking .readShared id
     s.hw.vatLine (sliceOf 0) 0 = none ∧ s.hw.sfForm (sliceOf 0) 0 = none ∧ (s.hw.slice (sliceOf 0)).sfPlace 0 = (vatSet 0 * 16 + 0, none) ∧ s.hw.poolDie 0 = none ∧
       s.hw.hasCredit 9 (sliceOf 0) (s.hw.mcOf 0) = true) := by decide +kernel

/-- A read that asked memory waits at line 0's slice. -/
def txn0 : Txn := 
  ⟨⟨.readUnique, 0, .chamber 71 31, ⟨.m, true, 0⟩, false, 0, false, none⟩, 0, [], true, [], [], [], [], false, false, true, false, false, false, 0, false, false, 0, false⟩

theorem witness_VatFillsAndSnoops_fill : (let s := dev fun h => h.updSlice (sliceOf 0) fun x => { x with txns := [txn0], fills := [⟨0, 0, false, 0⟩] }
    (s.hw.slice (sliceOf 0)).fills = [⟨0, 0, false, 0⟩] ∧ (s.hw.slice (sliceOf 0)).txns = [txn0] ∧ txn0.settled = true ∧ s.hw.vatLine (sliceOf 0) 0 = none) := by decide +kernel

/-- Chamber 0 holds line 0 in L2 and is snooped for it, by the request or the victim of a transaction. -/
def snoopL2 (x : Txn) : State := dev fun h => ((h.updL2 0 fun c => { c with en := true, lines := [(0, ⟨0, .m, .normal, 0, false⟩)] }).updChamber 0
  fun c => { c with snoops := [(sliceOf 0, 0, 1)] }).updSlice (sliceOf 0) fun y => { y with txns := [x] }

theorem witness_VatFillsAndSnoops_snoop : ∀ x ∈ [txn0, { txn0 with started := false, victims := [0] }], let s := snoopL2 x
    (s.hw.chamber 0).snoops = [(sliceOf 0, 0, 1)] ∧ (s.hw.chamber 0).stopped = false ∧ s.hw.fillComing 0 0 = false ∧ (s.hw.chamber 0).wbuf = [] ∧ s.hw.l2Key 0 0 = some 0 ∧
      sfind 0 (s.hw.chamber 0).l2.lines = some ⟨0, .m, .normal, 0, false⟩ ∧ (s.hw.slice (sliceOf 0)).txns = [x] ∧
      (∀ i, i < 4 → s.hw.l1dKey i 0 = none ∧ (s.hw.core i).wbuf = [] ∧ l1iKeys (s.hw.core i).l1i 0 = []) := by decide +kernel

theorem witness_VatFillsAndSnoops_answer : (let y := { txn0 with snoops := [0, 1] }
    let s := dev fun h => h.updSlice 71 fun x => { x with txns := [y], answers := [(0, 0, 1)] }
    (s.hw.slice 71).answers = [(0, 0, 1)] ∧ (s.hw.slice 71).txns = [y] ∧ 1 ∈ y.snoops) := by decide +kernel

/-- A writeback of chamber 0 reaches line 0's slice. -/
def vatWb (dirty : Bool) : State := dev fun h => { h with carried := [(0, false)] }.updSlice (sliceOf 0) fun x =>
  { x with wbIn := [(0, 0, dirty)], sf := [(vatSet 0 * 16, ⟨0, .one 0 true⟩)] }

theorem witness_VatWritebacksAndMaintenance : (∀ d, ((vatWb d).hw.slice (sliceOf 0)).wbIn = [(0, 0, d)] ∧ ((vatWb d).hw.slice (sliceOf 0)).stopped = false ∧
      ((vatWb d).hw.slice (sliceOf 0)).txns = [] ∧ ((vatWb d).hw.slice (sliceOf 0)).snps = [] ∧ (vatWb d).hw.wbbEntry (sliceOf 0) 0 = none ∧
      ((vatWb d).hw.slice (sliceOf 0)).rwbIn = [] ∧ (vatWb d).hw.sfForm (sliceOf 0) 0 = some (.one 0 true) ∧ ((vatWb d).hw.slice (sliceOf 0)).look 0 = none ∧
      ((vatWb d).hw.slice (sliceOf 0)).sf.length = 1) ∧
    ((vatWb true).hw.slice (sliceOf 0)).victim (vatSet 0) = some (vatSet 0 * 24, 0) ∧ (vatWb true).hw.heldAway 0 none = false ∧ sfind 0 (vatWb true).hw.carried = some false := by decide +kernel

/-- A slice with a write-back buffer entry, or with a CMO. -/
def wbbHas (l : Nat) : State := dev fun h => h.updSlice (sliceOf l) fun x => { x with wbb := [(31, ⟨l, 1, false, false, false⟩)] }

theorem witness_VatWritebacksAndMaintenance_issue : (let s := wbbHas 0
    sfind 31 (s.hw.slice (sliceOf 0)).wbb = some ⟨0, 1, false, false, false⟩ ∧ s.hw.localLine 0 = true ∧ s.hw.poolDie 0 = none ∧
      s.hw.hasCredit 10 (sliceOf 0) (s.hw.mcOf 0) = true) ∧
    (let l := 0x0C0000000000 / 64
     sfind 31 ((wbbHas l).hw.slice (sliceOf l)).wbb = some ⟨l, 1, false, false, false⟩ ∧ (wbbHas l).hw.localLine l = true ∧ lineLocal l = 0x0C0000000000) := by decide +kernel

theorem witness_VatWritebacksAndMaintenance_cmo : ∀ op, op < 3 →
    (let r : SReq := ⟨.cmo op, 0, .thread 1151, ⟨.m, true, 0⟩, false, 0, false, none⟩
     let s := dev fun h => h.updSlice (sliceOf 0) fun x => { x with intake := [r] }
     (s.hw.slice (sliceOf 0)).intake = [r] ∧ (s.hw.slice (sliceOf 0)).txns = [] ∧ s.hw.others = [] ∧ (s.hw.slice (sliceOf 0)).stopped = false ∧
       (s.hw.slice (sliceOf 0)).snps = [] ∧ s.hw.cmoHeld 0 = false ∧ s.hw.localLine 0 = true) := by decide +kernel

/-! ### Witnesses: mesh, controllers, Churn, far atomics -/

/-- One message in the mesh. -/
def oneFlit (f : Flit) : State := dev fun h => { h with flits := [f] }
def flit (at_ dst : Nat) (p : Payload) : Flit := ⟨5, 3, at_, dst, 1, 0, 0, p⟩

theorem witness_MeshMoves : (∀ p ∈ [(0, 1, 0), (6, 30, 4), (96, 97, 6), (159, 159, 5)], (nextMove p.1 p.2.1).1 = p.2.2) ∧
    (∀ p ∈ [Payload.req 71 ⟨.readShared, 0, .chamber 0 31, ⟨.m, true, 0⟩, false, 0, false, none⟩, .answer 1151 0 1],
      (oneFlit (flit 159 159 p)).hw.flits = [flit 159 159 p] ∧ (oneFlit (flit 159 159 p)).hw.off = false ∧ (oneFlit (flit 159 159 p)).hw.meshRuns = true) ∧
    (let s := dev fun h => { h with used := [(creditKey 10 71 11, 2)], freed := [(creditKey 10 71 11, 1)] }
     sget 0 (creditKey 10 71 11) s.hw.freed ≠ 0 ∧ s.hw.posts = []) ∧
    (let s := oneFlit { flit 0 1 (.cmoDone 0) with age := 511 }
     s.hw.flits.find? (fun g => g.id == 5) = some { flit 0 1 (.cmoDone 0) with age := 511 }) := by decide +kernel

theorem witness_MeshMoves_skim : (let s := dev fun h => h.updSlice 71 fun x => { x with intake := [⟨.readShared, 0, .chamber 0 31, ⟨.m, true, 0⟩, false, 0, false, none⟩] }
    (s.hw.slice 71).intake[0]? = some ⟨.readShared, 0, .chamber 0 31, ⟨.m, true, 0⟩, false, 0, false, none⟩) ∧ (dev id).hw.off = false ∧
    ((dev fun h => h.updInst 511 fun x => { x with weight := 0 }).hw.inst 511).weight = 0 := by decide +kernel

/-- Controller 0 with a read and a write of line 0. -/
def mcBusy (r w : Bool) : State := dev fun h => h.updMc 0 fun x =>
  { x with reads := if r then [⟨71, 0, ⟨.m, true, 0⟩, 0⟩] else [], writes := if w then [⟨71, 31, 0, 7, false, 0⟩] else [] }

theorem witness_ControllerReadsAndWrites : ((mcBusy true false).hw.mc 0).reads = [⟨71, 0, ⟨.m, true, 0⟩, 0⟩] ∧ ((mcBusy true false).hw.mc 0).writes = [] ∧
    ((mcBusy true false).hw.mc 0).failed = false ∧ sget 0 0 ((mcBusy true false).hw.slice 71).tokens < 2 ∧ (mcBusy true false).hw.creamLine 71 0 = false ∧
    ((mcBusy false true).hw.mc 0).reads = [] ∧ ((mcBusy false true).hw.mc 0).writes = [⟨71, 31, 0, 7, false, 0⟩] ∧ 31 ≤ wbNoEntry ∧
    Memory.wf (mcBusy false true).mem = true ∧ ((mcBusy false true).hw.slice 71).txns = [] ∧
    (let s := oneFlit (flit 159 159 (.memDone 71 0 [31] none)); s.hw.meshRuns = true ∧ (s.hw.slice 71).txns = []) := by decide +kernel

/-- Controller 0 with one DIMM of one rank, and what a test changes of it. -/
def upkeep (f : Mc → Mc) : State := dev fun h => h.updMc 0 fun x => f { x with dimms := [(0, ⟨true, true, true, 4, 16, 1, 16, 4800, some 40⟩)] }

/-- Three wrong symbols of one codeword, in three devices, cannot be corrected. -/
theorem decode_dark (x8 paired : Bool) (f1 f2 sub summary : Nat) : decodeDdr x8 paired f1 f2 sub summary ⟨[(0, 0), (0, 2), (0, 4)], []⟩ = .dark := by
  have bad : codewordOk x8 paired f1 f2 sub [0, 2, 4] = false := by
    cases x8 <;> cases paired <;> simp [codewordOk, symDevice, List.filter] <;> grind
  unfold decodeDdr
  extract_lets n syms inCw hit good devs rest own cs few
  have hs : syms = [(0, 0), (0, 2), (0, 4)] := by cases paired <;> rfl
  have hg : good = false := by
    rw [List.all_eq_false]
    exact ⟨0, by cases paired <;> simp [n], by simp only [inCw, hs]; exact (by simpa using bad)⟩
  have hc : cs = [] := by simp [cs, own, hg]
  simp [hs, hc]

theorem decode_bad (h : Hw) (p : MPlace) (m : p.mc < 12) : h.decode p ⟨[(0, 0), (0, 2), (0, 4)], []⟩ = .dark := by
  simp only [Hw.decode, m, if_true, decode_dark]

theorem witness_ControllerUpkeep :
    (let s := upkeep fun x => { x with hot := true, retries := 7, copy := some ⟨3, 0, true⟩ }
     (s.hw.mc 0).hot = true ∧ (s.hw.mc 0).retries = 7 ∧ (s.hw.mc 0).failed = false ∧ (s.hw.mc 0).copy = some ⟨3, 0, true⟩ ∧ (s.hw.mc 0).repairs = []) ∧
    (let s := upkeep fun x => { x with copy := some ⟨3, 0, false⟩ }
     let t := { s with hw := (s.hw.setReg (mcReg 0 0x200) (w64 (2 ^ 63))).setRegF (surveyReg 0) 47 32 2400 }
     let w := t.hw.reg (mcReg 0 0x200)
     Word.bit w 63 = true ∧ Word.bit w 62 = false ∧ Word.fld w 61 57 ≠ 31 ∧ Word.fld w 31 0 + 1 < t.hw.rankPairs 0 0 ∧
       (t.hw.mc 0).copy = some ⟨3, 0, false⟩ ∧ (t.hw.mc 0).retries < 7 ∧ t.hw.mediumLines 0 ≠ 0 ∧ t.hw.regF (surveyReg 0) 47 32 ≠ 0 ∧
       t.hw.placeBad (t.hw.placeAt 0 0) = false ∧ 0 ∉ (t.hw.mc 0).retention ∧ (t.hw.placeAt 0 0).line = some 0 ∧ t.hw.secondary 0 = none ∧
       sfind 0 t.hw.newest = none ∧ (t.hw.placeAt 0 0).mc < 12 ∧
       ({ t.hw with poison := [(0, true)] }).placeBad (t.hw.placeAt 0 0) = true) := by decide +kernel

/-- A post at instance 0 in a state. -/
def post0 : InstReq := ⟨1151, 7, 5, 0, 0, some [], ⟨.h, false, 0⟩, false, ⟨⟨.h, false, 0⟩, ⟨0, 0, 0, 0⟩⟩⟩
def withInst (n : Nat) (f : Inst → Inst) (g : Slice → Slice) : State := dev fun h => ((h.setInstState 0 n).updInst 0 f).updSlice 0 g

theorem witness_ChurnQueueSlices_posts :
    (∀ n, n < 5 → ((withInst n id fun x => { x with instIn := [post0] }).hw.slice 0).instIn = [post0]) ∧
    postRefusal (withInst 0 id id).hw post0 = some (w64 (2 * 2 ^ 56)) ∧ postRefusal (withInst 2 id id).hw { post0 with acc := ⟨.h, true, 0⟩ } = some (w64 (3 * 2 ^ 56)) ∧
    postRefusal (withInst 3 id id).hw post0 = some (w64 (4 * 2 ^ 56)) ∧
    postRefusal (withInst 2 (fun x => { x with queue := List.replicate 32 ⟨0, [], post0.regime⟩ }) id).hw post0 = some (w64 (1 * 2 ^ 56)) ∧
    postRefusal (withInst 2 (fun x => { x with queue := List.replicate 31 ⟨0, [], post0.regime⟩ }) id).hw post0 = none := by decide +kernel

theorem witness_ChurnQueueSlices_others :
    (let r := { post0 with op := 4 }
     let s := withInst 0 id fun x => { x with instIn := [r] }
     (s.hw.slice 0).instIn = [r] ∧ s.hw.instState 0 = 0 ∧ s.hw.router.signals = []) ∧
    (let s := withInst 3 (fun x => { x with quiesce := some (1151, 7) }) id
     s.hw.instState 0 = 3 ∧ (s.hw.inst 0).queue = [] ∧ s.hw.executing 0 = false ∧ (s.hw.inst 0).quiesce = some (1151, 7)) ∧
    (let s := withInst 2 (fun x => { x with queue := [⟨0, [], post0.regime⟩] }) id
     let t := { s with hw := s.hw.setRegF (instReg 0 0) 6 0 71 }
     (t.hw.slice 71).engineOff = false ∧ (t.hw.slice 71).ctxs = [] ∧ t.hw.candidates 71 = [0] ∧ (t.hw.inst 0).queue = ⟨0, [], post0.regime⟩ :: [] ∧
       (t.hw.inst 0).abandonQ = false) := by decide +kernel

/-- Engine 71 with one context: an operation of 65 bytes or elements at 0, at M. -/
def churnWords (op : Nat) (cmpl : Word) : List Word := [w64 (op * 2 ^ 56 + 3 * 2 ^ 50 + 2 ^ 49), 0x1000, 0, 65, 8, 0xAB, 0, cmpl]
def ctx0 (op : Nat) (cmpl : Word) (us : List ChUnit) : ChCtx := ⟨0, ⟨1, churnWords op cmpl, ⟨⟨.m, true, 0⟩, ⟨0, 0, 0, 0⟩⟩⟩, 0, us, 0, 0, 0, 0, false, none, none, 0, [], false⟩
def churning (x : ChCtx) : State := dev fun h => (h.updSlice 71 fun s => { s with ctxs := [(3, x)] }).updInst 0 fun i => { i with cmsg := some 9 }

theorem churning_ctx (x : ChCtx) : (churning x).hw.chCtx 71 3 = some x := by
  simp [churning, dev, Hw.chCtx, Hw.updInst, Hw.updSlice, Hw.slice, Hw.reset, Hw.updMc, Hw.setReg, supd, sget, sset, sfind]

def engOk (x : EngChk) (pa : Word) : Bool :=
  match x with
  | .ok p => decide (p = pa)
  | _ => false

theorem eng_of {x : EngChk} {pa : Word} (h : engOk x pa = true) : x = .ok pa := by
  cases x <;> simp_all [engOk]

theorem chr_of {h : Hw} {e i : Nat} {rd : Bool} {pa : Word} (a : h.resvs = []) (b : h.hasCredit 3 e (sliceOf (lineNo pa)) = true)
    (c : h.posts = []) : ChrOpen h e i rd pa := ⟨by simp [Hw.matching, a], b, by simp [c]⟩

theorem witness_ChurnUnitsAndCompletions_start : UnitOpen (churning (ctx0 1 0 [])).hw 71 3 (ctx0 1 0 []) ∧ dOp (ctx0 1 0 []).desc.words = 1 ∧
    (churning (ctx0 1 0 [])).hw.engCheck [] 71 3 ⟨⟨.m, true, 0⟩, ⟨0, 0, 0, 0⟩⟩ .store 0 = .ok 0 :=
  ⟨⟨churning_ctx _, by decide +kernel⟩, by decide, eng_of (by decide +kernel)⟩

/-- Units: an element read that is here, a destination of 8 bytes at 0 with its data, and its source. -/
def unitRead : ChUnit := ⟨64, 1, [⟨0x1200, 0x1200, 8, some (List.replicate 8 1), none⟩], 0, 0, none, false, false⟩
def unitData (src : List ChRead) (issued perf : Bool) : ChUnit := ⟨0, 8, src, 0, 0, some (List.replicate 8 5), issued, perf⟩
def moved : ChRead := ⟨0x1000, 0x1000, 8, none, none⟩

theorem witness_ChurnUnitsAndCompletions_units :
    (churning (ctx0 4 0 [unitRead])).hw.chCtx 71 3 = some (ctx0 4 0 [unitRead]) ∧ dFn (churnWords 4 0) < 9 ∧ dEs (churnWords 4 0) = 8 ∧
    (∀ op ∈ [1, 2, 3, 6], dOp (churnWords op 0) = op) ∧ ChrOpen (churning (ctx0 1 0 [unitData [] false false])).hw 71 0 false 0 ∧
    (churning (ctx0 1 0 [unitData [] true true])).hw.chCtx 71 3 = some (ctx0 1 0 [unitData [] true true]) ∧
    (let x := { ctx0 3 0 [unitData [moved] false false] with done := 8 }
     (churning x).hw.chCtx 71 3 = some x ∧ ChrOpen (churning x).hw 71 0 false 0x1000) :=
  ⟨churning_ctx _, by decide +kernel, by decide +kernel, by decide +kernel, chr_of rfl (by decide +kernel) rfl, churning_ctx _,
    churning_ctx _, chr_of rfl (by decide +kernel) rfl⟩

/-- The increment of bin 5 of a HIST unit. -/
theorem witness_ChurnUnitsAndCompletions_bin : let x := ctx0 6 0 [unitData [] false false]
    (churning x).hw.engCheck [] 71 3 ⟨⟨.m, true, 0⟩, ⟨0, 0, 0, 0⟩⟩ .atomic 0x1000 = .ok 0x1000 ∧
      (churning x).hw.engCheck [] 71 3 ⟨⟨.m, true, 0⟩, ⟨0, 0, 0, 0⟩⟩ .load 0x1200 = .ok 0x1200 :=
  ⟨eng_of (by decide +kernel), eng_of (by decide +kernel)⟩

/-- The record at address c follows a context whose 65 bytes are done. -/
def endCtx (c : Word) (d : Option (Option Nat)) : ChCtx := { ctx0 1 c [] with next := 65, recd := d }

theorem witness_ChurnUnitsAndCompletions_end :
    (dLen (churnWords 1 0) = 65 ∧ dCmpl (churnWords 1 0) = 0 ∧ dCmpl (churnWords 1 64) = 64) ∧
    (∀ c d, (churning (endCtx c d)).hw.chCtx 71 3 = some (endCtx c d)) ∧ (∀ c d, ((churning (endCtx c d)).hw.inst 0).cmsg = some 9) ∧
    ((churning (endCtx 64 none)).hw.slice 71).walkers = [] ∧
    (churning (endCtx 64 none)).hw.engCheck [] 71 3 ⟨⟨.m, true, 0⟩, ⟨0, 0, 0, 0⟩⟩ .record 64 = .ok 64 ∧
    ChrOpen (churning (endCtx 64 none)).hw 71 0 false 64 :=
  ⟨by decide +kernel, fun _ _ => churning_ctx _, fun _ _ => by
    simp [churning, dev, Hw.inst, Hw.updInst, Hw.updSlice, Hw.reset, Hw.updMc, Hw.setReg, supd, sget, sset],
    by decide +kernel, eng_of (by decide +kernel), chr_of rfl (by decide +kernel) rfl⟩

/-- A far atomic at the home of line 0, which the Vat has. -/
def opAt (size op : Nat) (mt : MemType) : LineOp := farOp 0 size 1 op 0 mt
def farTxn (o : LineOp) (src : Requester) : Txn :=
  ⟨⟨.far o, 0, src, ⟨.m, true, 0⟩, false, 16, false, none⟩, 0, [], true, [], [], [], [], false, false, false, true, false, false, 0, false, false, 0, false⟩
def farHome (x : Txn) : State := dev fun h => h.updSlice (sliceOf 0) fun y => { y with txns := [x], ways := [(vatSet 0 * 24, ⟨0, .m, 1, 0, false⟩)] }

theorem witness_FarResponsesAndAtomicOps_home :
    (∀ p ∈ [(64, 0, MemType.wb), (8, 9, .wb), (32, 2, .nc)], FarReady (sliceOf 0) (farTxn (opAt p.1 p.2.1 p.2.2) (.far 1151 7 true))
      (opAt p.1 p.2.1 p.2.2) (farHome (farTxn (opAt p.1 p.2.1 p.2.2) (.far 1151 7 true)))) ∧
    FarReady (sliceOf 0) (farTxn (opAt 4 0 .wb) (.port 7)) (opAt 4 0 .wb) (farHome (farTxn (opAt 4 0 .wb) (.port 7))) ∧
    ((farHome (farTxn (opAt 4 0 .wb) (.port 7))).hw.vatLine (sliceOf 0) 0).isSome = true ∧
    ((farHome (farTxn (opAt 32 2 .nc) (.port 7))).hw.slice (sliceOf 0)).wbbFree.isSome = true := by
  refine ⟨?_, ?_, by decide +kernel, by decide +kernel⟩
  · intro p hp
    simp only [List.mem_cons, List.not_mem_nil, or_false] at hp
    obtain rfl | rfl | rfl := hp <;> exact ⟨by decide +kernel, by decide +kernel, rfl, by decide +kernel, by decide +kernel, by decide +kernel, rfl, by decide +kernel,
      by decide +kernel, by decide +kernel, by decide +kernel, by decide, by decide, by decide, by decide⟩
  · exact ⟨by decide +kernel, by decide +kernel, rfl, by decide +kernel, by decide +kernel, by decide +kernel, rfl, by decide +kernel,
      by decide +kernel, by decide +kernel, by decide +kernel, by decide, by decide, by decide, by decide⟩

/-- A far atomic of thread 1151 that has been answered. -/
def farBack (err : Nat) : State := dev fun h => h.updBack 1151 fun x =>
  { x with longs := [⟨7, .farAtomic, .v 31, false, 0, 0, false, 64, false, [⟨0, .wb, 64, err, true, .ddr⟩], none, false, false, ⟨.m, true, 0⟩, false⟩] }

theorem witness_FarResponsesAndAtomicOps_back : ∀ err ∈ [0, 5], ((farBack err).hw.thread 1151).b.longs.map (fun o => (o.parts, o.ready, o.size)) =
    [([⟨0, .wb, 64, err, true, .ddr⟩], false, 64)] := by decide +kernel

theorem recall_none {h : Hw} {l : Nat} {b : Bool} (e : (h.remoteSnoops l b).1 = []) : h.recall l b = none := by
  simp [Hw.recall, e]

theorem witness_FarResponsesAndAtomicOps_port : (dev id).hw.decodePA 0 = .ok .ddr ∧ (∃ f, (dev id).hw.decodePA 0x0F0000000000 = .error f) ∧
    (dev id).hw.matching 0xA007 false 0 2 5 = none ∧ (dev id).hw.hasCredit 2 7 (sliceOf 0) = true ∧ (dev id).hw.posts = [] := by
  refine ⟨ok_of (by decide +kernel), ?_, rfl, by decide +kernel, rfl⟩
  have h : (match (dev id).hw.decodePA 0x0F0000000000 with | .error _ => true | .ok _ => false) = true := by decide +kernel
  revert h; split
  · rename_i n hn; intro _; exact ⟨n, hn⟩
  · intro h; cases h

/-! ### Witnesses: admission and Gallery -/

/-- A request at the admission controller of thread 1151. -/
def asks (op : Nat) (handle : Word) (ws : List Word) (f : Hw → Hw) : State := dev fun h => f { h with admQ := [⟨1151, 7, op, handle, ws⟩] }
def resv0 (live retire : Bool) : Resv := ⟨[], 1, live, [], 0x10000, 3, 0, [], retire⟩

theorem witness_AdmissionAnswers : (∀ live, let s := asks 1 (w64 (2 ^ 12)) [] fun h => { h with resvs := [(0, resv0 live false)] }
      sfind 0 s.hw.resvs = some (resv0 live false) ∧ (resv0 live false).gen = (w64 (2 ^ 12)).toNat / 4096 ∧
        (∀ p ∈ s.hw.resvs, p.2.retire = false) ∧ s.hw.admQ = ⟨1151, 7, 1, w64 (2 ^ 12), []⟩ :: []) ∧
    (asks 2 (w64 (2 ^ 32)) [] id).hw.resvs = [] ∧ resvBad [w64 (2 ^ 62 * 3)] = true ∧
    (let s := asks 1 (w64 (2 ^ 12)) [] fun h => { h with resvs := [(0, resv0 true true)] }
     (s.hw.resvs.find? fun p => p.2.retire) = some (0, resv0 true true)) ∧ (dev id).hw.resvs = [] ∧ (153 : Word).toNat ≤ 153 ∧ 154 ≤ (154 : Word).toNat := by
  decide +kernel

theorem witness_AdmissionAnswers_unknown (i : Nat) (r : Resv) : ¬Known (asks 2 (w64 (2 ^ 32)) [] id).hw (w64 (2 ^ 32)) i r := by
  rintro ⟨h, -⟩; revert h; decide

/-- A reservation of port 14 for chamber 0, which fits. -/
def fits : List Word := [w64 (2 ^ 58 + 2 ^ 32), 1, 0, 14, 0, 1, 0, 0]
def grants : State := asks 0 0 fits fun h => (((h.setRegF (admReg 0) 7 0 153).setRegF (linkReg 14 0x100) 63 61 2).setRegF (linkReg 14 0x100) 51 48 4).setRegF (linkReg 14 0x100) 56 52 16
def admOk (s : State) (ws : List Word) : Bool := match s.hw.admTest ws with | .ok _ => true | .error _ => false

theorem witness_AdmissionAnswers_grant : (∃ p, grants.hw.admTest fits = .ok p) ∧ sfree grants.hw.resvs 0 4096 = some 0 ∧ sget 0 0 grants.hw.gens < 2 ^ 20 := by
  refine ⟨?_, by decide +kernel, by decide +kernel⟩
  have h : admOk grants fits = true := by decide +kernel
  unfold admOk at h; split at h
  · exact ⟨_, ‹_›⟩
  · cases h

/-- Link (k, j) in a state, training or not. -/
def linked (k j st : Nat) (tr : Bool) (f : Hw → Hw) : State := dev fun h => f ((h.setRegF (linkReg k (0x100 + 8 * j)) 63 61 st).updLink k j fun l => { l with training := tr })

theorem witness_LinkTraining : ((dev id).hw.latchCfg 0).formed 0 1 = 0 ∧ ((dev id).hw.latchCfg 17).formed 17 15 = 0 ∧
    (∀ k ∈ [0, 14], ∀ st ∈ [1, 2], let s := linked k 0 st false id
      Latched s.hw k ∧ s.hw.formed k 0 = 16 ∧ s.hw.regF (linkReg k 0) 18 18 = 0 ∧ s.hw.linkState k 0 = st ∧ sget false k s.hw.pins.perst = false ∧
        (s.hw.link k 0).retrains = []) ∧
    (let s := linked 13 0 1 false id
     Latched s.hw 13 ∧ s.hw.formed 13 0 = 16 ∧ s.hw.regF (linkReg 13 0) 18 18 = 0 ∧ s.hw.ownPos = none) ∧
    (∀ k ∈ [0, 8, 14, 17], (linked k 0 2 false id).hw.linkUp k 0 = true) := by unfold Latched; decide +kernel

/-- Training that ends: with the partner's figures, late, with the wrong partner, and with too few lanes. -/
theorem witness_LinkTraining_done : (∀ k ∈ [0, 14, 17], let s := linked k 0 1 true id
      (s.hw.link k 0).training = true ∧ s.hw.linkState k 0 = 1 ∧ (s.hw.link k 0).failing = false ∧ sget 0 k s.hw.badLanes = 0 ∧ s.hw.formed k 0 = 16 ∧
        s.hw.wrongIdentity k ⟨1, 0, 0, 0⟩ = false ∧ s.hw.time.toNat ≤ (s.hw.link k 0).since + 1250000) ∧
    (let s := linked 8 0 1 true fun h => (h.setReg (chkReg 0x10100) (w64 (2 ^ 63))).setReg (chkReg 0x10108) (w64 (2 ^ 63 + 1))
     (s.hw.link 8 0).training = true ∧ s.hw.linkState 8 0 = 1 ∧ s.hw.wrongIdentity 8 ⟨1, 1, 1, 0⟩ = false ∧ s.hw.wrongIdentity 8 ⟨1, 2, 1, 0⟩ = true ∧
       s.hw.time.toNat ≤ (s.hw.link 8 0).since + 1250000 ∧ linkWidth 8 0 (s.hw.formed 8 0) 16 0 = 16 ∧ linkWidth 8 0 (s.hw.formed 8 0) 16 0xFFFF = 0) ∧
    (let s := linked 14 0 1 true fun h => { h with time := 1250001 }
     (s.hw.link 14 0).since + 1250000 < s.hw.time.toNat) := by decide +kernel

/-- This node at position 0 and node 1 at position 1, joined by link 0; links 0 and 1 are up, routes to 1 over link 0 and to 2 over link 1. -/
def member (f : Hw → Hw) : State := dev fun h => f ((((((h.setReg (chkReg 0x10100) (w64 (2 ^ 63))).setReg (chkReg 0x10108) (w64 (2 ^ 63 + 1))).setRegF (linkReg 8 0x100) 63 61 2).setRegF
  (linkReg 9 0x100) 63 61 2).setReg (linkReg 8 0x3108) 0x80).setReg (linkReg 8 0x3110) 0x90)

/-- A message from position 1 for position d. -/
def gmsg (d arg : Nat) : GMsg := ⟨0, 1, d, 0, 0, false, 0, BitVec.ofNat 17 arg, 1, 0⟩

theorem galRoom {h : Hw} {k : Nat} (lane : Nat) (a : (h.link k 0).fwd = []) (b : (h.link k 0).mnt = []) (c : h.posts = []) : GalRoom h k lane := by
  intro op
  have e : h.galHeld k op lane = 0 := by simp [Hw.galHeld, a, b, c]
  rw [e]; unfold galClass; split_ifs <;> decide

theorem galHere (f : Hw → Hw) (arg : Nat) (h : (member f).hw.linkUp 8 0 = true ∧ (member f).hw.ownPos = some 0)
    (r : ((member f).hw.link 8 0).fwd = [] ∧ ((member f).hw.link 8 0).mnt = [] ∧ (member f).hw.posts = []) : GalHere (member f).hw 8 (gmsg 0 arg) :=
  ⟨by decide, by decide, h.1, by simp [gmsg], by simp [gmsg], by simp [gmsg], by simp [gmsg], by simp [gmsg], h.2, galRoom _ r.1 r.2.1 r.2.2⟩

theorem galTo (f : Hw → Hw) (d k : Nat) (h : (member f).hw.route d = some k ∧ (∀ i, i < 6 → d ∉ ((member f).hw.link (8 + i) 0).heldPos) ∧
    (member f).hw.regF (linkReg 8 0x3000) 5 4 = 0) : GalTo (member f).hw d k := h

/-- A tag of this node. -/
def tagged (w : Waiter) (op : Nat) (delay : Bool) (h : Hw) : Hw := { h with gtags := [(0, ⟨w, op, gmsg 1 0, false, delay⟩)] }

theorem witness_GalleryLinkAndRoutes_flits : (member id).hw.linkUp 8 0 = true ∧
    (let s := member fun h => h.updLink 8 0 fun l => { l with retry := [(4095, .gal 1 (gmsg 1 0))], expect := 4095 }
     s.hw.linkUp 8 0 = true ∧ (s.hw.link 8 0).retry = [(4095, .gal 1 (gmsg 1 0))] ∧ (s.hw.link 8 0).wait = []) ∧
    (let g := { gmsg 1 0 with spos := 0 }
     let s := member fun h => tagged (.cmo 0) 1 false (h.updLink 8 0 fun l => { l with retry := [(0, .gal 5 g)], failing := true })
     (s.hw.link 8 0).failing = true ∧ (s.hw.link 8 0).retry = [(0, .gal 5 g)] ∧ (s.hw.link 8 0).wait = [] ∧ (s.hw.link 8 0).held = [] ∧
       s.hw.ownPos = some g.spos ∧ sfind g.tag s.hw.gtags = some ⟨.cmo 0, 1, gmsg 1 0, false, false⟩) := by decide +kernel

theorem witness_GalleryLinkAndRoutes_routes : (member id).hw.ownPos = some 0 ∧ (member id).hw.gtags = [] ∧
    (let s := member fun h => { h with lsMap := [(1, (1, 5))] }
     s.hw.linkUp 8 0 = true ∧ (sget (0, 0) 1 s.hw.lsMap).1 / 2 ^ 0 % 2 = 1) ∧ (dev id).hw.group = [] ∧
    (let s := dev fun h => h.setReg (chkReg 0x10178) (w64 (2 ^ 63))
     s.hw.ownPos = some 15 ∧ ∀ i, i < 6 → s.hw.linkUp (8 + i) 0 = false) := by decide +kernel

theorem witness_GalleryLinkAndRoutes_forwards : ((member fun h => h.updLink 8 0 fun l => { l with fwd := [(0x39, gmsg 2 0)] }).hw.link 8 0).fwd = (0x39, gmsg 2 0) :: [] ∧
    GalTo (member fun h => h.updLink 8 0 fun l => { l with fwd := [(0x39, gmsg 2 0)] }).hw 2 9 ∧
    sfind 0 (member (tagged (.cmo 0) 0x39 true)).hw.gtags = some ⟨.cmo 0, 0x39, gmsg 1 0, false, true⟩ ∧ GalTo (member (tagged (.cmo 0) 0x39 true)).hw 1 8 ∧
    (member id).hw.ownPos ≠ some (gmsg 2 0).dpos ∧ 3 ≤ ({ gmsg 2 0 with lane := 3 } : GMsg).lane :=
  ⟨by decide +kernel, galTo _ _ _ (by decide +kernel), by decide +kernel, galTo _ _ _ (by decide +kernel), by decide +kernel, by decide⟩

/-- The line 0 of node 1, held dirty by the Vat of this member, whose snoop has come to its slice's stop. -/
def otherLine : Nat := 2 ^ 42
def snoopFlit : Flit := ⟨0, 2, chamberStop (sliceOf otherLine), chamberStop (sliceOf otherLine), 0, 0, 0, .galSnoop (sliceOf otherLine) 8 false (gmsg 0 0)⟩
def vatOther (h : Hw) : Hw :=
  { h.updSlice (sliceOf otherLine) fun x => { x with ways := [(vatSet otherLine * 24, ⟨otherLine, .m, 1, 0, false⟩)] } with flits := [snoopFlit] }

theorem witness_GalleryRequests : GalHere (member id).hw 8 (gmsg 0 (5 * 8 + 7)) ∧ GalTo (member id).hw (gmsg 0 0).spos 8 ∧ Memory.wf (member id).mem = true ∧
    (member id).hw.lineThere 0 = true ∧ (member id).hw.lineThere (0x0F0000000000 / 64) = false ∧ (∀ p ∈ [(4, 0), (5, 0), (8, 0)],
      (member id).hw.hasCredit p.1 8 (sliceOf p.2) = true) ∧ (member id).hw.posts = [] ∧ (member id).hw.localLine 0 = true ∧
    (member id).hw.cmoHeld 0 = false ∧ (member id).hw.maint = [] ∧ ((member id).hw.link 8 0).mnt = [] ∧ (member id).hw.node < 2 ^ 16 :=
  ⟨galHere _ _ (by decide +kernel) (by decide +kernel), galTo _ _ _ (by decide +kernel), by decide +kernel⟩

theorem witness_GalleryRequests_snoop : GalHere (member vatOther).hw 8 (gmsg 0 0) ∧ GalTo (member vatOther).hw (gmsg 0 0).spos 8 ∧
    sfind 1 (member vatOther).hw.group = some 1 ∧ (let h := (member vatOther).hw
      let x := h.slice (sliceOf otherLine)
      h.sfForm (sliceOf otherLine) otherLine = none ∧ h.vatLine (sliceOf otherLine) otherLine = some ⟨otherLine, .m, 1, 0, false⟩ ∧
        x.wbb = [] ∧ x.snps = [] ∧ x.txns = [] ∧ x.stopped = false ∧ h.gtags = [] ∧ h.flits = [snoopFlit] ∧ h.meshRuns = true) ∧
    snoopFlit.at_ < 160 ∧ (nextMove snoopFlit.at_ snoopFlit.dst).1 = 5 :=
  ⟨galHere _ _ (by decide +kernel) (by decide +kernel), galTo _ _ _ (by decide +kernel), by decide +kernel⟩

/-- A writeback or an eviction notice of position 1 for line 0 is at its slice. -/
def rwb (dirty : Bool) (h : Hw) : Hw := h.updSlice (sliceOf 0) fun x => { x with rwbIn := [(8, dirty, gmsg 0 0)] }

theorem witness_GalleryRequests_writeback : ∀ d, GalHere (member (rwb d)).hw 8 (gmsg 0 0) ∧ GalTo (member (rwb d)).hw (gmsg 0 0).spos 8 ∧
    ((member (rwb d)).hw.slice (sliceOf 0)).rwbIn = [(8, d, gmsg 0 0)] ∧ (member (rwb d)).hw.lineThere 0 = true ∧
    (member (rwb d)).hw.wbbEntry (sliceOf 0) 0 = none ∧ (member (rwb d)).hw.poolDie 0 = none ∧
    (member (rwb d)).hw.hasCredit 10 (sliceOf 0) ((member (rwb d)).hw.mcOf 0) = true ∧ ((member (rwb d)).hw.slice (sliceOf 0)).stopped = false ∧ ((member (rwb d)).hw.slice (sliceOf 0)).txns = [] := by
  intro d
  cases d <;> exact ⟨galHere _ _ (by decide +kernel) (by decide +kernel), galTo _ _ _ (by decide +kernel), by decide +kernel⟩

/-- Thread 1151 waits for a load at another member. -/
def outOp : LongOp := ⟨7, .load, .g 31, false, 0, 0, false, 8, true, [⟨0x38, .wb, 8, 0, false, .group 1⟩], none, false, false, ⟨.m, true, 0⟩, false⟩
def awaits (w : Waiter) (op : Nat) : State := member fun h => tagged w op false (h.updBack 1151 fun x => { x with longs := [outOp] })

theorem noSlices (w : Waiter) (op sl : Nat) : OnlyTxns (awaits w op).hw sl [] := ⟨by
    simp [awaits, member, tagged, dev, Hw.slice, Hw.updBack, Hw.updThread, Hw.setRegF, Hw.reset, Hw.updMc, Hw.setReg, supd, sget, sset]
    rfl, by
    simp [awaits, member, tagged, dev, Hw.updBack, Hw.updThread, Hw.setRegF, Hw.reset, Hw.updMc, Hw.setReg]⟩

theorem witness_GalleryAnswers : (∀ p ∈ [(Waiter.load 1151 7 0, 1), (.line 0 0, 0x20), (.line 0 0, 0x11), (.tlbi 1151, 0x38), (.cmo 1151, 0x39)],
      sfind 0 (awaits p.1 p.2).hw.gtags = some ⟨p.1, p.2, gmsg 1 0, false, false⟩ ∧ (awaits p.1 p.2).hw.linkUp 8 0 = true ∧
        (awaits p.1 p.2).hw.ownPos = some 0) ∧
    (let s := awaits (.line 0 0) 0x11
     sfind 0 s.hw.newest = none ∧ Memory.wf s.mem = true) ∧
    sfind 0 (member id).hw.gtags = none ∧ (gmsg 0 16).arg.toNat / 16 % 2 = 1 := by decide +kernel

theorem witness_GalleryAnswers_load : GalHere (awaits (.load 1151 7 0) 1).hw 8 (gmsg 0 15) ∧ OneLoad (awaits (.load 1151 7 0) 1).hw 1151 outOp ⟨0x38, .wb, 8, 0, false, .group 1⟩ ∧
    OnlyTxns (awaits (.load 1151 7 0) 1).hw 0 [] :=
  ⟨galHere _ _ (by decide +kernel) (by decide +kernel), ⟨by decide +kernel, rfl, rfl, rfl, rfl, rfl, rfl, rfl, by decide, by decide⟩, noSlices _ _ _⟩

/-- The data for it has come to its chamber's stop. -/
def dataFlit : Flit := ⟨0, 3, chamberStop 71, chamberStop 71, 0, 0, 0, .coreAns (.load 1151 7 0) 0x38 5 0⟩

theorem witness_GalleryAnswers_flit : let s := member fun h => (h.updBack 1151 fun x => { x with longs := [outOp] } : Hw) |> fun h => { h with flits := [dataFlit] }
    OneLoad s.hw 1151 outOp ⟨0x38, .wb, 8, 0, false, .group 1⟩ ∧ s.hw.flits = [dataFlit] ∧ s.hw.meshRuns = true ∧
      (s.hw.chamber (1151 / 16)).clocked = true ∧ sget [] (1151 / 16) s.hw.awayQ = [] :=
  ⟨⟨by decide +kernel, rfl, rfl, rfl, rfl, rfl, rfl, rfl, by decide, by decide⟩, by decide +kernel⟩

/-- A request at a proxy slice for line 0 of node 1, which has asked that node. -/
def proxyTxn (k : ReqKind) (src : Requester) : Txn :=
  ⟨⟨k, otherLine, src, ⟨.m, true, 0⟩, false, 0, false, none⟩, 0, [], true, [], [], [], [], false, false, true, false, false, false, 0, false, false, 0, false⟩
def proxyHas (op : Nat) (y : Txn) (h : Hw) : Hw :=
  tagged (.line (sliceOf otherLine) otherLine) op false { h with slices := [(sliceOf otherLine, { Slice.reset with txns := [y] })] }

theorem askedAway (op : Nat) (y : Txn) (h : (y.req.line = otherLine ∧ y.asked = true ∧ y.came = false ∧ y.settled = true ∧ y.err = 0 ∧ y.unread = false ∧ y.dirty = false))
    (l : (member (proxyHas op y)).hw.localLine otherLine = false) : AskedAway (member (proxyHas op y)).hw (sliceOf otherLine) otherLine y :=
  ⟨⟨by simp [member, proxyHas, tagged, Hw.slice, sget, dev], by simp [member, proxyHas, tagged, dev]⟩, h.1, l, h.2⟩

theorem witness_GalleryAnswers_line :
    AskedAway (member (proxyHas 2 (proxyTxn .readUnique (.chamber 71 63)))).hw (sliceOf otherLine) otherLine (proxyTxn .readUnique (.chamber 71 63)) ∧
    AskedAway (member (proxyHas 1 (proxyTxn .readShared (.chamber 0 0)))).hw (sliceOf otherLine) otherLine (proxyTxn .readShared (.chamber 0 0)) ∧
    AskedAway (member (proxyHas 5 (proxyTxn (.far (farOp 0 8 0 0 0 .wb)) (.far 1151 7 true)))).hw (sliceOf otherLine) otherLine
      (proxyTxn (.far (farOp 0 8 0 0 0 .wb)) (.far 1151 7 true)) ∧ sliceOf otherLine < numSlices :=
  ⟨askedAway _ _ (by decide +kernel) (by decide +kernel), askedAway _ _ (by decide +kernel) (by decide +kernel),
    askedAway _ _ (by decide +kernel) (by decide +kernel), by decide +kernel⟩

/-- A read waits for the answers of position 1. -/
theorem witness_GalleryAnswers_wbif : let y := { proxyTxn .readUnique (.chamber 71 63) with asked := false, remote := [1] }
    OnlyTxns (member (proxyHas 0x11 y)).hw (sliceOf otherLine) [y] ∧ (gmsg 1 0).dpos ∈ y.remote ∧ y.victims = [] ∧ y.unsent = [] ∧ y.wr = false :=
  ⟨⟨by simp [member, proxyHas, tagged, Hw.slice, sget, dev], by simp [member, proxyHas, tagged, dev]⟩, by decide, rfl, rfl, rfl⟩

/-! ### Witnesses: Passage, root ports, interrupts -/

/-- Passage link (14, 0) is up and lets node 1 in. -/
def passage (f : Hw → Hw) : State := dev fun h => f ((h.setRegF (linkReg 14 0x100) 63 61 2).setReg (linkReg 14 0x2000) (w64 (2 ^ 32)))
def pkt (len aop tag : Nat) : PPkt := ⟨0, 1, BitVec.ofNat 4 aop, false, false, len, tag, 0, 0, 7, 0⟩

theorem pasHere (ty len aop : Nat) (h : (passage id).hw.passUp = [(14, 0)] ∧ pktReserved ty (pkt len aop 4095) = false ∧
    (passage id).hw.passEgress 1 = some (14, 0)) : PasHere (passage id).hw 14 ty (pkt len aop 4095) 14 0 :=
  ⟨⟨(14, 0), by rw [h.1]; rfl⟩, h.2.1, h.2.2⟩

theorem witness_PassageRequests : PasHere (passage id).hw 14 0 (pkt 64 0 4095) 14 0 ∧ PasHere (passage id).hw 14 1 (pkt 64 0 4095) 14 0 ∧
    PasHere (passage id).hw 14 2 (pkt 32 10 4095) 14 0 ∧ (passage id).hw.passRefuse 14 (pkt 32 0 4095) = none ∧
    (passage fun h => h.setReg (linkReg 14 0x2000) 0).hw.passRefuse 14 (pkt 64 0 4095) = some 2 ∧
    (passage id).hw.hasCredit 4 14 (sliceOf 0) = true ∧ (passage id).hw.posts = [] ∧ (∀ ty, ty < 7 → pktReserved ty (pkt 65 0 0) = true) :=
  ⟨pasHere _ _ _ (by decide +kernel), pasHere _ _ _ (by decide +kernel), pasHere _ _ _ (by decide +kernel), by decide +kernel, by decide +kernel,
    by decide +kernel, by decide +kernel, by decide +kernel⟩

/-- A request of a port for line 0, which the Vat holds, is at its slice. -/
def portAsks (r : SReq) : State := dev fun h => h.updSlice (sliceOf 0) fun x => { x with intake := [r], ways := [(vatSet 0 * 24, ⟨0, .m, 1, 0, false⟩)] }
def portReq (k : ReqKind) (src : Requester) : SReq := ⟨k, 0, src, ⟨.s, false, 0⟩, false, 16, false, none⟩

theorem portRequest (r : SReq) (h : (let x := (portAsks r).hw.slice (sliceOf 0)
    x.stopped = false ∧ x.intake = [r] ∧ x.txns = [] ∧ x.snps = [] ∧ (portAsks r).hw.wbbEntry (sliceOf 0) r.line = none ∧ r.cream = false ∧
      (portAsks r).hw.localLine r.line = true ∧ (portAsks r).hw.others = [] ∧ (portAsks r).hw.sfForm (sliceOf 0) r.line = none)) :
    PortRequest (sliceOf 0) r (portAsks r) := ⟨by decide +kernel, h⟩

theorem witness_PassageRequests_slice : PortRequest (sliceOf 0) (portReq (.read 0 64) (.pass 14 (pkt 64 0 4095))) (portAsks (portReq (.read 0 64) (.pass 14 (pkt 64 0 4095)))) ∧
    (∀ n ∈ [1, 2], (dev id).hw.judge ⟨.s, false, 0⟩ 0 n = true) ∧ ((portAsks (portReq (.read 0 64) (.port 7))).hw.vatLine (sliceOf 0) 0).isSome = true ∧
    ((portAsks (portReq (.read 0 64) (.port 7))).hw.slice (sliceOf 0)).wbbFree.isSome = true :=
  ⟨portRequest _ (by decide +kernel), by decide +kernel, by decide +kernel, by decide +kernel⟩

/-- A load of thread 1151 is out at node 1 with tag 4095. -/
def passWait (w : Waiter) : State := passage fun h => { h.updBack 1151 fun x => { x with longs :=
  [⟨7, .load, .g 31, false, 0, 0, false, 8, true, [⟨0x38, .wb, 8, 0, false, .remote⟩], none, false, false, ⟨.m, true, 0⟩, false⟩] } with ptags := [(ptagKey 14 0 4095, ⟨some w, 1, 0x38⟩)] }

theorem witness_PassageAnswers : (∀ w ∈ [Waiter.load 1151 7 0, .store 1151 5 true .strict], let s := passWait w
      s.hw.passUp = [(14, 0)] ∧ s.hw.ptagOf 14 (pkt 64 0 4095) = some (ptagKey 14 0 4095, w, 0x38) ∧
        sfind ((16 * 14 + 0) * 4096 + 4095) s.hw.ptags = some ⟨some w, 1, 0x38⟩ ∧ (s.hw.thread 1151).b.longs.length = 1) ∧
    (∀ ty, 3 ≤ ty → ty < 7 → pktReserved ty (pkt 64 0 4095) = false) ∧ (passage id).hw.ptagOf 14 (pkt 64 0 4095) = none ∧
    (let s := passage fun h => { h with ptags := [(ptagKey 14 0 0, ⟨none, 1, 0⟩)] }
     sfind ((16 * 14 + 0) * 4096 + 0) s.hw.ptags = some ⟨none, 1, 0⟩) := by decide +kernel

theorem witness_PassageAnswers_slices (w : Waiter) : OnlyTxns (passWait w).hw 0 [] := ⟨by
    simp [passWait, passage, dev, Hw.slice, Hw.updBack, Hw.updThread, Hw.setRegF, Hw.reset, Hw.updMc, Hw.setReg, supd, sget, sset]
    rfl, by
    simp [passWait, passage, dev, Hw.updBack, Hw.updThread, Hw.setRegF, Hw.reset, Hw.updMc, Hw.setReg]⟩

/-- A far atomic of thread 1151 has been sent to node 1. -/
def remoteLine : Nat := 2 ^ 42
def farWait : Txn := ⟨⟨.far (farOp 0 8 0 0 0 .nc), remoteLine, .far 1151 7 true, ⟨.m, true, 0⟩, false, 0, false, none⟩, 0, [], true, [], [], [], [],
  false, false, true, false, false, false, 0, false, false, 0, false⟩
def farOut : State := passage fun h => { h with slices := [(sliceOf remoteLine, { Slice.reset with txns := [farWait] })],
                                                ptags := [(ptagKey 14 0 4095, ⟨some (.line (sliceOf remoteLine) remoteLine), 1, 0⟩)] }

theorem witness_PassageAnswers_far : farOut.hw.ptagOf 14 (pkt 8 0 4095) = some (ptagKey 14 0 4095, .line (sliceOf remoteLine) remoteLine, 0) ∧
    AskedAway farOut.hw (sliceOf remoteLine) remoteLine farWait ∧ sliceOf remoteLine < numSlices :=
  ⟨by decide +kernel, ⟨⟨by simp [farOut, passage, Hw.slice, sget, dev], by simp [farOut, passage, dev]⟩, rfl, by decide +kernel, rfl, rfl,
    by decide +kernel, rfl, rfl, rfl⟩, by decide +kernel⟩

/-- That load and its part. -/
def partOut : Part := ⟨0x38, .wb, 8, 0, false, .remote⟩
def loadOut : LongOp := ⟨7, .load, .g 31, false, 0, 0, false, 8, true, [partOut], none, false, false, ⟨.m, true, 0⟩, false⟩

theorem oneLoad (s : State) (h : (s.hw.thread 1151).b.longs = [loadOut]) : OneLoad s.hw 1151 loadOut partOut :=
  ⟨h, rfl, rfl, rfl, rfl, rfl, rfl, rfl, by decide, by decide⟩

theorem witness_PassageAnswers_load : OneLoad (passWait (.load 1151 7 0)).hw 1151 loadOut partOut := oneLoad _ (by decide +kernel)

/-- The answer to a store has come to its chamber's stop; the store is out. -/
def storeFlit : Flit := ⟨0, 3, chamberStop 71, chamberStop 71, 0, 0, 0, .coreAns (.store 1151 5 false .strict) 0x38 0 3⟩

theorem witness_PassageAnswers_store : let s := passage fun h => { h.updBack 1151 fun x => { x with outs := [(0, .strict, 1)] } with flits := [storeFlit] }
    s.hw.flits = [storeFlit] ∧ s.hw.meshRuns = true ∧ (s.hw.chamber (1151 / 16)).clocked = true ∧ sget [] (1151 / 16) s.hw.awayQ = [] ∧
      (s.hw.thread 1151).b.outs = [(0, .strict, 1)] := by decide +kernel

/-- Link (7, 15) is up, a read of PCIe space is out at port 7, and a reservation holds a function of it. -/
def rooted (live : Bool) : State := dev fun h => { (((passWait (.load 1151 7 0)).hw.setRegF (linkReg 7 (0x100 + 8 * 15)) 63 61 2)) with
  mmio := [⟨7, 3, .load 1151 7 0, 0x38, false⟩], resvs := if live then [(0, ⟨[w64 (2 * 2 ^ 62 + 9), 7], 1, true, [], 0, 0, 0, [], false⟩)] else [], regs := h.regs }

theorem witness_RootPortTraffic : (∃ r, (rooted true).hw.resvs = [(0, r)] ∧ r.live = true ∧ r.retire = false ∧ resvKind r.words = 2 ∧
      Word.fld (wd r.words 1) 2 0 = 7 ∧ resvBind r.words = 9) ∧
    (dev id).hw.portReaches 0x1000 = true ∧ (dev id).hw.portReaches 0x0F0000000000 = false ∧
    (∀ rd ∈ [true, false], (dev id).hw.portBusy 7 (if rd then 2 else 1) = false ∧ (dev id).hw.ingressFull 7 5 rd 0x1000 = false) ∧
    (dev id).hw.msgAddr 0x1000 = false ∧
    (∀ n ∈ [1, 2], (dev id).hw.judge ((dev id).hw.portAcc 7) 0x1000 n = true ∧ (dev id).hw.judge ((dev id).hw.portAcc 7) 0x40000 n = false) ∧
    (∀ rd, (dev id).hw.matching 0xA007 rd 0x1000 2 5 = none) ∧ (∀ c ∈ [1, 2], (dev id).hw.hasCredit c 7 (sliceOf 64) = true) ∧ (dev id).hw.posts = [] ∧
    (rooted true).hw.mmio = [⟨7, 3, .load 1151 7 0, 0x38, false⟩] := ⟨⟨_, rfl, by decide +kernel⟩, by decide +kernel⟩

theorem witness_RootPortTraffic_slice : PortRequest (sliceOf 0) (portReq (.read 0 64) (.port 7)) (portAsks (portReq (.read 0 64) (.port 7))) ∧
    PortRequest (sliceOf 0) (portReq (.write (lineWrite 0 8 1 false .wb)) (.port 7)) (portAsks (portReq (.write (lineWrite 0 8 1 false .wb)) (.port 7))) :=
  ⟨portRequest _ (by decide +kernel), portRequest _ (by decide +kernel)⟩

theorem witness_RootPortTraffic_ltr : ((dev fun h => h.setRegF (linkReg 7 (0x100 + 8 * 15)) 63 61 2)).hw.linkUp 7 15 = true := by decide +kernel

/-- The router's cache holds the entry of message 0. -/
def routed (e0 e1 : Word) : State := dev fun h => { h with router := { h.router with cache := [(0, (e0, e1))] } }

/-- Message 0 of a device has come to the router's stop. -/
def irqFlit : Flit := ⟨0, 1, blockStop .router, blockStop .router, 0, 0, 0, .irq (.device 7 9) 0⟩
theorem arrived (h : Hw) (a : h.flits = [irqFlit]) (b : h.meshRuns = true) : Arrived h irqFlit (.irq (.device 7 9) 0) :=
  ⟨a, by decide, by decide, by decide, rfl, b, rfl⟩

/-- Two reads of its entry are back, one of them in error. -/
def lookedUp : State := dev fun h => { h with router := { h.router with looking :=
  [⟨5, .device 7 9, 0, some (lineOf [w64 (2 ^ 63 + 2 ^ 60 + 4095), w64 1151], 0)⟩, ⟨6, .device 7 9, 0, some (0, 4)⟩] } }

theorem witness_InterruptMessages_arrived : Arrived (dev fun h => { h with flits := [irqFlit] }).hw irqFlit (.irq (.device 7 9) 0) :=
  arrived _ (by decide +kernel) (by decide +kernel)

theorem witness_InterruptMessages : 2 ^ (dev id).hw.regF (routerReg 0x100000) 4 0 = 1 ∧ (dev id).hw.portSecure 7 = false ∧
    (dev id).hw.ownMem 0 = true ∧ (dev id).hw.ownMem 64 = true ∧ (∀ l < 2, (dev id).hw.hasCredit 2 8 (sliceOf l) = true) ∧ (dev id).hw.posts = [] ∧
    sfind 0 (dev id).hw.router.cache = none ∧ (inbox (dev id).hw 1151 2).queued = [] ∧
    sfind 0 (routed (w64 (2 ^ 63 + 2 * 2 ^ 60 + 4095)) (w64 1151)).hw.router.cache = some (w64 (2 ^ 63 + 2 * 2 ^ 60 + 4095), w64 1151) ∧
    sfind 0 (routed (w64 (2 ^ 63 + 2 ^ 62 + 255)) 64).hw.router.cache = some (w64 (2 ^ 63 + 2 ^ 62 + 255), 64) ∧ Word.fld 64 5 0 = 0 := by decide +kernel

theorem witness_InterruptMessages_entry : (∃ v, lookedUp.hw.router.looking[0]? = some ⟨5, .device 7 9, 0, some (v, 0)⟩ ∧
      vword v 0 = w64 (2 ^ 63 + 2 ^ 60 + 4095) ∧ vword v 1 = w64 1151) ∧
    lookedUp.hw.router.looking[1]? = some ⟨6, .device 7 9, 0, some (0, 4)⟩ ∧ (inbox lookedUp.hw 1151 0).queued = [] ∧ lookedUp.hw.router.cache.length < 4096 :=
  ⟨⟨lineOf [w64 (2 ^ 63 + 2 ^ 60 + 4095), w64 1151], by decide +kernel, by decide +kernel, by decide +kernel⟩, by decide +kernel⟩

/-- A posting and a notification of the descriptor at 0, and what a thread has under way. -/
def posts (v : List VintOp) : State := dev fun h => { h.updThread 1151 fun x => { x with vint := v } with
  router := { h.router with posting := [⟨0, 0, 0, 255, false, some (5, 0)⟩], notifs := [(1151, 0)], spill := [(1151, 3, ⟨true, 9, 4095, 0, false⟩)], inval := some 1 } }

theorem witness_PostedInterrupts : (∀ fold, ∀ err ∈ [0, 4], ((posts [⟨fold, 0, 3, true, some (5, err)⟩]).hw.thread 1151).vint = [⟨fold, 0, 3, true, some (5, err)⟩]) ∧
    (posts []).hw.router.posting = [⟨0, 0, 0, 255, false, some (5, 0)⟩] ∧ (1151, 0) ∈ (posts []).hw.router.notifs ∧
    (let h := (posts []).hw.setReg (intrReg 1151 0x20) (w64 (2 ^ 63))
     h.reg (intrReg 1151 0x28) = 0 ∧ Word.bit (h.reg (intrReg 1151 0x20)) 63 = true ∧ h.ownMem 0 = true ∧ h.posts = [] ∧
       h.hasCredit 0 (1151 / 16) (sliceOf 0) = true ∧ (h.thread 1151).vint = []) ∧
    Word.bit ((posts []).hw.reg (intrReg 1151 0x20)) 63 = false := by decide +kernel

/-- Thread 1151's inbox 3 with these records, and a full or empty spill queue. -/
def inboxed (rs : List IntRec) (n : Nat) : State := dev fun h => { h.updThread 1151 fun x => { x with inbox := [(3, ⟨rs, false⟩)] } with
  router := { h.router with spill := List.replicate n (0, 0, ⟨true, 0, 0, 0, false⟩) } }

theorem witness_InboxesAndWiredSources : (inbox (inboxed [⟨true, 2 ^ 24 - 1, 4095, 255, false⟩] 0).hw 1151 3).queued = [⟨true, 2 ^ 24 - 1, 4095, 255, false⟩] ∧
    (∀ n ∈ [31, 32], (inbox (inboxed (List.replicate n ⟨true, 1, 0, 0, false⟩) 0).hw 1151 3).queued.length = n) ∧
    (∀ n ∈ [1023, 1024], (inboxed (List.replicate 32 ⟨true, 1, 0, 0, false⟩) n).hw.router.spill.length = n) ∧
    (posts []).hw.router.spill = [(1151, 3, ⟨true, 9, 4095, 0, false⟩)] ∧ (inbox (posts []).hw 1151 3).queued = [] ∧
    (posts []).hw.router.inval = some 1 ∧ (∃ p ∈ (posts []).hw.router.posting, p.n < 1) ∧ (dev id).hw.router.posting = [] := by decide +kernel

/-- A claim holds message 9; wired source 0xFFF routes to thread 1151 at H, its last state up or down. -/
def wiredTo (up : Bool) : State := dev fun h => (h.setReg (intrReg 1151 (8 * 3)) (w64 (2 ^ 63 + 2 ^ 62 + 9))).setReg (wireReg 0x42)
  (w64 (2 ^ 63 + b2n up * 2 ^ 61 + 2 * 2 ^ 59 + 1151 * 2 ^ 32 + 4095))

theorem witness_InboxesAndWiredSources_claims : Word.bit ((wiredTo true).hw.reg (intrReg 1151 (8 * 3))) 63 = true ∧
    Word.bit ((wiredTo true).hw.reg (intrReg 1151 (8 * 3))) 62 = true ∧
    (∀ up, let w := (wiredTo up).hw.reg (wireReg 0x42)
      Word.bit w 63 = true ∧ Word.bit w 58 = false ∧ Word.fld w 60 59 = 2 ∧ Word.fld w 42 32 = 1151 ∧ Word.fld w 11 0 = 4095 ∧ Word.bit w 62 = false ∧
        Word.bit w 61 = up) ∧ (wiredTo true).hw.srcLevel 0x42 = false ∧
    (let s := wiredTo false
     ({ s with hw := s.hw.setReg (logReg 0x38) (w64 (2 ^ 63)) } : State).hw.srcLevel 0x42 = true) ∧
    (let s := wiredTo true
     ({ s with hw := s.hw.setReg (intrReg 1151 0x10) (w64 (2 ^ 63 + 0x42 * 2 ^ 24 + 4095)) } : State).hw.reg (intrReg 1151 0x10) = w64 (2 ^ 63 + 0x42 * 2 ^ 24 + 4095)) ∧
    (inbox (wiredTo true).hw 1151 2).queued = [] ∧ Word.fld ((dev id).hw.reg (wireReg 4095)) 60 59 < 3 ∧ Word.bit ((dev id).hw.reg (wireReg 4095)) 58 = false ∧
      Word.bit ((dev id).hw.reg (wireReg 4095)) 61 = false := by decide +kernel

/-! ### Witnesses: worlds, registers, patrol, the log, rails and clocks -/

/-- Core 287 is in Drip, and a comparator stands where TIME stands or after it. -/
def dripping (k : Nat) (v : Word) : State := dev fun h => { (h.updChamber 71 fun c => { c with cstate := [(3, .drip)] }).updArch 1151 fun a =>
  { a with cr := [(k, v)] } with time := 9 }

theorem witness_TimersHandoversWatchdog : (∀ k ∈ [0x405, sKey true 0x405, 0x806], let s := dripping k 9
      ((s.hw.thread 1151).a.crAt k).toNat ≤ s.hw.time.toNat ∧ s.hw.trans = [] ∧ s.hw.scopeState 0 287 = .drip ∧ (s.hw.chamber 71).park = none ∧
        s.hw.scopeState 1 71 = .run ∧ s.hw.scopeState 2 3 = .run ∧ s.hw.pkg.state = .run ∧ s.hw.pkg.target = none ∧
        (dripping k 10).hw.time.toNat < (((dripping k 10).hw.thread 1151).a.crAt k).toNat) := by decide +kernel

/-- The secure watchdog runs with this much left. -/
def watched (n : Nat) : State := dev fun h => { h.setReg (chkReg 0x20100) (w64 (9 * 2 ^ 32 + 2 * 2 ^ 16)) with swdtOn := true, swdt := n }

theorem witness_TimersHandoversWatchdog_others : (dev id).hw.hand = none ∧
    (∀ i ∈ [0, 7], (dev id).hw.portSecure i = false) ∧
    (∀ n ∈ [1, 4], (dev fun h => h.setInstState 511 n).hw.instState 511 = n) ∧ Word.bit ((dev id).hw.reg (rinstReg 511)) 60 = false ∧
    ¬((dev id).hw.regF (wireReg 4095) 60 59 = 3 ∨ Word.bit ((dev id).hw.reg (wireReg 4095)) 58 = true) ∧
    ((at_ .m true 0 0 0).hw.thread 0).a.level = .m ∧ ((at_ .h true 0 0 0).hw.thread 0).a.level ≠ .m ∧
    (∀ n ∈ [1, 131072], (watched n).hw.swdtOn = true ∧ (watched n).hw.regF (chkReg 0x20100) 31 16 = 2 ∧ (watched n).hw.swdt = n) ∧
    ((watched 0).hw.swdt = 0 ∧ (watched 0).hw.wdFire = none ∧ (watched 0).hw.bootWait = none) := by decide +kernel

/-- A region, locked or not, and a function entry of port 7 with its reservation. -/
def funcs : State := dev fun h => { h.setReg (linkReg 7 (0x1000 + 8 * 255)) (w64 (2 ^ 63 + 9)) with
  resvs := [(0, ⟨[w64 (2 * 2 ^ 62 + 9), 7], 1, true, [], 0, 0, 0, [], false⟩)] }

theorem witness_RegisterWrites : (dev id).hw.node = 0 ∧ (w64 (2 ^ 48)).toNat / 2 ^ 48 ≠ (dev id).hw.node ∧
    Word.bit ((dev id).hw.reg (chkReg (0x20 * 63 + 16))) 62 = false ∧
    Word.bit ((dev fun h => h.setRegF (chkReg (0x20 * 63 + 16)) 62 62 1).hw.reg (chkReg (0x20 * 63 + 16))) 62 = true ∧
    Word.fld (w64 (2 ^ 63 + 2 * 2 ^ 56)) 57 56 < 3 ∧ (dev id).hw.portSecure 7 = false ∧
    (∃ r, funcs.hw.resvs = [(0, r)] ∧ r.live = true ∧ r.retire = false ∧ resvKind r.words = 2 ∧ Word.fld (wd r.words 1) 2 0 = 7 ∧
      Word.bit (funcs.hw.reg (linkReg 7 (0x1000 + 8 * 255))) 63 = true ∧ resvBind r.words = funcs.hw.regF (linkReg 7 (0x1000 + 8 * 255)) 15 0) :=
  ⟨by decide +kernel, by decide +kernel, by decide +kernel, by decide +kernel, by decide +kernel, by decide +kernel, _, rfl, by decide +kernel⟩

/-- Sequencer 3 before or at way 23 of slice 71. -/
def unit23 : Nat := 1152 + 24 * 17 + 23
def patrols (cur : Option Nat) : State := dev fun h => { ((h.setRegF (logReg 0x1000) 63 63 1).setRegF (logReg (0x1100 + 8 * 3)) 15 0 unit23).updSlice 71 fun x =>
  { x with offline := if cur.isSome then [(23, true)] else [] } with patrol := [(3, { Patrol.reset with cur := cur })] }

theorem witness_PatrolSlices : (let s := patrols none
      (s.hw.patrolOf 3).cur = none ∧ (s.hw.patrolOf 3).front = [] ∧ s.hw.regF (logReg 0x1000) 63 63 = 1 ∧ s.hw.regF (logReg (0x1100 + 8 * 3)) 15 0 = unit23 ∧
        s.hw.unitSkips 3 unit23 = false ∧ (s.hw.slice 71).ways = []) ∧
    (let s := patrols (some unit23)
     (s.hw.patrolOf 3).cur = some unit23 ∧ (s.hw.repairsOf 3).queue.length < 64 ∧ (s.hw.repairsOf 3).queue.length < 128 - (s.hw.repairsOf 3).fuses.length - (s.hw.repairsOf 3).spoiled ∧
       coverOf (2 - sget 0 unit23 (s.hw.repairsOf 3).rows) (2 - sget 0 unit23 (s.hw.repairsOf 3).cols) [(0, 0), (0, 1)] ≠ none ∧ sget false 23 (s.hw.slice 71).offline = true ∧ (s.hw.slice 71).ways = []) := by decide +kernel

/-- Bank 5 with n records of a source; the log's pointers. -/
def held0 (cnt : Nat) : Held := ⟨⟨w64 (0x52 * 2 ^ 56), 0, 0, 0⟩, 65535, true, 7, cnt, 0, 0⟩
def banked (n cnt : Nat) : State := dev fun h => { ((h.setReg (logReg 0x10) (w64 5)).setReg (logReg 0x18) 4).setReg (logReg 0x20) 3 with
  banks := [(5, ⟨List.replicate n (held0 cnt), none, 0⟩)] }

theorem witness_RecordsAndLog : (∀ n ∈ [0, 31, 32], ((banked n 65534).hw.bank 5).recs.length = n) ∧
    (((banked 32 65534).hw.bank 5).recs = held0 65534 :: List.replicate 31 (held0 65534)) ∧ (∀ y ∈ ((banked 32 0).hw.bank 5).recs, y.src ≠ 1) ∧
    (let s := banked 1 0
     s.hw.nextBank = some 5 ∧ (s.hw.bank 5).ovf = none ∧ (s.hw.bank 5).recs = [held0 0] ∧ s.hw.regF (logReg 8) 63 63 = 0 ∧ s.hw.logU < 3840 ∧ s.hw.reg (logReg 0x10) ≤ w64 (2 ^ 32 - 2) ∧
       (s.hw.reg (logReg 0x20)).toNat ≤ (s.hw.reg (logReg 0x18)).toNat ∧ (s.hw.reg (logReg 0x18)).toNat ≤ (s.hw.reg (logReg 0x10)).toNat) ∧
    ((dev fun h => h.updSlice 71 fun x => { x with ways := [(vatSet 0 * 24, ⟨0, .m, 1, 0, false⟩)] }).hw.vatLine 71 0 = some ⟨0, .m, 1, 0, false⟩) ∧
    Word.fld (w64 (0x12 * 2 ^ 56 + 3 * 2 ^ 44 + 71 * 2 ^ 32)) 47 44 = 3 ∧ Word.fld (w64 (0x12 * 2 ^ 56 + 3 * 2 ^ 44 + 71 * 2 ^ 32)) 43 32 < 72 := by decide +kernel

/-- Rail r with a set-point wanted and failures in a row, in a package state. -/
def railed (r : Nat) (w : Option Nat) (n : Nat) (p : PState) : State := dev fun h => { h with rails := [(r, ⟨n, w, 0⟩)], pkg := { h.pkg with state := p } }

theorem witness_RailsAndClocks_rails : (railed 11 none 0 .run).hw.off = false ∧ ((railed 11 none 3 .run).hw.rail 11).want = none ∧
    ((railed 11 (some 600) 2 .run).hw.rail 11).want = some 600 ∧ ((railed 11 (some 600) 3 .run).hw.rail 11).fails = 3 ∧
    (∀ r ∈ [16, 35], ((railed r none 2 .run).hw.rail r).fails = 2) ∧ (railed 16 none 0 .deep).hw.pkg.state = .deep ∧ (railed 16 none 0 .run).hw.pkg.state ≠ .deep := by
  decide +kernel

/-- Chamber 71 with a change, a droop level, detectors out of service and hot readings. -/
def chamber71 (y : Option FreqChange) (d : Nat) (off : BitVec 4) (hot : Nat) : State := dev fun h => { h.updChamber 71 fun c =>
  { c with change := y, droop := d, detectOff := off } with tooHot := [(71, hot)] }

theorem witness_RailsAndClocks_clocks : ((chamber71 (some ⟨400, false, true⟩) 0 0 0).hw.chamber 71).change = some ⟨400, false, true⟩ ∧
    ((dev id).hw.chamber 71).change = none ∧ 0 < (dev id).hw.regF (pwrReg 0) 31 24 ∧ sget false 71 (dev id).hw.badSensor = false ∧
    (∀ n ∈ [0, 1], sget 0 71 (chamber71 none 0 0 n).hw.tooHot = n) ∧
    (∀ d ∈ [0, 1, 2], ((chamber71 none d 14 0).hw.chamber 71).droop = d ∧ ((chamber71 none d 14 0).hw.chamber 71).detectOff ≠ 15) ∧
    ((chamber71 none 0 15 0).hw.chamber 71).detectOff = 15 := by decide +kernel

/-! ### Witnesses: power states, resets and the boot -/

/-- Every thread waits at M with no latency limit and this MAXST. -/
def sleeper (v : Word) : Thread := { Thread.reset with run := .waiting .m true, a := { Arch.reset with cr := [(4, w64 (2 ^ 32 - 1)), (0xC08, v)] } }
def sleepers (v : Word) (lo n : Nat) : SMap Thread := (List.range' lo n).map fun t => (t, sleeper v)

theorem sleepers_get (v : Word) (n lo t : Nat) (h : lo ≤ t) (h2 : t < lo + n) : sget Thread.reset t (sleepers v lo n) = sleeper v := by
  induction n generalizing lo with
  | zero => omega
  | succ n ih =>
    simp only [sleepers, List.range'_succ, List.map_cons, sget]
    split
    · rfl
    · exact ih (lo + 1) (by omega) (by omega)

theorem forN_none {f : Nat → Option Nat → Option Nat} (n lo : Nat) (h : ∀ t, lo ≤ t → t < lo + n → f t none = none) : forN lo n f none = none := by
  induction n generalizing lo with
  | zero => rfl
  | succ n ih =>
    rw [forN, h lo (by omega) (by omega)]
    exact ih (lo + 1) fun t a b => h t (by omega) (by omega)

/-- These threads, the dies in Drip, and the package in a state. -/
def dozing (ts : SMap Thread) (p : PkgPower) : State := dev fun h => { h with threads := ts, dies := [(0, .drip), (1, .drip), (2, .drip), (3, .drip)], pkg := p }

theorem dozing_permits (v : Word) (ts : SMap Thread) (p : PkgPower) (st : PState) (hs : ∀ t, t < 1152 → sget Thread.reset t ts = sleeper v)
    (e : (dozing ts p).hw.entryOk 3 0 st = true) (m : st.num ≤ (if Word.fld v 1 0 = 0 then 1 else if Word.fld v 1 0 = 1 then 2 else 4)) :
    (dozing ts p).hw.permits 3 0 st = true := by
  have ht : ∀ t, t < 1152 → (dozing ts p).hw.thread t = sleeper v := hs
  have hm : ∀ t, t < 1152 → (dozing ts p).hw.threadPermits t st = true := by
    intro t h
    simp only [Hw.threadPermits, Hw.maxst, ht t h]
    simpa [sleeper, Arch.crAt, sget] using m
  have hl : (dozing ts p).hw.tolerance 3 0 (st == .deep) = none := by
    simp only [Hw.tolerance]
    rw [forN_none]
    · have h0 : (dozing ts p).hw.regs = (dev id).hw.regs := rfl
      have h3 : ∀ a, (dozing ts p).hw.reg a = (dev id).hw.reg a := fun a => by rw [Hw.reg, Hw.reg, h0]
      have h4 : ∀ a i j, (dozing ts p).hw.regF a i j = (dev id).hw.regF a i j := fun a i j => by rw [Hw.regF, Hw.regF, h3]
      have h1 : ∀ k j, (dozing ts p).hw.linkState k j = (dev id).hw.linkState k j := fun k j => by rw [Hw.linkState, Hw.linkState, h4]
      have h2 : ∀ k j, (dozing ts p).hw.linkUp k j = (dev id).hw.linkUp k j := fun k j => by rw [Hw.linkUp, Hw.linkUp, h1]
      simp only [h1, h2, h3, h4]
      clear e m ht hm h0 h1 h2 h3 h4 hs
      cases st <;> decide +kernel
    · intro t _ h
      have h1 : t < 1152 := by simpa [scopeThreads, numThreads] using h
      rw [ht t h1]; rfl
  simp only [Hw.permits, hl, e, Bool.true_and, List.all_eq_true, List.mem_range]
  intro i hi
  have h1 : i < 1152 := by simpa [scopeThreads, numThreads] using hi
  simpa [scopeThreads] using hm i h1

theorem deepest_of {h : Hw} {a b : Bool} (h4 : h.permits 3 0 .deep = false) (h3 : h.permits 3 0 .sump = false) (h2 : h.permits 3 0 .still = a)
    (h1 : h.permits 3 0 .drip = b) : h.deepest 3 0 = if a then .still else if b then .drip else .run := by
  cases a <;> cases b <;> simp [Hw.deepest, List.find?, h4, h3, h2, h1]

theorem not_entry {h : Hw} {st : PState} (e : h.entryOk 3 0 st = false) : h.permits 3 0 st = false := by simp [Hw.permits, e]

theorem not_first {h : Hw} {st : PState} (e : h.threadPermits 0 st = false) : h.permits 3 0 st = false := by
  have hl : (List.range (scopeThreads 3 0).2).all (fun i => h.threadPermits ((scopeThreads 3 0).1 + i) st) = false := by
    rw [List.all_eq_false]; exact ⟨0, by simp [scopeThreads, numThreads], by simpa [scopeThreads] using e⟩
  simp only [Hw.permits, hl, Bool.and_false]

def asleep (v : Word) (p : PkgPower) : State := dozing (sleepers v 0 1152) p

theorem asleep_get (v : Word) (t : Nat) (h : t < 1152) : sget Thread.reset t (sleepers v 0 1152) = sleeper v := sleepers_get v 1152 0 t (by omega) (by omega)

theorem witness_PowerStates_package : (asleep 0 PkgPower.reset).hw.deepest 3 0 = .drip ∧ (asleep 2 PkgPower.reset).hw.deepest 3 0 = .still ∧
    (asleep 2 { PkgPower.reset with refused := true }).hw.deepest 3 0 = .still :=
  ⟨deepest_of (b := true) (a := false) (not_entry (by decide +kernel)) (not_entry (by decide +kernel)) (not_first (by decide +kernel))
      (dozing_permits 0 _ _ _ (asleep_get 0) (by decide +kernel) (by decide)),
    deepest_of (b := true) (a := true) (not_entry (by decide +kernel)) (not_entry (by decide +kernel))
      (dozing_permits 2 _ _ _ (asleep_get 2) (by decide +kernel) (by decide)) (dozing_permits 2 _ _ _ (asleep_get 2) (by decide +kernel) (by decide)),
    deepest_of (b := true) (a := true) (not_entry (by decide +kernel)) (not_entry (by decide +kernel))
      (dozing_permits 2 _ _ _ (asleep_get 2) (by decide +kernel) (by decide)) (dozing_permits 2 _ _ _ (asleep_get 2) (by decide +kernel) (by decide))⟩

/-- A package state and attempt. -/
def pkgIs (p : PkgPower) : State := dev fun h => { h with pkg := p }
def attempt (st : PState) (step : Nat) (ready : List Nat) : PkgPower := { PkgPower.reset with target := some st, step := step, ready := ready }

theorem witness_PowerStates_attempt : (let s := pkgIs (attempt .still 1 (List.range 181))
      s.hw.pkg.target = some .still ∧ s.hw.pkg.step = 1 ∧ s.hw.portRefuses 181 .still = false ∧ s.hw.pmeDone 181 .still = true ∧ 181 ∉ s.hw.pkg.ready ∧
        s.hw.pkg.stuck = false ∧ s.hw.pkg.wake = none) ∧
    (let s := dev fun h => { (h.setRegF (linkReg 7 (0x100 + 8 * 15)) 63 61 2).setReg (linkReg 17 0x2000) (w64 (2 ^ 32)) with pkg := attempt .deep 1 [] }
     s.hw.portRefuses 177 .deep = true ∧ s.hw.linkUp 7 15 = true ∧ (7, 15) ∉ s.hw.pkg.acks) ∧
    (∀ n ∈ [2, 5], let s := pkgIs (attempt .still n [])
      s.hw.pkg.target = some .still ∧ s.hw.pkg.step = n ∧ s.hw.pkg.wake = none ∧ s.hw.pkg.stuck = false) ∧
    (∀ st ∈ [PState.run, .drip, .still, .deep], (pkgIs { PkgPower.reset with state := st }).hw.pkg.state = st) ∧
    (∀ n ∈ [3, 4], let s := pkgIs { PkgPower.reset with state := .sump, wake := some ⟨6, 7, 8, 3, 15, 9, 10⟩, wstep := n }
      s.hw.pkg.wake = some ⟨6, 7, 8, 3, 15, 9, 10⟩ ∧ s.hw.pkg.wstep = n ∧ s.hw.pkg.stuck = false ∧ s.hw.pkg.state ≠ .deep ∧ s.hw.pkg.target ≠ some .deep) := by
  decide +kernel

/-- The threads of core 287 wait; core 287 is in a state, with an entry or exit. -/
def coreIs (st : PState) (x : Option Trans) : State := dev fun h => { h.updChamber 71 fun c => { c with cstate := [(3, st)] } with
  threads := sleepers 0 1148 4, trans := match x with | some y => [(287, y)] | none => [] }

theorem witness_PowerStates_core : (coreIs .run none).hw.scopeState 0 287 = .run ∧ (coreIs .run none).hw.deepest 0 287 = .drip ∧
    ((coreIs .run none).hw.chamber 71).park.isSome = false ∧ (dev id).hw.deepest 0 287 = .run ∧ sfind 287 (coreIs .run none).hw.trans = none ∧
    (∀ st ∈ [PState.drip, .sump], (coreIs st none).hw.scopeState 0 287 = st ∧ (coreIs .drip none).hw.deepest 0 287 = .drip) ∧
    (∀ k ∈ [0, 1, 4], ∀ t ∈ [0, 1, 8], sfind 287 (coreIs .sump (some ⟨.run, k, t, false⟩)).hw.trans = some ⟨.run, k, t, false⟩) ∧
    (coreIs .run (some ⟨.drip, 0, 0, false⟩)).hw.scopeQuiet [] 0 287 .drip = true ∧ (dev id).hw.wdFire = none ∧ (dev id).hw.bootWait = none := by decide +kernel

/-- A valid save area, a secure thread of chamber 0, a secure instance of engine 0 and a secure port 0; a request in progress or deferred. -/
def secured (sec : Bool) (b : Option BlkReq) (d : SMap Nat) : State := dev fun h => let h := h.setReg (pwrReg 0x910) (w64 (2 ^ 63))
  { (if sec then ((((runs 0 Arch.reset h).setReg (rinstReg 0) (w64 (2 * 2 ^ 61 + 2 ^ 60))).setReg (chkReg 0x20018) 1).updInst 0 id) else h) with blkreq := b, deferred := d }

theorem witness_PowerStates_requests : (∀ b ∈ [0, 4096, 4 * 4096], ∀ sec, (secured sec none []).hw.secureHeld b = sec) ∧
    (∀ sec, (secured sec none []).hw.saveOk = true ∧ (secured sec none []).hw.anySecure = sec ∧ (secured sec none []).hw.blkreq = none ∧
      (secured sec none []).hw.regF (pwrReg 0x800) 62 62 = 0 ∧ (secured sec none []).hw.regF (pwrReg 0x900) 63 63 = 0 ∧
      (secured sec none []).hw.regF (chkReg 0x20020) 0 0 = 0 ∧ (∃ st, sfind 0 (secured sec none [(0, 1)]).hw.deferred = some st)) ∧
    (∀ b ∈ [⟨71, 0⟩, ⟨4096 + 71, 1⟩], (secured false (some b) []).hw.blkreq = some b) ∧ sfind (1024 + 71) (dev id).hw.trans = none ∧
    ((dev id).hw.chamber 71).pstate = .run ∧ ((dev id).hw.slice 71).ctxs = [] ∧ ((dev fun h => h.updSlice 71 fun s => { s with ctxs := [(0, ctx0 1 0 [])] }).hw.slice 71).ctxs ≠ [] := by
  refine ⟨by decide +kernel, ?_, by decide +kernel, by decide +kernel, by decide +kernel, by decide +kernel, by decide +kernel⟩
  intro sec; refine ⟨?_, ?_, ?_, ?_, ?_, ?_, 1, ?_⟩ <;> (revert sec; decide +kernel)

/-- What a boot finds when all checks pass. -/
def boot0 : Boot := ⟨true, 100000, true, true, [], [], 4800, 0, false, [], [], [], [], [], none, 0, [], 0⟩

/-- A device that is off or waits in its boot, with the cause of its last reset. -/
def offWith (f : Hw → Hw) : State := dev fun h => f { h with off := true }

theorem witness_ResetAndBoot_cold : (∀ c ∈ [2, 9], let s := offWith fun h => { h.setRegF (kprReg 0) 63 56 c with pins := { h.pins with pwrok := false } }
      s.hw.off = true ∧ s.hw.bootWait = none ∧ s.hw.regF (kprReg 0) 63 56 = c ∧ s.hw.pins.coldrst = true ∧ s.hw.pins.pwrok = false) ∧
    (dev id).hw.off = false ∧ (dev id).hw.bootWait = none ∧ (dev id).hw.keeper.resetDue ≠ some (0, 0) ∧
    (∀ n ∈ [1, 3, 4], (offWith fun h => { h with bootWait := some ⟨n, 1, boot0⟩, pins := { h.pins with pwrok := false } }).hw.bootWait = some ⟨n, 1, boot0⟩) ∧
    (dev id).hw.slotsOf 1 = [] ∧ (dev id).hw.keeper.flashBad = false ∧ (99970 ≤ boot0.refEdges ∧ boot0.refEdges ≤ 100030) := by decide +kernel

theorem witness_ResetAndBoot_warm : (let s := dev fun h => { h with wdFire := some (5, 1151), keeper := { h.keeper with flashBad := true } }
      s.hw.wdFire = some (5, 1151) ∧ s.hw.keeper.flashBad = true) ∧ (dev id).hw.wdFire = none ∧ ((dev id).hw.thread 1151).run = .stopped ∧ ((at_ .m true 0 0 0).hw.thread 0).run ≠ .stopped := by decide +kernel

/-- Bytes of a flash from an address, and n of one value. -/
def field (o : Nat) : Bytes → SMap Byte
  | [] => []
  | b :: r => (o, b) :: field (o + 1) r

theorem field_keys (bs : Bytes) (o j : Nat) (h : j ∈ (field o bs).map (·.1)) : o ≤ j ∧ j < o + bs.length := by
  induction bs generalizing o with
  | nil => simp [field] at h
  | cons b r ih =>
    simp only [field, List.map_cons, List.mem_cons] at h
    obtain rfl | h := h
    · simp
    · have := ih _ h; simp only [List.length_cons]; omega

theorem sget_field (bs : Bytes) (o i : Nat) (b : SMap Byte) (h : i < bs.length) : sget 0xFF (o + i) (field o bs ++ b) = bs.getD i 0 := by
  induction bs generalizing o i with
  | nil => simp at h
  | cons x r ih =>
    cases i with
    | zero => simp [field, sget]
    | succ i =>
      have e : o + (i + 1) = (o + 1) + i := by omega
      have n : ¬o + 1 + i = o := by omega
      simp only [field, List.cons_append, sget, e]
      rw [if_neg n, ih (o + 1) i (by simpa using h)]; simp

theorem sget_skip (bs : Bytes) (o k : Nat) (b : SMap Byte) (h : k < o ∨ o + bs.length ≤ k) : sget 0xFF k (field o bs ++ b) = sget 0xFF k b := by
  induction bs generalizing o with
  | nil => rfl
  | cons x r ih =>
    simp only [List.length_cons] at h
    simp only [field, List.cons_append, sget]
    rw [if_neg (by omega), ih (o + 1) (by omega)]

/-- A run of zero bytes. -/
def zeros (n : Nat) : Bytes := List.replicate n 0
theorem zeros_length (n : Nat) : (zeros n).length = n := List.length_replicate
theorem zeros_get (n i : Nat) : (zeros n).getD i 0 = 0 := by
  rw [zeros, List.getD_eq_getElem?_getD, List.getElem?_replicate]; split <;> rfl

/-- An image of a type with no payload: header, hash, and zeros; its directory entry. -/
def header (t : Byte) : Bytes := [0x52, 0x4D, 0x44, 0x52, 1, 0, t, 0] ++ zeros 40
def image (o : Nat) (t : Byte) (b : SMap Byte) : SMap Byte :=
  field o (header t) ++ (field (o + 0x30) ((Config.sha384 []).take 48) ++ (field (o + 0xF8) (zeros 8) ++ (field (o + 0x84C) (zeros 180) ++ b)))
def dirBytes : Bytes := [1, 0, 1, 0, 0, 0, 0, 0, 0, 0x10, 0, 0, 0, 0x10, 0, 0, 2, 0, 1, 0, 0, 0, 0, 0, 0, 0x20, 0, 0, 0, 0x10, 0, 0] ++ List.replicate 96 0xFF
def eccKey : Bytes := List.replicate 96 0xFF
def lmsKey : Bytes := List.replicate 56 0xFF
def imaged : State := dev fun h => { h with keeper := { h.keeper with
  flash := field 0 dirBytes ++ image 0x1000 1 (image 0x2000 2 []),
  fuses := { h.keeper.fuses with ihash := [(0, Config.sha384 eccKey), (4, Config.sha384 lmsKey)], bkey := [(0, zeros 48)] }, persist := some 4096 } }
def ent (t : Nat) : DirEnt := ⟨t, 0, 1, 0x1000 * t, 0x1000, t - 1⟩

theorem flash_dir (i : Nat) (h : i < 128) : imaged.hw.flashByte i = dirBytes.getD i 0 := by
  have := sget_field dirBytes 0 i (image 0x1000 1 (image 0x2000 2 [])) (by simpa [dirBytes] using h)
  rwa [Nat.zero_add] at this

/-- What a flash shows of an image: its header, its hash, zeros where they must be, and nothing else. -/
theorem flash_image (o : Nat) (t : Byte) (b : SMap Byte) (f : Nat → Byte) (hs : (Config.sha384 []).length = 48) (hf : ∀ k, o ≤ k → k < o + 0x900 → f k = sget 0xFF k (image o t b))
    (hb : ∀ k, k < o + 0x900 → sget 0xFF k b = 0xFF) :
    (∀ i, i < 48 → f (o + i) = (header t).getD i 0) ∧ (∀ i, i < 48 → f (o + 0x30 + i) = (Config.sha384 []).getD i 0) ∧
    (∀ i, i < 152 → f (o + 0x60 + i) = 0xFF) ∧ (∀ i, i < 8 → f (o + 0xF8 + i) = 0) ∧ (∀ i, i < 180 → f (o + 0x84C + i) = 0) := by
  have lh : (header t).length = 48 := rfl
  have lt : ((Config.sha384 []).take 48).length = 48 := by simp [hs]
  have tk : (Config.sha384 []).take 48 = Config.sha384 [] := List.take_of_length_le (by omega)
  refine ⟨?_, ?_, ?_, ?_, ?_⟩ <;> intro i hi
  · rw [hf _ (by omega) (by omega), image, sget_field _ _ _ _ (by omega)]
  · rw [hf _ (by omega) (by omega), image, sget_skip _ _ _ _ (by omega), sget_field _ _ _ _ (by omega), tk]
  · rw [hf _ (by omega) (by omega), image, sget_skip _ _ _ _ (by omega), sget_skip _ _ _ _ (by omega), sget_skip _ _ _ _ (by rw [zeros_length]; omega),
      sget_skip _ _ _ _ (by rw [zeros_length]; omega), hb _ (by omega)]
  · rw [hf _ (by omega) (by omega), image, sget_skip _ _ _ _ (by omega), sget_skip _ _ _ _ (by omega), sget_field _ _ _ _ (by rw [zeros_length]; exact hi)]
    exact zeros_get _ _
  · rw [hf _ (by omega) (by omega), image, sget_skip _ _ _ _ (by omega), sget_skip _ _ _ _ (by omega), sget_skip _ _ _ _ (by rw [zeros_length]; omega),
      sget_field _ _ _ _ (by rw [zeros_length]; exact hi)]
    exact zeros_get _ _

theorem image_skip (o k : Nat) (t : Byte) (b : SMap Byte) (hs : (Config.sha384 []).length = 48) (h : k < o ∨ o + 0x900 ≤ k) : sget 0xFF k (image o t b) = sget 0xFF k b := by
  have lh : (header t).length = 48 := rfl
  have lt : ((Config.sha384 []).take 48).length = 48 := by simp [hs]
  rw [image, sget_skip _ _ _ _ (by omega), sget_skip _ _ _ _ (by omega), sget_skip _ _ _ _ (by rw [zeros_length]; omega), sget_skip _ _ _ _ (by rw [zeros_length]; omega)]

theorem bytes_of (a n : Nat) (g : Nat → Byte) (h : ∀ i, i < n → imaged.hw.flashByte (a + i) = g i) : imaged.hw.flashBytes a n = (List.range n).map g :=
  List.map_congr_left fun i hi => h i (List.mem_range.mp hi)

theorem range_getD (l : Bytes) : ((List.range l.length).map fun i => l.getD i 0) = l := by
  apply List.ext_getElem
  · simp
  · intro i h1 h2; simp [List.getD_eq_getElem?_getD, h2]

/-- The bytes of the two images of `imaged`. -/
theorem imaged_bytes (hs : (Config.sha384 []).length = 48) (t : Nat) (ht : t = 1 ∨ t = 2) :
    (∀ i, i < 48 → imaged.hw.flashByte (0x1000 * t + i) = (header (BitVec.ofNat 8 t)).getD i 0) ∧
    (∀ i, i < 48 → imaged.hw.flashByte (0x1000 * t + 0x30 + i) = (Config.sha384 []).getD i 0) ∧
    (∀ i, i < 152 → imaged.hw.flashByte (0x1000 * t + 0x60 + i) = 0xFF) ∧
    (∀ i, i < 8 → imaged.hw.flashByte (0x1000 * t + 0xF8 + i) = 0) ∧ (∀ i, i < 180 → imaged.hw.flashByte (0x1000 * t + 0x84C + i) = 0) := by
  have dl : dirBytes.length = 128 := rfl
  have fl : ∀ k, 128 ≤ k → imaged.hw.flashByte k = sget 0xFF k (image 0x1000 1 (image 0x2000 2 [])) := fun k hk =>
    sget_skip dirBytes 0 k _ (.inr (by omega))
  obtain rfl | rfl := ht
  · exact flash_image 0x1000 1 _ _ hs (fun k h1 _ => fl k (by omega)) fun k hk => image_skip _ _ _ _ hs (.inl (by omega))
  · exact flash_image 0x2000 2 [] _ hs (fun k h1 h2 => (fl k (by omega)).trans (image_skip _ _ _ _ hs (.inr (by omega)))) fun k _ => rfl

theorem imaged_dir : imaged.hw.dirEnts = (List.range 8).map fun i => let g := fun k n => leNat ((List.range n).map fun j => dirBytes.getD (16 * i + k + j) 0)
      (⟨g 0 1, g 1 1, g 2 1, g 8 4, g 12 4, i⟩ : DirEnt) := by
  have f : ∀ i, i < 8 → ∀ k n, k + n ≤ 16 → leNat (imaged.hw.flashBytes (16 * i + k) n) = leNat ((List.range n).map fun j => dirBytes.getD (16 * i + k + j) 0) :=
    fun i hi k n hk => congrArg leNat (bytes_of _ _ _ fun j hj => flash_dir _ (by omega))
  refine List.map_congr_left fun i hi => ?_
  rw [List.mem_range] at hi
  simp only [Hw.dirEnt, f i hi 0 1 (by omega), f i hi 1 1 (by omega), f i hi 2 1 (by omega), f i hi 8 4 (by omega), f i hi 12 4 (by omega)]

theorem imaged_slots : imaged.hw.slotsOf 1 = [ent 1] ∧ imaged.hw.slotsOf 2 = [ent 2] := by
  simp only [Hw.slotsOf, imaged_dir]
  decide +kernel

/-- With signatures that verify and hashes of 48 bytes, which the model leaves open (log 4), both images pass every check. -/
theorem witness_ResetAndBoot_images (he : ∀ a b c, Config.ecdsaOk a b c = true) (hl : ∀ a b c, Config.lmsOk a b c = true)
    (hs : (Config.sha384 []).length = 48) : ∀ t, t = 1 ∨ t = 2 → ent t ∈ imaged.hw.slotsOf t ∧ imaged.hw.imageCode (ent t) = 0 := by
  intro t ht
  have sl : ent t ∈ imaged.hw.slotsOf t := by obtain rfl | rfl := ht <;> simp [imaged_slots.1, imaged_slots.2]
  obtain ⟨b1, b2, b3, b4, b5⟩ := imaged_bytes hs t ht
  have hdr : ∀ a n, a + n ≤ 48 → imaged.hw.imgNat (ent t) a n = leNat ((List.range n).map fun i => (header (BitVec.ofNat 8 t)).getD (a + i) 0) :=
    fun a n h => congrArg leNat (bytes_of _ _ _ fun i hi => by rw [show (ent t).off + a + i = 0x1000 * t + (a + i) by simp [ent]; omega]; exact b1 _ (by omega))
  have n0 : ∀ a n, (∀ i, i < n → imaged.hw.flashByte (0x1000 * t + a + i) = 0) → imaged.hw.imgNat (ent t) a n = 0 := fun a n h => by
    have : imaged.hw.flashBytes ((ent t).off + a) n = (List.range n).map fun _ => (0 : Byte) := bytes_of _ _ _ h
    rw [Hw.imgNat, this]
    have z : ∀ l : List Nat, leNat (l.map fun _ => (0 : Byte)) = 0 := by
      intro l; induction l with
      | nil => rfl
      | cons x r ih => simp only [List.map_cons, leNat, ih]; rfl
    exact z _
  have len : imaged.hw.imgLen (ent t) = 0 := by rw [Hw.imgLen, hdr 0x20 8 (by omega)]; obtain rfl | rfl := ht <;> decide
  have ld : imaged.hw.imgLoad (ent t) = 0 := by rw [Hw.imgLoad, hdr 0x10 8 (by omega)]; obtain rfl | rfl := ht <;> decide
  have sv : imaged.hw.imgNat (ent t) 7 1 = 0 := by rw [hdr 7 1 (by omega)]; obtain rfl | rfl := ht <;> decide
  have slot : imaged.hw.imgNat (ent t) 0x28 1 = 0 := by rw [hdr 0x28 1 (by omega)]; obtain rfl | rfl := ht <;> decide
  have shape : imaged.hw.imgShape (ent t) = true := by
    simp only [Hw.imgShape, n0 0xF8 8 b4, n0 0x84C 180 b5, hdr 0 4 (by omega), hdr 4 2 (by omega), hdr 6 1 (by omega), hdr 0x20 8 (by omega),
      hdr 0x18 8 (by omega), hdr 0x28 1 (by omega), hdr 0x29 7 (by omega)]
    obtain rfl | rfl := ht <;> decide
  have ff : ∀ a n, 0x60 ≤ a → a + n ≤ 0xF8 → imaged.hw.flashBytes ((ent t).off + a) n = List.replicate n 0xFF := fun a n h h2 => by
    rw [bytes_of _ _ (fun _ => 0xFF) fun i hi => by rw [show (ent t).off + a + i = 0x1000 * t + 0x60 + (a - 0x60 + i) by simp [ent]; omega]; exact b3 _ (by omega)]
    simp
  have hash : imaged.hw.flashBytes ((ent t).off + 0x30) 48 = Config.sha384 [] := by
    refine (bytes_of _ _ _ fun i hi => b2 i hi).trans ?_
    rw [← hs]; exact range_getD _
  have pay : imaged.hw.imgPayload (ent t) = [] := by rw [Hw.imgPayload, len]; rfl
  have rb : imaged.hw.rollback (ent t).type = 0 := by obtain rfl | rfl := ht <;> decide +kernel
  have f0 : imaged.hw.imgKeyOk 0 eccKey = true := by
    simp only [Hw.imgKeyOk, show sfind 0 imaged.hw.keeper.fuses.ihash = some (Config.sha384 eccKey) from rfl, show imaged.hw.keeper.fuses.irevoked = [] from rfl]; simp [sget]
  have f4 : imaged.hw.imgKeyOk 4 lmsKey = true := by
    simp only [Hw.imgKeyOk, show sfind 4 imaged.hw.keeper.fuses.ihash = some (Config.sha384 lmsKey) from rfl, show imaged.hw.keeper.fuses.irevoked = [] from rfl]; simp [sget]
  have t3 : (ent t).type ≠ 3 := by obtain rfl | rfl := ht <;> decide
  refine ⟨sl, ?_⟩
  have e1 : imaged.hw.flashBytes ((ent t).off + 0x60) 96 = eccKey := ff 0x60 96 (by omega) (by omega)
  have e2 : imaged.hw.flashBytes ((ent t).off + 0xC0) 56 = lmsKey := ff 0xC0 56 (by omega) (by omega)
  simp only [Hw.imageCode, he, hl, shape, ld, sv, slot, pay, rb, hash, e1, e2, if_neg t3]
  simp [f0, f4]

theorem witness_ResetAndBoot_survey : (dev fun h => h.setRegF (kprReg 0x200) 62 62 1).hw.regF (kprReg 0x200) 62 62 = 1 ∧ (dev id).hw.regF (kprReg 0x200) 62 62 = 0 ∧
    (dev fun h => h.setRegF (kprReg 0) 63 56 4).hw.wdFire = none := by decide +kernel

/-! ### Witnesses: Basette and the test port -/

/-- A frame of a command that is not critical, and a critical one whose tag the key `zeros 48` makes. -/
def plain (cmd : Nat) (p : Bytes) : Frame :=
  let f : Frame := ⟨1, cmd, p.length, 7, 0, p, 0, 0, 0, false⟩
  { f with crc := crc32c (frameCovered f) }
def signed (cmd : Nat) (p : Bytes) : Frame :=
  let g : Frame := ⟨1, cmd, p.length, 7, 1, p, 1, 0, 0, false⟩
  let f := { g with tag := Config.hmac128 (zeros 48) (frameTagged g) }
  { f with crc := crc32c (frameCovered f) }

/-- Whether Keeper checks frames in a state, and whether the key `zeros 48` with counter 1 passes. -/
def hears (s : State) : Bool :=
  decide (s.hw.bootWait = none ∧ s.hw.regF (kprReg 0x10) 63 56 = 0 ∧ s.hw.keeper.resetDue = none ∧ s.hw.hand = none)
def trusts (s : State) : Bool :=
  hears s && decide (s.hw.basetteKey = some (zeros 48) ∧ (s.hw.reg (kprReg 0x408)).toNat < 1 ∧ 1 < (s.hw.keeper.persist.getD 0).toNat)

theorem plain_arrives (cmd : Nat) (p : Bytes) (s : State) (h : hears s = true) (hp : p.length ≤ 1024) :
    Arrives (plain cmd p) s ∧ (plain cmd p).flags.getLsbD 0 = false ∧ (plain cmd p).cmd = cmd ∧ (plain cmd p).payload = p := by
  simp only [hears, decide_eq_true_eq] at h
  exact ⟨⟨h.1, h.2.1, h.2.2.1, h.2.2.2, rfl, rfl, hp, rfl, by show (0#8).toNat / 8 = 0; decide⟩, by show (0#8).getLsbD 0 = false; decide, rfl, rfl⟩

theorem signed_passes (cmd : Nat) (p : Bytes) (s : State) (h : trusts s = true) (hp : p.length ≤ 1024) :
    Signed (signed cmd p) s ∧ (signed cmd p).cmd = cmd ∧ (signed cmd p).payload = p := by
  simp only [trusts, hears, Bool.and_eq_true, decide_eq_true_eq] at h
  obtain ⟨⟨a, b, c, d⟩, k, l, m⟩ := h
  exact ⟨⟨⟨a, b, c, d, rfl, rfl, hp, rfl, by show (1#8).toNat / 8 = 0; decide⟩, by show (1#8).getLsbD 0 = true; decide, ⟨_, k, rfl⟩, l, m⟩, rfl, rfl⟩

/-- Keeper with a key and a counter record, and what a test changes. -/
def kept (f : Keeper → Keeper) : State := dev fun h => { h with keeper := f { h.keeper with
  fuses := { h.keeper.fuses with bkey := [(0, zeros 48)] }, persist := some 4096, svn := [(1, 1)] } }

/-- One directory entry: type 1, slot 1, not preferred, 4096 bytes from 0x1000. -/
def slotted : State := kept fun k => { k with flash := field 0 [1, 1, 0, 0, 0, 0, 0, 0, 0, 0x10, 0, 0, 0, 0x10, 0, 0] }

theorem witness_BasetteAndLantern_plain : hears (kept id) = true ∧ (kept id).hw.off = false ∧
    (kept id).hw.regF (kprReg 0x10) 63 56 = 0 ∧ (kept id).hw.reg (logReg 0x10) = 0 ∧ spdmRuns [0x13, 0xE1, 0, 0] (kept id).hw ∧ spdmRuns [0x13, 0xE4, 0, 0] (kept id).hw ∧
    spdmRuns [0x10, 0x84, 0, 0] (kept fun k => { k with sessions := 4 }).hw ∧ spdmCodes.contains 0x01 = false ∧
    (kept fun k => { k with sessions := 4 }).hw.keeper.sessions = 4 ∧
    hears slotted = true ∧ slotted.hw.flashMay 0x1000 1 = true ∧ slotted.hw.flashMay 0x1FFF 1 = true ∧ slotted.hw.flashMay 0x1FFF 2 = false ∧ slotted.hw.flashMay 0xFFF 1 = false := by
  simp only [spdmRuns]
  decide +kernel

/-- The CRC is no part of what it covers, nor the tag of what that covers: from any frame a wrong tag or CRC can be made, and a right CRC. -/
theorem covered_crc (f : Frame) (c : BitVec 32) : frameCovered { f with crc := c } = frameCovered f := rfl
theorem tagged_crc (f : Frame) (g : BitVec 128) (c : BitVec 32) : frameTagged { f with tag := g, crc := c } = frameTagged f := rfl

theorem add_one_ne {n : Nat} (x : BitVec (n + 1)) : x + 1 ≠ x := fun h => by
  have := congrArg (fun y => y - x) h
  simp [BitVec.add_comm x] at this

theorem witness_BasetteAndLantern_crc (f : Frame) : ∃ g : Frame, g.cmd = f.cmd ∧ g.crc ≠ crc32c (frameCovered g) :=
  ⟨{ f with crc := crc32c (frameCovered f) + 1 }, rfl, by rw [covered_crc]; exact add_one_ne _⟩

theorem witness_BasetteAndLantern_tag (f : Frame) (k : Bytes) : ∃ g : Frame, g.cmd = f.cmd ∧ g.tag ≠ Config.hmac128 k (frameTagged g) ∧ g.crc = crc32c (frameCovered g) := by
  refine ⟨{ { f with tag := Config.hmac128 k (frameTagged f) + 1 } with
    crc := crc32c (frameCovered { f with tag := Config.hmac128 k (frameTagged f) + 1 }) }, rfl, ?_, rfl⟩
  rw [tagged_crc]; exact add_one_ne _

theorem witness_BasetteAndLantern_keys : (kept fun k => { k with resetDue := some (1, 5) }).hw.keeper.resetDue ≠ none ∧
    (dev id).hw.basetteKey = none ∧ (kept id).hw.basetteKey = some (zeros 48) := by decide +kernel

theorem witness_BasetteAndLantern_critical : (∀ s ∈ [kept id, kept fun k => { k with fuseBad := true }], trusts s = true) ∧
    (kept id).hw.rollback 1 = 0 ∧ sget 0 1 (kept id).hw.keeper.fuses.svn = w64 (2 ^ 0 - 1) ∧ sget 0 1 (kept id).hw.keeper.svn = 1 ∧ (kept id).hw.keeper.fuseBad = false ∧
    (List.range 4).find? (fun i => (sfind i (kept id).hw.keeper.fuses.bkey).isNone && !sget false i (kept id).hw.keeper.fuses.brevoked) = some 1 ∧
    (let s := kept fun k => { k with fuses := { k.fuses with brevoked := [(1, true), (2, true), (3, true)] } }
     trusts s = true ∧ ∀ i, i < 4 → (sfind i s.hw.keeper.fuses.bkey).isSome = true ∨ sget false i s.hw.keeper.fuses.brevoked = true) ∧
    (kept id).hw.portSecure 7 = false ∧ (kept id).hw.binTop = 720 := by decide +kernel

/-- The frames of the critical commands: their fields at the ends of what passes, and one that does not. -/
theorem witness_BasetteAndLantern_fields : (∀ p ∈ [[(0 : Byte)], [1], [2]], leNat ((p.drop 0).take 1) = p.length - 1 + (p.headD 0).toNat) ∧
    leNat (([0xD0, 2] : Bytes).take 2) = 720 ∧ leNat (([0x90, 1] : Bytes).take 2) = 400 ∧ leNat (([0x8F, 1] : Bytes).take 2) = 399 ∧
    (let p : Bytes := [0, 1, 7, 0]
     leNat ((p.drop 0).take 1) = 0 ∧ leNat ((p.drop 1).take 1) = 1 ∧ leNat ((p.drop 2).take 2) = 7) ∧
    ((1 : Byte) :: zeros 48).length = 49 ∧ leNat ((((2 : Byte) :: [3]).drop 1).take 1) = 3 := by decide +kernel

/-- The images of `imaged` may be activated; a Basette key is fused there. -/
theorem witness_BasetteAndLantern_activate : trusts imaged = true ∧
    imaged.hw.dirEnts.filter (fun x => decide (x.type = 2 ∧ x.slot = 0)) = [ent 2] ∧ (∀ e ∈ imaged.hw.dirEnts, e.type = 3 → e.slot ≠ 0) := by
  refine ⟨by decide +kernel, ?_, ?_⟩ <;> rw [imaged_dir] <;> decide +kernel

/-- A hand-over that ends: of port 7 to the secure world, asked for by a frame, or of an instance by a store. -/
def handing (x : Hand) : State := dev fun h => { h with hand := some x }

theorem witness_BasetteAndLantern_handover : (∀ n ∈ [0, 7], let x : Hand := ⟨w64 7, n, some (signed 0x14 [0, 1, 7, 0])⟩
      (handing x).hw.hand = some x ∧ x.status < 8 ∧ Word.fld x.word 11 0 = 7 ∧ Word.bit x.word 59 = false ∧ Word.fld x.word 61 60 = 0) ∧
    (let x : Hand := ⟨w64 (2 * 2 ^ 60 + 2 ^ 59 + 511), 0, none⟩
     (handing x).hw.hand = some x ∧ Word.fld x.word 61 60 = 2 ∧ Word.bit x.word 59 = true) ∧ (handing ⟨0, 0, none⟩).hw.off = false ∧ (dev id).hw.hand = none := by
  refine ⟨?_, ?_, rfl, rfl⟩
  · intro n hn; refine ⟨rfl, ?_, by show Word.fld (w64 7) 11 0 = 7; decide, by show Word.bit (w64 7) 59 = false; decide, by show Word.fld (w64 7) 61 60 = 0; decide⟩
    simp only [List.mem_cons, List.not_mem_nil, or_false] at hn; obtain rfl | rfl := hn <;> decide
  · exact ⟨rfl, by decide, by decide⟩

/-- A queue of responses, with in-band interrupts. -/
def waiting (r : List Resp) (naks : Nat) (d : Option (Nat × Nat)) : State :=
  dev fun h => { h.setRegF (kprReg 0x18) 61 61 1 with keeper := { h.keeper with resps := r, naks := naks, resetDue := d } }

theorem witness_BasetteAndLantern_bus : (∀ n ∈ [1, 2], let s := waiting [⟨0x10, 3, false, 0, [], 0⟩, ⟨7, 4, false, 0, [1], 0⟩] n (some (1, 250000))
      s.hw.keeper.resps ≠ [] ∧ s.hw.keeper.mute = false ∧ s.hw.regF (kprReg 0x18) 61 61 = 1 ∧ s.hw.keeper.naks = n ∧ s.hw.keeper.notif = 0 ∧
        s.hw.keeper.resetDue = some (1, 250000) ∧ s.hw.wdFire = none ∧ s.hw.bootWait = none) ∧
    ((waiting [⟨7, 3, false, 0, [1], 0⟩] 0 none).hw.keeper.resps = [⟨7, 3, false, 0, [1], 0⟩] ∧ (dev id).hw.keeper.resps = []) ∧
    (dev fun h => h.setRegF (kprReg 0x20) 1 0 2).hw.regF (kprReg 0x20) 1 0 = 2 ∧ (dev id).hw.regF (kprReg 0x20) 1 0 = 0 ∧
    (dev fun h => { h with pins := { h.pins with coldrst := true } }).hw.pins.coldrst = true := by decide +kernel

/-- 721 W and 399 W in every form, at a device of the top bin. -/
theorem witness_PowerLimitRefusals : (kept id).hw.off = false ∧ (kept id).hw.binTop = 720 ∧ ((kept id).hw.bank 4).recs = [] ∧
    Word.fld (w64 721) 15 0 = 721 ∧ Word.fld (w64 (2 ^ 63 + 399)) 15 0 = 399 ∧ leNat (([0xD1, 2] : Bytes).take 2) = 721 ∧ leNat (([0x8F, 1] : Bytes).take 2) = 399 := by
  decide +kernel

theorem witness_StepsKeepMemoryForm : Memory.wf (t0 8 2 3).mem = true ∧ (step { t0 8 2 3 with pending := [.bypass] } = .next (⟨{ (t0 8 2 3).hw with
    tap := { (t0 8 2 3).hw.tap with ir := 0, dr := [0], drives := false } }, [], []⟩ : State)) := ⟨rfl, rfl⟩

theorem witness_NoCommandStops : exec (.lanternExtension 6 true) (dev fun h => h.setRegF (kprReg 0x20) 1 0 1) = .refused .lanternExtension := rfl

/-! ### Words written out from the spec's formats, and single steps -/

/-- R40: ADD g3, g1, g2 is op 0x00, rd 3, ra 1, rb 2, fn 0; what encodes decodes again. -/
theorem witness_DecodeOfEncode : wellFormed (.add 0 3 1 2) = true ∧ (insnEncode (.add 0 3 1 2)).isSome = true ∧ insnEncode (.bypass) = none := by decide +kernel

/-- A step adds: g31 holds the sum modulo 2^64, and the pc is past the instruction. -/
def afterAdd : Option (Word × Word) :=
  match exec (.add 0 31 1 2) (t0 (BitVec.allOnes 64) 2 0) with
  | .next u => some (((u.hw.thread 0).a).rg 31, (u.hw.thread 0).a.pc)
  | _ => none

theorem test_add_wraps : afterAdd = some (1, 0x1004) := by decide +kernel

def afterDiv : Option (List Word) :=
  match exec (.divw 0 31 1 2) (t0 (w64 (2 ^ 31)) (BitVec.allOnes 64) 0) with
  | .next u => some ((u.hw.thread 0).b.longs.map fun o => o.val.setWidth 64)
  | _ => none

/-- R42: the most negative number by -1 is itself. -/
theorem test_divw_overflow : afterDiv = some [BitVec.ofInt 64 (-2 ^ 31)] := by decide +kernel

/-! ### Ill-formed commands: each check of `wellFormed` refuses one -/

def gal0 : GMsg := ⟨0, 0, 0, 0, 0, false, 0, 0, 0, 0⟩
def pkt0 : PPkt := ⟨0, 0, 0, false, false, 0, 0, 0, 0, 0, 0⟩
def frm0 : Frame := ⟨1, 0, 0, 0, 0, [], 0, 0, 0, false⟩

/-- The first command passes and the second, which differs in one operand, does not. -/
def tells (p : Instr × Instr) : Bool := wellFormed p.1 && !wellFormed p.2

theorem smoke_threads : ([.add, .sub, .and, .or, .xor, .andn, .orn, .shl, .shr, .sra, .rol, .ror, .slt, .sltu, .min, .max, .minu, .maxu, .addw, .subw, .shlw, .shrw, .sraw, .rolw, .rorw, .mul, .mulh, .mulhu, .mulhsu, .mulw, .div, .divu, .rem, .remu, .divw, .divuw, .remw, .remuw, .churnPost, .instQuiesce].all (fun (f : Nat → Reg → Reg → Reg → Instr) => tells (f 0 0 0 0, f 1152 0 0 0)) &&
    [.instReset, .instCreate, .instBind, .instRemove].all (fun (f : Nat → Reg → Reg → Reg → Instr) => tells (f 0 0 0 0, f 1152 0 0 0)) &&
    [.clz, .ctz, .popc, .rev8, .sextB, .sextH, .sextW, .zextB, .zextH, .zextW, .qresv, .qrel, .qquery, .tlbiVmidStage1, .tlbiVaAsid, .tlbiAsid, .tlbiVa, .tlbiIaVmid, .tlbiVmid, .tlbiAll].all (fun (f : Nat → Reg → Reg → Instr) => tells (f 0 0 0, f 1152 0 0)) &&
    [.addi, .addiw, .andi, .ori, .xori, .slti, .sltiu, .lb, .lh, .lw, .ld, .lbu, .lhu, .lwu, .sb, .sh, .sw, .sd].all (fun (f : Nat → Reg → Reg → BitVec 16 → Instr) => tells (f 0 0 0 0, f 1152 0 0 0)) &&
    [.shli, .shri, .srai, .rori].all (fun (f : Nat → Reg → Reg → BitVec 6 → Instr) => tells (f 0 0 0 0, f 1152 0 0 0)) &&
    [.shliw, .shriw, .sraiw, .roriw].all (fun (f : Nat → Reg → Reg → BitVec 5 → Instr) => tells (f 0 0 0 0, f 1152 0 0 0)) &&
    [.lui, .auipc, .jal].all (fun (f : Nat → Reg → BitVec 21 → Instr) => tells (f 0 0 0, f 1152 0 0)) &&
    [.ldAq, .stRl, .mpopc, .mfirst, .mmvGm, .mmvMg].all (fun (f : Nat → Reg → Reg → BitVec 2 → Instr) => tells (f 0 0 0 0, f 1152 0 0 0)) &&
    [.beq, .bne, .blt, .bge, .bltu, .bgeu].all (fun (f : Nat → Reg → Reg → Bool → BitVec 15 → Instr) => tells (f 0 0 0 false 0, f 1152 0 0 false 0)) &&
    [.loopClr, .fenceI, .scall, .hcall, .mcall, .retx, .syncCtx, .wait, .waitResume, .geodeExit, .tlbiComplete, .soloHoldRelease, .parkedLoadReentry, .vectorStoreEntryAllocate, .exceptionEntry, .cmoComplete, .farAtomicResponse, .pullResult, .foldComplete, .wdkickM].all (fun (f : Nat → Instr) => tells (f 0, f 1152)) &&
    [.vadd, .vsub, .vand, .vor, .vxor, .vshl, .vshr, .vsra, .vmin, .vmax, .vminu, .vmaxu, .vmul, .vmulh, .vmulhu, .vsadd, .vssub, .vusadd, .vussub].all (fun (f : Nat → Reg → Reg → Reg → BitVec 3 → BitVec 2 → Bool → Instr) => tells (f 0 0 0 0 0 0 false, f 1152 0 0 0 0 0 false)) &&
    [.vfadd, .vfsub, .vfmul, .vfdiv, .vfmin, .vfmax, .vfsgnj].all (fun (f : Nat → Reg → Reg → Reg → BitVec 3 → BitVec 2 → Bool → Instr) => tells (f 0 0 0 0 0 1 false, f 1152 0 0 0 0 1 false)) &&
    [.vfsqrt, .vfabs, .vfneg, .vfredadd, .vfredaddt, .vfredmin, .vfredmax, .vcvtFI, .vcvtFU, .vcvtIF, .vcvtUF, .vcvtFFw, .vnarrow].all (fun (f : Nat → Reg → Reg → BitVec 3 → BitVec 2 → Instr) => tells (f 0 0 0 0 1, f 1152 0 0 0 1)) &&
    [.vfmadd, .vfmsub, .vfnmadd, .vfnmsub, .vfcmpeq, .vfcmplt, .vfcmple, .vfcmpun].all (fun (f : Nat → Reg → Reg → Reg → BitVec 3 → BitVec 2 → Instr) => tells (f 0 0 0 0 0 1, f 1152 0 0 0 0 1)) &&
    [.vredadd, .vredmin, .vredmax, .vredminu, .vredmaxu, .vredand, .vredor, .vredxor, .vcompress, .vexpand, .vsextW, .vzextW, .vmvVg, .vld, .vst, .vldb].all (fun (f : Nat → Reg → Reg → BitVec 3 → BitVec 2 → Instr) => tells (f 0 0 0 0 0, f 1152 0 0 0 0)) &&
    [.vperm, .vslidedn, .vslideup, .vziplo, .vziphi, .vcmpeq, .vcmpne, .vcmplt, .vcmple, .vcmpltu, .vcmpleu, .vlds, .vsts].all (fun (f : Nat → Reg → Reg → Reg → BitVec 3 → BitVec 2 → Instr) => tells (f 0 0 0 0 0 0, f 1152 0 0 0 0 0)) &&
    [.vmvGv, .vins, .mand, .mor, .mxor, .mandn].all (fun (f : Nat → Reg → Reg → Reg → BitVec 2 → Instr) => tells (f 0 0 0 0 0, f 1152 0 0 0 0)) &&
    [.vgather, .vscatter].all (fun (f : Nat → Reg → Reg → Reg → BitVec 3 → BitVec 2 → BitVec 2 → Instr) => tells (f 0 0 0 0 0 2 0, f 1152 0 0 0 0 2 0)) &&
    [.crw, .crs, .crc].all (fun (f : Nat → Reg → Reg → BitVec 12 → Instr) => tells (f 0 0 0 0, f 1152 0 0 0)) &&
    [.ltol, .geodeEnter].all (fun (f : Nat → Reg → Instr) => tells (f 0 0, f 1152 0)) &&
    [.cmoClean, .cmoInvalidate, .cmoCleanInvalidate].all (fun (f : Nat → Reg → Bool → BitVec 2 → Instr) => tells (f 0 0 false 0, f 1152 0 false 0)) &&
    [.longOperationWriteback, .storeBufferDrain, .spillQueueMove, .timecmpMatch].all (fun (f : Nat → Nat → Instr) => tells (f 0 0, f 1152 0)) &&
    [.cachectlM, .virtualNotification].all (fun (f : Nat → Word → Instr) => tells (f 0 0, f 1152 0))) = true := by decide +kernel

theorem smoke_0 : ([(.amo 0 0 0 0 0 2 0, .amo 1152 0 0 0 0 2 0),
    (.cas 0 0 0 0 2 0, .cas 1152 0 0 0 2 0),
    (.amoFar 0 0 0 0 0 0 0 false, .amoFar 1152 0 0 0 0 0 0 false),
    (.jalr 0 0 0 0 0, .jalr 1152 0 0 0 0),
    (.loopSet 0 0 1 1, .loopSet 1152 0 1 1),
    (.fence 0 0 0, .fence 1152 0 0),
    (.vcvtFFn 0 0 0 0 2, .vcvtFFn 1152 0 0 0 2),
    (.crr 0 0 0, .crr 1152 0 0),
    (.microTlbRefill 0 false, .microTlbRefill 1152 false),
    (.rescueUsed 0 .m 0, .rescueUsed 1152 .m 0),
    (.asyncStoreErrorRecord 0 0 0 0 false, .asyncStoreErrorRecord 1152 0 0 0 false),
    (.inboxRecord 0 0 false 0 0, .inboxRecord 1152 0 false 0 0),
    (.illegalInstruction 0 0, .illegalInstruction 1152 0),
    (.amo 0 0 0 0 0 2 0, .amo 0 0 0 0 9 2 0),
    (.amo 0 0 0 0 0 2 0, .amo 0 0 0 0 0 1 0),
    (.cas 0 0 0 0 2 0, .cas 0 0 0 0 1 0),
    (.amoFar 0 0 0 0 0 0 0 false, .amoFar 0 0 0 0 11 0 0 false),
    (.amoFar 0 0 0 0 0 0 0 false, .amoFar 0 0 0 0 6 0 0 false),
    (.amoFar 0 0 0 0 0 0 0 false, .amoFar 0 0 0 0 7 0 0 false),
    (.amoFar 0 0 0 0 0 0 0 false, .amoFar 0 0 0 0 9 0 0 false),
    (.loopSet 0 0 1 1, .loopSet 0 0 0 1),
    (.loopSet 0 0 1 1, .loopSet 0 0 2 1),
    (.vfadd 0 0 0 0 0 1 false, .vfadd 0 0 0 0 0 0 false),
    (.vfsub 0 0 0 0 0 1 false, .vfsub 0 0 0 0 0 0 false),
    (.vfmul 0 0 0 0 0 1 false, .vfmul 0 0 0 0 0 0 false),
    (.vfdiv 0 0 0 0 0 1 false, .vfdiv 0 0 0 0 0 0 false),
    (.vfsqrt 0 0 0 0 1, .vfsqrt 0 0 0 0 0),
    (.vfmin 0 0 0 0 0 1 false, .vfmin 0 0 0 0 0 0 false),
    (.vfmax 0 0 0 0 0 1 false, .vfmax 0 0 0 0 0 0 false),
    (.vfabs 0 0 0 0 1, .vfabs 0 0 0 0 0),
    (.vfneg 0 0 0 0 1, .vfneg 0 0 0 0 0),
    (.vfsgnj 0 0 0 0 0 1 false, .vfsgnj 0 0 0 0 0 0 false),
    (.vfmadd 0 0 0 0 0 1, .vfmadd 0 0 0 0 0 0),
    (.vfmsub 0 0 0 0 0 1, .vfmsub 0 0 0 0 0 0),
    (.vfnmadd 0 0 0 0 0 1, .vfnmadd 0 0 0 0 0 0),
    (.vfnmsub 0 0 0 0 0 1, .vfnmsub 0 0 0 0 0 0),
    (.vfredadd 0 0 0 0 1, .vfredadd 0 0 0 0 0),
    (.vfredaddt 0 0 0 0 1, .vfredaddt 0 0 0 0 0),
    (.vfredmin 0 0 0 0 1, .vfredmin 0 0 0 0 0),
    (.vfredmax 0 0 0 0 1, .vfredmax 0 0 0 0 0),
    (.vcvtFI 0 0 0 0 1, .vcvtFI 0 0 0 0 0),
    (.vcvtFU 0 0 0 0 1, .vcvtFU 0 0 0 0 0),
    (.vcvtIF 0 0 0 0 1, .vcvtIF 0 0 0 0 0),
    (.vcvtUF 0 0 0 0 1, .vcvtUF 0 0 0 0 0),
    (.vcvtFFw 0 0 0 0 1, .vcvtFFw 0 0 0 0 0),
    (.vcvtFFw 0 0 0 0 1, .vcvtFFw 0 0 0 0 3),
    (.vcvtFFn 0 0 0 0 2, .vcvtFFn 0 0 0 0 1),
    (.vsextW 0 0 0 0 0, .vsextW 0 0 0 0 3),
    (.vzextW 0 0 0 0 0, .vzextW 0 0 0 0 3),
    (.vnarrow 0 0 0 0 1, .vnarrow 0 0 0 0 0),
    (.vcmpeq 0 0 0 0 0 0, .vcmpeq 0 8 0 0 0 0),
    (.vcmpne 0 0 0 0 0 0, .vcmpne 0 8 0 0 0 0),
    (.vcmplt 0 0 0 0 0 0, .vcmplt 0 8 0 0 0 0),
    (.vcmple 0 0 0 0 0 0, .vcmple 0 8 0 0 0 0),
    (.vcmpltu 0 0 0 0 0 0, .vcmpltu 0 8 0 0 0 0),
    (.vcmpleu 0 0 0 0 0 0, .vcmpleu 0 8 0 0 0 0),
    (.vfcmpeq 0 0 0 0 0 1, .vfcmpeq 0 0 0 0 0 0),
    (.vfcmpeq 0 0 0 0 0 1, .vfcmpeq 0 8 0 0 0 1),
    (.vfcmplt 0 0 0 0 0 1, .vfcmplt 0 0 0 0 0 0),
    (.vfcmplt 0 0 0 0 0 1, .vfcmplt 0 8 0 0 0 1)] : List (Instr × Instr)).all tells = true := by decide +kernel

theorem smoke_1 : ([(.vfcmple 0 0 0 0 0 1, .vfcmple 0 0 0 0 0 0),
    (.vfcmple 0 0 0 0 0 1, .vfcmple 0 8 0 0 0 1),
    (.vfcmpun 0 0 0 0 0 1, .vfcmpun 0 0 0 0 0 0),
    (.vfcmpun 0 0 0 0 0 1, .vfcmpun 0 8 0 0 0 1),
    (.mand 0 0 0 0 0, .mand 0 8 0 0 0),
    (.mand 0 0 0 0 0, .mand 0 0 8 0 0),
    (.mand 0 0 0 0 0, .mand 0 0 0 8 0),
    (.mor 0 0 0 0 0, .mor 0 8 0 0 0),
    (.mor 0 0 0 0 0, .mor 0 0 8 0 0),
    (.mor 0 0 0 0 0, .mor 0 0 0 8 0),
    (.mxor 0 0 0 0 0, .mxor 0 8 0 0 0),
    (.mxor 0 0 0 0 0, .mxor 0 0 8 0 0),
    (.mxor 0 0 0 0 0, .mxor 0 0 0 8 0),
    (.mandn 0 0 0 0 0, .mandn 0 8 0 0 0),
    (.mandn 0 0 0 0 0, .mandn 0 0 8 0 0),
    (.mandn 0 0 0 0 0, .mandn 0 0 0 8 0),
    (.mpopc 0 0 0 0, .mpopc 0 0 8 0),
    (.mfirst 0 0 0 0, .mfirst 0 0 8 0),
    (.mmvGm 0 0 0 0, .mmvGm 0 0 8 0),
    (.mmvMg 0 0 0 0, .mmvMg 0 8 0 0),
    (.vgather 0 0 0 0 0 2 0, .vgather 0 0 0 0 0 1 0),
    (.vscatter 0 0 0 0 0 2 0, .vscatter 0 0 0 0 0 1 0),
    (.cmoClean 0 0 false 0, .cmoClean 0 0 false 3),
    (.cmoInvalidate 0 0 false 0, .cmoInvalidate 0 0 false 3),
    (.cmoCleanInvalidate 0 0 false 0, .cmoCleanInvalidate 0 0 false 3),
    (.tlbiVmidStage1 0 0 0, .tlbiVmidStage1 0 1 0),
    (.tlbiVmidStage1 0 0 0, .tlbiVmidStage1 0 0 1),
    (.tlbiAsid 0 0 0, .tlbiAsid 0 1 0),
    (.tlbiVa 0 0 0, .tlbiVa 0 0 1),
    (.tlbiVmid 0 0 0, .tlbiVmid 0 1 0),
    (.tlbiAll 0 0 0, .tlbiAll 0 1 0),
    (.tlbiAll 0 0 0, .tlbiAll 0 0 1),
    (.fetchBlock 0, .fetchBlock 288),
    (.predictorClearEnd 0, .predictorClearEnd 288),
    (.walkReadReturn 0 0 false, .walkReadReturn 288 0 false),
    (.walkReadReturn 0 0 false, .walkReadReturn 0 2 false),
    (.storeBufferDrain 0 0, .storeBufferDrain 0 6),
    (.asyncStoreErrorRecord 0 0 0 0 false, .asyncStoreErrorRecord 0 6 0 0 false),
    (.asyncStoreErrorRecord 0 0 0 0 false, .asyncStoreErrorRecord 0 0 6 0 false),
    (.cacheDisableCleanComplete 0, .cacheDisableCleanComplete 72),
    (.l1dFill 0 0, .l1dFill 288 0),
    (.l1dFill 0 0, .l1dFill 0 16),
    (.l1iFill 0 0, .l1iFill 288 0),
    (.l1iFill 0 0, .l1iFill 0 4),
    (.l2Fill 0 0, .l2Fill 72 0),
    (.l2Fill 0 0, .l2Fill 0 64),
    (.l1dSnoop 0 0 false, .l1dSnoop 288 0 false),
    (.l1dWriteback 0, .l1dWriteback 288),
    (.readShared 0, .readShared 72),
    (.readUnique 0, .readUnique 72),
    (.upgrade 0, .upgrade 72),
    (.writeback 0, .writeback 72),
    (.cleanEviction 0, .cleanEviction 72),
    (.cmoRequest 0, .cmoRequest 72),
    (.lineOrderRelease 0, .lineOrderRelease 72),
    (.snoop 0 0, .snoop 72 0),
    (.snoop 0 0, .snoop 0 80),
    (.backInvalidation 0 0, .backInvalidation 72 0),
    (.backInvalidation 0 0, .backInvalidation 0 80),
    (.snoopAnswer 0 0, .snoopAnswer 72 0)] : List (Instr × Instr)).all tells = true := by decide +kernel

theorem smoke_2 : ([(.snoopAnswer 0 0, .snoopAnswer 0 80),
    (.writeBackBufferIssue 0 0, .writeBackBufferIssue 72 0),
    (.writeBackBufferIssue 0 0, .writeBackBufferIssue 0 32),
    (.memoryRead 0 ⟨[], []⟩ ⟨[], []⟩, .memoryRead 16 ⟨[], []⟩ ⟨[], []⟩),
    (.memoryRead 0 ⟨[], []⟩ ⟨[], []⟩, .memoryRead 0 ⟨[(8, 0)], []⟩ ⟨[], []⟩),
    (.memoryRead 0 ⟨[], []⟩ ⟨[], []⟩, .memoryRead 0 ⟨[], []⟩ ⟨[(0, 278)], []⟩),
    (.memoryWrite 0, .memoryWrite 16),
    (.memoryFill 0, .memoryFill 72),
    (.creditReturn 0 0 0, .creditReturn 13 0 0),
    (.flitHop 0 0, .flitHop 160 0),
    (.flitHop 0 0, .flitHop 0 7),
    (.starvationThrottleEnd 0, .starvationThrottleEnd 4),
    (.skimPromotion 0 0, .skimPromotion 160 0),
    (.churnPostAccept 0, .churnPostAccept 72),
    (.descriptorStart 0, .descriptorStart 72),
    (.unitStart 0 0, .unitStart 72 0),
    (.unitStart 0 0, .unitStart 0 4),
    (.unitReadReturn 0 0 0, .unitReadReturn 72 0 0),
    (.unitReadReturn 0 0 0, .unitReadReturn 0 4 0),
    (.unitWrite 0 0, .unitWrite 72 0),
    (.unitWrite 0 0, .unitWrite 0 4),
    (.unitWritePerformed 0 0, .unitWritePerformed 72 0),
    (.unitWritePerformed 0 0, .unitWritePerformed 0 4),
    (.moveSourceFill 0 0, .moveSourceFill 72 0),
    (.moveSourceFill 0 0, .moveSourceFill 0 4),
    (.completionRecord 0 0, .completionRecord 72 0),
    (.completionRecord 0 0, .completionRecord 0 4),
    (.farAtomic 0 0, .farAtomic 72 0),
    (.atomicop 0 0 0 4 0 0 0, .atomicop 8 0 0 4 0 0 0),
    (.atomicop 0 0 0 4 0 0 0, .atomicop 0 0 0 2 0 0 0),
    (.atomicop 0 0 0 4 0 0 0, .atomicop 0 0 0 4 1 0 0),
    (.instanceRequest 0, .instanceRequest 72),
    (.quiesceComplete 0, .quiesceComplete 512),
    (.dimmTemperatureRead 0 0 false 0 false false, .dimmTemperatureRead 16 0 false 0 false false),
    (.activationTrackerClear 0, .activationTrackerClear 16),
    (.pairedConversionStep 0 0 (⟨[], []⟩, ⟨[], []⟩), .pairedConversionStep 12 0 (⟨[], []⟩, ⟨[], []⟩)),
    (.pairedConversionStep 0 0 (⟨[], []⟩, ⟨[], []⟩), .pairedConversionStep 0 8 (⟨[], []⟩, ⟨[], []⟩)),
    (.pairedConversionStep 0 0 (⟨[], []⟩, ⟨[], []⟩), .pairedConversionStep 0 0 (⟨[], [(4, 0, 0)]⟩, ⟨[], []⟩)),
    (.pairedConversionStep 0 0 (⟨[], []⟩, ⟨[], []⟩), .pairedConversionStep 0 0 (⟨[], []⟩, ⟨[], [(0, 0, 20)]⟩)),
    (.patrolScrubRead 0 [] [] ⟨[], []⟩, .patrolScrubRead 16 [] [] ⟨[], []⟩),
    (.patrolScrubRead 0 [] [] ⟨[], []⟩, .patrolScrubRead 0 ([(8, 0)]) [] ⟨[], []⟩),
    (.patrolScrubRead 0 [] [] ⟨[], []⟩, .patrolScrubRead 0 [] [] ⟨[(0, 278)], []⟩),
    (.rowRepairSwitch 0, .rowRepairSwitch 16),
    (.softPpr 0 false, .softPpr 16 false),
    (.writeCrcAlert 0 false, .writeCrcAlert 16 false),
    (.linkTraining 0 0, .linkTraining 18 0),
    (.linkTraining 0 0, .linkTraining 0 16),
    (.linkTrainingDone 0 0 ⟨0, 0, 0, 0⟩ 0 0 0 0 0 0 0, .linkTrainingDone 18 0 ⟨0, 0, 0, 0⟩ 0 0 0 0 0 0 0),
    (.linkTrainingDone 0 0 ⟨0, 0, 0, 0⟩ 0 0 0 0 0 0 0, .linkTrainingDone 0 16 ⟨0, 0, 0, 0⟩ 0 0 0 0 0 0 0),
    (.linkTrainingDone 0 0 ⟨0, 0, 0, 0⟩ 0 0 0 0 0 0 0, .linkTrainingDone 0 0 ⟨3, 0, 0, 0⟩ 0 0 0 0 0 0 0),
    (.linkDown 0 0 1, .linkDown 18 0 1),
    (.linkDown 0 0 1, .linkDown 0 16 1),
    (.linkDown 0 0 1, .linkDown 0 0 0),
    (.linkDown 0 0 1, .linkDown 0 0 10),
    (.failoverTimeout 8, .failoverTimeout 7),
    (.failoverTimeout 8, .failoverTimeout 14),
    (.flitReceive 0 0 0 0 false 0 false, .flitReceive 18 0 0 0 false 0 false),
    (.flitReceive 0 0 0 0 false 0 false, .flitReceive 0 16 0 0 false 0 false),
    (.linkStateMessage 8 0 0 0, .linkStateMessage 7 0 0 0),
    (.linkStateMessage 8 0 0 0, .linkStateMessage 14 0 0 0)] : List (Instr × Instr)).all tells = true := by decide +kernel

theorem smoke_3 : ([(.linkStateMessage 8 0 0 0, .linkStateMessage 8 16 0 0),
    (.galleryForward 8, .galleryForward 7),
    (.galleryForward 8, .galleryForward 14),
    (.unroutedResend 0, .unroutedResend 4096),
    (.rds 8 gal0, .rds 7 gal0),
    (.rds 8 gal0, .rds 14 gal0),
    (.rdu 8 gal0, .rdu 7 gal0),
    (.rdu 8 gal0, .rdu 14 gal0),
    (.upg 8 gal0, .upg 7 gal0),
    (.upg 8 gal0, .upg 14 gal0),
    (.own 8 gal0, .own 7 gal0),
    (.own 8 gal0, .own 14 gal0),
    (.far 8 gal0, .far 7 gal0),
    (.far 8 gal0, .far 14 gal0),
    (.snps 8 gal0, .snps 7 gal0),
    (.snps 8 gal0, .snps 14 gal0),
    (.snpi 8 gal0, .snpi 7 gal0),
    (.snpi 8 gal0, .snpi 14 gal0),
    (.wb 8 gal0, .wb 7 gal0),
    (.wb 8 gal0, .wb 14 gal0),
    (.evc 8 gal0, .evc 7 gal0),
    (.evc 8 gal0, .evc 14 gal0),
    (.data 8 gal0, .data 7 gal0),
    (.data 8 gal0, .data 14 gal0),
    (.ack 8 gal0, .ack 7 gal0),
    (.ack 8 gal0, .ack 14 gal0),
    (.sdata 8 gal0, .sdata 7 gal0),
    (.sdata 8 gal0, .sdata 14 gal0),
    (.wbif 8 gal0, .wbif 7 gal0),
    (.wbif 8 gal0, .wbif 14 gal0),
    (.farr 8 gal0, .farr 7 gal0),
    (.farr 8 gal0, .farr 14 gal0),
    (.err 8 gal0, .err 7 gal0),
    (.err 8 gal0, .err 14 gal0),
    (.mdone 8 gal0, .mdone 7 gal0),
    (.mdone 8 gal0, .mdone 14 gal0),
    (.galleryTlbi 8 gal0, .galleryTlbi 7 gal0),
    (.galleryTlbi 8 gal0, .galleryTlbi 14 gal0),
    (.cmop 8 gal0, .cmop 7 gal0),
    (.cmop 8 gal0, .cmop 14 gal0),
    (.passageRead 14 pkt0, .passageRead 13 pkt0),
    (.passageRead 14 pkt0, .passageRead 18 pkt0),
    (.passageWrite 14 pkt0, .passageWrite 13 pkt0),
    (.passageWrite 14 pkt0, .passageWrite 18 pkt0),
    (.passageAtomic 14 pkt0, .passageAtomic 13 pkt0),
    (.passageAtomic 14 pkt0, .passageAtomic 18 pkt0),
    (.rdata 14 pkt0, .rdata 13 pkt0),
    (.rdata 14 pkt0, .rdata 18 pkt0),
    (.wack 14 pkt0, .wack 13 pkt0),
    (.wack 14 pkt0, .wack 18 pkt0),
    (.aresult 14 pkt0, .aresult 13 pkt0),
    (.aresult 14 pkt0, .aresult 18 pkt0),
    (.passageError 14 pkt0, .passageError 13 pkt0),
    (.passageError 14 pkt0, .passageError 18 pkt0),
    (.passageTimeout 14 0 0, .passageTimeout 13 0 0),
    (.passageTimeout 14 0 0, .passageTimeout 18 0 0),
    (.passageTimeout 14 0 0, .passageTimeout 14 16 0),
    (.passageTimeout 14 0 0, .passageTimeout 14 0 4096),
    (.dmaRead 0 0 0 none, .dmaRead 8 0 0 none),
    (.dmaRead 0 0 0 none, .dmaRead 0 0 0 (some 4097))] : List (Instr × Instr)).all tells = true := by decide +kernel

theorem smoke_4 : ([(.dmaRead 0 0 0 none, .dmaRead 0 0 0 (some 0)),
    (.dmaWrite 0 0 0 [0] false, .dmaWrite 8 0 0 [0] false),
    (.dmaWrite 0 0 0 [0] false, .dmaWrite 0 0 0 [] false),
    (.dmaWrite 0 0 0 [0] false, .dmaWrite 0 0 0 (List.replicate 513 0) false),
    (.mmioCompletion 0 0 false 0, .mmioCompletion 8 0 false 0),
    (.mmioCompletionTimeout 0 0, .mmioCompletionTimeout 8 0),
    (.ltrMessage 0 0 0 0, .ltrMessage 8 0 0 0),
    (.ltrMessage 0 0 0 0, .ltrMessage 0 16 0 0),
    (.functionLevelReset 0 0, .functionLevelReset 8 0),
    (.pmeToAck 0 0, .pmeToAck 8 0),
    (.pmeToAck 0 0, .pmeToAck 0 16),
    (.wiredLevelChange 0, .wiredLevelChange 4096),
    (.inboxRecord 0 0 false 0 0, .inboxRecord 0 4 false 0 0),
    (.inboxRecord 0 0 false 0 0, .inboxRecord 0 0 false 16777216 0),
    (.inboxRecord 0 0 false 0 0, .inboxRecord 0 0 false 0 4096),
    (.spillQueueMove 0 0, .spillQueueMove 0 4),
    (.iclaim 0 0 0 .m false, .iclaim 72 0 0 .m false),
    (.iclaim 0 0 0 .m false, .iclaim 0 16 0 .m false),
    (.iclaim 0 0 0 .m false, .iclaim 0 0 4 .m false),
    (.routerWire 0 .m 0, .routerWire 4096 .m 0),
    (.vctlPull 0 0 .m, .vctlPull 72 0 .m),
    (.vctlPull 0 0 .m, .vctlPull 0 16 .m),
    (.vctlActive 0 0 .m 0, .vctlActive 72 0 .m 0),
    (.vctlActive 0 0 .m 0, .vctlActive 0 16 .m 0),
    (.timecmpMatch 0 0, .timecmpMatch 0 3),
    (.regionRegisterWrite 0 0 .m 0, .regionRegisterWrite 64 0 .m 0),
    (.regionRegisterWrite 0 0 .m 0, .regionRegisterWrite 0 3 .m 0),
    (.handoverRootPort .m false 0 false, .handoverRootPort .m false 8 false),
    (.handoverChurnInstance .m false 0, .handoverChurnInstance .m false 512),
    (.handoverWiredSource .m false 0, .handoverWiredSource .m false 4096),
    (.coreRailRead 0 false 0 0 false, .coreRailRead 12 false 0 0 false),
    (.pmbusRailRead 16 false 0 false, .pmbusRailRead 15 false 0 false),
    (.pmbusRailRead 16 false 0 false, .pmbusRailRead 36 false 0 false),
    (.pwrFreq 0 .m 0, .pwrFreq 72 .m 0),
    (.pwrFreq 0 .m 0, .pwrFreq 0 .m 65536),
    (.avsSetpointPoll 0 false false, .avsSetpointPoll 12 false false),
    (.freqGlideComplete 0, .freqGlideComplete 72),
    (.pwrLimit .m 0, .pwrLimit .m 65536),
    (.thermalRead 0 0, .thermalRead 92 0),
    (.droopLevel1 0, .droopLevel1 72),
    (.droopLevel2 0, .droopLevel2 72),
    (.droopRecovery 0, .droopRecovery 72),
    (.droopLevel1End 0, .droopLevel1End 72),
    (.powerStateEntry 0 0, .powerStateEntry 4 0),
    (.powerStateEntry 0 0, .powerStateEntry 0 5000),
    (.powerStateEntryComplete 0 0, .powerStateEntryComplete 3 0),
    (.powerStateEntryComplete 0 0, .powerStateEntryComplete 0 5000),
    (.prepareAnswer 0 0, .prepareAnswer 182 0),
    (.prepareAnswer 0 0, .prepareAnswer 0 4),
    (.wakeEvent 0 0 1 0 0, .wakeEvent 4 0 1 0 0),
    (.wakeEvent 0 0 1 0 0, .wakeEvent 0 0 0 0 0),
    (.wakeEvent 0 0 1 0 0, .wakeEvent 0 0 9 0 0),
    (.wakeStepReady 0 0, .wakeStepReady 4 0),
    (.wakeStepTimeout 0 0, .wakeStepTimeout 4 0),
    (.blkreqUnpark .m 0, .blkreqUnpark .m 72),
    (.blkreqParkDrip .m 0, .blkreqParkDrip .m 72),
    (.blkreqParkStill .m 0, .blkreqParkStill .m 72),
    (.blkreqParkSump .m 0, .blkreqParkSump .m 72),
    (.blkreqEngineRelease .m 0, .blkreqEngineRelease .m 72),
    (.blkreqEngineGate .m 0 1, .blkreqEngineGate .m 72 1)] : List (Instr × Instr)).all tells = true := by decide +kernel

theorem smoke_5 : ([(.blkreqEngineGate .m 0 1, .blkreqEngineGate .m 0 0),
    (.blkreqSlotPowerOn .m 0, .blkreqSlotPowerOn .m 8),
    (.blkreqSlotPowerOff .m 0, .blkreqSlotPowerOff .m 8),
    (.powerFailure 0, .powerFailure 37),
    (.warmReset 0 0 false boot0 [], .warmReset 0 1152 false boot0 []),
    (.doeSpdmRequest 0 [], .doeSpdmRequest 8 []),
    (.patrolUnitStart 0, .patrolUnitStart 6),
    (.patrolSliceComplete 0 0 [] false, .patrolSliceComplete 6 0 [] false),
    (.patrolSliceTimeout 0, .patrolSliceTimeout 6),
    (.errorRecord ⟨0, 0, 0, 0⟩ 0 false 0, .errorRecord ⟨0, 0, 0, 0⟩ 0 false 6),
    (.logRecord 0, .logRecord 6),
    (.lifeHourTick 0, .lifeHourTick 4),
    (.linkFunc 0 0 .m 0, .linkFunc 18 0 .m 0),
    (.linkFunc 0 0 .m 0, .linkFunc 0 256 .m 0),
    (.registerWrite 0 .m false 4 0, .registerWrite 0 .m false 2 0),
    (.registerWrite 0 .m false 4 0, .registerWrite 2 .m false 4 0),
    (.hotplugSlotEvent 0 0, .hotplugSlotEvent 8 0),
    (.hotplugSlotEvent 0 0, .hotplugSlotEvent 0 16),
    (.refreshClassChange 0 0 0 0 0 0, .refreshClassChange 12 0 0 0 0 0),
    (.refreshClassChange 0 0 0 0 0 0, .refreshClassChange 0 8 0 0 0 0),
    (.passageTagReuse 14 0 0, .passageTagReuse 13 0 0),
    (.passageTagReuse 14 0 0, .passageTagReuse 18 0 0),
    (.passageTagReuse 14 0 0, .passageTagReuse 14 16 0),
    (.passageTagReuse 14 0 0, .passageTagReuse 14 0 4096)] : List (Instr × Instr)).all tells = true := by decide +kernel


end Sys2Proof.Tests
end

namespace Sys2Proof.Machine

/-! ### Memory's form under the shared operations (log 1) -/

theorem forN_invariant {α : Type} {P : α → Prop} {f : Nat → α → α} (hf : ∀ i a, P a → P (f i a)) (n : Nat) {lo : Nat} {a : α} (ha : P a) :
    P (forN lo n f a) := by
  induction n generalizing lo a with
  | zero => exact ha
  | succ n ih => exact ih (hf _ _ ha)

/-- A fold over pairs of memory and hardware keeps memory's form where each of its steps does. -/
theorem Memory.wf_foldl {β : Type} {f : List Host.Cell × Hw → β → List Host.Cell × Hw}
    (hf : ∀ q b, Memory.wf q.1 = true → Memory.wf (f q b).1 = true) (xs : List β) {q : List Host.Cell × Hw} (hq : Memory.wf q.1 = true) :
    Memory.wf (xs.foldl f q).1 = true := by
  induction xs generalizing q with
  | nil => exact hq
  | cons x xs ih => exact ih (hf q x hq)

/-- A loop over pairs of memory and hardware keeps memory's form where each of its rounds does. -/
theorem Memory.wf_forN {f : Nat → List Host.Cell × Hw → List Host.Cell × Hw}
    (hf : ∀ i q, Memory.wf q.1 = true → Memory.wf (f i q).1 = true) (lo n : Nat) {q : List Host.Cell × Hw} (hq : Memory.wf q.1 = true) :
    Memory.wf (forN lo n f q).1 = true :=
  forN_invariant (P := fun q : List Host.Cell × Hw => Memory.wf q.1 = true) hf n hq

/-- `Memory.wf_memPut` for a pair, so that its use needs no look into the bytes stored. -/
theorem Memory.wf_stored {a : Nat} {bs : Bytes} {m : List Host.Cell} {h : Hw} (hm : Memory.wf m = true) :
    Memory.wf ((memPut a bs m, h) : List Host.Cell × Hw).1 = true :=
  Memory.wf_memPut hm

variable {q : List Host.Cell × Hw}

/-! ### Slices, write-back and maintenance (R215, R225, R229, R234) -/

theorem Memory.wf_writeMem (line : Nat) (v : Vec) (bad : Bool) (hq : Memory.wf q.1 = true) : Memory.wf (writeMem line v bad q).1 = true := by
  unfold writeMem
  exact Memory.wf_stored hq

theorem Memory.wf_wbbIssue {m : List Host.Cell} (h : Hw) (s e : Nat) (hm : Memory.wf m = true) : Memory.wf (h.wbbIssue m s e).1 = true := by
  unfold Hw.wbbIssue
  split
  · exact hm
  split
  · exact hm
  split
  · exact hm
  split
  · dsimp only
    exact Memory.wf_writeMem _ _ _ hm
  split
  · split <;> exact hm
  · dsimp only
    split <;> exact hm

theorem Memory.wf_cmoHome (op line : Nat) (hq : Memory.wf q.1 = true) : Memory.wf (cmoHome op line q).1 = true := by
  unfold cmoHome
  extract_lets s h0 dna hs v clean dropWbb kept mem home
  have hmem : Memory.wf mem = true := by
    unfold mem
    split
    · exact hq
    · exact Memory.wf_memPut hq
  split <;> exact hmem

theorem Memory.wf_cmoNode {op line : Nat} {r : List Host.Cell × Hw} (hq : Memory.wf q.1 = true) (h : cmoNode op line q = some r) :
    Memory.wf r.1 = true := by
  have hc := Memory.wf_cmoHome op line hq
  unfold cmoNode at h
  split at h
  · cases h
  dsimp only at h
  split at h
  · cases h; exact hc
  · obtain ⟨g, -, rfl⟩ := Option.map_eq_some_iff.1 h
    exact hc

theorem Memory.wf_wbHome {s l : Nat} {g : GMsg} {m : List Host.Cell} {h : Hw} {r : List Host.Cell × Hw} (hm : Memory.wf m = true)
    (e : wbHome s l g m h = some r) : Memory.wf r.1 = true := by
  unfold wbHome at e
  extract_lets h1 h2 h3 at e
  split at e
  · rw [Option.some.injEq] at e
    subst e
    exact Memory.wf_stored hm
  · obtain ⟨_, -, rfl⟩ := Option.map_eq_some_iff.1 e
    exact hm

theorem Memory.wf_rwbTake {s : Nat} {dirty : Bool} {m : List Host.Cell} {h : Hw} {r : List Host.Cell × Hw} (hm : Memory.wf m = true)
    (e : rwbTake s dirty m h = some r) : Memory.wf r.1 = true := by
  unfold rwbTake at e
  split at e
  · cases e
  split at e
  · cases e
  dsimp only at e
  split at e
  · cases e; exact hm
  split at e
  · cases e; exact hm
  · obtain ⟨p, hp, rfl⟩ := Option.map_eq_some_iff.1 e
    have := Memory.wf_wbHome hm hp
    exact this

/-! ### Controllers (R322 to R328, R340) -/

theorem Memory.wf_spoilValue (p : MPlace) (summary : Nat) (hq : Memory.wf q.1 = true) : Memory.wf (spoilValue p summary q).1 = true := by
  unfold spoilValue
  split
  · exact hq
  dsimp only
  split
  · exact hq
  · exact Memory.wf_stored hq

theorem Memory.wf_readAt (p : MPlace) (e : ReadErr) (keep : Bool) (hq : Memory.wf q.1 = true) : Memory.wf (readAt p e keep q).1 = true := by
  unfold readAt
  dsimp only
  split
  case h_3 => exact Memory.wf_spoilValue _ _ hq
  case h_4 | h_5 => cases keep <;> exact hq
  all_goals exact hq

theorem Memory.wf_readLine (p : MPlace) (e second : ReadErr) (hq : Memory.wf q.1 = true) : Memory.wf (readLine p e second q).1 = true := by
  have hboth (s : MPlace) (c : Bool) (keep : Bool) : 
      let r := if c then (q.1, q.2, 0) else readAt s second false (q.1, q.2.activate s)
      Memory.wf (readAt p e keep (r.1, r.2.1)).1 = true := by
    refine Memory.wf_readAt _ _ _ ?_
    dsimp only
    split
    · exact hq
    · exact Memory.wf_readAt _ _ _ hq
  unfold readLine
  dsimp only
  split
  · split
    · exact hq
    split
    · exact hq
    · exact Memory.wf_readAt _ _ _ hq
  split
  · exact hq
  split
  · exact hboth _ _ _
  · exact hboth _ _ _
  · exact Memory.wf_readAt _ _ _ hq

theorem Memory.wf_writeDown (mc : Nat) (w : MWrite) (hq : Memory.wf q.1 = true) : Memory.wf (writeDown mc w q).1 = true := by
  unfold writeDown
  dsimp only
  split
  · exact hq
  · exact Memory.wf_writeMem _ _ _ hq

theorem Memory.wf_convert (mc idx : Nat) (e : ReadErr) (hq : Memory.wf q.1 = true) : Memory.wf (convert mc idx e q).1 = true := by
  unfold convert
  dsimp only
  split
  · exact hq
  · exact Memory.wf_readAt _ _ _ hq

/-! ### Power states (R430, R438, R444) -/

theorem Memory.wf_flushSlice (s : Nat) (hq : Memory.wf q.1 = true) : Memory.wf (flushSlice s q).1 = true := by
  refine Memory.wf_foldl (fun q w hq => ?_) _ hq
  dsimp only
  split
  · split <;> exact hq
  · exact Memory.wf_writeMem _ _ _ hq

theorem Memory.wf_flushVat (hq : Memory.wf q.1 = true) : Memory.wf (flushVat q).1 = true :=
  Memory.wf_foldl (fun _ s hq => Memory.wf_flushSlice s hq) _ hq

theorem Memory.wf_saveThreads (t n : Nat) (hq : Memory.wf q.1 = true) : Memory.wf (saveThreads t n q).1 = true :=
  Memory.wf_forN (fun _ _ hq => Memory.wf_forN (fun _ _ hq => Memory.wf_stored hq) _ _ hq) _ _ hq

theorem Memory.wf_enterScope (scope n : Nat) (st : PState) (hq : Memory.wf q.1 = true) : Memory.wf (enterScope scope n st q).1 = true := by
  unfold enterScope
  split
  case h_1 | h_3 => dsimp only; exact Memory.wf_saveThreads _ _ hq
  all_goals exact hq

theorem Memory.wf_commitStep (st : PState) (hq : Memory.wf q.1 = true) : Memory.wf (commitStep st q).1 = true := by
  unfold commitStep
  extract_lets next v
  have hv : Memory.wf v.1 = true := Memory.wf_flushVat hq
  split
  · split
    · exact hq
    split
    · exact hv
    split
    all_goals
      dsimp only
      exact hv
  · split <;> exact hq

theorem Memory.wf_blkReach {b a : Nat} {r : List Host.Cell × Hw} (hq : Memory.wf q.1 = true) (e : blkReach b a q = some r) :
    Memory.wf r.1 = true := by
  have hself {c : Bool} {r : List Host.Cell × Hw} (e : (if c then some q else none) = some r) : Memory.wf r.1 = true := by
    split at e
    · cases e; exact hq
    · cases e
  have hpark {c : Bool} {d : Prop} [Decidable d] {n : Nat} {st : PState} {h : Hw}
      (e : (if c then none else if d then some q else some (enterScope 1 n st (q.1, h))) = some r) : Memory.wf r.1 = true := by
    split at e
    · cases e
    split at e
    · cases e; exact hq
    · cases e; exact Memory.wf_enterScope _ _ _ hq
  unfold blkReach at e
  dsimp only at e
  split at e
  case h_1 | h_6 => exact hself e
  case h_2 | h_3 | h_4 => exact hpark e
  case h_5 => cases e; exact hq
  case h_7 =>
    split at e
    · cases e
    · cases e; exact hq
  case h_8 => cases e; exact hq

/-! ### Boot and reset (R279, R448, R450) -/

theorem Memory.wf_bootMonitor (b : Boot) (e1 e2 : DirEnt) (hq : Memory.wf q.1 = true) : Memory.wf (bootMonitor b e1 e2 q).1 = true := by
  unfold bootMonitor
  extract_lets h0
  split
  · exact hq
  split
  · exact hq
  · extract_lets at_ l h2 m1 h3
    have hm : Memory.wf m1 = true := by
      unfold m1
      exact Memory.wf_memPut (Memory.wf_memPut hq)
    clear_value m1
    exact hm

theorem Memory.wf_bootImages (b : Boot) (mid : Hw → Hw) (hq : Memory.wf q.1 = true) : Memory.wf (bootImages b mid q).1 = true := by
  unfold bootImages
  split
  · exact hq
  split
  · exact hq
  split
  · exact hq
  dsimp only
  split
  · exact hq
  · exact Memory.wf_bootMonitor _ _ _ hq

theorem Memory.wf_bootFrom5 (b : Boot) (hq : Memory.wf q.1 = true) : Memory.wf (bootFrom5 b q).1 = true := by
  unfold bootFrom5
  split
  · exact hq
  dsimp only
  split
  · exact hq
  · exact Memory.wf_bootImages _ _ hq

theorem Memory.wf_bootFrom4 (cause edges : Nat) (b : Boot) (hq : Memory.wf q.1 = true) : Memory.wf (bootFrom4 cause edges b q).1 = true := by
  unfold bootFrom4
  dsimp only
  split
  · exact Memory.wf_bootFrom5 _ hq
  · exact hq

theorem Memory.wf_bootFrom3 (cause : Nat) (b : Boot) (hq : Memory.wf q.1 = true) : Memory.wf (bootFrom3 cause b q).1 = true := by
  unfold bootFrom3
  split
  · exact hq
  · exact Memory.wf_bootFrom4 _ _ _ hq

theorem Memory.wf_bootFrom2 (cause : Nat) (b : Boot) (hq : Memory.wf q.1 = true) : Memory.wf (bootFrom2 cause b q).1 = true := by
  unfold bootFrom2
  split
  · exact hq
  · exact Memory.wf_bootFrom3 _ _ hq

theorem Memory.wf_bootFrom1 (cause : Nat) (b : Boot) (hq : Memory.wf q.1 = true) : Memory.wf (bootFrom1 cause b q).1 = true := by
  unfold bootFrom1
  split
  · exact hq
  · exact Memory.wf_bootFrom2 _ _ hq

theorem Memory.wf_endBytes (pa : Word) (bs : Bytes) (hq : Memory.wf q.1 = true) : Memory.wf (endBytes pa bs q).1 = true := by
  unfold endBytes
  dsimp only
  split
  · exact Memory.wf_cohWrite hq
  · exact hq

theorem Memory.wf_endFill (e c : Nat) (todo : List SReq) (u : ChUnit) (hq : Memory.wf q.1 = true) :
    Memory.wf (endFill e c todo u q).1 = true := by
  unfold endFill
  dsimp only
  split
  · refine Memory.wf_foldl (fun q r hq => ?_) _ hq
    split
    · exact hq
    · exact Memory.wf_endBytes _ _ hq
  split
  · refine Memory.wf_foldl (fun q r hq => ?_) _ hq
    split
    · exact Memory.wf_endBytes _ _ hq
    · exact hq
  · exact hq

theorem Memory.wf_endUnit (e c : Nat) (todo : List SReq) (x : ChCtx) (u : ChUnit) (hq : Memory.wf q.1 = true) :
    Memory.wf (endUnit e c todo x u q).1 = true := by
  unfold endUnit
  dsimp only
  split
  · exact Memory.wf_endFill _ _ _ _ hq
  split
  · exact hq
  split
  · exact Memory.wf_foldl (fun _ _ hq => Memory.wf_endBytes _ _ hq) _ hq
  split
  · split
    · exact Memory.wf_endBytes _ _ hq
    · exact hq
  · exact hq

theorem Memory.wf_endReq (r : SReq) (hq : Memory.wf q.1 = true) : Memory.wf (endReq r q).1 = true := by
  unfold endReq
  extract_lets f m h own
  have hm : Memory.wf m = true := hq
  split
  · exact hm
  split
  · exact Memory.wf_endBytes _ _ hm
  · split
    · exact hm
    · exact Memory.wf_cohWrite hm
  · exact hm

theorem Memory.wf_endStores (t : Nat) (hq : Memory.wf q.1 = true) : Memory.wf (endStores t q).1 = true := by
  refine Memory.wf_foldl (fun q e hq => ?_) _ hq
  split
  · exact hq
  split
  · exact Memory.wf_cohWrite hq
  · exact hq

theorem Memory.wf_endWork (hq : Memory.wf q.1 = true) : Memory.wf (endWork q).1 = true := by
  refine Memory.wf_foldl (fun q s hq => Memory.wf_foldl (fun q c hq => Memory.wf_foldl (fun q u hq => ?_) _ hq) _ hq) _ ?_
  · exact Memory.wf_endUnit _ _ _ _ _ hq
  · exact Memory.wf_foldl (fun _ r hq => Memory.wf_endReq r hq) _ (Memory.wf_foldl (fun _ t hq => Memory.wf_endStores t.1 hq) _ hq)

theorem Memory.wf_flushAll (flushed : Bool) (lost : List Nat) (hq : Memory.wf q.1 = true) : Memory.wf (flushAll flushed lost q).1 = true := by
  refine Memory.wf_foldl (fun q x hq => ?_) _ hq
  split
  · exact Memory.wf_stored hq
  · exact hq

/-! ### Other members (R229, R359 to R365) -/

theorem Memory.wf_snoopAns (s l pos kind : Nat) (inv : Bool) (v : Vec) (poison : Bool) (hq : Memory.wf q.1 = true) :
    Memory.wf (snoopAns s l pos kind inv v poison q).1 = true := by
  unfold snoopAns
  dsimp only
  split
  · exact Memory.wf_stored hq
  · exact hq

theorem Memory.wf_galDone (src : Nat) (x : GTag) (op st : Nat) (a : Ans) (hq : Memory.wf q.1 = true) :
    Memory.wf (galDone src x op st a q).1 = true := by
  unfold galDone
  dsimp only
  split
  · split
    · split <;> exact Memory.wf_snoopAns _ _ _ _ _ _ _ hq
    · split <;> exact hq
  · split
    · exact hq
    · split <;> exact hq

theorem Memory.wf_endTag (tag err : Nat) (hq : Memory.wf q.1 = true) : Memory.wf (endTag tag err q).1 = true := by
  unfold endTag
  split
  · exact hq
  · exact Memory.wf_galDone _ _ _ _ _ hq

theorem Memory.wf_galAnswerIn (k op : Nat) (g : GMsg) (hq : Memory.wf q.1 = true) : Memory.wf (galAnswerIn k op g q).1 = true := by
  unfold galAnswerIn
  dsimp only
  split
  · exact hq
  split
  · exact hq
  split
  · exact hq
  · exact Memory.wf_galDone _ _ _ _ _ hq

theorem Memory.wf_unroute (k : Nat) (x : Nat × GMsg) (hq : Memory.wf q.1 = true) : Memory.wf (unroute k x q).1 = true := by
  unfold unroute
  dsimp only
  split
  · split
    · exact hq
    · exact Memory.wf_galAnswerIn _ _ _ hq
  · exact hq

theorem Memory.wf_unreach (d : Nat) (hq : Memory.wf q.1 = true) : Memory.wf (unreach d q).1 = true :=
  Memory.wf_foldl (fun _ t hq => Memory.wf_endTag t 3 hq) _ hq

theorem Memory.wf_maintStart {op : Nat} {g : GMsg} {r : List Host.Cell × Hw} (hq : Memory.wf q.1 = true) (e : maintStart op g q = some r) :
    Memory.wf r.1 = true := by
  unfold maintStart at e
  split at e
  · cases e
  split at e
  · cases e; exact hq
  · obtain ⟨p, hp, rfl⟩ := Option.map_eq_some_iff.1 e
    have := Memory.wf_cmoNode hq hp
    exact this

theorem Memory.wf_maintRetry (k : Nat) (hq : Memory.wf q.1 = true) : Memory.wf (maintRetry q k).1 = true := by
  have hstep (ms : List (Nat × GMsg)) (q : (List Host.Cell × Hw) × Bool) (hq : Memory.wf q.1.1 = true) :
      Memory.wf (ms.foldl (fun (q : (List Host.Cell × Hw) × Bool) x =>
        if !q.2 then q
        else match maintStart x.1 x.2 q.1 with
          | some r => ((r.1, r.2.updLink k 0 fun l => { l with mnt := l.mnt.tail }), true)
          | none => (q.1, false)) q).1.1 = true := by
    induction ms generalizing q with
    | nil => exact hq
    | cons x xs ih =>
      refine ih _ ?_
      dsimp only
      split
      · exact hq
      split
      · next r hr =>
        have := Memory.wf_maintStart hq hr
        exact this
      · exact hq
  exact hstep _ (q, true) hq

theorem Memory.wf_maintArrive (k op : Nat) (g : GMsg) (hq : Memory.wf q.1 = true) : Memory.wf (maintArrive k op g q).1 = true :=
  Memory.wf_maintRetry k hq

/-! ### Messages where they end, and the crystal tick (R288, log 5) -/

theorem Memory.wf_devDo (who : Waiter) (tg : Target) (acc : Acc) (bank : Bool) (vmid : Nat) (pa : Word) (len : Nat) (wr : Option (Vec × BitVec 64))
    (err : Nat) (hq : Memory.wf q.1 = true) : Memory.wf (devDo who tg acc bank vmid pa len wr err q).1 = true := by
  unfold devDo
  extract_lets m h a line off ans need
  split
  · exact hq
  · split
    · exact hq
    split <;> exact hq
  split
  · exact hq
  split
  · exact hq
  split
  · exact hq
  · exact Memory.wf_stored hq

theorem Memory.wf_deliver (p : Payload) (hq : Memory.wf q.1 = true) : Memory.wf (deliver p q).1 = true := by
  unfold deliver
  cases p
  case dev => exact Memory.wf_devDo _ _ _ _ _ _ _ _ _ hq
  all_goals exact hq

theorem Memory.wf_drainAway (c : Nat) (hq : Memory.wf q.1 = true) : Memory.wf (drainAway c q).1 = true := by
  unfold drainAway
  split
  · exact hq
  · exact Memory.wf_foldl (fun _ p hq => Memory.wf_deliver p.2 hq) _ hq

theorem Memory.wf_eject (f : Flit) (hq : Memory.wf q.1 = true) : Memory.wf (eject f q).1 = true := by
  unfold eject
  split
  · exact Memory.wf_deliver _ hq
  split
  · exact Memory.wf_deliver _ (Memory.wf_drainAway _ hq)
  · exact hq

theorem Memory.wf_hop (node dir : Nat) (hq : Memory.wf q.1 = true) : Memory.wf (hop node dir q).1 = true := by
  unfold hop
  dsimp only
  split
  · exact hq
  split
  · exact Memory.wf_eject _ hq
  · exact hq

theorem Memory.wf_runTick (hq : Memory.wf q.1 = true) : Memory.wf (runTick q).1 = true := by
  refine Memory.wf_foldl (fun _ c hq => Memory.wf_drainAway c hq) _ ?_
  dsimp only
  split
  · exact Memory.wf_foldl (fun _ i hq => Memory.wf_maintRetry (8 + i) hq) _ hq
  · exact hq

theorem Memory.wf_crystalTick (hq : Memory.wf q.1 = true) : Memory.wf (crystalTick q).1 = true := by
  unfold crystalTick
  dsimp only
  split
  · exact hq
  · exact Memory.wf_runTick hq

end Sys2Proof.Machine

namespace Sys2Proof.Machine

variable {s u : State}

/-! ### Memory's form under the forms of a command -/

theorem Memory.wf_ite {p : Prop} [Decidable p] {a b : List Host.Cell × Hw} (ha : Memory.wf a.1 = true) (hb : Memory.wf b.1 = true) :
    Memory.wf (if p then a else b).1 = true := by
  split
  · exact ha
  · exact hb

theorem Memory.wf_onAll {f : List Host.Cell → Hw → List Host.Cell × Hw} (hs : Memory.wf s.mem = true)
    (hf : Memory.wf (f s.mem s.hw).1 = true) (h : s.onAll f = .next u) : Memory.wf u.mem = true := by
  obtain ⟨-, e | e⟩ := State.onAll_inv h <;> rw [e]
  · exact hs
  · exact hf

theorem Memory.wf_onAonAll {f : List Host.Cell → Hw → List Host.Cell × Hw} (hf : Memory.wf (f s.mem s.hw).1 = true)
    (h : s.onAonAll f = .next u) : Memory.wf u.mem = true := by
  rw [(State.onAonAll_inv h).2]
  exact hf

/-- A command of the always-on domain that changes the hardware alone. -/
theorem Memory.wf_onAon {g : Hw} (hs : Memory.wf s.mem = true) (h : (.next { s with hw := g } : Host.Outcome State Fault Refusal) = .next u) :
    Memory.wf u.mem = true := by
  cases h
  exact hs

theorem Memory.wf_onHw {f : List Host.Cell → Hw → Hw} (hs : Memory.wf s.mem = true) (h : s.onHw f = .next u) :
    Memory.wf u.mem = true := by
  rw [(State.onHw_inv h).1]
  exact hs

theorem Memory.wf_onGal {k op : Nat} {g : GMsg} {f : List Host.Cell → Hw → List Host.Cell × Hw} (hs : Memory.wf s.mem = true)
    (hf : Memory.wf (f s.mem s.hw).1 = true) (h : s.onGal k op g f = .next u) : Memory.wf u.mem = true := by
  refine Memory.wf_onAll hs ?_ h
  split
  · exact hs
  split
  · exact hs
  split
  · exact hf
  · exact hs

theorem Memory.wf_onPas {k ty : Nat} {p : PPkt} {f : List Host.Cell → Hw → List Host.Cell × Hw} (hs : Memory.wf s.mem = true)
    (hf : Memory.wf (f s.mem s.hw).1 = true) (h : s.onPas k ty p f = .next u) : Memory.wf u.mem = true := by
  refine Memory.wf_onAll hs ?_ h
  split
  · exact hs
  split
  · exact hs
  · exact hf

/-! ### Commands that may write memory -/

theorem Memory.wf_execPowerStateEntryComplete {scope n : Nat} (hs : Memory.wf s.mem = true)
    (h : execPowerStateEntryComplete scope n s = .next u) : Memory.wf u.mem = true := by
  refine Memory.wf_onAll hs ?_ h
  split
  · exact hs
  split
  · exact hs
  · dsimp only
    exact Memory.wf_enterScope _ _ _ hs

theorem Memory.wf_execCommitStepDone (hs : Memory.wf s.mem = true) (h : execCommitStepDone s = .next u) : Memory.wf u.mem = true := by
  refine Memory.wf_onAll hs ?_ h
  split
  · split
    · exact Memory.wf_commitStep _ hs
    · exact hs
  · exact hs

theorem Memory.wf_execBlkreqDone (hs : Memory.wf s.mem = true) (h : execBlkreqDone s = .next u) : Memory.wf u.mem = true := by
  refine Memory.wf_onAll hs ?_ h
  split
  · exact hs
  split
  · exact hs
  · next hp =>
    have hm := Memory.wf_blkReach (q := (s.mem, s.hw)) hs hp
    exact hm

theorem Memory.wf_execColdReset {cause : Nat} {boot : Boot} (hs : Memory.wf s.mem = true) (h : execColdReset cause boot s = .next u) :
    Memory.wf u.mem = true := by
  refine Memory.wf_onAonAll ?_ h
  split
  · exact hs
  · exact Memory.wf_bootFrom1 _ _ Memory.wf_nil

theorem Memory.wf_execPwrokAssert (hs : Memory.wf s.mem = true) (h : execPwrokAssert s = .next u) : Memory.wf u.mem = true := by
  refine Memory.wf_onAonAll ?_ h
  dsimp only
  split
  · split
    · exact Memory.wf_bootFrom4 _ _ _ hs
    · exact hs
  · exact hs

theorem Memory.wf_execColdrstRelease (hs : Memory.wf s.mem = true) (h : execColdrstRelease s = .next u) : Memory.wf u.mem = true := by
  refine Memory.wf_onAonAll ?_ h
  dsimp only
  split
  · split
    · exact Memory.wf_bootFrom2 _ _ hs
    · exact hs
  · exact hs

theorem Memory.wf_execRefclkCount {edges : Nat} (hs : Memory.wf s.mem = true) (h : execRefclkCount edges s = .next u) :
    Memory.wf u.mem = true := by
  refine Memory.wf_onAonAll ?_ h
  split
  · split
    · exact Memory.wf_bootFrom4 _ _ _ hs
    · exact hs
  · split <;> exact hs

theorem Memory.wf_execWarmReset {cause thread : Nat} {flushed : Bool} {boot : Boot} {lost : List Nat} (hs : Memory.wf s.mem = true)
    (h : execWarmReset cause thread flushed boot lost s = .next u) : Memory.wf u.mem = true := by
  refine Memory.wf_onAll hs ?_ h
  split
  · exact hs
  · extract_lets p h1
    have hp : Memory.wf p.1 = true := Memory.wf_flushAll _ _ (Memory.wf_endWork hs)
    clear_value p h1
    exact Memory.wf_bootImages _ _ hp

theorem Memory.wf_execFailoverTimeout {k : Nat} (hs : Memory.wf s.mem = true) (h : execFailoverTimeout k s = .next u) :
    Memory.wf u.mem = true := by
  refine Memory.wf_onAll hs ?_ h
  split
  · exact hs
  · exact Memory.wf_foldl (fun _ x hq => Memory.wf_unroute k x hq) _ hs

theorem Memory.wf_execRouteRecompute (hs : Memory.wf s.mem = true) (h : execRouteRecompute s = .next u) : Memory.wf u.mem = true := by
  refine Memory.wf_onAll hs ?_ h
  split
  · exact hs
  · exact Memory.wf_foldl (fun _ d hq => Memory.wf_unreach d hq) _ hs

theorem Memory.wf_execUnroutedResend {tag : Nat} (hs : Memory.wf s.mem = true) (h : execUnroutedResend tag s = .next u) :
    Memory.wf u.mem = true := by
  refine Memory.wf_onAll hs ?_ h
  split
  · exact hs
  extract_lets clean h1 r
  clear_value r
  split
  · exact hs
  split
  · exact hs
  · exact Memory.wf_endTag _ _ hs

theorem Memory.wf_execMemoryRead {mc : Nat} {e second : ReadErr} (hs : Memory.wf s.mem = true)
    (h : execMemoryRead mc e second s = .next u) : Memory.wf u.mem = true := by
  refine Memory.wf_onAll hs ?_ h
  split
  · exact hs
  split
  · extract_lets h0 h1 p h2 r
    have hr : Memory.wf r.1 = true := Memory.wf_readLine _ _ _ hs
    clear_value h2 r
    split
    · exact hs
    · exact hr
  · exact hs

theorem Memory.wf_execMemoryWrite {mc : Nat} (hs : Memory.wf s.mem = true) (h : execMemoryWrite mc s = .next u) :
    Memory.wf u.mem = true := by
  refine Memory.wf_onAll hs ?_ h
  split
  · exact hs
  split
  · extract_lets h1 p r dirty i p' was old h2
    have hp : Memory.wf p.1 = true := Memory.wf_writeDown _ _ hs
    have hp' : Memory.wf p'.1 = true := by
      unfold p'
      split
      · exact Memory.wf_writeMem _ _ _ hs
      · exact hs
    clear_value p p'
    split
    · exact hp
    · exact hp'
  · exact hs

theorem Memory.wf_execPairedConversionStep {mc rank : Nat} {errs : ReadErr × ReadErr} (hs : Memory.wf s.mem = true)
    (h : execPairedConversionStep mc rank errs s = .next u) : Memory.wf u.mem = true := by
  refine Memory.wf_onAll hs ?_ h
  dsimp only
  split
  · exact hs
  · exact Memory.wf_convert _ _ _ (Memory.wf_convert _ _ _ hs)

theorem Memory.wf_execPatrolScrubRead {mc : Nat} {syms : List (Nat × Nat)} {mis : List (Nat × Nat × Nat)} {second : ReadErr}
    (hs : Memory.wf s.mem = true) (h : execPatrolScrubRead mc syms mis second s = .next u) : Memory.wf u.mem = true := by
  refine Memory.wf_onAll hs ?_ h
  dsimp only
  split
  · exact hs
  split
  · exact hs
  · exact Memory.wf_readLine _ _ _ hs

theorem Memory.wf_execFlitHop {node dir : Nat} (hs : Memory.wf s.mem = true) (h : execFlitHop node dir s = .next u) :
    Memory.wf u.mem = true := by
  refine Memory.wf_onAll hs ?_ h
  split
  · exact Memory.wf_hop _ _ hs
  · exact hs

/-- What a slice does with a writeback or an eviction notice, of another node or else of a chamber. -/
theorem Memory.wf_rwbTake_getD {slice : Nat} {dirty : Bool} {m : List Host.Cell} {h g : Hw} (hm : Memory.wf m = true) :
    Memory.wf ((rwbTake slice dirty m h).getD (m, g)).1 = true := by
  cases hr : rwbTake slice dirty m h with
  | none => exact hm
  | some r => exact Memory.wf_rwbTake hm hr

theorem Memory.wf_execCmoRequest {slice : Nat} (hs : Memory.wf s.mem = true) (h : execCmoRequest slice s = .next u) :
    Memory.wf u.mem = true := by
  refine Memory.wf_onAll hs ?_ h
  dsimp only
  split
  · exact hs
  split
  · split
    · exact hs
    · next hq =>
      have hm := Memory.wf_cmoNode (q := (s.mem, _)) hs hq
      split
      · exact hs
      · exact hm
  · exact hs

theorem Memory.wf_execWriteBackBufferIssue {slice entry : Nat} (hs : Memory.wf s.mem = true)
    (h : execWriteBackBufferIssue slice entry s = .next u) : Memory.wf u.mem = true := by
  refine Memory.wf_onAll hs ?_ h
  split
  · exact Memory.wf_wbbIssue _ _ _ hs
  · exact hs

/-- FAR leaves memory as it is: the atomic is applied at its home. -/
theorem Memory.wf_execFar {k : Nat} {g : GMsg} (hs : Memory.wf s.mem = true) (h : execFar k g s = .next u) : Memory.wf u.mem = true := by
  unfold execFar at h
  refine Memory.wf_onGal hs ?_ h
  suffices hf : ∀ q : List Host.Cell × Hw, _ = q → Memory.wf q.1 = true from hf _ rfl
  intro q e
  extract_lets a l four size op off at e
  split at e
  · subst e; exact hs
  split at e <;> (subst e; exact hs)

theorem Memory.wf_execPassageAtomic {k : Nat} {p : PPkt} (hs : Memory.wf s.mem = true) (h : execPassageAtomic k p s = .next u) :
    Memory.wf u.mem = true := by
  exact Memory.wf_onPas hs (Memory.wf_ite hs hs) h

theorem Memory.wf_execLanternExtension {code : Nat} {normal : Bool} (hs : Memory.wf s.mem = true)
    (h : execLanternExtension code normal s = .next u) : Memory.wf u.mem = true := by
  unfold execLanternExtension at h
  dsimp only at h
  split at h
  · exact Memory.wf_onAon hs h
  · cases h

/-- Every command keeps memory's form (log 1): the cases without a name leave memory as it is. -/
theorem Memory.wf_exec {c : Instr} (hs : Memory.wf s.mem = true) (h : exec c s = .next u) : Memory.wf u.mem = true := by
  cases c
  case powerStateEntryComplete => exact Memory.wf_execPowerStateEntryComplete hs h
  case commitStepDone => exact Memory.wf_execCommitStepDone hs h
  case blkreqDone => exact Memory.wf_execBlkreqDone hs h
  case coldReset => exact Memory.wf_execColdReset hs h
  case pwrokAssert => exact Memory.wf_execPwrokAssert hs h
  case coldrstRelease => exact Memory.wf_execColdrstRelease hs h
  case refclkCount => exact Memory.wf_execRefclkCount hs h
  case warmReset => exact Memory.wf_execWarmReset hs h
  case failoverTimeout => exact Memory.wf_execFailoverTimeout hs h
  case routeRecompute => exact Memory.wf_execRouteRecompute hs h
  case unroutedResend => exact Memory.wf_execUnroutedResend hs h
  case memoryRead => exact Memory.wf_execMemoryRead hs h
  case memoryWrite => exact Memory.wf_execMemoryWrite hs h
  case pairedConversionStep => exact Memory.wf_execPairedConversionStep hs h
  case patrolScrubRead => exact Memory.wf_execPatrolScrubRead hs h
  case flitHop => exact Memory.wf_execFlitHop hs h
  case writeback => exact Memory.wf_onAll hs (Memory.wf_rwbTake_getD hs) h
  case cleanEviction => exact Memory.wf_onAll hs (Memory.wf_rwbTake_getD hs) h
  case cmoRequest => exact Memory.wf_execCmoRequest hs h
  case writeBackBufferIssue => exact Memory.wf_execWriteBackBufferIssue hs h
  case far => exact Memory.wf_execFar hs h
  case data | ack | sdata | wbif | farr | err | mdone => exact Memory.wf_onGal hs (Memory.wf_galAnswerIn _ _ _ hs) h
  case galleryTlbi | cmop => exact Memory.wf_onGal hs (Memory.wf_maintArrive _ _ _ hs) h
  case rds | rdu | upg | own | snps | snpi | wb | evc => exact Memory.wf_onGal hs hs h
  case passageAtomic => exact Memory.wf_execPassageAtomic hs h
  case passageRead | passageWrite | rdata | wack | aresult | passageError => exact Memory.wf_onPas hs hs h
  case lanternExtension code _ => exact Memory.wf_execLanternExtension (code := code) hs h
  case powerFailure | unknownCommand | dynamicAddressAssignment | inBandInterrupt | responseRead | samplePreload | extest | bypass | idcode
      | tapReset | getStatus | getSurvey | surveyNow | getIncidents | getCounter | spdm | flashWrite | reset | powerLimit | debugUnlock
      | fwActivate | handover | commitSvn | keySet | revokeBasetteKey | revokeImageKey => exact Memory.wf_onAon hs h
  all_goals exact Memory.wf_onHw hs h

/-- Settles O57: a step is a command, each of which keeps memory's form, or a tick of the crystal (log 5). -/
theorem stepsKeepMemoryForm : Obligations.StepsKeepMemoryForm := by
  intro s u hs h
  unfold step at h
  split at h
  · exact Memory.wf_onAll hs (Memory.wf_crystalTick hs) h
  · next c r _ => exact Memory.wf_exec (s := { s with pending := r }) hs h

end Sys2Proof.Machine

namespace Sys2Proof.Machine

open Sys2Proof.Safety

/-! ### What a command answers -/

/-- A command of the clocked domain answers the state with the hardware that it leaves. -/
theorem Answers.of_onHw {c : Instr} {s : State} {f : List Host.Cell → Hw → Hw} {P : State → Prop} (ho : s.hw.off = false)
    (he : exec c s = s.onHw f) (hP : P { s with hw := f s.mem s.hw }) : Answers c s P :=
  ⟨_, he.trans (State.onHw_run ho f), hP⟩

/-! ### Records leave all but registers and banks alone (R479 to R487) -/

/-- What a record of the incident log changes: the log's registers and a bank. -/
theorem Hw.placeRecord_frame (h : Hw) (b : Nat) (r : Record) (src : Nat) (sec : Bool) (sev : Nat) :
    ∃ regs banks, h.placeRecord b r src sec sev = { h with regs := regs, banks := banks } := by
  have hnote : ∃ regs, h.noteFatal r src sev = { h with regs := regs } := by
    unfold Hw.noteFatal
    split
    · exact ⟨_, rfl⟩
    · exact ⟨h.regs, rfl⟩
  obtain ⟨regs, e⟩ := hnote
  unfold Hw.placeRecord
  rw [e]
  dsimp only
  split
  · exact ⟨_, _, rfl⟩
  split
  · exact ⟨regs, _, rfl⟩
  · exact ⟨_, _, rfl⟩

theorem Hw.incident_frame (h : Hw) (type detail0 : Nat) (addr detail : Word) (src : Nat) (sec : Bool) :
    ∃ regs banks, h.incident type detail0 addr detail src sec = { h with regs := regs, banks := banks } :=
  Hw.placeRecord_frame ..

/-- What a record of an asynchronous error changes of the block, beside its thread's queues of them: the log's registers and a bank. -/
theorem Hw.asyncErr_frame (h : Hw) (t kind err : Nat) (pa : Word) (sec : Bool) :
    ∃ regs banks f, h.asyncErr t kind err pa sec = { h.updThread t f with regs := regs, banks := banks } ∧
      ∀ x, (f x).a = x.a ∧ (f x).b = x.b := by
  unfold Hw.asyncErr
  extract_lets add q h1 code h2
  have hf : ∀ x : Thread, (if sec then { x with errS := add x.errS } else { x with errN := add x.errN }).a = x.a ∧
      (if sec then { x with errS := add x.errS } else { x with errN := add x.errN }).b = x.b := by
    intro x; cases sec <;> exact ⟨rfl, rfl⟩
  obtain ⟨r, b, e⟩ := Hw.incident_frame h1 0x30 0 pa (w64 (code + kind * 2 ^ 12 + err * 2 ^ 8 + q.lost)) (blockId 13 t) sec
  have e2 : h2 = { h1 with regs := r, banks := b } := e
  split
  · obtain ⟨r', b', e'⟩ := Hw.incident_frame h2 0x50 0 pa 0 (blockId 13 t) sec
    refine ⟨r', b', _, ?_, hf⟩
    rw [Hw.refusalT, e', e2]
  · exact ⟨r, b, _, e2, hf⟩

@[simp] theorem Hw.asyncErr_newest (h : Hw) (t kind err : Nat) (pa : Word) (sec : Bool) :
    (h.asyncErr t kind err pa sec).newest = h.newest := by
  obtain ⟨r, b, f, e, -⟩ := h.asyncErr_frame t kind err pa sec
  rw [e]; rfl

/-- A record of an asynchronous error leaves every thread's registers and operations as they are. -/
theorem Hw.asyncErr_thread (h : Hw) (t kind err : Nat) (pa : Word) (sec : Bool) (k : Nat) :
    ((h.asyncErr t kind err pa sec).thread k).a = (h.thread k).a ∧ ((h.asyncErr t kind err pa sec).thread k).b = (h.thread k).b := by
  obtain ⟨r, b, f, e, hf⟩ := h.asyncErr_frame t kind err pa sec
  rw [e]
  show ((h.updThread t f).thread k).a = _ ∧ ((h.updThread t f).thread k).b = _
  by_cases hk : k = t
  · subst hk
    rw [Hw.thread_updThread_same]
    exact hf _
  · rw [Hw.thread_updThread_ne _ _ _ hk]
    exact ⟨rfl, rfl⟩

theorem Hw.asyncErr_thread_ne (h : Hw) {t k : Nat} (hk : k ≠ t) (kind err : Nat) (pa : Word) (sec : Bool) :
    (h.asyncErr t kind err pa sec).thread k = h.thread k := by
  obtain ⟨r, b, f, e, -⟩ := h.asyncErr_frame t kind err pa sec
  rw [e]
  exact Hw.thread_updThread_ne _ _ _ hk

/-! ### Lines of this node (R20, R59) -/

/-- Whether a line belongs to this node is read from the registers. -/
theorem Hw.localLine_congr {g h : Hw} (e : g.regs = h.regs) (l : Nat) : g.localLine l = h.localLine l := by
  simp [Hw.localLine, Hw.node, Hw.regF, Hw.reg, e]

/-- Data that comes to rest changes at most what is on its way. -/
theorem Hw.landed_eq (h : Hw) (l : Nat) : ∃ c, h.landed l = { h with carried := c } := by
  unfold Hw.landed
  split
  · exact ⟨h.carried, rfl⟩
  · exact ⟨_, rfl⟩

/-- The last copy of a line of this node takes nothing with it: memory has the line. -/
theorem Hw.forget_local {h : Hw} {l : Nat} (hl : h.localLine l = true) : h.forget l = h := by
  simp [Hw.forget, hl]

/-- The newest value of a line that `newest` lists. -/
theorem lineVal_of_newest {m : List Host.Cell} {h : Hw} {l : Nat} {v : Vec} (e : sfind l h.newest = some v) : lineVal m h l = v := by
  simp [lineVal, e]

/-! ### What the operations of slices and the mesh leave alone (R237, R288), one lemma per field and operation -/

@[simp] theorem Hw.setNewest_regs (h : Hw) (l : Nat) (v : Vec) : (h.setNewest l v).regs = h.regs := rfl
@[simp] theorem Hw.setNewest_flits (h : Hw) (l : Nat) (v : Vec) : (h.setNewest l v).flits = h.flits := rfl
@[simp] theorem Hw.setNewest_threads (h : Hw) (l : Nat) (v : Vec) : (h.setNewest l v).threads = h.threads := rfl
@[simp] theorem Hw.setNewest_slice (h : Hw) (l : Nat) (v : Vec) (k : Nat) : (h.setNewest l v).slice k = h.slice k := rfl

@[simp] theorem Hw.send_regs (h : Hw) (vc src dst : Nat) (p : Payload) : (h.send vc src dst p).regs = h.regs := rfl
@[simp] theorem Hw.send_newest (h : Hw) (vc src dst : Nat) (p : Payload) : (h.send vc src dst p).newest = h.newest := rfl
@[simp] theorem Hw.send_threads (h : Hw) (vc src dst : Nat) (p : Payload) : (h.send vc src dst p).threads = h.threads := rfl
@[simp] theorem Hw.send_slice (h : Hw) (vc src dst : Nat) (p : Payload) (k : Nat) : (h.send vc src dst p).slice k = h.slice k := rfl

@[simp] theorem Hw.freeReq_regs (h : Hw) (n : Nat) (r : SReq) : (h.freeReq n r).regs = h.regs := rfl
@[simp] theorem Hw.freeReq_newest (h : Hw) (n : Nat) (r : SReq) : (h.freeReq n r).newest = h.newest := rfl
@[simp] theorem Hw.freeReq_flits (h : Hw) (n : Nat) (r : SReq) : (h.freeReq n r).flits = h.flits := rfl
@[simp] theorem Hw.freeReq_threads (h : Hw) (n : Nat) (r : SReq) : (h.freeReq n r).threads = h.threads := rfl
@[simp] theorem Hw.freeReq_slice (h : Hw) (n : Nat) (r : SReq) (k : Nat) : (h.freeReq n r).slice k = h.slice k := rfl

@[simp] theorem Hw.landed_regs (h : Hw) (l : Nat) : (h.landed l).regs = h.regs := by
  obtain ⟨c, e⟩ := h.landed_eq l; rw [e]
@[simp] theorem Hw.landed_newest (h : Hw) (l : Nat) : (h.landed l).newest = h.newest := by
  obtain ⟨c, e⟩ := h.landed_eq l; rw [e]
@[simp] theorem Hw.landed_flits (h : Hw) (l : Nat) : (h.landed l).flits = h.flits := by
  obtain ⟨c, e⟩ := h.landed_eq l; rw [e]
@[simp] theorem Hw.landed_threads (h : Hw) (l : Nat) : (h.landed l).threads = h.threads := by
  obtain ⟨c, e⟩ := h.landed_eq l; rw [e]
@[simp] theorem Hw.landed_slice (h : Hw) (l : Nat) (k : Nat) : (h.landed l).slice k = h.slice k := by
  obtain ⟨c, e⟩ := h.landed_eq l; rw [e]; rfl

@[simp] theorem Hw.setNewest_newest (h : Hw) (l : Nat) (v : Vec) : (h.setNewest l v).newest = sset l v h.newest := rfl

/-! ### Bytes (R8) -/

/-- The first bytes of a number do not depend on what stands above them. -/
theorem leBytes_mod {n k : Nat} (h : n ≤ k) (v : Nat) : leBytes n (v % 2 ^ (8 * k)) = leBytes n v := by
  induction n generalizing k v with
  | zero => rfl
  | succ n ih =>
    obtain ⟨k, rfl⟩ : ∃ j, k = j + 1 := ⟨k - 1, by omega⟩
    have hpow : 2 ^ (8 * (k + 1)) = 2 ^ 8 * 2 ^ (8 * k) := by rw [← Nat.pow_add]; congr 1; omega
    have hbyte : BitVec.ofNat 8 (v % 2 ^ (8 * (k + 1))) = BitVec.ofNat 8 v := by
      apply BitVec.eq_of_toNat_eq
      simp only [BitVec.toNat_ofNat, hpow]
      exact Nat.mod_mod_of_dvd _ (Dvd.intro _ rfl)
    have hrest : v % 2 ^ (8 * (k + 1)) / 256 = v / 256 % 2 ^ (8 * k) := by
      rw [hpow]
      exact Nat.mod_mul_right_div_self ..
    rw [leBytes, leBytes, hbyte, hrest, ih (by omega)]

/-- The first bytes of a number fit a vector that has room for them. -/
theorem leBytes_toNat_ofNat {n k : Nat} (h : n ≤ k) (v : Nat) : leBytes n (BitVec.ofNat (8 * k) v).toNat = leBytes n v := by
  rw [BitVec.toNat_ofNat, leBytes_mod h]

/-- The bytes from the first of a vector made of a number are the number's. -/
theorem vbytes_ofNat {n : Nat} (h : n ≤ 64) (v : Nat) : vbytes (BitVec.ofNat 512 v) 0 n = leBytes n v := by
  unfold vbytes
  rw [Nat.pow_zero, Nat.div_one]
  exact leBytes_toNat_ofNat h v

/-! ### Messages that want a credit (R237, R238) -/

/-- A message for which a credit is free, and none waits before it, leaves. -/
theorem Hw.post_sends {h : Hw} {p : Post} (hc : h.hasCredit p.cls p.snd p.dest = true)
    (hn : ∀ q ∈ h.posts, ¬(q.cls = p.cls ∧ q.snd = p.snd ∧ q.dest = p.dest)) :
    h.post p = (h.useCredit p.cls p.snd p.dest).send p.vc p.src p.stop p.payload := by
  have hfirst : h.posts.any p.same = false := by
    rw [List.any_eq_false]
    intro q hq hs
    refine hn q hq ?_
    simp only [Post.same, Bool.and_eq_true, beq_iff_eq] at hs
    exact ⟨hs.1.1.symm, hs.1.2.symm, hs.2.symm⟩
  rw [Hw.post, hc, hfirst]
  rfl

/-! ### Finite maps: what is not listed any more, and the entry that alone has a property -/

theorem sfind_sdel_same {α : Type} (k : Nat) (m : SMap α) : sfind k (sdel k m) = none := by
  induction m with
  | nil => rfl
  | cons p r ih =>
    obtain ⟨j, w⟩ := p
    by_cases h : j = k
    · rw [sdel, List.filter_cons_of_neg (by simp [h])]
      exact ih
    · rw [sdel, List.filter_cons_of_pos (by simp [h]), sfind, if_neg (Ne.symm h)]
      exact ih

theorem find?_sset_of_none {α : Type} {q : Nat × α → Bool} {k : Nat} {v : α} {m : SMap α} (hm : m.find? q = none) (hq : q (k, v) = true) :
    (sset k v m).find? q = some (k, v) := by
  induction m with
  | nil => simp [sset, hq]
  | cons p r ih =>
    obtain ⟨j, w⟩ := p
    have hr : r.find? q = none := by
      rw [List.find?_eq_none] at hm ⊢
      exact fun x hx => hm x (List.mem_cons_of_mem _ hx)
    have hj : ¬q (j, w) = true := (List.find?_eq_none.1 hm) _ List.mem_cons_self
    simp only [sset]
    split
    · exact List.find?_cons_of_pos hq
    split
    · exact List.find?_cons_of_pos hq
    · rw [List.find?_cons_of_neg hj]
      exact ih hr

/-! ### Ways of the Vat (R222) -/

/-- The way that a lookup finds holds the line. -/
theorem Slice.look_some {x : Slice} {l k : Nat} (h : x.look l = some k) : ∃ w, sfind k x.ways = some w ∧ w.line = l := by
  unfold Slice.look at h
  obtain ⟨w, hw, rfl⟩ := Option.map_eq_some_iff.1 h
  have hp := List.find?_some hw
  split at hp
  · next v hv => exact ⟨v, hv, by simpa using hp⟩
  · cases hp

/-- A line whose way is written with the line again is found there. -/
theorem Slice.look_sset {x : Slice} {l k : Nat} (h : x.look l = some k) {w : VatWay} (hw : w.line = l) {y : Slice}
    (hy : y.ways = sset k w x.ways) : y.look l = some k := by
  obtain ⟨v, hv, hl⟩ := Slice.look_some h
  unfold Slice.look at h ⊢
  rw [← h]
  refine congrArg (Option.map _) (congrArg (List.find? · _) (funext fun i => ?_))
  rw [hy]
  by_cases hi : vatSet l * 24 + i = k
  · rw [hi, sfind_sset_same, hv]
    simp [hw, hl]
  · rw [sfind_sset_ne hi]

/-- A line that the Vat holds is found in the way that its set names. -/
theorem Hw.vatLine_isSome {h : Hw} {s l : Nat} (e : (h.vatLine s l).isSome) : ∃ k, (h.slice s).look l = some k := by
  unfold Hw.vatLine at e
  split at e
  · next k hk => exact ⟨k, hk⟩
  · cases e

/-- A line that the Vat holds is written in its way. -/
theorem Hw.vatAlloc_hit {h : Hw} {s l k : Nat} (e : (h.slice s).look l = some k) (m : List Host.Cell) (st : LSt) (age origin : Nat)
    (bad : Bool) :
    h.vatAlloc m s l st age origin bad = (h.updSlice s fun x => { x with ways := sset k ⟨l, st, age, origin, bad⟩ x.ways }, true) := by
  simp [Hw.vatAlloc, e]

end Sys2Proof.Machine

namespace Sys2Proof.Machine

open Sys2Proof.Safety Sys2Proof.Claims

/-! ### The values of far atomics (R252, R253) -/

/-- A doubleword as an integer. -/
theorem toInt_ofNat_eq_toS {n : Nat} (hn : n < 2 ^ 64) : (BitVec.ofNat 64 n).toInt = toS 64 n := by
  unfold toS
  rw [BitVec.toInt_eq_toNat_cond, BitVec.toNat_ofNat, Nat.mod_eq_of_lt hn]
  norm_num at hn ⊢
  split <;> split <;> omega

theorem farLaneRow_eq {op x y : Nat} (hx : x < 2 ^ 64) (hy : y < 2 ^ 64) : farLaneRow op x y = farLane op x y := by
  unfold farLaneRow farLane
  split <;> simp only [toInt_ofNat_eq_toS hx, toInt_ofNat_eq_toS hy, fadd64]

/-- Lanes from the lowest, as a sum. -/
theorem farLanes_eq_foldl (op n x y : Nat) :
    farLanes op n x y =
      (List.range n).foldl (fun a i => a + 2 ^ (64 * i) * farLane op (x / 2 ^ (64 * i) % 2 ^ 64) (y / 2 ^ (64 * i) % 2 ^ 64)) 0 := by
  have hsum (n : Nat) : (List.range n).foldl
      (fun a i => a + 2 ^ (64 * i) * farLane op (x / 2 ^ (64 * i) % 2 ^ 64) (y / 2 ^ (64 * i) % 2 ^ 64)) 0
        = ∑ i ∈ Finset.range n, 2 ^ (64 * i) * farLane op (x / 2 ^ (64 * i) % 2 ^ 64) (y / 2 ^ (64 * i) % 2 ^ 64) := by
    induction n with
    | zero => rfl
    | succ n ih => rw [List.range_succ, List.foldl_append, ih, Finset.sum_range_succ]; rfl
  rw [hsum]
  clear hsum
  induction n generalizing x y with
  | zero => rfl
  | succ n ih =>
    rw [farLanes, ih, Finset.sum_range_succ', Finset.mul_sum, Nat.add_comm]
    simp only [Nat.div_div_eq_div_mul, ← Nat.pow_add, ← Nat.mul_assoc, Nat.mul_add, Nat.mul_one, Nat.mul_zero, Nat.pow_zero, Nat.div_one,
      Nat.one_mul, Nat.add_comm 64]

/-- A lane of the operand below the size is a lane of the whole operand. -/
theorem lane_mod {n i : Nat} (h : i < n) (b : Nat) : b % 2 ^ (64 * n) / 2 ^ (64 * i) % 2 ^ 64 = b / 2 ^ (64 * i) % 2 ^ 64 := by
  apply Nat.eq_of_testBit_eq
  intro j
  simp only [Nat.testBit_mod_two_pow, Nat.testBit_div_two_pow]
  by_cases hj : j < 64
  · have : j + 64 * i < 64 * n := by omega
    simp [hj, this]
  · simp [hj]

/-- What the engine computes is the row of R252 and R253, for every operation that a far atomic of the size has. -/
theorem farApply_eq_farResult {op size : Nat} (hs : size ∈ [4, 8, 16, 32, 64]) (ho : op ∈ [0, 1, 2, 3, 4, 5, 8, 9, 10])
    (h4 : size = 4 → op ∈ [0, 8, 9]) (old b e : Nat) : farApply op size old b e = farResult op size old b e := by
  by_cases hz : size = 4
  · subst hz
    have hop := h4 rfl
    simp only [List.mem_cons, List.not_mem_nil, or_false] at hop
    rcases hop with rfl | rfl | rfl <;> rfl
  have hlanes : farLanes op (size / 8) old (b % 2 ^ (8 * size)) = (List.range (size / 8)).foldl
      (fun n i => n + 2 ^ (64 * i) * farLaneRow op (old / 2 ^ (64 * i) % 2 ^ 64) (b / 2 ^ (64 * i) % 2 ^ 64)) 0 := by
    rw [farLanes_eq_foldl]
    refine List.foldl_ext _ _ _ fun a i hi => ?_
    have hsz : 8 * size = 64 * (size / 8) := by
      simp only [List.mem_cons, List.not_mem_nil, or_false] at hs
      omega
    rw [hsz, lane_mod (List.mem_range.1 hi), farLaneRow_eq (Nat.mod_lt _ (by positivity)) (Nat.mod_lt _ (by positivity))]
  simp only [List.mem_cons, List.not_mem_nil, or_false] at ho
  rcases ho with rfl | rfl | rfl | rfl | rfl | rfl | rfl | rfl | rfl <;> simp only [farApply, farResult, if_neg hz, hlanes]

/-! ### Far atomics at their home (R251 to R256) -/

@[simp] theorem Hw.endTxn_regs (h : Hw) (s l : Nat) : (h.endTxn s l).regs = h.regs := by simp [Hw.endTxn]
@[simp] theorem Hw.endTxn_newest (h : Hw) (s l : Nat) : (h.endTxn s l).newest = h.newest := by simp [Hw.endTxn]
@[simp] theorem Hw.endTxn_flits (h : Hw) (s l : Nat) : (h.endTxn s l).flits = h.flits := by simp [Hw.endTxn]
@[simp] theorem Hw.endTxn_threads (h : Hw) (s l : Nat) : (h.endTxn s l).threads = h.threads := by simp [Hw.endTxn]
/-- The end of a request frees its place in the slice. -/
@[simp] theorem Hw.endTxn_slice (h : Hw) (s l : Nat) :
    (h.endTxn s l).slice s = { h.slice s with txns := (h.slice s).txns.filter fun y => y.req.line != l } := by simp [Hw.endTxn]

/-- A far atomic of a line of this node ends: its answer leaves, its entry and its place are free. -/
theorem Hw.finish_far {m : List Host.Cell} {h : Hw} {s : Nat} {x : Txn} {o : LineOp} {vc src dst : Nat} {p : Payload}
    (hk : x.req.kind = .far o) (hl : h.localLine x.req.line = true) (ha : h.answerReq m s x = h.send vc src dst p) :
    h.finish m s x = ((h.send vc src dst p).freeReq s x.req).endTxn s x.req.line := by
  unfold Hw.finish
  rw [hk]
  dsimp only
  rw [ha]
  exact Hw.forget_local ((Hw.localLine_congr (by simp) _).trans hl)

/-- The home engine performs the far atomic that is ready there. -/
theorem FarReady.answers {sl : Nat} {x : Txn} {o : LineOp} {s : State} {P : State → Prop} (ho : s.hw.off = false) (hr : FarReady sl x o s)
    (hP : P { s with hw := s.hw.farPerform s.mem sl x o 0 }) : Answers (.farAtomic sl 0) s P := by
  obtain ⟨hsl, hon, htx, hcame, hset, -, hk, -, hl, -⟩ := hr
  refine Answers.of_onHw ho rfl ?_
  simpa [Nat.not_le.2 hsl, hon, htx, hcame, hset, hk, hl] using hP

/-- What the engine leaves in the line, and the old value of its bytes, as R252 says. -/
theorem farNew_eq {o : LineOp} {s : State} (hs : o.len ∈ [4, 8, 16, 32, 64]) (ho : o.op ∈ [0, 1, 2, 3, 4, 5, 8, 9, 10])
    (h4 : o.len = 4 → o.op ∈ [0, 8, 9]) :
    farNew o (lineVal s.mem s.hw (lineNo o.pa)) =
      (vput (lineVal s.mem s.hw (lineNo o.pa)) (o.pa.toNat % 64)
        (leBytes o.len (farResult o.op o.len (leNat (newestBytes s o.pa o.len)) o.data.toNat o.exp.toNat)),
       BitVec.ofNat 512 (leNat (newestBytes s o.pa o.len))) := by
  dsimp only [farNew, newestBytes]
  rw [farApply_eq_farResult hs ho h4]

/-- Of a write-back line that the Vat holds, the engine's copy takes the new value, and the request ends (R225, R251). -/
theorem Hw.farPerform_wb {m : List Host.Cell} {h : Hw} {s k : Nat} {x : Txn} {o : LineOp} (hp : h.poisoned x.req.line = false)
    (hb : h.wbbEntry s x.req.line = none) (ht : o.mt = .wb) (hv : (h.slice s).look x.req.line = some k) (hs : ∀ k p, x.req.src ≠ .pass k p) :
    h.farPerform m s x o 0 =
      Hw.finish m ((((h.setNewest x.req.line (farNew o (lineVal m h x.req.line)).1).landed x.req.line).updSlice s fun z =>
          { z with opbuf := opbufUse x.req.line z.opbuf }).updSlice s fun z =>
          { z with ways := sset k ⟨x.req.line, .m, 1, 0, false⟩ z.ways }) s
        { x with old := (farNew o (lineVal m h x.req.line)).2 } := by
  obtain ⟨c, hc⟩ := Hw.landed_eq (h.setNewest x.req.line (farNew o (lineVal m h x.req.line)).1) x.req.line
  have hlook : ((((h.setNewest x.req.line (farNew o (lineVal m h x.req.line)).1).landed x.req.line).updSlice s fun z =>
      { z with opbuf := opbufUse x.req.line z.opbuf }).slice s).look x.req.line = some k := by
    rw [Hw.slice_updSlice_same, hc]
    exact hv
  unfold Hw.farPerform
  simp only [hp, hb, ht, Bool.false_eq_true, if_false, if_true, ne_eq, not_true_eq_false, Hw.vatAlloc_hit hlook]

/-- A line leaves the Vat; all else of its slice stays. -/
theorem Hw.vatDrop_slice (h : Hw) (s l : Nat) :
    (h.vatDrop s l).slice s = { h.slice s with ways := ((h.vatDrop s l).slice s).ways } := by
  unfold Hw.vatDrop
  split
  · rw [Hw.slice_updSlice_same]
  · rfl

theorem Hw.vatDrop_wbb (h : Hw) (s l : Nat) : ((h.vatDrop s l).slice s).wbb = (h.slice s).wbb := by rw [Hw.vatDrop_slice]

theorem Hw.vatDrop_txns (h : Hw) (s l : Nat) : ((h.vatDrop s l).slice s).txns = (h.slice s).txns := by rw [Hw.vatDrop_slice]

theorem Hw.vatDrop_newest (h : Hw) (s l : Nat) : (h.vatDrop s l).newest = h.newest := by
  unfold Hw.vatDrop
  split <;> rfl

/-- The way of a line that leaves the Vat is empty. -/
theorem Hw.vatDrop_ways {h : Hw} {s l k : Nat} (e : (h.slice s).look l = some k) : sfind k ((h.vatDrop s l).slice s).ways = none := by
  simp [Hw.vatDrop, e, sfind_sdel_same]

/-- A result whose line has no entry of the write-back buffer leaves for memory by a new one (R234). -/
theorem Hw.toMemory_new {h : Hw} {s l e : Nat} (hb : h.wbbEntry s l = none) (he : (h.slice s).wbbFree = some e) (v : Vec) (bad : Bool) :
    h.toMemory s l v bad =
      some ((h.vatDrop s l).updSlice s fun x => { x with wbb := sset e ⟨l, v, false, bad, false⟩ x.wbb }) := by
  have hnone : (h.slice s).wbb.find? (fun p => p.2.line == l && !p.2.issued) = none := by
    rw [Hw.wbbEntry, Option.map_eq_none_iff, List.find?_eq_none] at hb
    refine List.find?_eq_none.2 fun p hp hc => hb p hp ?_
    exact (Bool.and_eq_true_iff.1 hc).1
  have he' : ((h.vatDrop s l).slice s).wbbFree = some e := by
    unfold Slice.wbbFree at he ⊢
    rw [Hw.vatDrop_wbb, he]
  unfold Hw.toMemory Hw.wbbPut
  simp only [hb, he, Option.isNone_some, Bool.false_eq_true, if_false, Hw.vatDrop_wbb, hnone, he']

/-- Of a line that is not write-back, the new value leaves for memory by a new entry of the write-back buffer, and the request waits for it
(R234, R251). -/
theorem Hw.farPerform_nc {m : List Host.Cell} {h : Hw} {s e : Nat} {x : Txn} {o : LineOp} (hp : h.poisoned x.req.line = false)
    (hb : h.wbbEntry s x.req.line = none) (ht : o.mt = .nc) (he : (h.slice s).wbbFree = some e) :
    h.farPerform m s x o 0 =
      (((((h.setNewest x.req.line (farNew o (lineVal m h x.req.line)).1).landed x.req.line).updSlice s fun z =>
          { z with opbuf := opbufUse x.req.line z.opbuf }).vatDrop s x.req.line).updSlice s fun z =>
          { z with wbb := sset e ⟨x.req.line, (farNew o (lineVal m h x.req.line)).1, false, false, false⟩ z.wbb }).updTxn s x.req.line
        fun y => { y with old := (farNew o (lineVal m h x.req.line)).2, wr := true } := by
  obtain ⟨c, hc⟩ := Hw.landed_eq (h.setNewest x.req.line (farNew o (lineVal m h x.req.line)).1) x.req.line
  have hentry : ((((h.setNewest x.req.line (farNew o (lineVal m h x.req.line)).1).landed x.req.line).updSlice s fun z =>
      { z with opbuf := opbufUse x.req.line z.opbuf }).wbbEntry s x.req.line) = none := by
    rw [Hw.wbbEntry, Hw.slice_updSlice_same, hc]
    exact hb
  have hfree : ((((h.setNewest x.req.line (farNew o (lineVal m h x.req.line)).1).landed x.req.line).updSlice s fun z =>
      { z with opbuf := opbufUse x.req.line z.opbuf }).slice s).wbbFree = some e := by
    rw [Hw.slice_updSlice_same, hc]
    exact he
  unfold Hw.farPerform
  simp only [hp, hb, ht, Bool.false_eq_true, if_false, ne_eq, not_true_eq_false, Hw.toMemory_new hentry hfree]

/-- A far atomic of a write-back line that its home slice holds: the line has its new value there as M, and the answer leaves (R251, R252,
R256). -/
theorem FarReady.kept {sl : Nat} {x : Txn} {o : LineOp} {s : State} {vc dst : Nat} {p : Payload} (hr : FarReady sl x o s) (ht : o.mt = .wb)
    (hv : (s.hw.vatLine sl x.req.line).isSome) (hs : ∀ k p, x.req.src ≠ .pass k p)
    (ha : ∀ g : Hw, g.answerReq s.mem sl { x with old := (farNew o (lineVal s.mem s.hw x.req.line)).2 } = g.send vc (chamberStop sl) dst p) :
    let u : State := { s with hw := s.hw.farPerform s.mem sl x o 0 }
    u.hw.newest = sset x.req.line (farNew o (lineVal s.mem s.hw x.req.line)).1 s.hw.newest ∧ (u.hw.slice sl).txns = [] ∧
      (u.hw.vatLine sl x.req.line).map (·.st) = some .m ∧ Sends p (chamberStop sl) dst s u := by
  obtain ⟨-, -, htx, -, -, -, hk, -, hl, hpois, hb, -⟩ := hr
  obtain ⟨k, hlook⟩ := Hw.vatLine_isSome hv
  have e := (Hw.farPerform_wb (m := s.mem) hpois hb ht hlook hs).trans
    (Hw.finish_far (x := { x with old := _ }) hk ((Hw.localLine_congr (by simp) _).trans hl) (ha _))
  generalize (farNew o (lineVal s.mem s.hw x.req.line)).1 = v at e ⊢
  rw [e]
  refine ⟨by simp, by simp [htx], ?_, ⟨_, by simp [Hw.send]; rfl, rfl, rfl, rfl⟩⟩
  unfold Hw.vatLine
  rw [Slice.look_sset hlook (w := ⟨x.req.line, .m, 1, 0, false⟩) rfl (by simp)]
  simp

/-- A far atomic of a line that is not write-back: the new value waits for memory in the write-back buffer, and the request for its write
(R234, R251). -/
theorem FarReady.toMemory {sl e : Nat} {x : Txn} {o : LineOp} {s : State} (hr : FarReady sl x o s) (ht : o.mt = .nc)
    (he : (s.hw.slice sl).wbbFree = some e) :
    let u : State := { s with hw := s.hw.farPerform s.mem sl x o 0 }
    let r := farNew o (lineVal s.mem s.hw x.req.line)
    u.hw.newest = sset x.req.line r.1 s.hw.newest ∧ (∀ k, (s.hw.slice sl).look x.req.line = some k → sfind k (u.hw.slice sl).ways = none) ∧
      u.hw.wbbEntry sl x.req.line = some ⟨x.req.line, r.1, false, false, false⟩ ∧ (u.hw.slice sl).txns = [{ x with old := r.2, wr := true }] := by
  obtain ⟨-, -, htx, -, -, -, -, -, -, hpois, hb, -⟩ := hr
  intro u r
  have hu : u.hw = _ := Hw.farPerform_nc (m := s.mem) hpois hb ht he
  rw [hu]
  refine ⟨by simp [Hw.updTxn, Hw.vatDrop_newest, r], fun k hk => ?_, ?_, ?_⟩
  · simp only [Hw.updTxn, Hw.slice_updSlice_same]
    exact Hw.vatDrop_ways (by rw [Hw.slice_updSlice_same, Hw.landed_slice]; exact hk)
  · have hnone : (s.hw.slice sl).wbb.find? (fun e => e.2.line == x.req.line) = none := Option.map_eq_none_iff.1 hb
    simp only [Hw.wbbEntry, Hw.updTxn, Hw.slice_updSlice_same, Hw.vatDrop_wbb, Hw.landed_slice, Hw.setNewest_slice]
    rw [find?_sset_of_none hnone (by simp)]
    rfl
  · simp [Hw.updTxn, Hw.vatDrop_txns, htx, r]

/-- What a far atomic answers to a thread, and to a root port (R253, R256). -/
theorem Hw.answerReq_far {m : List Host.Cell} {h : Hw} {s t id : Nat} {ret : Bool} {x : Txn} (hs : x.req.src = .far t id ret)
    (he : x.err = 0) :
    h.answerReq m s x =
      h.send (if x.req.cream then vcCdata else if ret then vcData else vcRsp) (chamberStop s) (chamberStop (t / 16)) (.farAns t id x.old 0) := by
  simp [Hw.answerReq, hs, he, Requester.stop]

theorem Hw.answerReq_port {m : List Host.Cell} {h : Hw} {s k : Nat} {x : Txn} {o : LineOp} (hs : x.req.src = .port k)
    (hk : x.req.kind = .far o) (he : x.err = 0) :
    h.answerReq m s x =
      h.send (if x.req.cream then vcCdata else if !(vbytes x.old 0 o.len).isEmpty then vcData else vcRsp) (chamberStop s) (portStop k)
        (.cpl k ⟨0, false, vbytes x.old 0 o.len⟩) := by
  simp [Hw.answerReq, hs, portCpl, hk, he]

/-! ### Far atomics back at their thread (R255, R256) -/

/-- The one far atomic of a thread that its answer has reached is ready; an error writes all ones and is recorded. -/
theorem farAtomicResponse_answers {t : Nat} {o : LongOp} {p : Part} {s : State} (ho : s.hw.off = false)
    (hl : (s.hw.thread t).b.longs = [o]) (hk : o.kind = .farAtomic) (hr : o.ready = false) (hp : o.parts = [p]) (hd : p.done = true) :
    Answers (.farAtomicResponse t) s fun u => u.mem = s.mem ∧ u.hw.newest = s.hw.newest ∧ (u.hw.thread t).a = (s.hw.thread t).a ∧
      OthersKeep t s u ∧ (u.hw.thread t).b.longs = [if p.off = 0 then { o with ready := true }
        else { o with ready := true, val := BitVec.ofNat 512 (2 ^ (8 * o.size) - 1) }] := by
  refine Answers.of_onHw ho rfl ?_
  have hfind : (s.hw.thread t).b.longs.find? (fun o => o.kind == .farAtomic && !o.ready && o.parts.all (·.done)) = some o := by
    simp [hl, hk, hr, hp, hd]
  dsimp only
  rw [hfind]
  dsimp only
  rw [hp]
  dsimp only
  have hlongs (f : LongOp → LongOp) : ((s.hw.updLong t o.id f).thread t).b.longs = [f o] := by
    simp [Hw.updLong, Hw.updBack, hl]
  have hregs (f : LongOp → LongOp) : ((s.hw.updLong t o.id f).thread t).a = (s.hw.thread t).a := by
    simp [Hw.updLong, Hw.updBack]
  by_cases h0 : p.off = 0
  · rw [if_pos h0, if_pos h0]
    exact ⟨rfl, rfl, hregs _, fun k hk => Hw.thread_updThread_ne _ _ _ hk, by rw [hlongs, hp]⟩
  · rw [if_neg h0, if_neg h0]
    refine ⟨rfl, by rw [Hw.asyncErr_newest]; rfl, ?_, fun k hk => ?_, ?_⟩
    · rw [(Hw.asyncErr_thread ..).1, hregs]
    · rw [Hw.asyncErr_thread_ne _ hk]
      exact Hw.thread_updThread_ne _ _ _ hk
    · rw [(Hw.asyncErr_thread ..).2, hlongs, hp]

/-! ### AtomicOps of root ports (R25, R253) -/

/-- An access of a device has a target in memory where the decode finds one that is no register and no PCIe space. -/
theorem Hw.portReaches_of_ok {h : Hw} {pa : Word} {tg : Target} (e : h.decodePA pa = .ok tg) (hr : tg ≠ .reg) (hm : ∀ k, tg ≠ .mmio k) :
    h.portReaches pa = true := by
  unfold Hw.portReaches
  rw [e]
  cases tg with
  | reg => exact absurd rfl hr
  | mmio k => exact absurd rfl (hm k)
  | _ => rfl

theorem Hw.portReaches_of_none {h : Hw} {pa : Word} (hn : ∀ tg, h.decodePA pa = .ok tg → tg = .reg ∨ ∃ k, tg = .mmio k) :
    h.portReaches pa = false := by
  unfold Hw.portReaches
  cases hd : h.decodePA pa with
  | error f => rfl
  | ok tg =>
    rcases hn tg hd with rfl | ⟨k, rfl⟩ <;> rfl

/-- A part of a device's request that no reservation covers leaves its port for the line's slice, once a credit is free and none waits before
it (R237, R238). -/
theorem Hw.portRequest_sends {h : Hw} {port : Nat} {rid : BitVec 16} {pa : Word} {kind : ReqKind} {cls : Nat} {rd : Bool}
    (hrd : (match kind with | .read _ _ => true | _ => false) = rd)
    (hcls : (match kind with | .write _ => 1 | _ => 2) = cls)
    (hm : h.matching (0xA000 + port) rd (pa.toNat / 64 * 64) 2 rid.toNat = none) (hc : h.hasCredit cls port (sliceOf (lineNo pa)) = true)
    (hp : h.portBusy port cls = false) :
    ∃ vc, h.portRequest port rid pa kind = (h.useCredit cls port (sliceOf (lineNo pa))).send vc (portStop port) (chamberStop (sliceOf (lineNo pa)))
      (.req (sliceOf (lineNo pa)) ⟨kind, lineNo pa, .port port, h.portAcc port, false, (h.funcWeight port rid.toNat).getD 16, false,
        h.homePos (lineNo pa)⟩) := by
  have hreg : h.regulate (0xA000 + port) rd (pa.toNat / 64 * 64) 2 rid.toNat = (h, false) := by
    rw [Hw.regulate, hm]
  have hfree : ∀ q ∈ h.posts, ¬(q.cls = cls ∧ q.snd = port ∧ q.dest = sliceOf (lineNo pa)) := fun q hq hs => by
    have hq' := List.any_eq_false.1 hp q hq
    simp [hs.1, hs.2.1] at hq'
  unfold Hw.portRequest
  cases kind <;> (subst hrd hcls; dsimp only at hreg hc hfree ⊢; rw [hreg]; exact ⟨_, Hw.post_sends hc hfree⟩)

end Sys2Proof.Machine

namespace Sys2Proof.Machine

open Sys2Proof.Safety Sys2Proof.Claims

/-! ### Completions of root ports (R25, R349) -/

/-- A root port whose class of requests has none waiting for a credit is not busy. -/
theorem Hw.portBusy_of_none {h : Hw} {port cls : Nat} (hn : ∀ p ∈ h.posts, ¬(p.cls = cls ∧ p.snd = port)) : h.portBusy port cls = false := by
  unfold Hw.portBusy
  rw [List.any_eq_false]
  simpa using hn

/-- A device whose access no reservation covers waits for no frame. -/
theorem Hw.ingressFull_of_none {h : Hw} {port : Nat} {rid : BitVec 16} {rd : Bool} {pa : Word}
    (hm : h.matching (0xA000 + port) rd (pa.toNat / 64 * 64) 2 rid.toNat = none) : h.ingressFull port rid rd pa = false := by
  simp [Hw.ingressFull, hm]

/-- A port turns an access away by a record alone. -/
theorem Hw.portRefuse_frame (h : Hw) (port : Nat) (pa : Word) : ∃ regs banks, h.portRefuse port pa = { h with regs := regs, banks := banks } :=
  Hw.incident_frame ..

/-- What an AtomicOp does at a port that takes it: four ends, in the order of R253 and R349. -/
def Hw.atomicopEnds (h : Hw) (port : Nat) (rid : BitVec 16) (pa : Word) (size op : Nat) (b e : Word) : Hw :=
  if ¬((size = 4 ∨ size = 8) ∧ (op = 0 ∨ op = 8 ∨ op = 9)) then h.sendCpl port 1 false []
  else if pa.toNat % size ≠ 0 then h.sendCpl port 4 false []
  else if h.portReaches pa = false then (h.portRefuse port pa).sendCpl port 1 false []
  else h.portRequest port rid pa (.far (farOp pa size (b.setWidth 512) op (e.setWidth 512) .wb))

theorem atomicop_answers {port size op : Nat} {rid : BitVec 16} {pa b e : Word} {s : State} {P : State → Prop} (ho : s.hw.off = false)
    (hp : port < 8) (hb : s.hw.portBusy port 2 = false) (hi : s.hw.ingressFull port rid false pa = false)
    (hP : P { s with hw := s.hw.atomicopEnds port rid pa size op b e }) : Answers (.atomicop port rid pa size op b e) s P := by
  refine Answers.of_onHw ho rfl ?_
  have hg : ¬(8 ≤ port ∨ s.hw.portBusy port 2 = true ∨ s.hw.ingressFull port rid false pa = true) := by simp [hb, hi, hp]
  have hk : ((!decide (size = 4 ∨ size = 8)) = true ∨ (!decide (op = 0 ∨ op = 8 ∨ op = 9)) = true) =
      ¬((size = 4 ∨ size = 8) ∧ (op = 0 ∨ op = 8 ∨ op = 9)) := by
    rw [Bool.not_eq_true', Bool.not_eq_true', decide_eq_false_iff_not, decide_eq_false_iff_not, not_and_or]
  have hr : ((!s.hw.portReaches pa) = true) = (s.hw.portReaches pa = false) := by simp
  rw [if_neg hg]
  simp only [hk, hr]
  exact hP

/-- A completion that the port itself sends, after a record or none, is kept for the device; no request leaves and no byte changes. -/
theorem sendCpl_keeps {s : State} {g : Hw} {port n : Nat} {regs : SMap Word} {banks} (hg : g = { s.hw with regs := regs, banks := banks }) :
    let u : State := { s with hw := g.sendCpl port n false [] }
    u.mem = s.mem ∧ u.hw.newest = s.hw.newest ∧ u.hw.flits = s.hw.flits ∧ sfind port u.hw.cpl = some ⟨n, false, []⟩ := by
  subst hg
  exact ⟨rfl, rfl, rfl, sfind_sset_same ..⟩

/-- Messages that leave are on their way. -/
theorem Hw.send_sends {s : State} {h : Hw} {vc src dst : Nat} {p : Payload} (hf : h.flits = s.hw.flits) :
    Sends p src dst s { s with hw := h.send vc src dst p } := by
  refine ⟨⟨h.flitId, vc, src, dst, if src < 96 then 1 else 0, 9, 0, p⟩, ?_, rfl, rfl, rfl⟩
  rw [← hf]
  rfl

/-- AtomicOps of root ports (R25, R253, R256, R349): one clause per end. -/
theorem atomicop_ends {port size op : Nat} {rid : BitVec 16} {pa b e : Word} {s : State} (ho : s.hw.off = false) (hp : port < 8)
    (hb : ∀ p ∈ s.hw.posts, ¬(p.cls = 2 ∧ p.snd = port)) (hm : s.hw.matching (0xA000 + port) false (pa.toNat / 64 * 64) 2 rid.toNat = none) :
    let h := s.hw
    let known := (size = 4 ∨ size = 8) ∧ (op = 0 ∨ op = 8 ∨ op = 9)
    let ends := fun n : Nat => Answers (.atomicop port rid pa size op b e) s fun u => u.mem = s.mem ∧ u.hw.newest = h.newest ∧
      u.hw.flits = h.flits ∧ sfind port u.hw.cpl = some ⟨n, false, []⟩
    (¬known → ends 1) ∧
    (known → pa.toNat % size ≠ 0 → ends 4) ∧
    (known → pa.toNat % size = 0 → (∀ tg, h.decodePA pa = .ok tg → tg = .reg ∨ ∃ k, tg = .mmio k) → ends 1) ∧
    (∀ tg, known → pa.toNat % size = 0 → h.decodePA pa = .ok tg → tg ≠ .reg → (∀ k, tg ≠ .mmio k) →
      let sl := sliceOf (lineNo pa)
      h.hasCredit 2 port sl = true →
      Answers (.atomicop port rid pa size op b e) s fun u => u.mem = s.mem ∧ u.hw.newest = h.newest ∧
        Sends (.req sl ⟨.far (farOp pa size (b.setWidth 512) op (e.setWidth 512) .wb), lineNo pa, .port port, h.portAcc port, false,
          (h.funcWeight port rid.toNat).getD 16, false, h.homePos (lineNo pa)⟩) (portStop port) (chamberStop sl) s u) := by
  intro h known ends
  have hbusy := Hw.portBusy_of_none hb
  have hfull := Hw.ingressFull_of_none hm
  refine ⟨fun hk => ?_, fun hk ha => ?_, fun hk ha hn => ?_, fun tg hk ha hd hr hmm hc => ?_⟩ <;>
    refine atomicop_answers ho hp hbusy hfull ?_ <;> unfold Hw.atomicopEnds
  · rw [if_pos hk]
    exact sendCpl_keeps rfl
  · rw [if_neg (not_not.2 hk), if_pos ha]
    exact sendCpl_keeps rfl
  · rw [if_neg (not_not.2 hk), if_neg (not_not.2 ha), if_pos (Hw.portReaches_of_none hn)]
    obtain ⟨regs, banks, hg⟩ := s.hw.portRefuse_frame port pa
    exact sendCpl_keeps hg
  · have hreach : s.hw.portReaches pa = true := Hw.portReaches_of_ok hd hr hmm
    rw [if_neg (not_not.2 hk), if_neg (not_not.2 ha), if_neg (by rw [hreach]; decide)]
    obtain ⟨vc, hs⟩ := Hw.portRequest_sends (kind := .far (farOp pa size (b.setWidth 512) op (e.setWidth 512) .wb)) rfl rfl hm hc hbusy
    rw [hs]
    exact ⟨rfl, rfl, Hw.send_sends rfl⟩

/-! ### O35 -/

/-- What a far atomic leaves in its line, and in no other. -/
theorem newest_stored {s : State} {g : Hw} {l : Nat} {v : Vec} (e : g.newest = sset l v s.hw.newest) :
    lineVal s.mem g l = v ∧ ∀ k, k ≠ l → sfind k g.newest = sfind k s.hw.newest :=
  ⟨lineVal_of_newest (by rw [e]; exact sfind_sset_same ..), fun k hk => by rw [e, sfind_sset_ne hk]⟩

/-- The home engine's part of O35. -/
theorem farAtomic_home {sl : Nat} {x : Txn} {o : LineOp} {s : State} (ho : s.hw.off = false) (hr : FarReady sl x o s) :
    let h := s.hw
    let l := x.req.line
    let old := leNat (newestBytes s o.pa o.len)
    let new := vput (lineVal s.mem h l) (o.pa.toNat % 64) (leBytes o.len (farResult o.op o.len old o.data.toNat o.exp.toNat))
    let stored := fun u : State => u.mem = s.mem ∧ lineVal u.mem u.hw l = new ∧ ∀ k, k ≠ l → sfind k u.hw.newest = sfind k h.newest
    (o.mt = .wb → (h.vatLine sl l).isSome →
      let kept := fun u : State => stored u ∧ (u.hw.slice sl).txns = [] ∧ (u.hw.vatLine sl l).map (·.st) = some .m
      (∀ t id ret, x.req.src = .far t id ret → Answers (.farAtomic sl 0) s fun u => kept u ∧
        Sends (.farAns t id (BitVec.ofNat 512 old) 0) (chamberStop sl) (chamberStop (t / 16)) s u) ∧
      (∀ k, x.req.src = .port k → Answers (.farAtomic sl 0) s fun u => kept u ∧
        Sends (.cpl k ⟨0, false, leBytes o.len old⟩) (chamberStop sl) (portStop k) s u)) ∧
    (o.mt = .nc → (h.slice sl).wbbFree.isSome → Answers (.farAtomic sl 0) s fun u => stored u ∧
      (∀ k, (h.slice sl).look l = some k → sfind k (u.hw.slice sl).ways = none) ∧
      u.hw.wbbEntry sl l = some ⟨l, new, false, false, false⟩ ∧ (u.hw.slice sl).txns = [{ x with old := BitVec.ofNat 512 old, wr := true }]) := by
  have hready : FarReady sl x o s := hr
  obtain ⟨-, -, -, -, -, herr, hkind, hline, -, -, -, hlen, hop, h4, -⟩ := hr
  have hnew := farNew_eq (s := s) hlen hop h4
  rw [← hline] at hnew
  have hle : o.len ≤ 64 := by
    simp only [List.mem_cons, List.not_mem_nil, or_false] at hlen
    omega
  refine ⟨fun ht hv => ⟨fun t id ret hs => ?_, fun k hs => ?_⟩, fun ht he => ?_⟩ <;> refine FarReady.answers ho hready ?_
  · obtain ⟨hn, htx, hst, hsend⟩ := FarReady.kept hready ht hv (p := .farAns t id (farNew o (lineVal s.mem s.hw x.req.line)).2 0)
      (fun k p h => by rw [hs] at h; cases h) (fun g => Hw.answerReq_far (x := { x with old := _ }) hs herr)
    rw [hnew] at hn hsend
    obtain ⟨hval, hothers⟩ := newest_stored hn
    exact ⟨⟨⟨rfl, hval, hothers⟩, htx, hst⟩, hsend⟩
  · obtain ⟨hn, htx, hst, hsend⟩ := FarReady.kept hready ht hv
      (p := .cpl k ⟨0, false, vbytes (farNew o (lineVal s.mem s.hw x.req.line)).2 0 o.len⟩)
      (fun k p h => by rw [hs] at h; cases h) (fun g => Hw.answerReq_port (x := { x with old := _ }) hs hkind herr)
    rw [hnew] at hn hsend
    rw [vbytes_ofNat hle] at hsend
    obtain ⟨hval, hothers⟩ := newest_stored hn
    exact ⟨⟨⟨rfl, hval, hothers⟩, htx, hst⟩, hsend⟩
  · obtain ⟨e, he⟩ := Option.isSome_iff_exists.1 he
    obtain ⟨hn, hways, hentry, htx⟩ := FarReady.toMemory hready ht he
    rw [hnew] at hn hentry htx
    obtain ⟨hval, hothers⟩ := newest_stored hn
    exact ⟨⟨rfl, hval, hothers⟩, hways, hentry, htx⟩

/-- Settles O35: the home engine's end of a far atomic, its way back, and the four ends of an AtomicOp of a root port. -/
theorem farResponsesAndAtomicOps : Obligations.FarResponsesAndAtomicOps :=
  ⟨fun _ _ _ _ ho hr => farAtomic_home ho hr, fun _ _ _ _ ho hl hk hr hp hd => farAtomicResponse_answers ho hl hk hr hp hd,
    fun _ _ _ _ _ _ _ _ ho hp hb hm => atomicop_ends ho hp hb hm⟩

end Sys2Proof.Machine

namespace Sys2Proof.Machine

open Sys2Proof.Safety Sys2Proof.Claims

/-! ### Slices: what a change of one slice leaves alone -/

theorem Hw.updSlice_congr {h : Hw} {n : Nat} {f g : Slice → Slice} (e : f (h.slice n) = g (h.slice n)) :
    h.updSlice n f = h.updSlice n g :=
  congrArg (fun x => { h with slices := sset n x h.slices }) e

theorem Hw.updSlice_updSlice (h : Hw) (n : Nat) (f g : Slice → Slice) : (h.updSlice n f).updSlice n g = h.updSlice n fun x => g (f x) := by
  show { h with slices := sset n (g ((h.updSlice n f).slice n)) (sset n (f (h.slice n)) h.slices) } = { h with slices := _ }
  rw [Hw.slice_updSlice_same, sset_sset]
  rfl

theorem sget_of_sfind {α : Type} {d v : α} {k : Nat} {m : SMap α} (e : sfind k m = some v) : sget d k m = v := by
  induction m with
  | nil => cases e
  | cons p r ih =>
    rw [sfind] at e
    rw [sget]
    split
    · next h => rw [if_pos h] at e; exact Option.some.inj e
    · next h => rw [if_neg h] at e; exact ih e

theorem any_of_sget {α : Type} {q : α → Bool} {d : α} {k : Nat} {m : SMap α} (hd : q d = false) (h : q (sget d k m) = true) :
    m.any (fun p => q p.2) = true := by
  induction m with
  | nil => rw [sget, hd] at h; cases h
  | cons p r ih =>
    rw [List.any_cons, Bool.or_eq_true]
    rw [sget] at h
    split at h
    · exact .inl h
    · exact .inr (ih h)

/-- Whether some entry of a map has a property, when one entry is written with a value that has it as the old one did. -/
theorem any_sset {α : Type} {q : α → Bool} {d : α} {k : Nat} {v : α} {m : SMap α} (hd : q d = false) (hv : q v = q (sget d k m)) :
    (sset k v m).any (fun p => q p.2) = m.any fun p => q p.2 := by
  have hall : q v = true → m.any (fun p => q p.2) = true := fun ht => any_of_sget hd (hv ▸ ht)
  induction m with
  | nil => simpa [sset] using hall
  | cons p r ih =>
    obtain ⟨j, w⟩ := p
    rw [sget] at hv
    simp only [sset]
    split
    · rw [List.any_cons, Bool.or_eq_right_iff_imp]
      exact hall
    split
    · next he =>
      rw [if_pos he] at hv
      rw [List.any_cons, List.any_cons, hv]
    · next he =>
      rw [if_neg he] at hv
      rw [List.any_cons, List.any_cons, ih hv fun ht => any_of_sget hd (hv ▸ ht)]

/-- A change of a slice that keeps its directory keeps the newest value of every line. -/
theorem Hw.lineVal_updSlice {h : Hw} {n : Nat} {f : Slice → Slice} (hd : (f (h.slice n)).dir = (h.slice n).dir) (m : List Host.Cell) (l : Nat) :
    lineVal m (h.updSlice n f) l = lineVal m h l := by
  have haway : (h.updSlice n f).awayLine l = h.awayLine l := by
    unfold Hw.awayLine
    congr 1
    refine any_sset (q := fun x : Slice => x.dir.any fun e => e.2.line == l && decide (2 ≤ e.2.summary)) (d := Slice.reset) rfl ?_
    exact congrArg (fun d => d.any fun e => e.2.line == l && decide (2 ≤ e.2.summary)) hd
  unfold lineVal
  rw [haway]
  rfl

@[simp] theorem Hw.localLine_updSlice (h : Hw) (n : Nat) (f : Slice → Slice) (l : Nat) : (h.updSlice n f).localLine l = h.localLine l := rfl

/-- A change of a slice that keeps its filter, its ways and its write-back buffer keeps what it finds there. -/
theorem Hw.vatLine_updSlice {h : Hw} {n : Nat} {f : Slice → Slice} (e : (f (h.slice n)).ways = (h.slice n).ways) (l : Nat) :
    (h.updSlice n f).vatLine n l = h.vatLine n l := by
  unfold Hw.vatLine Slice.look
  rw [Hw.slice_updSlice_same, e]

theorem Hw.sfForm_updSlice {h : Hw} {n : Nat} {f : Slice → Slice} (e : (f (h.slice n)).sf = (h.slice n).sf) (l : Nat) :
    (h.updSlice n f).sfForm n l = h.sfForm n l := by
  unfold Hw.sfForm Slice.sfLook
  rw [Hw.slice_updSlice_same, e]

theorem Hw.wbbEntry_updSlice {h : Hw} {n : Nat} {f : Slice → Slice} (e : (f (h.slice n)).wbb = (h.slice n).wbb) (l : Nat) :
    (h.updSlice n f).wbbEntry n l = h.wbbEntry n l := by
  unfold Hw.wbbEntry
  rw [Hw.slice_updSlice_same, e]

/-- Whether a line is poisoned, where its slice keeps its filter and its write-back buffer, and the poison of its copy in the Vat. -/
theorem Hw.poisoned_updSlice {h : Hw} {n l : Nat} {f : Slice → Slice} (hs : (f (h.slice n)).sf = (h.slice n).sf)
    (hb : (f (h.slice n)).wbb = (h.slice n).wbb) (hv : ((h.updSlice n f).vatLine n l).map (·.bad) = (h.vatLine n l).map (·.bad)) :
    (h.updSlice n f).poisoned l = h.poisoned l := by
  by_cases hn : sliceOf l = n
  · subst hn
    unfold Hw.poisoned
    simp only [Hw.slice_updSlice_same, hs, Hw.wbbEntry_updSlice hb]
    rcases hx : (h.updSlice (sliceOf l) f).vatLine (sliceOf l) l with _ | w <;> rcases hy : h.vatLine (sliceOf l) l with _ | v <;>
      rw [hx, hy] at hv
    · rfl
    · cases hv
    · cases hv
    · simp only [Option.map_some, Option.some.injEq] at hv
      dsimp only
      rw [hv]
      rfl
  · unfold Hw.poisoned Hw.vatLine Hw.wbbEntry
    simp only [Hw.slice_updSlice_ne _ _ _ hn]
    rfl

/-- A hit changes the age of the line's way alone (R222). -/
theorem Hw.vatHit_eq {h : Hw} {s l : Nat} {w : VatWay} (e : h.vatLine s l = some w) :
    ∃ k, (h.slice s).look l = some k ∧ h.vatHit s l = h.updSlice s fun x => { x with ways := sset k { w with age := 0 } x.ways } := by
  obtain ⟨k, hk⟩ := Hw.vatLine_isSome (h := h) (s := s) (l := l) (by rw [e]; rfl)
  have hw : sfind k (h.slice s).ways = some w := by
    unfold Hw.vatLine at e
    rw [hk] at e
    exact e
  have hget : sget ⟨l, .s, 0, 0, false⟩ k (h.slice s).ways = w := sget_of_sfind hw
  refine ⟨k, hk, ?_⟩
  unfold Hw.vatHit
  rw [hk]
  refine Hw.updSlice_congr ?_
  dsimp only [supd]
  rw [hget]

theorem Hw.vatLine_vatHit {h : Hw} {s l : Nat} {w : VatWay} (e : h.vatLine s l = some w) :
    (h.vatHit s l).vatLine s l = some { w with age := 0 } := by
  obtain ⟨k, hk, he⟩ := Hw.vatHit_eq e
  obtain ⟨v, hv, hl⟩ := Slice.look_some hk
  have hvw : v = w := by
    unfold Hw.vatLine at e
    rw [hk] at e
    exact Option.some.inj (hv.symm.trans e)
  subst hvw
  rw [he]
  unfold Hw.vatLine
  rw [Hw.slice_updSlice_same, Slice.look_sset hk (w := { v with age := 0 }) hl rfl]
  exact sfind_sset_same ..

/-! ### A slice takes the request of a port (R229, R230, R294) -/

/-- One Whole or Skim request that waits alone is the next one that its slice serves (R294). -/
theorem Slice.nextReq_single {x : Slice} {r : SReq} (c : SReq → Bool) (hi : x.intake = [r]) (ht : x.txns = []) (hs : x.snps = [])
    (hc : r.cream = false) : ∃ d, x.nextReq c = some (r, d) := by
  have hun : x.unblocked (fun _ => true) = [r] := by simp [Slice.unblocked, Slice.busy, hi, ht, hs]
  unfold Slice.nextReq
  rw [hun]
  by_cases hw : r.weight = 0
  · have hpick : drrPick x.drr [] = none := by simp [drrPick]
    exact ⟨x.drr, by simp [hc, hw, hi, hpick]⟩
  · obtain ⟨d, hd⟩ : ∃ d, drrPick x.drr [(r.sender, r.weight)] = some (r.sender, d) := by
      unfold drrPick
      split
      · next h =>
        have hcur : r.sender = x.drr.1 := by simpa using h.2
        exact ⟨_, by rw [hcur]⟩
      · refine ⟨r.weight - 1, ?_⟩
        by_cases hlt : x.drr.1 < r.sender <;> simp [hlt]
    exact ⟨(r.sender, d), by simp [hc, hw, hd]⟩

/-- A request that has started with nothing to snoop. -/
def startedTxn (r : SReq) : Txn := { Txn.begun r with started := true }

/-- A slice with one transaction, and an empty intake. -/
def Slice.alone (x : Slice) (t : Txn) : Slice := { x with intake := [], txns := [t] }

theorem Hw.txn_alone {h : Hw} {sl : Nat} {t : Txn} (e : (h.slice sl).txns = [t]) : h.txn sl t.req.line = some t := by
  simp [Hw.txn, e]

/-- A request of a port for a line of this node that no holder and no member has: its transaction starts with nothing to snoop (R229, R231). -/
theorem Hw.startTxn_port {h : Hw} {sl k : Nat} {r : SReq} (hsrc : r.src = .port k) (hl : h.localLine r.line = true) (ho : h.others = [])
    (hsf : h.sfForm sl r.line = none) (hb : h.wbbEntry sl r.line = none) :
    h.startTxn sl (Txn.begun r) = h.updTxn sl r.line fun y => { y with started := true, unsent := [], snoops := [], remote := [] } := by
  have hfar : h.isFar r = false := by simp [Hw.isFar, hl]
  have hrs (u : Bool) : h.remoteSnoops r.line u = ([], false) := by simp [Hw.remoteSnoops, ho]
  have hsn (u v : Bool) (o : Option Nat) : snoopsFor (h.sfForm sl r.line) u v o = [] := by rw [hsf]; rfl
  have hreq : (Txn.begun r).req = r := rfl
  unfold Hw.startTxn
  simp only [hreq, hfar, hl, Bool.not_true, Bool.false_and, Bool.or_self, Bool.false_eq_true, if_false, if_true, Hw.askAll, hsrc, hrs,
    List.filter_nil, List.foldl_nil, Hw.snoopLost, List.isEmpty_nil, hb, Option.isSome_none, hsn]

/-- Such a transaction goes to its end at once where the slice is able to (R229, R230). -/
theorem Hw.advance_port {m : List Host.Cell} {h : Hw} {sl k : Nat} {r : SReq} (hsrc : r.src = .port k) (hl : h.localLine r.line = true)
    (ho : h.others = []) (hsf : h.sfForm sl r.line = none) (hb : h.wbbEntry sl r.line = none) (ht : (h.slice sl).txns = [Txn.begun r])
    (ha : (h.updSlice sl fun x => { x with txns := [startedTxn r] }).able sl (startedTxn r) = true) :
    h.advance m sl r.line = (h.updSlice sl fun x => { x with txns := [startedTxn r] }).conclude m sl (startedTxn r) := by
  have hstart := Hw.startTxn_port hsrc hl ho hsf hb
  have hupd : (h.updTxn sl r.line fun y => { y with started := true, unsent := [], snoops := [], remote := [] }) =
      h.updSlice sl fun x => { x with txns := [startedTxn r] } := by
    refine Hw.updSlice_congr ?_
    rw [ht]
    simp [Txn.begun, startedTxn]
  rw [hupd] at hstart
  have htxn : h.txn sl r.line = some (Txn.begun r) := Hw.txn_alone (t := Txn.begun r) ht
  have htxn' : (h.updSlice sl fun x => { x with txns := [startedTxn r] }).txn sl r.line = some (startedTxn r) :=
    Hw.txn_alone (t := startedTxn r) (by rw [Hw.slice_updSlice_same])
  have hroom : (h.updSlice sl fun x => { x with txns := [startedTxn r] }).dirRoom sl (startedTxn r) = none := by
    simp [Hw.dirRoom, startedTxn, Txn.begun, hsrc]
  unfold Hw.advance
  rw [htxn]
  have h1 : (Txn.begun r).wr = false ∧ (Txn.begun r).victims = [] ∧ (Txn.begun r).started = false := ⟨rfl, rfl, rfl⟩
  have h2 : (startedTxn r).settled = true ∧ (startedTxn r).unread = false ∧ (startedTxn r).err = 0 ∧ (startedTxn r).came = false ∧
      (startedTxn r).asked = false := ⟨rfl, rfl, rfl, rfl, rfl⟩
  have h3 (g : Hw) : g.sendSnoops sl (startedTxn r) = g := rfl
  simp [h1, h2, h3, hstart, htxn', hroom, ha]

/-- A permitted request of a port begins, and goes to its end at once (R229, R230, R396). -/
theorem Hw.begin_port {m : List Host.Cell} {h : Hw} {sl k : Nat} {r : SReq} (hsrc : r.src = .port k) (hl : h.localLine r.line = true)
    (hj : h.judge r.acc (lineLocal r.line) r.need = true) (ho : h.others = []) (hsf : h.sfForm sl r.line = none)
    (hb : h.wbbEntry sl r.line = none) (hi : (h.slice sl).intake = [r]) (ht : (h.slice sl).txns = [])
    (ha : (h.updSlice sl (·.alone (startedTxn r))).able sl (startedTxn r) = true) :
    h.begin m sl r = (h.updSlice sl (·.alone (startedTxn r))).conclude m sl (startedTxn r) := by
  have hadd : ((h.updSlice sl fun x => { x with intake := x.intake.erase r }).updSlice sl fun y => { y with txns := y.txns ++ [Txn.begun r] }) =
      h.updSlice sl (·.alone (Txn.begun r)) := by
    rw [Hw.updSlice_updSlice]
    refine Hw.updSlice_congr ?_
    simp [Slice.alone, hi, ht]
  have hset : ((h.updSlice sl (·.alone (Txn.begun r))).updSlice sl fun x => { x with txns := [startedTxn r] }) =
      h.updSlice sl (·.alone (startedTxn r)) := Hw.updSlice_updSlice ..
  have hadv := Hw.advance_port (m := m) (h := h.updSlice sl (·.alone (Txn.begun r))) (sl := sl) hsrc hl ho
    ((Hw.sfForm_updSlice (by rfl) _).trans hsf) ((Hw.wbbEntry_updSlice (by rfl) _).trans hb) (by rw [Hw.slice_updSlice_same]; rfl) (by rw [hset]; exact ha)
  rw [hset] at hadv
  unfold Hw.begin
  simp only [hl, hj, hsrc, Requester.holder, ite_self, hadd, Bool.not_true, Bool.and_false, Bool.false_eq_true, if_false]
  exact hadv

/-- Whether a slice can end a request of a line of this node is read from its ways and its write-back buffer. -/
theorem Hw.able_updSlice {h : Hw} {n : Nat} {f : Slice → Slice} (hw : (f (h.slice n)).ways = (h.slice n).ways)
    (hb : (f (h.slice n)).wbb = (h.slice n).wbb) {x : Txn} (hl : h.localLine x.req.line = true) :
    (h.updSlice n f).able n x = h.able n x := by
  unfold Hw.able
  simp only [Hw.localLine_updSlice, hl, Hw.vatLine_updSlice hw, Hw.wbbEntry_updSlice hb, if_true]
  rfl

/-- What a slice has taken of a port's request: its turn counts, and the request is the one in progress. -/
def Slice.taken (x : Slice) (r : SReq) (d : Nat × Nat) : Slice := { x.alone (startedTxn r) with drr := d }

/-- The request that is alone in its slice is the next one there. -/
theorem nextOf_port {sl : Nat} {r : SReq} {s : State} (hr : PortRequest sl r s) :
    ∃ d, ∀ p : SReq → Bool, p r = true → s.hw.nextOf sl p = some (r, s.hw.updSlice sl fun x => { x with drr := d }) := by
  obtain ⟨hsl, hstop, hi, ht, hsn, -, hc, -⟩ := hr
  obtain ⟨d, hd⟩ := Slice.nextReq_single (s.hw.creamSlot sl) hi ht hsn hc
  have hcond : ¬(numSlices ≤ sl ∨ (s.hw.slice sl).stopped = true) := by simp [hstop, Nat.not_le.2 hsl]
  refine ⟨d, fun p hp => ?_⟩
  unfold Hw.nextOf
  simp only [if_neg hcond, hd, hp, if_true, Hw.countReq, hc, Bool.false_eq_true, if_false]

/-- The permitted request of a port that is alone in its slice goes to its end when the slice takes it (R229, R230, R294, R396). -/
theorem takeReq_port {sl k : Nat} {r : SReq} {s : State} (hr : PortRequest sl r s) (hsrc : r.src = .port k)
    (hj : s.hw.judge r.acc (lineLocal r.line) r.need = true) (ha : s.hw.able sl (startedTxn r) = true) :
    ∃ d, ∀ p : SReq → Bool, p r = true → s.hw.takeReq s.mem sl p = (s.hw.updSlice sl (·.taken r d)).conclude s.mem sl (startedTxn r) := by
  obtain ⟨d, hnext⟩ := nextOf_port hr
  obtain ⟨-, -, hi, ht, -, hb, -, hl, ho, hsf⟩ := hr
  have hset : ((s.hw.updSlice sl fun x => { x with drr := d }).updSlice sl (·.alone (startedTxn r))) = s.hw.updSlice sl (·.taken r d) :=
    Hw.updSlice_updSlice ..
  have hbegin := Hw.begin_port (m := s.mem) (h := s.hw.updSlice sl fun x => { x with drr := d }) (sl := sl) hsrc hl hj ho
    ((Hw.sfForm_updSlice (by rfl) _).trans hsf) ((Hw.wbbEntry_updSlice (by rfl) _).trans hb) (by rw [Hw.slice_updSlice_same]; exact hi)
    (by rw [Hw.slice_updSlice_same]; exact ht) (by rw [hset]; exact (Hw.able_updSlice (by rfl) (by rfl) hl).trans ha)
  refine ⟨d, fun p hp => ?_⟩
  unfold Hw.takeReq
  rw [hnext p hp]
  exact hbegin.trans (by rw [hset])

/-- A request of a port that the region checkers refuse ends with ERR 3 (R396, R400). -/
theorem takeReq_port_refused {sl : Nat} {r : SReq} {s : State} (hr : PortRequest sl r s)
    (hj : s.hw.judge r.acc (lineLocal r.line) r.need = false) :
    ∃ d, ∀ p : SReq → Bool, p r = true → s.hw.takeReq s.mem sl p =
      ((((s.hw.updSlice sl fun x => { x with intake := [], drr := d }).refuseReq r).updSlice sl fun x =>
        { x with txns := x.txns ++ [{ Txn.begun r with err := 3 }] })).conclude s.mem sl { Txn.begun r with err := 3 } := by
  obtain ⟨d, hnext⟩ := nextOf_port hr
  obtain ⟨-, -, hi, -, -, -, -, hl, -⟩ := hr
  have hset : ((s.hw.updSlice sl fun x => { x with drr := d }).updSlice sl fun x => { x with intake := x.intake.erase r }) =
      s.hw.updSlice sl fun x => { x with intake := [], drr := d } := by
    rw [Hw.updSlice_updSlice]
    refine Hw.updSlice_congr ?_
    simp [hi]
  have hjudge : ((s.hw.updSlice sl fun x => { x with drr := d }).judge r.acc (lineLocal r.line) r.need) = false := hj
  refine ⟨d, fun p hp => ?_⟩
  unfold Hw.takeReq
  rw [hnext p hp]
  dsimp only
  unfold Hw.begin
  simp only [Hw.localLine_updSlice, hl, hjudge, hset, Bool.not_false, Bool.and_self, if_true]

end Sys2Proof.Machine

namespace Sys2Proof.Machine

open Sys2Proof.Safety Sys2Proof.Claims

/-! ### Reads and writes of root ports at their slice (R225, R229, R400) -/

@[simp] theorem Hw.vatHit_regs (h : Hw) (s l : Nat) : (h.vatHit s l).regs = h.regs := by
  unfold Hw.vatHit; split <;> rfl
@[simp] theorem Hw.vatHit_newest (h : Hw) (s l : Nat) : (h.vatHit s l).newest = h.newest := by
  unfold Hw.vatHit; split <;> rfl
@[simp] theorem Hw.vatHit_flits (h : Hw) (s l : Nat) : (h.vatHit s l).flits = h.flits := by
  unfold Hw.vatHit; split <;> rfl
@[simp] theorem Hw.vatHit_threads (h : Hw) (s l : Nat) : (h.vatHit s l).threads = h.threads := by
  unfold Hw.vatHit; split <;> rfl
@[simp] theorem Hw.vatHit_intake (h : Hw) (s l : Nat) : ((h.vatHit s l).slice s).intake = (h.slice s).intake := by
  unfold Hw.vatHit; split <;> simp
@[simp] theorem Hw.vatHit_txns (h : Hw) (s l : Nat) : ((h.vatHit s l).slice s).txns = (h.slice s).txns := by
  unfold Hw.vatHit; split <;> simp

theorem Hw.lineVal_vatHit {h : Hw} {s k : Nat} {w : VatWay} (e : h.vatLine s k = some w) (m : List Host.Cell) (l : Nat) :
    lineVal m (h.vatHit s k) l = lineVal m h l := by
  obtain ⟨_, -, he⟩ := Hw.vatHit_eq e
  rw [he]
  exact Hw.lineVal_updSlice rfl m l

theorem Hw.poisoned_vatHit {h : Hw} {s l : Nat} {w : VatWay} (e : h.vatLine s l = some w) : (h.vatHit s l).poisoned l = h.poisoned l := by
  have hv := Hw.vatLine_vatHit e
  obtain ⟨_, -, he⟩ := Hw.vatHit_eq e
  rw [he] at hv ⊢
  exact Hw.poisoned_updSlice rfl rfl (by rw [hv, e]; rfl)

/-- A read that takes no copy ends: its answer leaves, and its entry and its place are free. -/
theorem Hw.finish_read {m : List Host.Cell} {h : Hw} {s off len : Nat} {x : Txn} {vc src dst : Nat} {p : Payload}
    (hk : x.req.kind = .read off len) (he : x.err = 0) (hl : h.localLine x.req.line = true)
    (ha : (h.vatHit s x.req.line).answerReq m s x = (h.vatHit s x.req.line).send vc src dst p) :
    h.finish m s x = (((h.vatHit s x.req.line).send vc src dst p).freeReq s x.req).endTxn s x.req.line := by
  unfold Hw.finish
  rw [hk]
  dsimp only
  rw [if_pos he, ha]
  exact Hw.forget_local ((Hw.localLine_congr (by simp) _).trans hl)

/-- A command that takes reads, at a slice that takes this one next. -/
theorem readShared_answers {sl off len : Nat} {r : SReq} {s : State} {g : Hw} {P : State → Prop} (ho : s.hw.off = false)
    (hk : r.kind = .read off len) (ht : ∀ p : SReq → Bool, p r = true → s.hw.takeReq s.mem sl p = g) (hP : P { s with hw := g }) :
    Answers (.readShared sl) s P := by
  refine Answers.of_onHw ho rfl ?_
  rw [ht _ (by rw [hk])]
  exact hP

/-- A command that takes writes, at a slice that takes this one next. -/
theorem readUnique_answers {sl : Nat} {o : LineOp} {r : SReq} {s : State} {g : Hw} {P : State → Prop} (ho : s.hw.off = false)
    (hk : r.kind = .write o) (ht : ∀ p : SReq → Bool, p r = true → s.hw.takeReq s.mem sl p = g) (hP : P { s with hw := g }) :
    Answers (.readUnique sl) s P := by
  refine Answers.of_onHw ho rfl ?_
  rw [ht _ (by rw [hk])]
  exact hP

/-- A permitted read of a port is answered with the newest bytes of a line that the Vat holds. -/
theorem readShared_port {sl k off len : Nat} {r : SReq} {s : State} (ho : s.hw.off = false) (hr : PortRequest sl r s) (hsrc : r.src = .port k)
    (hk : r.kind = .read off len) (hf : r.fetch = false) (hj : s.hw.judge r.acc (lineLocal r.line) 1 = true) (hv : (s.hw.vatLine sl r.line).isSome) :
    Answers (.readShared sl) s fun u => u.mem = s.mem ∧ u.hw.newest = s.hw.newest ∧ (u.hw.slice sl).intake = [] ∧ (u.hw.slice sl).txns = [] ∧
      Sends (.cpl k ⟨0, s.hw.poisoned r.line, vbytes (lineVal s.mem s.hw r.line) off len⟩) (chamberStop sl) (portStop k) s u := by
  have hl : s.hw.localLine r.line = true := by
    obtain ⟨-, -, -, -, -, -, -, hl, -⟩ := hr
    exact hl
  have hneed : r.need = 1 := by simp [SReq.need, hf, hk]
  have hable : s.hw.able sl (startedTxn r) = true := by
    simp [Hw.able, startedTxn, Txn.begun, hl, hk, hv]
  obtain ⟨d, hd⟩ := takeReq_port hr hsrc (by rw [hneed]; exact hj) hable
  refine readShared_answers ho hk hd ?_
  obtain ⟨w, hw⟩ := Option.isSome_iff_exists.1 hv
  have hw' : (s.hw.updSlice sl (·.taken r d)).vatLine sl r.line = some w := (Hw.vatLine_updSlice rfl _).trans hw
  have hval : lineVal s.mem ((s.hw.updSlice sl (·.taken r d)).vatHit sl r.line) r.line = lineVal s.mem s.hw r.line :=
    (Hw.lineVal_vatHit hw' _ _).trans (Hw.lineVal_updSlice rfl _ _)
  have hbad : ((s.hw.updSlice sl (·.taken r d)).vatHit sl r.line).poisoned r.line = s.hw.poisoned r.line :=
    (Hw.poisoned_vatHit hw').trans (Hw.poisoned_updSlice rfl rfl (by rw [hw', hw]))
  have hans : ∃ vc, ((s.hw.updSlice sl (·.taken r d)).vatHit sl r.line).answerReq s.mem sl (startedTxn r) =
      ((s.hw.updSlice sl (·.taken r d)).vatHit sl r.line).send vc (chamberStop sl) (portStop k)
        (.cpl k ⟨0, s.hw.poisoned r.line, vbytes (lineVal s.mem s.hw r.line) off len⟩) := by
    refine ⟨if r.cream then vcCdata else if !(vbytes (lineVal s.mem s.hw r.line) off len).isEmpty then vcData else vcRsp, ?_⟩
    unfold Hw.answerReq
    simp only [startedTxn, Txn.begun, hsrc, portCpl, hk, if_true, hval, hbad]
    rfl
  obtain ⟨vc, hans⟩ := hans
  have hfin := Hw.finish_read (m := s.mem) (h := s.hw.updSlice sl (·.taken r d)) (s := sl) (x := startedTxn r) hk rfl hl hans
  have hcon : (s.hw.updSlice sl (·.taken r d)).conclude s.mem sl (startedTxn r) =
      (s.hw.updSlice sl (·.taken r d)).finish s.mem sl (startedTxn r) := by
    unfold Hw.conclude
    rw [show (startedTxn r).req.kind = .read off len from hk]
  rw [hcon, hfin]
  refine ⟨rfl, by simp, by simp [Slice.taken, Slice.alone], ?_, _, by simp [Hw.send]; rfl, rfl, rfl, rfl⟩
  simp [Slice.taken, Slice.alone, startedTxn, Txn.begun]

/-! ### A record leaves every register below the log's alone (R479 to R487) -/

theorem Hw.noteFatal_reg (h : Hw) (r : Record) (src sev : Nat) {a : Nat} (ha : a < logReg 0) : (h.noteFatal r src sev).reg a = h.reg a := by
  unfold Hw.noteFatal
  split
  · exact Hw.reg_setReg_ne _ (by unfold logReg at *; omega) _
  · rfl

theorem Hw.placeRecord_reg (h : Hw) (b : Nat) (r : Record) (src : Nat) (sec : Bool) (sev : Nat) {a : Nat} (ha : a < logReg 0) :
    (h.placeRecord b r src sec sev).reg a = h.reg a := by
  rw [← h.noteFatal_reg r src sev ha]
  unfold Hw.placeRecord
  extract_lets g k same a' g1 o
  split
  · exact Hw.reg_setReg_ne { g with banks := _ } (by unfold logReg at *; omega) _
  split
  · rfl
  · show g1.reg a = g.reg a
    exact Hw.reg_setReg_ne _ (by unfold a' logReg at *; omega) _

@[simp] theorem Hw.incident_reg (h : Hw) (type detail0 : Nat) (addr detail : Word) (src : Nat) (sec : Bool) {a : Nat} (ha : a < logReg 0) :
    (h.incident type detail0 addr detail src sec).reg a = h.reg a :=
  Hw.placeRecord_reg _ _ _ _ _ _ ha

/-- A record leaves the number of this node alone. -/
theorem Hw.incident_localLine (h : Hw) (type detail0 : Nat) (addr detail : Word) (src : Nat) (sec : Bool) (l : Nat) :
    (h.incident type detail0 addr detail src sec).localLine l = h.localLine l := by
  unfold Hw.localLine Hw.node Hw.regF
  rw [Hw.incident_reg _ _ _ _ _ _ _ (by decide)]

/-- A request that ends with an error, and takes no copy: its answer leaves, and its entry and its place are free. -/
theorem Hw.finish_error {m : List Host.Cell} {h : Hw} {s : Nat} {x : Txn} {vc src dst : Nat} {p : Payload} (he : x.err ≠ 0)
    (hl : h.localLine x.req.line = true) (ha : h.answerReq m s x = h.send vc src dst p) :
    h.finish m s x = ((h.send vc src dst p).freeReq s x.req).endTxn s x.req.line := by
  unfold Hw.finish
  extract_lets h1
  have hh : h1 = h := by
    unfold h1
    split
    · rw [if_neg he]
    · rfl
  rw [hh, ha]
  exact Hw.forget_local ((Hw.localLine_congr (by simp) _).trans hl)

/-- What the report of a port's refused request changes (R400, R510): the log's registers and a bank. -/
theorem Hw.refuseReq_port {h : Hw} {r : SReq} {k : Nat} (hsrc : r.src = .port k) :
    ∃ regs banks, h.refuseReq r = { h with regs := regs, banks := banks } ∧
      ∀ l, Hw.localLine { h with regs := regs, banks := banks } l = h.localLine l := by
  unfold Hw.refuseReq
  rw [hsrc]
  extract_lets at_
  obtain ⟨regs, banks, he⟩ := h.incident_frame 0x50 1 at_ 0 (blockId 4 k) (h.portSecure k)
  refine ⟨regs, banks, he, fun l => ?_⟩
  rw [← he]
  exact Hw.incident_localLine ..

/-- A read of a port that the region checkers refuse completes with Completer Abort (R400). -/
theorem readShared_port_refused {sl k off len : Nat} {r : SReq} {s : State} (ho : s.hw.off = false) (hr : PortRequest sl r s)
    (hsrc : r.src = .port k) (hk : r.kind = .read off len) (hf : r.fetch = false) (hj : s.hw.judge r.acc (lineLocal r.line) 1 = false) :
    Answers (.readShared sl) s fun u => (u.mem = s.mem ∧ u.hw.newest = s.hw.newest ∧ u.hw.threads = s.hw.threads) ∧
      Sends (.cpl k ⟨4, false, []⟩) (chamberStop sl) (portStop k) s u := by
  have hl : s.hw.localLine r.line = true := by
    obtain ⟨-, -, -, -, -, -, -, hl, -⟩ := hr
    exact hl
  have hneed : r.need = 1 := by simp [SReq.need, hf, hk]
  obtain ⟨d, hd⟩ := takeReq_port_refused hr (by rw [hneed]; exact hj)
  refine readShared_answers ho hk hd ?_
  obtain ⟨regs, banks, he, hloc⟩ := Hw.refuseReq_port (h := s.hw.updSlice sl fun x => { x with intake := [], drr := d }) hsrc
  rw [he]
  generalize hg : ({ (s.hw.updSlice sl fun x => { x with intake := [], drr := d }) with regs := regs, banks := banks } : Hw).updSlice sl
    (fun x => { x with txns := x.txns ++ [{ Txn.begun r with err := 3 }] }) = g
  have hgl : g.localLine r.line = true := by
    rw [← hg]
    exact (hloc _).trans hl
  have hgn : g.newest = s.hw.newest ∧ g.threads = s.hw.threads ∧ g.flits = s.hw.flits := by
    rw [← hg]
    exact ⟨rfl, rfl, rfl⟩
  obtain ⟨hn, ht, hf⟩ := hgn
  have hans : g.answerReq s.mem sl { Txn.begun r with err := 3 } =
      g.send (if r.cream then vcCdata else vcRsp) (chamberStop sl) (portStop k) (.cpl k ⟨4, false, []⟩) := by
    unfold Hw.answerReq
    simp [Txn.begun, hsrc, portCpl, hk]
  have hcon : g.conclude s.mem sl { Txn.begun r with err := 3 } = g.finish s.mem sl { Txn.begun r with err := 3 } := by
    unfold Hw.conclude
    rw [show ({ Txn.begun r with err := 3 } : Txn).req.kind = .read off len from hk]
  rw [hcon, Hw.finish_error (x := { Txn.begun r with err := 3 }) (Nat.succ_ne_zero 2) hgl hans]
  exact ⟨⟨rfl, by simp [hn], by simp [ht]⟩, _, by simp [Hw.send, hf]; rfl, rfl, rfl, rfl⟩

end Sys2Proof.Machine

namespace Sys2Proof.Machine

open Sys2Proof.Safety Sys2Proof.Claims

/-! ### Bytes that a write stores in a line (R8, R119) -/

/-- The bit of a byte mask at a bit of the line is the mask's at that byte. -/
theorem byteMask_testBit (n m i : Nat) : (byteMask n m).testBit i = (decide (i < 8 * n) && m.testBit (i / 8)) := by
  induction n generalizing m i with
  | zero => simp [byteMask]
  | succ n ih =>
    rw [byteMask, show (256 : Nat) = 2 ^ 8 from rfl, Nat.add_comm, Nat.testBit_two_pow_mul_add _ (by split <;> decide), ih]
    by_cases hi : i < 8
    · have h0 : i / 8 = 0 := by omega
      have hlt : i < 8 * (n + 1) := by omega
      have hones : Nat.testBit 255 i = true := by interval_cases i <;> rfl
      rw [if_pos hi, h0, Nat.testBit_zero]
      by_cases hm : m % 2 = 1 <;> simp [hm, hones, hlt]
    · have hd : (m / 2).testBit ((i - 8) / 8) = m.testBit (i / 8) := by
        rw [← Nat.testBit_add_one]
        congr 1
        omega
      have hlt : decide (i - 8 < 8 * n) = decide (i < 8 * (n + 1)) := by
        congr 1
        apply propext
        omega
      rw [if_neg hi, hd, hlt]

/-- A run of ones from bit b on. -/
theorem testBit_ones (n b i : Nat) : ((2 ^ n - 1) * 2 ^ b).testBit i = (decide (b ≤ i) && decide (i < b + n)) := by
  rw [Nat.testBit_mul_two_pow, Nat.testBit_two_pow_sub_one]
  by_cases h : b ≤ i
  · simp only [h, decide_true, Bool.true_and]
    congr 1
    apply propext
    omega
  · simp [h]

/-- The byte mask of n bytes from byte off is the bits of those bytes. -/
theorem byteMask_maskOf {off n : Nat} (h : off + n ≤ 64) : byteMask 64 (maskOf off n).toNat = (256 ^ n - 1) * 256 ^ off := by
  refine Nat.eq_of_testBit_eq fun i => ?_
  have h8 (k : Nat) : 256 ^ k = 2 ^ (8 * k) := by rw [Nat.pow_mul]
  rw [byteMask_testBit, h8, h8, testBit_ones, maskOf, BitVec.toNat_ofNat, Nat.testBit_mod_two_pow, testBit_ones]
  rw [← Bool.decide_and, ← Bool.decide_and, ← Bool.decide_and, ← Bool.decide_and]
  congr 1
  apply propext
  omega

/-- Bytes that are merged under their own mask are the bytes stored (R119). -/
theorem vmerge_vput (v : Vec) {off : Nat} {bs : Bytes} (h : off + bs.length ≤ 64) :
    vmerge v (vput 0 off bs) (maskOf off bs.length) = vput v off bs := by
  unfold vmerge vput
  rw [byteMask_maskOf h]
  extract_lets m n m'
  have hm : m' = m := rfl
  have hz : (0 : Vec) &&& ~~~m = 0#512 := BitVec.zero_and
  rw [hm, hz, BitVec.zero_or, BitVec.and_assoc, BitVec.and_self]

/-- What a write of bytes leaves in a line. -/
theorem lineWrite_merged (v : Vec) {pa : Word} {len : Nat} (d : Vec) (bad : Bool) (mt : MemType) (h : pa.toNat % 64 + len ≤ 64) :
    (lineWrite pa len d bad mt).merged v = vput v (pa.toNat % 64) (vbytes d 0 len) := by
  have hlen : (vbytes d 0 len).length = len := vbytes_length ..
  have := vmerge_vput v (off := pa.toNat % 64) (bs := vbytes d 0 len) (by rw [hlen]; exact h)
  rw [hlen] at this
  exact this

theorem maskOf_all : maskOf 0 64 = BitVec.allOnes 64 := by decide

end Sys2Proof.Machine

namespace Sys2Proof.Machine

open Sys2Proof.Safety Sys2Proof.Claims

/-! ### A write of a port finds its place (R225, R226, R234) -/

/-- What an allocation in a slice leaves alone: what the slice has in hand, and the number of this node. -/
def Hw.KeepsWork (s : Nat) (h g : Hw) : Prop :=
  (g.slice s).txns = (h.slice s).txns ∧ (g.slice s).intake = (h.slice s).intake ∧ ∀ l, g.localLine l = h.localLine l

theorem Hw.KeepsWork.refl (s : Nat) (h : Hw) : h.KeepsWork s h := ⟨rfl, rfl, fun _ => rfl⟩

theorem Hw.KeepsWork.trans {s : Nat} {h g f : Hw} (a : h.KeepsWork s g) (b : g.KeepsWork s f) : h.KeepsWork s f :=
  ⟨b.1.trans a.1, b.2.1.trans a.2.1, fun l => (b.2.2 l).trans (a.2.2 l)⟩

theorem Hw.keepsWork_updSlice {s : Nat} {h : Hw} {f : Slice → Slice} (ht : (f (h.slice s)).txns = (h.slice s).txns)
    (hi : (f (h.slice s)).intake = (h.slice s).intake) : h.KeepsWork s (h.updSlice s f) :=
  ⟨by rw [Hw.slice_updSlice_same, ht], by rw [Hw.slice_updSlice_same, hi], fun _ => rfl⟩

theorem Hw.vatCount_slices (h : Hw) (s o : Nat) : (h.vatCount s o).slices = h.slices := by
  unfold Hw.vatCount
  extract_lets h1
  split <;> rfl

/-- The counters of a slice stand below the registers of the region checkers. -/
theorem vatReg_lt {s o : Nat} (hs : s < numSlices) (ho : o < 0x10000) : vatReg s o < chkReg 0 := by
  unfold vatReg chkReg
  unfold numSlices at hs
  omega

theorem Hw.vatCount_reg (h : Hw) {s o a : Nat} (hs : s < numSlices) (ho : o < 0x10000) (ha : chkReg 0 ≤ a) : (h.vatCount s o).reg a = h.reg a := by
  have hne (b : Nat) (hb : b < 0x10000) : a ≠ vatReg s b := by
    have := vatReg_lt hs hb
    omega
  unfold Hw.vatCount
  extract_lets h1
  have h1a : h1.reg a = h.reg a := Hw.reg_setReg_ne _ (hne o ho) _
  split
  · exact (Hw.reg_setReg_ne _ (hne 0x80 (by decide)) _).trans h1a
  · exact h1a

theorem Hw.keepsWork_vatCount {s o : Nat} (h : Hw) (hs : s < numSlices) (ho : o < 0x10000) : h.KeepsWork s (h.vatCount s o) := by
  refine ⟨?_, ?_, fun l => ?_⟩
  · unfold Hw.slice; rw [Hw.vatCount_slices]
  · unfold Hw.slice; rw [Hw.vatCount_slices]
  · unfold Hw.localLine Hw.node Hw.regF
    rw [Hw.vatCount_reg h hs ho (by decide)]

theorem Hw.keepsWork_wbbPut (h : Hw) (s l : Nat) (v : Vec) (bad : Bool) : h.KeepsWork s (h.wbbPut s l v bad) := by
  unfold Hw.wbbPut
  split
  · exact Hw.keepsWork_updSlice rfl rfl
  split
  · exact Hw.keepsWork_updSlice rfl rfl
  · exact .refl ..

theorem Hw.keepsWork_vatDrop (h : Hw) (s l : Nat) : h.KeepsWork s (h.vatDrop s l) := by
  unfold Hw.vatDrop
  split
  · exact Hw.keepsWork_updSlice rfl rfl
  · exact .refl ..

theorem Hw.keepsWork_vatAlloc (m : List Host.Cell) (h : Hw) {s : Nat} (hs : s < numSlices) (l : Nat) (st : LSt) (age origin : Nat) (bad : Bool) :
    h.KeepsWork s (h.vatAlloc m s l st age origin bad).1 := by
  unfold Hw.vatAlloc
  extract_lets x set
  split
  · exact Hw.keepsWork_updSlice rfl rfl
  split
  · exact Hw.keepsWork_vatCount h hs (by decide)
  next k up =>
  extract_lets dirty h1 aged
  split
  · exact Hw.keepsWork_vatCount h hs (by decide)
  · have h1k : h.KeepsWork s h1 := by
      unfold h1
      split
      · split
        · exact Hw.keepsWork_wbbPut ..
        · exact .refl ..
      · exact .refl ..
    exact h1k.trans (Hw.keepsWork_updSlice rfl rfl)

/-- An allocation that fails leaves every slice as it was. -/
theorem Hw.vatAlloc_fails (m : List Host.Cell) (h : Hw) (s l : Nat) (st : LSt) (age origin : Nat) (bad : Bool) :
    (h.vatAlloc m s l st age origin bad).2 = true ∨ (h.vatAlloc m s l st age origin bad).1.slices = h.slices := by
  unfold Hw.vatAlloc
  extract_lets x set
  split
  · exact .inl rfl
  split
  · exact .inr (Hw.vatCount_slices ..)
  extract_lets dirty h1 aged
  split
  · exact .inr (Hw.vatCount_slices ..)
  · exact .inl rfl

theorem Hw.keepsWork_ioAlloc (m : List Host.Cell) (h : Hw) {s : Nat} (hs : s < numSlices) (l k : Nat) (bad : Bool) :
    h.KeepsWork s (h.ioAlloc m s l k bad).1 := by
  unfold Hw.ioAlloc
  extract_lets quota cap mine all own
  split
  · exact .refl ..
  split
  · exact Hw.keepsWork_vatAlloc m h hs ..
  split
  · split
    · exact .refl ..
    · exact Hw.keepsWork_vatCount h hs (by decide)
  extract_lets old dirty h1
  split
  · exact Hw.keepsWork_vatCount h hs (by decide)
  · have h1k : h.KeepsWork s h1 := by
      unfold h1
      split
      · exact Hw.keepsWork_wbbPut ..
      · exact .refl ..
    exact (h1k.trans (Hw.keepsWork_vatDrop ..)).trans (Hw.keepsWork_updSlice rfl rfl)

/-- A write that finds no way leaves every slice as it was. -/
theorem Hw.ioAlloc_fails (m : List Host.Cell) (h : Hw) (s l k : Nat) (bad : Bool) :
    (h.ioAlloc m s l k bad).2 = true ∨ (h.ioAlloc m s l k bad).1.slices = h.slices := by
  unfold Hw.ioAlloc
  extract_lets quota cap mine all own
  split
  · exact .inr rfl
  split
  · exact Hw.vatAlloc_fails ..
  split
  · split
    · exact .inr rfl
    · exact .inr (Hw.vatCount_slices ..)
  extract_lets old dirty h1
  split
  · exact .inr (Hw.vatCount_slices ..)
  · exact .inl rfl

/-- A write of a port that finds a way, or a free entry of the write-back buffer, is done: its line has the new value. -/
theorem Hw.writeLine_port {m : List Host.Cell} {h : Hw} {s k : Nat} {r : SReq} {o : LineOp} (hs : s < numSlices) (hsrc : r.src = .port k)
    (hl : h.localLine r.line = true) (hb : h.wbbEntry s r.line = none) (hf : (h.slice s).wbbFree.isSome) :
    ∃ g, h.writeLine m s r o = some g ∧ h.KeepsWork s g ∧ sfind r.line g.newest = some (o.merged (lineVal m h r.line)) := by
  obtain ⟨e, he⟩ := Option.isSome_iff_exists.1 hf
  have hsel : h.writeLine m s r o =
      let v := o.merged (lineVal m h r.line)
      let bad := o.poison || (h.poisoned r.line && decide (o.mask ≠ BitVec.allOnes 64))
      let a := h.ioAlloc m s r.line k bad
      if a.2 then some ((a.1.setNewest r.line v).landed r.line) else ((a.1.setNewest r.line v).landed r.line).toMemory s r.line v bad := by
    unfold Hw.writeLine
    simp only [hb, hl, if_true, hsrc, Requester.ioPort]
  rw [hsel]
  extract_lets v bad a
  have hput : h.KeepsWork s ((a.1.setNewest r.line v).landed r.line) := by
    refine (Hw.keepsWork_ioAlloc m h hs r.line k bad).trans ⟨?_, ?_, fun l => Hw.localLine_congr ?_ l⟩ <;> simp [a]
  rcases Hw.ioAlloc_fails m h s r.line k bad with ht | hsame
  · exact ⟨_, if_pos ht, hput, by simp [v]⟩
  · by_cases ht : a.2 = true
    · exact ⟨_, if_pos ht, hput, by simp [v]⟩
    have hslice : ((a.1.setNewest r.line v).landed r.line).slice s = h.slice s := by
      simp only [Hw.landed_slice, Hw.setNewest_slice]
      unfold Hw.slice
      rw [hsame]
    have hmem := Hw.toMemory_new (h := (a.1.setNewest r.line v).landed r.line) (s := s) (l := r.line) (e := e)
      (by unfold Hw.wbbEntry at hb ⊢; rw [hslice]; exact hb) (by rw [hslice]; exact he) v bad
    refine ⟨_, (if_neg ht).trans hmem, (hput.trans (Hw.keepsWork_vatDrop ..)).trans (Hw.keepsWork_updSlice rfl rfl), ?_⟩
    simp [Hw.vatDrop_newest, v]

/-- A posted write ends without an answer. -/
theorem Hw.finish_write {m : List Host.Cell} {h : Hw} {s k : Nat} {o : LineOp} {x : Txn} (hsrc : x.req.src = .port k)
    (hk : x.req.kind = .write o) (hl : h.localLine x.req.line = true) :
    h.finish m s x = (h.freeReq s x.req).endTxn s x.req.line := by
  have hans : h.answerReq m s x = h := by
    unfold Hw.answerReq
    simp [hsrc, portCpl, hk]
  unfold Hw.finish
  rw [hk]
  dsimp only
  rw [hans]
  exact Hw.forget_local ((Hw.localLine_congr (by simp) _).trans hl)

/-- A permitted write of a port, of a whole line or of one that the Vat holds, becomes the line's newest value. -/
theorem readUnique_port {sl k len : Nat} {r : SReq} {s : State} {pa : Word} {d : Vec} {bad : Bool} (ho : s.hw.off = false)
    (hr : PortRequest sl r s) (hsrc : r.src = .port k) (hk : r.kind = .write (lineWrite pa len d bad .wb)) (hf : r.fetch = false)
    (hj : s.hw.judge r.acc (lineLocal r.line) 2 = true) (hv : len = 64 ∨ (s.hw.vatLine sl r.line).isSome)
    (hfree : (s.hw.slice sl).wbbFree.isSome) (hlen : pa.toNat % 64 + len ≤ 64) :
    Answers (.readUnique sl) s fun u => u.mem = s.mem ∧ (u.hw.slice sl).intake = [] ∧ (u.hw.slice sl).txns = [] ∧
      lineVal u.mem u.hw r.line = vput (lineVal s.mem s.hw r.line) (pa.toNat % 64) (vbytes d 0 len) := by
  obtain ⟨hsl, -, -, -, -, hb, -, hl, -⟩ := id hr
  have hneed : r.need = 2 := by simp [SReq.need, hf, hk]
  have hable : s.hw.able sl (startedTxn r) = true := by
    rcases hv with rfl | hv
    · have hmask : (lineWrite pa 64 d bad .wb).mask = BitVec.allOnes 64 := by
        have h0 : pa.toNat % 64 = 0 := by omega
        simp only [lineWrite, h0, maskOf_all]
      simp [Hw.able, startedTxn, Txn.begun, hl, hk, hmask]
    · simp [Hw.able, startedTxn, Txn.begun, hl, hk, hv]
  obtain ⟨n, hn⟩ := takeReq_port hr hsrc (by rw [hneed]; exact hj) hable
  refine readUnique_answers ho hk hn ?_
  obtain ⟨g, hg, ⟨htx, hin, hloc⟩, hval⟩ := Hw.writeLine_port (m := s.mem) (h := s.hw.updSlice sl (·.taken r n)) (s := sl) (r := r)
    (o := lineWrite pa len d bad .wb) hsl hsrc hl ((Hw.wbbEntry_updSlice rfl _).trans hb) (by rw [Hw.slice_updSlice_same]; exact hfree)
  have hcon : (s.hw.updSlice sl (·.taken r n)).conclude s.mem sl (startedTxn r) = g.finish s.mem sl (startedTxn r) := by
    have hfar : (s.hw.updSlice sl (·.taken r n)).isFar r = false := by simp [Hw.isFar, hl]
    unfold Hw.conclude
    simp only [startedTxn, Txn.begun, hk]
    simp [hfar, hg, hsrc, Requester.awaitsMemory]
  rw [hcon, Hw.finish_write (x := startedTxn r) hsrc hk ((hloc _).trans hl)]
  rw [lineWrite_merged _ _ _ _ hlen, Hw.lineVal_updSlice rfl] at hval
  refine ⟨rfl, ?_, ?_, ?_⟩
  · simp [hin, Slice.taken, Slice.alone]
  · simp [htx, Slice.taken, Slice.alone, startedTxn, Txn.begun]
  · exact lineVal_of_newest (by simpa using hval)

end Sys2Proof.Machine

namespace Sys2Proof.Machine

open Sys2Proof.Safety Sys2Proof.Claims

/-! ### DMA at a root port (R25, R241, R349) -/

/-- Bytes within one line are one part. -/
theorem lineParts_one {k n : Nat} {pa : Word} (hn : 0 < n) (h : pa.toNat % 64 + n ≤ 64) : lineParts (k + 2) pa n = [(pa, n)] := by
  have hmin : min n (64 - pa.toNat % 64) = n := by omega
  rw [lineParts, if_neg (by omega)]
  dsimp only
  rw [hmin, Nat.sub_self, lineParts, if_pos rfl]

/-- A part of a device's request that leaves its port changes no byte and no thread. -/
theorem portRequest_leaves {s : State} {port : Nat} {rid : BitVec 16} {pa : Word} {kind : ReqKind} {cls : Nat} {rd : Bool}
    (hrd : (match kind with | .read _ _ => true | _ => false) = rd) (hcls : (match kind with | .write _ => 1 | _ => 2) = cls)
    (hm : s.hw.matching (0xA000 + port) rd (pa.toNat / 64 * 64) 2 rid.toNat = none)
    (hc : s.hw.hasCredit cls port (sliceOf (lineNo pa)) = true) (hp : s.hw.portBusy port cls = false) :
    let sl := sliceOf (lineNo pa)
    let u : State := { s with hw := s.hw.portRequest port rid pa kind }
    (u.mem = s.mem ∧ u.hw.newest = s.hw.newest ∧ u.hw.threads = s.hw.threads) ∧
      Sends (.req sl ⟨kind, lineNo pa, .port port, s.hw.portAcc port, false, (s.hw.funcWeight port rid.toNat).getD 16, false,
        s.hw.homePos (lineNo pa)⟩) (portStop port) (chamberStop sl) s u := by
  obtain ⟨vc, hs⟩ := Hw.portRequest_sends hrd hcls hm hc hp
  dsimp only
  rw [hs]
  exact ⟨⟨rfl, rfl, rfl⟩, Hw.send_sends rfl⟩

/-- A port that takes a DMA request, and one that holds it back. -/
theorem dma_guard {h : Hw} {port cls : Nat} {rid : BitVec 16} {rd : Bool} {pa : Word} (hp : port < 8) (hb : h.portBusy port cls = false)
    (hi : h.ingressFull port rid rd pa = false) : ¬(8 ≤ port ∨ h.portBusy port cls = true ∨ h.ingressFull port rid rd pa = true) := by
  simp [hb, hi, hp]

theorem dma_length {n : Nat} {pa : Word} (hn : 0 < n) (h : pa.toNat % 64 + n ≤ 64) : ¬(n = 0 ∨ 4096 < n) := by omega

/-- A DMA read within a line is one part. -/
theorem dmaRead_answers {port n : Nat} {rid : BitVec 16} {pa : Word} {s : State} {P : State → Prop} (ho : s.hw.off = false) (hp : port < 8)
    (hn : 0 < n) (hlen : pa.toNat % 64 + n ≤ 64) (hb : s.hw.portBusy port 2 = false) (hi : s.hw.ingressFull port rid true pa = false)
    (hP : P { s with hw := if s.hw.portReaches pa then s.hw.portRequest port rid pa (.read (pa.toNat % 64) n)
      else (s.hw.portRefuse port pa).sendCpl port 1 false [] }) : Answers (.dmaRead port rid pa (some n)) s P := by
  refine Answers.of_onHw ho rfl ?_
  dsimp only
  rw [if_neg (dma_guard hp hb hi), if_neg (dma_length hn hlen), lineParts_one hn hlen]
  cases hr : s.hw.portReaches pa <;> rw [hr] at hP <;>
    simpa only [List.find?_cons, hr, Bool.not_true, Bool.not_false, List.find?_nil, List.foldl_cons, List.foldl_nil,
      Bool.false_eq_true, if_true, if_false] using hP

/-- A DMA read where nothing is, and a translation request, complete as Unsupported Request. -/
theorem dmaRead_unsupported {port : Nat} {n : Option Nat} {rid : BitVec 16} {pa : Word} {s : State} (ho : s.hw.off = false) (hp : port < 8)
    (hn : ∀ k, n = some k → 0 < k ∧ pa.toNat % 64 + k ≤ 64 ∧ s.hw.portReaches pa = false) (hb : s.hw.portBusy port 2 = false)
    (hi : s.hw.ingressFull port rid true pa = false) :
    Answers (.dmaRead port rid pa n) s fun u =>
      (u.mem = s.mem ∧ u.hw.newest = s.hw.newest ∧ u.hw.threads = s.hw.threads) ∧ u.hw.flits = s.hw.flits ∧
        sfind port u.hw.cpl = some ⟨1, false, []⟩ := by
  cases n with
  | none =>
    refine Answers.of_onHw ho rfl ?_
    dsimp only
    rw [if_neg (dma_guard hp hb hi)]
    exact ⟨⟨rfl, rfl, rfl⟩, rfl, sfind_sset_same ..⟩
  | some k =>
    obtain ⟨hk, hlen, hr⟩ := hn k rfl
    obtain ⟨regs, banks, he⟩ := s.hw.portRefuse_frame port pa
    refine dmaRead_answers ho hp hk hlen hb hi ?_
    rw [if_neg (by rw [hr]; decide), he]
    exact ⟨⟨rfl, rfl, rfl⟩, rfl, sfind_sset_same ..⟩

/-- A DMA write within a line, that is no interrupt message, is one part. -/
theorem dmaWrite_answers {port : Nat} {rid : BitVec 16} {pa : Word} {bs : Bytes} {poison : Bool} {s : State} {P : State → Prop}
    (ho : s.hw.off = false) (hp : port < 8) (hne : bs ≠ []) (hlen : pa.toNat % 64 + bs.length ≤ 64)
    (hmsg : s.hw.msgAddr pa = false ∨ bs.length ≠ 4) (hb : s.hw.portBusy port 1 = false) (hi : s.hw.ingressFull port rid false pa = false)
    (hP : P { s with hw := if s.hw.portReaches pa then s.hw.portRequest port rid pa (.write (lineWrite pa bs.length (vput 0 0 bs) poison .wb))
      else s.hw.portRefuse port pa }) : Answers (.dmaWrite port rid pa bs poison) s P := by
  have hpos : 0 < bs.length := List.length_pos_iff.2 hne
  have hg : ¬(8 ≤ port ∨ 512 < bs.length ∨ s.hw.portBusy port 1 = true ∨ s.hw.ingressFull port rid false pa = true) := by
    simp [hb, hi, hp]
    omega
  have hm : ¬(s.hw.msgAddr pa = true ∧ bs.length = 4) := by
    rcases hmsg with h | h <;> simp [h]
  have hbytes : (bs.drop (pa - pa).toNat).take bs.length = bs := by simp
  refine Answers.of_onHw ho rfl ?_
  rw [if_neg hg, if_neg hm, lineParts_one hpos hlen]
  simp only [List.foldl_cons, List.foldl_nil, hbytes]
  exact hP

/-! ### Accesses of PCIe space, latencies and slots (R352, R353, R374, R393) -/

theorem Hw.mmioOf_single {h : Hw} {r : MmioRd} (e : h.mmio = [r]) : h.mmioOf r.port r.id = some r := by
  simp [Hw.mmioOf, e]

/-- An access of PCIe space that a thread waits for ends: its answer leaves for the thread's chamber. -/
theorem Hw.answerCore_thread {h : Hw} {src t : Nat} {who : Waiter} {pa : Word} {v : Vec} {err : Nat} (hw : who.thread = some t) :
    ∃ vc, h.answerCore src false who pa v err = h.send vc src (chamberStop (t / 16)) (.coreAns who pa v err) := by
  unfold Hw.answerCore
  rw [hw]
  exact ⟨_, rfl⟩

/-- The event bit is set, and no other changes. -/
theorem Hw.event_bit (h : Hw) (a : Nat) {b i : Nat} (hi : i < 64) :
    Word.bit ((h.event a b).reg a) i = (Word.bit (h.reg a) i || decide (i = b)) := by
  unfold Hw.event
  rw [Hw.reg_setReg_same]
  unfold Word.bit w64
  rw [BitVec.getLsbD_or, BitVec.getLsbD_ofNat, Nat.testBit_two_pow]
  simp [hi, eq_comm]

/-- The accesses of PCIe space of a port without one that has ended. -/
theorem Hw.mmioEnd_single {h : Hw} {r : MmioRd} (e : h.mmio = [r]) (v : Option Vec) :
    h.mmioEnd r.port r.id v =
      let g : Hw := { h with mmio := [] }
      if r.wr then g.answerCore (portStop r.port) false r.who r.pa 0 0
      else match v with
        | some v => g.answerCore (portStop r.port) false r.who r.pa v 0
        | none => (g.answerCore (portStop r.port) false r.who r.pa 0 1).event (linkReg r.port 0x10) 2 := by
  have hnone : h.mmio.filter (fun x => !(x.port == r.port && x.id == r.id)) = [] := by simp [e]
  unfold Hw.mmioEnd
  rw [Hw.mmioOf_single e]
  dsimp only
  rw [hnone] <;> rfl

/-- What a thread is told of its access of PCIe space, with that access forgotten. -/
theorem mmio_told {s : State} {src t : Nat} {who : Waiter} {pa : Word} {v : Vec} {err : Nat} (hw : who.thread = some t) (b : Option (Nat × Nat)) :
    let g := Hw.answerCore { s.hw with mmio := [] } src false who pa v err
    let u : State := { s with hw := match b with | some b => g.event b.1 b.2 | none => g }
    (u.mem = s.mem ∧ u.hw.newest = s.hw.newest ∧ u.hw.threads = s.hw.threads) ∧ u.hw.mmio = [] ∧
      Sends (.coreAns who pa v err) src (chamberStop (t / 16)) s u := by
  obtain ⟨vc, hs⟩ := Hw.answerCore_thread (h := { s.hw with mmio := [] }) (src := src) (pa := pa) (v := v) (err := err) hw
  have hsends := Hw.send_sends (s := s) (h := { s.hw with mmio := [] }) (vc := vc) (src := src) (dst := chamberStop (t / 16))
    (p := .coreAns who pa v err) rfl
  dsimp only
  rw [hs]
  cases b with
  | none => exact ⟨⟨rfl, rfl, rfl⟩, rfl, hsends⟩
  | some b => exact ⟨⟨rfl, rfl, rfl⟩, rfl, hsends⟩

/-- Accesses of PCIe space at a root port end with what came, or as all ones with a record where nothing came (R352). -/
theorem mmio_ends {port id t : Nat} {who : Waiter} {at_ : Word} {wr : Bool} {s : State} (v : Vec) (ho : s.hw.off = false)
    (hw : who.thread = some t) (hm : s.hw.mmio = [⟨port, id, who, at_, wr⟩]) :
    let told := fun (v : Vec) (err : Nat) (u : State) => (u.mem = s.mem ∧ u.hw.newest = s.hw.newest ∧ u.hw.threads = s.hw.threads) ∧
      u.hw.mmio = [] ∧ Sends (.coreAns who at_ v err) (portStop port) (chamberStop (t / 16)) s u
    (Answers (.mmioCompletion port id true v) s (told (if wr then 0 else v) 0)) ∧
    (wr = false → Answers (.mmioCompletion port id false v) s (told 0 1) ∧ Answers (.mmioCompletionTimeout port id) s fun u => told 0 1 u ∧
      Word.bit (u.hw.reg (linkReg port 0x10)) 2 = true) := by
  intro told
  have hend := Hw.mmioEnd_single hm
  have hone := Hw.mmioOf_single hm
  refine ⟨Answers.of_onHw ho rfl ?_, fun hwr => ?_⟩
  · rw [if_pos rfl, hend]
    cases wr with
    | false => exact mmio_told hw none
    | true => exact mmio_told hw none
  · subst hwr
    refine ⟨Answers.of_onHw ho rfl ?_, Answers.of_onHw ho rfl ?_⟩
    · rw [if_neg Bool.false_ne_true, hend]
      exact mmio_told hw (some (_, _))
    · rw [hone]
      dsimp only [Option.any_some]
      rw [if_pos (show (!false) = true from rfl), hend]
      refine ⟨mmio_told hw (some (_, _)), ?_⟩
      dsimp only
      rw [if_neg Bool.false_ne_true, Hw.event_bit _ _ (by decide)]
      simp

/-- The smaller latency is kept, and a change is an event (R353, R374). -/
theorem ltrMessage_answers {port j : Nat} {a b : BitVec 32} {s : State} (ho : s.hw.off = false) (hp : port < 8) (hj : j < 16)
    (hu : s.hw.linkUp port j = true) :
    Answers (.ltrMessage port j a b) s fun u => u.mem = s.mem ∧
      u.hw.reg (linkReg port (0x200 + 8 * j)) = w64 (min a.toNat b.toNat) ∧
      Word.bit (u.hw.reg (linkReg port 0x10)) 1 = (Word.bit (s.hw.reg (linkReg port 0x10)) 1 ||
        decide (s.hw.reg (linkReg port (0x200 + 8 * j)) ≠ w64 (min a.toNat b.toNat))) := by
  have hne : linkReg port (0x200 + 8 * j) ≠ linkReg port 0x10 := by unfold linkReg; omega
  refine Answers.of_onHw ho rfl ?_
  have hg : ¬(8 ≤ port ∨ 16 ≤ j ∨ (!s.hw.linkUp port j) = true) := by simp [hu, hp, hj]
  rw [if_neg hg]
  unfold Hw.setLtr
  dsimp only
  by_cases h : s.hw.reg (linkReg port (0x200 + 8 * j)) = w64 (min a.toNat b.toNat)
  · rw [if_pos h]
    exact ⟨rfl, h, by simp [h]⟩
  · rw [if_neg h]
    refine ⟨rfl, ?_, ?_⟩
    · unfold Hw.event
      rw [Hw.reg_setReg_ne _ hne, Hw.reg_setReg_same]
    · rw [Hw.event_bit _ _ (by decide), Hw.reg_setReg_ne _ (Ne.symm hne)]
      simp [h]

/-- The reservations of a requester ID below a port are revoked, and those of no other (R393). -/
theorem functionLevelReset_answers {port i : Nat} {rid : BitVec 16} {r : Resv} {s : State} (ho : s.hw.off = false) (hp : port < 8)
    (hr : s.hw.resvs = [(i, r)]) (hlive : r.live = true) (hret : r.retire = false) (hk : resvKind r.words = 2)
    (hport : Word.fld (wd r.words 1) 2 0 = port) :
    (resvBind r.words = rid.toNat → Answers (.functionLevelReset port rid) s fun u => u.mem = s.mem ∧
      u.hw.resvs = [(i, { r with live := false, charges := [], tok := [] })]) ∧
    (resvBind r.words ≠ rid.toNat → Answers (.functionLevelReset port rid) s fun u => u = s) := by
  refine ⟨fun hb => Answers.of_onHw ho rfl ?_, fun hb => Answers.of_onHw ho rfl ?_⟩ <;> rw [if_neg (Nat.not_le.2 hp)] <;>
    unfold Hw.revokeFunc Hw.revokeAll <;> dsimp only <;> rw [hr]
  · have hhit : [(i, r)].filter (fun x => x.2.live && (resvKind x.2.words == 2 && Word.fld (wd x.2.words 1) 2 0 == port &&
        (resvBind x.2.words == rid.toNat))) = [(i, r)] := by simp [hlive, hk, hport, hb]
    rw [hhit, List.mergeSort_singleton, List.foldl_cons, List.foldl_nil]
    have hfind : sfind i s.hw.resvs = some r := by simp [hr, sfind]
    unfold Hw.revoke
    rw [hfind]
    dsimp only
    obtain ⟨regs, banks, he⟩ := Hw.incident_frame
      (Hw.admStat { s.hw with resvs := sset i { r with live := false, charges := [], tok := [] } s.hw.resvs }) 0x53 0 0
        (w64 (r.gen * 2 ^ 12 + i)) (blockId 6 0) false
    rw [if_neg (by simp [hlive, hret]), he]
    refine ⟨rfl, ?_⟩
    show sset i _ s.hw.resvs = _
    rw [hr]
    simp [sset]
  · have hhit : [(i, r)].filter (fun x => x.2.live && (resvKind x.2.words == 2 && Word.fld (wd x.2.words 1) 2 0 == port &&
        (resvBind x.2.words == rid.toNat))) = [] := by simp [hb]
    rw [hhit, List.mergeSort_nil]
    rfl

/-- The bit of a slot's status that an event sets (R374). -/
theorem slotBit_set (n e : Nat) : (if n / 2 ^ e % 2 = 1 then n else n + 2 ^ e) / 2 ^ e % 2 = 1 := by
  split
  · assumption
  · rw [Nat.add_div_right _ (by positivity)]
    omega

theorem hotplug_answers {port event : Nat} {s : State} (ho : s.hw.off = false) (hp : port < 8) (he : event < 16) (h5 : event ≠ 5) :
    Answers (.hotplugSlotEvent port event) s fun u => u.mem = s.mem ∧
      sget 0 port u.hw.slotStat / 2 ^ event % 2 = 1 ∧ Word.bit (u.hw.reg (linkReg port 0x10)) 5 = true := by
  refine Answers.of_onHw ho rfl ?_
  rw [if_neg (by omega)]
  dsimp only
  rw [if_neg h5]
  refine ⟨rfl, ?_, ?_⟩
  · simp only [Hw.event, Hw.setReg_slotStat, sget_supd_same]
    exact slotBit_set ..
  · rw [Hw.event_bit _ _ (by decide)]
    simp

end Sys2Proof.Machine

namespace Sys2Proof.Machine

open Sys2Proof.Safety Sys2Proof.Claims

/-! ### O43 -/

/-- Reads of a port at their slice. -/
theorem portAtSlices_read {sl k off len : Nat} {r : SReq} {s : State} (ho : s.hw.off = false) (hsrc : r.src = .port k)
    (hk : r.kind = .read off len) (hf : r.fetch = false) :
    portAtSlices sl r s (fun v => .cpl k ⟨0, s.hw.poisoned r.line, vbytes v off len⟩) (portStop k) := by
  intro hr
  refine ⟨fun off' len' hk' hj hv => ?_, fun pa len' d bad hk' => ?_⟩
  · rw [hk] at hk'
    obtain ⟨rfl, rfl⟩ := ReqKind.read.inj hk'
    exact readShared_port ho hr hsrc hk hf hj hv
  · rw [hk] at hk'
    cases hk'

/-- Writes of a port at their slice. -/
theorem portAtSlices_write {sl k : Nat} {r : SReq} {s : State} {o : LineOp} (got : Vec → Payload) (ho : s.hw.off = false)
    (hsrc : r.src = .port k) (hk : r.kind = .write o) (hf : r.fetch = false) : portAtSlices sl r s got (portStop k) := by
  intro hr
  refine ⟨fun off len hk' => ?_, fun pa len d bad hk' hj hv hfree hlen => ?_⟩
  · rw [hk] at hk'
    cases hk'
  · exact readUnique_port ho hr hsrc hk' hf hj hv hfree hlen

/-- Settles O43: one lemma per kind of traffic. -/
theorem rootPortTraffic : Obligations.RootPortTraffic := by
  intro port rid pa s ho hp h l sl same req takes leaves
  refine ⟨fun n hn hlen ht hr hm hc => ?_, fun n hn ht => dmaRead_unsupported ho hp hn ht.1 ht.2, fun bs poison hne hlen hmsg => ⟨?_, ?_⟩,
    fun off len => ⟨portAtSlices_read ho rfl rfl rfl, fun hr hj => readShared_port_refused ho hr rfl rfl rfl hj⟩,
    fun o => portAtSlices_write _ ho rfl rfl rfl, fun id t off at_ wr v hm => mmio_ends v ho (by cases wr <;> rfl) hm,
    fun j a b hj hu => ltrMessage_answers ho hp hj hu, fun i r hr hlive hret hk hport => functionLevelReset_answers ho hp hr hlive hret hk hport,
    fun event he h5 => hotplug_answers ho hp he h5⟩
  · refine dmaRead_answers ho hp hn hlen ht.1 ht.2 ?_
    rw [if_pos hr]
    exact portRequest_leaves rfl rfl hm hc ht.1
  · intro ht hr hm hc
    refine dmaWrite_answers ho hp hne hlen hmsg ht.1 ht.2 ?_
    rw [if_pos hr]
    exact portRequest_leaves rfl rfl hm hc ht.1
  · intro ht hr
    refine dmaWrite_answers ho hp hne hlen hmsg ht.1 ht.2 ?_
    obtain ⟨regs, banks, he⟩ := s.hw.portRefuse_frame port pa
    rw [if_neg (by rw [hr]; decide), he]
    exact ⟨⟨rfl, rfl, rfl⟩, rfl⟩

end Sys2Proof.Machine

namespace Sys2Proof.Machine

open Sys2Proof.Safety Sys2Proof.Claims

/-! ### The one message of the mesh leaves it (R237, R288) -/

theorem forN_fixed {α : Type} {f : Nat → α → α} {a : α} (hf : ∀ i, f i a = a) (lo n : Nat) : forN lo n f a = a := by
  induction n generalizing lo with
  | zero => rfl
  | succ n ih => rw [forN, hf, ih]

theorem findSome?_unique {α β : Type} {g : α → Option β} {l : List α} {b : β} (hu : ∀ x ∈ l, g x = some b ∨ g x = none)
    (he : ∃ x ∈ l, g x = some b) : l.findSome? g = some b := by
  induction l with
  | nil => obtain ⟨x, hx, -⟩ := he; cases hx
  | cons y r ih =>
    rw [List.findSome?_cons]
    rcases hu y List.mem_cons_self with h | h <;> rw [h]
    refine ih (fun x hx => hu x (List.mem_cons_of_mem _ hx)) ?_
    obtain ⟨x, hx, hg⟩ := he
    rcases List.mem_cons.1 hx with rfl | hx
    · rw [h] at hg; cases hg
    · exact ⟨x, hx, hg⟩

/-- One head is the candidate of its own input alone. -/
theorem candidate_single (f : Flit) (i : Nat) : candidate [f] i = if f.inp = i then some f else none := by
  unfold candidate
  by_cases h : f.inp = i <;> simp [h]

theorem candidates_single (f : Flit) : (List.range 5).filterMap (candidate [f]) = [f] := by
  have hlt : f.inp < 5 := by unfold Flit.inp; omega
  simp only [List.range, List.range.loop, List.filterMap_cons, List.filterMap_nil, candidate_single]
  generalize f.inp = k at hlt
  interval_cases k <;> rfl

/-- One candidate wins (R288). -/
theorem pickInput_single (f : Flit) (last : Nat) : pickInput [f] last = some f := by
  have hlt : f.inp < 5 := by unfold Flit.inp; omega
  unfold pickInput
  by_cases ha : f.aged = true
  · simp [ha]
  · simp only [List.filter_cons, ha, List.filter_nil, Bool.false_eq_true, if_false]
    refine findSome?_unique (fun i _ => ?_) ⟨f.inp, ?_, by simp⟩
    · by_cases h : f.inp = i <;> simp [h]
    · rw [List.mem_map]
      exact ⟨(f.inp + 4 * (last + 1)) % 5, List.mem_range.2 (Nat.mod_lt _ (by decide)), by omega⟩

/-- The heads where one message stands that moves over the link. -/
theorem Hw.heads_single {h : Hw} {f : Flit} {dir : Nat} (hf : h.flits = [f]) (hin : f.input < 6) (hd : (nextMove f.at_ f.dst).1 = dir)
    (hroom : h.roomFor f = true) (vc : Nat) : h.heads f.at_ dir vc = if f.vc = vc then [f] else [] := by
  have hne : f.input ≠ 9 := by omega
  have hhead : isHead [f] f = true := by simp [isHead]
  unfold Hw.heads
  rw [hf]
  by_cases hv : f.vc = vc <;> simp [hv, hne, hd, hhead, hroom]

/-- The one message of the mesh wins its link (R288). -/
theorem Hw.arbitrate_single {h : Hw} {f : Flit} {dir : Nat} (hf : h.flits = [f]) (hvc : f.vc < 4) (hin : f.input < 6)
    (hd : (nextMove f.at_ f.dst).1 = dir) (hroom : h.roomFor f = true) : h.arbitrate f.at_ dir = some f := by
  have hheads := Hw.heads_single hf hin hd hroom
  have hcream (vc : Nat) (h4 : 4 ≤ vc) : (h.heads f.at_ dir vc).head? = none := by
    rw [hheads, if_neg (by omega)]
    rfl
  unfold Hw.arbitrate
  extract_lets cream others
  have hc : cream.findSome? (fun vc => (h.heads f.at_ dir vc).head?) = none := by
    unfold cream
    split <;> simp [hcream vcCdata (by decide), hcream vcCreq (by decide)]
  rw [hc, ite_self, Option.none_or]
  refine findSome?_unique (fun vc _ => ?_) ⟨f.vc, ?_, ?_⟩
  · dsimp only
    rw [hheads]
    split
    · rw [candidates_single, pickInput_single]; exact .inl rfl
    · exact .inr (by simp [candidate, pickInput])
  · unfold others
    rw [List.mem_map]
    exact ⟨(f.vc + 3 * (sget 0 (ptrKey f.at_ dir 0) h.rrPtr + 1)) % 4, List.mem_range.2 (Nat.mod_lt _ (by decide)), by omega⟩
  · dsimp only
    rw [hheads, if_pos rfl, candidates_single, pickInput_single]

/-- No message of the mesh waits for admission where none stands before its stop. -/
theorem Hw.takeInAll_none {h : Hw} (hn : ∀ f ∈ h.flits, f.input ≠ 9) (node : Nat) : h.takeInAll node = h := by
  refine forN_fixed (fun vc => ?_) 0 6
  have hready (a : Nat) : (h.flits.find? fun f => f.at_ == node && f.vc == vc && f.input == 9 && f.payload.agent == a) = none := by
    rw [List.find?_eq_none]
    intro f hf
    simp [hn f hf]
  unfold Hw.takeIn
  extract_lets q last ready
  split
  · rfl
  · have hnone : [(last + 1) % 3, (last + 2) % 3, last % 3].findSome? ready = none := by
      simp [ready, hready]
    rw [hnone]

/-- A message that wins raises no mark of its own (R290). -/
theorem Hw.starve_single {h : Hw} {f : Flit} (hf : h.flits = [f]) (node dir : Nat) : h.starve node dir (some f) = h := by
  refine forN_fixed (fun vc => ?_) 0 4
  rw [hf]
  simp

/-- Marks that drop change the throttle alone (R290). -/
theorem Hw.dropMarks_eq (h : Hw) : ∃ th, h.dropMarks = { h with throttle := th } := by
  have hstep (n lo : Nat) (h : Hw) : ∃ th, forN lo n (fun vc h =>
      if sget 0 vc h.throttle = 1 ∧ !h.flits.any fun f => f.vc == vc && f.aged then { h with throttle := sset vc 2 h.throttle } else h) h =
        { h with throttle := th } := by
    induction n generalizing lo h with
    | zero => exact ⟨h.throttle, rfl⟩
    | succ n ih =>
      rw [forN]
      split
      · obtain ⟨th, e⟩ := ih (lo + 1) { h with throttle := sset lo 2 h.throttle }
        exact ⟨th, e⟩
      · exact ih (lo + 1) h
  exact hstep 4 0 h

/-- The mesh once its one message has left it; the pointers of arbitration are as they then stand. -/
def Hw.meshEmptied (h : Hw) (rr : SMap Nat) : Hw := { h with flits := [], rrPtr := rr }

/-! What the router and the slices read does not stand in the mesh. -/

@[simp] theorem Hw.meshEmptied_remapAddr (h : Hw) (rr : SMap Nat) (sec : Bool) (n : Nat) : (h.meshEmptied rr).remapAddr sec n = h.remapAddr sec n := rfl
@[simp] theorem Hw.meshEmptied_ownMem (h : Hw) (rr : SMap Nat) (pa : Word) : (h.meshEmptied rr).ownMem pa = h.ownMem pa := rfl
@[simp] theorem Hw.meshEmptied_homePos (h : Hw) (rr : SMap Nat) (l : Nat) : (h.meshEmptied rr).homePos l = h.homePos l := rfl
@[simp] theorem Hw.meshEmptied_hasCredit (h : Hw) (rr : SMap Nat) (a b c : Nat) : (h.meshEmptied rr).hasCredit a b c = h.hasCredit a b c := rfl
@[simp] theorem Hw.meshEmptied_regF (h : Hw) (rr : SMap Nat) (a b c : Nat) : (h.meshEmptied rr).regF a b c = h.regF a b c := rfl
@[simp] theorem Hw.meshEmptied_msgSecure (h : Hw) (rr : SMap Nat) (o : Origin) : (h.meshEmptied rr).msgSecure o = h.msgSecure o := by cases o <;> rfl
@[simp] theorem Hw.meshEmptied_router (h : Hw) (rr : SMap Nat) : (h.meshEmptied rr).router = h.router := rfl

/-- The one message of the mesh, at the end of its way and for no chamber's queue, is taken by whom it is for (R237, R288). -/
theorem flitHop_delivers {f : Flit} {s : State} {P : State → Prop} (ho : s.hw.off = false) (hf : s.hw.flits = [f]) (hvc : f.vc < 4)
    (hin : f.input < 6) (hat : f.at_ < 160) (hrun : s.hw.meshRuns = true) (hd : (nextMove f.at_ f.dst).1 = 5)
    (hroom : s.hw.ejectRoom f = true) (hch : f.payload.toChamber = none)
    (hP : ∀ rr th, P { s with
      mem := (deliver f.payload (s.mem, s.hw.meshEmptied rr)).1
      hw := { (deliver f.payload (s.mem, s.hw.meshEmptied rr)).2 with throttle := th } }) :
    Answers (.flitHop f.at_ 5) s P := by
  have hne : ∀ g ∈ s.hw.flits, g.input ≠ 9 := by
    rw [hf]
    intro g hg
    rw [List.mem_singleton.1 hg]
    omega
  have hwon : s.hw.arbitrate f.at_ 5 = some f := Hw.arbitrate_single hf hvc hin hd (by simp [Hw.roomFor, hd, hroom])
  obtain ⟨rr, hgr⟩ : ∃ rr, { s.hw.granted f.at_ 5 f with flits := s.hw.flits.filter fun g => g.id != f.id } = s.hw.meshEmptied rr := by
    refine ⟨(s.hw.granted f.at_ 5 f).rrPtr, ?_⟩
    have hnone : s.hw.flits.filter (fun g => g.id != f.id) = [] := by simp [hf]
    rw [hnone]
    simp [Hw.granted, Hw.meshEmptied, Nat.not_le.2 hvc]
  obtain ⟨th, hth⟩ := Hw.dropMarks_eq (deliver f.payload (s.mem, s.hw.meshEmptied rr)).2
  have hhop : hop f.at_ 5 (s.mem, s.hw) = ((deliver f.payload (s.mem, s.hw.meshEmptied rr)).1,
      { (deliver f.payload (s.mem, s.hw.meshEmptied rr)).2 with throttle := th }) := by
    unfold hop
    simp only [Hw.takeInAll_none hne, hwon, Hw.starve_single hf, hgr, if_true]
    unfold eject
    rw [hch]
    dsimp only
    rw [hth]
  refine ⟨_, (State.onAll_run ho _), ?_⟩
  have hcond : f.at_ < 160 ∧ 5 < 7 ∧ s.hw.meshRuns = true := ⟨hat, by decide, hrun⟩
  rw [if_pos hcond, hhop]
  exact hP rr th

end Sys2Proof.Machine

namespace Sys2Proof.Machine

open Sys2Proof.Safety Sys2Proof.Claims

/-! ### Remap entries (R381) -/

theorem w64_toNat {n : Nat} (h : n < 2 ^ 64) : (w64 n).toNat = n := by
  unfold w64
  rw [BitVec.toNat_ofNat, Nat.mod_eq_of_lt h]

theorem Word.bit_eq (w : Word) (i : Nat) : Word.bit w i = decide (w.toNat / 2 ^ i % 2 = 1) := by
  unfold Word.bit
  rw [BitVec.getLsbD, Nat.testBit_eq_decide_div_mod_eq]

/-- The physical entry of a level and a vector, as a number. -/
def physWord (lvl vec : Nat) : Nat := 2 ^ 63 + lvl * 2 ^ 60 + vec

theorem physWord_toNat {lvl vec : Nat} (hl : lvl = 1 ∨ lvl = 2) (hv : vec < 4096) : (w64 (physWord lvl vec)).toNat = physWord lvl vec := by
  refine w64_toNat ?_
  unfold physWord
  rcases hl with rfl | rfl <;> omega

/-- The fields of a physical entry that delivers at a level (R381). -/
theorem physWord_fields {lvl vec : Nat} (hl : lvl = 1 ∨ lvl = 2) (hv : vec < 4096) :
    let e := w64 (physWord lvl vec)
    Word.bit e 63 = true ∧ Word.bit e 62 = false ∧ Word.fld e 61 60 = lvl ∧ Word.bit e 59 = false ∧ Word.fld e 58 57 = 0 ∧
      Word.fld e 53 48 = 0 ∧ Word.fld e 31 12 = 0 ∧ Word.fld e 11 0 = vec := by
  intro e
  have he : e.toNat = physWord lvl vec := physWord_toNat hl hv
  unfold Word.fld fld
  simp only [Word.bit_eq, he, physWord, decide_eq_true_eq, decide_eq_false_iff_not]
  rcases hl with rfl | rfl <;> norm_num <;> omega

/-- The virtual entry of a vector, as a number. -/
def virtWord (vec : Nat) : Nat := 2 ^ 63 + 2 ^ 62 + vec

theorem virtWord_fields {vec : Nat} (hv : vec < 256) :
    let e := w64 (virtWord vec)
    Word.bit e 63 = true ∧ Word.bit e 62 = true ∧ Word.fld e 61 60 = 0 ∧ Word.bit e 59 = false ∧ Word.fld e 58 57 = 0 ∧
      Word.fld e 53 48 = 0 ∧ Word.fld e 31 12 = 0 ∧ Word.fld e 11 8 = 0 ∧ Word.fld e 7 0 = vec := by
  intro e
  have he : e.toNat = virtWord vec := w64_toNat (by unfold virtWord; omega)
  unfold Word.fld fld
  simp only [Word.bit_eq, he, virtWord, decide_eq_true_eq, decide_eq_false_iff_not]
  norm_num
  omega

theorem threadWord_fields {t : Nat} (ht : t < numThreads) : (w64 t).toNat = t ∧ Word.fld (w64 t) 10 0 = t := by
  have hlt : t < 2048 := by unfold numThreads at ht; omega
  have he : (w64 t).toNat = t := w64_toNat (by omega)
  refine ⟨he, ?_⟩
  unfold Word.fld fld
  rw [he]
  norm_num
  omega

theorem remapBad_phys {o : Origin} {lvl vec t : Nat} (hl : lvl = 1 ∨ lvl = 2) (hv : vec < 4096) (ht : t < numThreads) :
    remapBad false o (w64 (physWord lvl vec)) (w64 t) = false := by
  obtain ⟨h63, h62, h61, h59, h58, h53, h31, -⟩ := physWord_fields hl hv
  obtain ⟨he, h10⟩ := threadWord_fields ht
  have hdiv : t / 2 ^ 11 = 0 := by unfold numThreads at ht; omega
  unfold remapBad
  simp only [h63, h62, h61, h59, h58, h53, h31, he, h10, hdiv, Nat.not_le.2 ht]
  rcases hl with rfl | rfl <;> rfl

theorem remapBad_virt {o : Origin} {vec : Nat} {pid : Word} (hv : vec < 256) (hp : Word.fld pid 5 0 = 0) :
    remapBad false o (w64 (virtWord vec)) pid = false := by
  obtain ⟨h63, h62, h61, h59, h58, h53, h31, h11, -⟩ := virtWord_fields hv
  unfold remapBad
  simp only [h63, h62, h61, h59, h58, h53, h31, h11, hp]
  rfl

/-! ### Messages at the router (R375, R379, R381, R385) -/

/-- A dropped message is counted, beside its record. -/
theorem Hw.dropMsg_frame (h : Hw) (id : Nat) (addr : Word) :
    ∃ regs banks, h.dropMsg id addr = { h with regs := regs, banks := banks } ∧
      (h.dropMsg id addr).reg (routerReg 0x100018) = h.reg (routerReg 0x100018) + 1 := by
  obtain ⟨regs, banks, he⟩ := (h.bump (routerReg 0x100018) 1).incident_frame 0x52 id addr 0 (blockId 5 0) false
  refine ⟨regs, banks, he, ?_⟩
  unfold Hw.dropMsg
  rw [Hw.incident_reg _ _ _ _ _ _ _ (by decide)]
  exact Hw.reg_setReg_same ..

/-- A record enters an empty inbox. -/
theorem Hw.inboxPut_empty {h : Hw} {t box : Nat} {r : IntRec} (hq : (inbox h t box).queued = []) (spill : Bool) :
    (h.inboxPut t box r spill).1 =
      h.updThread t fun x => { x with inbox := sset box { inbox h t box with queued := [r] } x.inbox } := by
  have hq' : (sget Inbox.empty box (h.thread t).inbox).queued = [] := hq
  unfold Hw.inboxPut
  simp only [hq', List.any_nil, Bool.false_eq_true, if_false, List.length_nil, List.nil_append]
  rfl

/-- A record that enters an empty inbox stands there; nothing else of any thread changes. -/
theorem queues_of_inboxPut {t box : Nat} {r : IntRec} {s u : State} (hq : (inbox s.hw t box).queued = []) (hm : u.mem = s.mem)
    (ht : ∀ k, u.hw.thread k = ((s.hw.updThread t fun x => { x with inbox := sset box { inbox s.hw t box with queued := [r] } x.inbox }).thread k)) :
    Queues t box r s u := by
  refine ⟨hm, ?_, fun b hb => ?_, fun k hk => ?_, ?_⟩
  · unfold inbox at hq ⊢
    rw [ht, Hw.thread_updThread_same, sget_sset_same, hq]
    rfl
  · unfold inbox
    rw [ht, Hw.thread_updThread_same, sget_sset_ne _ hb]
  · rw [ht, Hw.thread_updThread_ne _ _ _ hk]
  · rw [ht, Hw.thread_updThread_same]

/-- A message of a device with a valid physical entry is a record in the inbox of its level. -/
theorem Hw.deliverMsg_phys {h : Hw} {o : Origin} {n lvl vec t : Nat} (hs : h.msgSecure o = false) (hl : lvl = 1 ∨ lvl = 2) (hv : vec < 4096)
    (ht : t < numThreads) :
    h.deliverMsg o n (w64 (physWord lvl vec)) (w64 t) = (h.inboxPut t (2 * (lvl - 1)) ⟨true, n, vec, 0, false⟩ true).1 := by
  obtain ⟨-, h62, h61, h59, -, -, -, h11⟩ := physWord_fields hl hv
  obtain ⟨-, h10⟩ := threadWord_fields ht
  have hbox : boxOf lvl false = 2 * (lvl - 1) := by rcases hl with rfl | rfl <;> rfl
  unfold Hw.deliverMsg
  simp only [hs, remapBad_phys hl hv ht, h62, h61, h59, h11, h10, hbox, Bool.false_eq_true, if_false]

/-- A request of the router on memory of this node leaves for the slice of its line, once a credit is free and no request waits for one. -/
theorem Hw.domReq_router {h : Hw} {n : Nat} {k : ReqKind} {acc : Acc} {pa : Word} (hk : ∀ o, k ≠ .write o) (hm : h.ownMem pa = true)
    (hp : h.posts = []) (hc : h.hasCredit 2 8 (sliceOf (lineNo pa)) = true) :
    h.domReq (.router n) k acc pa = some ((h.useCredit 2 8 (sliceOf (lineNo pa))).send vcReq (blockStop .router) (chamberStop (sliceOf (lineNo pa)))
      (.req (sliceOf (lineNo pa)) ⟨k, lineNo pa, .router n, acc, false, 16, false, h.homePos (lineNo pa)⟩)) := by
  have hpost : h.domReq (.router n) k acc pa =
      some (h.postReq (sliceOf (lineNo pa)) ⟨k, lineNo pa, .router n, acc, false, 16, false, h.homePos (lineNo pa)⟩) := by
    unfold Hw.ownMem at hm
    unfold Hw.domReq
    split at hm
    · next e => rw [e]
    · next e => rw [e]
    · next e => rw [e]
    · cases hm
  rw [hpost]
  congr 1
  unfold Hw.postReq
  cases k with
  | write o => exact absurd rfl (hk o)
  | _ => exact Hw.post_sends hc (by simp [hp])

/-- The remap table's entry of a normal message. -/
theorem remapKey_normal (n : Nat) : remapKey false n = n := rfl

theorem Hw.presentMsg_outside {h : Hw} {o : Origin} {n : Nat} (hs : h.msgSecure o = false)
    (hn : 2 ^ h.regF (routerReg 0x100000) 4 0 ≤ n) : h.presentMsg o n = h.dropMsg n onesW := by
  unfold Hw.presentMsg
  rw [hs]
  exact if_pos hn

theorem Hw.presentMsg_inside {h : Hw} {o : Origin} {n : Nat} (hs : h.msgSecure o = false)
    (hn : n < 2 ^ h.regF (routerReg 0x100000) 4 0) :
    h.presentMsg o n = match sfind n h.router.cache with
      | some e => h.deliverMsg o n e.1 e.2
      | none => h.lookMsg o n := by
  unfold Hw.presentMsg
  rw [hs]
  exact (if_neg (Nat.not_le.2 hn)).trans rfl

/-- A message of a device that has come to the router is presented there (R375). -/
theorem irq_takes {port n : Nat} {rid : BitVec 16} {f : Flit} {s : State} {P : State → Prop} (ho : s.hw.off = false)
    (ha : Arrived s.hw f (.irq (.device port rid) n))
    (hP : ∀ rr th, P { s with hw := { (s.hw.meshEmptied rr).presentMsg (.device port rid) n with throttle := th } }) :
    Answers (.flitHop f.at_ 5) s P := by
  obtain ⟨hf, hvc, hin, hat, hdst, hrun, hp⟩ := ha
  refine flitHop_delivers ho hf hvc hin hat hrun (by simp [nextMove, hdst]) (by simp [Hw.ejectRoom, hp, Payload.toChamber])
    (by rw [hp]; rfl) fun rr th => ?_
  rw [hp]
  exact hP rr th

/-- A request of the router for the slice of a line, on its way; what the router then holds is `r`. -/
def Hw.RouterAsks (h g : Hw) (k : ReqKind) (pa : Word) (r : Router) : Prop :=
  g.threads = h.threads ∧ g.router = r ∧ ∃ f ∈ g.flits, f.at_ = blockStop .router ∧ f.dst = chamberStop (sliceOf (lineNo pa)) ∧
    f.payload = .req (sliceOf (lineNo pa)) ⟨k, lineNo pa, .router h.router.nextPost, ⟨.s, false, 0⟩, false, 16, false, h.homePos (lineNo pa)⟩

theorem Hw.send_routerAsks {h g : Hw} {k : ReqKind} {pa : Word} (r : Router) (hg : g.threads = h.threads) (vc : Nat) :
    h.RouterAsks { g.send vc (blockStop .router) (chamberStop (sliceOf (lineNo pa)))
      (.req (sliceOf (lineNo pa)) ⟨k, lineNo pa, .router h.router.nextPost, ⟨.s, false, 0⟩, false, 16, false, h.homePos (lineNo pa)⟩) with
        router := r } k pa r :=
  ⟨hg, rfl, _, List.mem_append_right _ List.mem_cons_self, rfl, rfl, rfl⟩

/-- An entry that is not cached is read at home (R381). -/
theorem Hw.lookMsg_asks {h : Hw} {o : Origin} {n : Nat} (hs : h.msgSecure o = false) (hm : h.ownMem (h.remapAddr false n) = true)
    (hp : h.posts = []) (hc : h.hasCredit 2 8 (sliceOf (lineNo (h.remapAddr false n))) = true) :
    h.RouterAsks (h.lookMsg o n) (.read ((h.remapAddr false n).toNat % 64) 16) (h.remapAddr false n)
      { h.router with looking := h.router.looking ++ [⟨h.router.nextPost, o, n, none⟩], nextPost := h.router.nextPost + 1 } := by
  have hd := Hw.domReq_router (n := h.router.nextPost) (k := .read ((h.remapAddr false n).toNat % 64) 16) (acc := ⟨.s, false, 0⟩)
    (by intro o; exact ReqKind.noConfusion) hm hp hc
  unfold Hw.lookMsg
  simp only [hs, hm, if_true, hd, Option.isSome_some, Option.getD_some]
  exact Hw.send_routerAsks _ rfl _

/-- A valid virtual entry sends the far atomic on its descriptor (R385). -/
theorem Hw.deliverMsg_virt {h : Hw} {o : Origin} {n vec : Nat} {pid : Word} (hs : h.msgSecure o = false) (hv : vec < 256)
    (hpid : Word.fld pid 5 0 = 0) (hm : h.ownMem pid = true) (hp : h.posts = []) (hc : h.hasCredit 2 8 (sliceOf (lineNo pid)) = true) :
    h.RouterAsks (h.deliverMsg o n (w64 (virtWord vec)) pid) (.far (pidSet pid vec)) pid
      { h.router with posting := h.router.posting ++ [⟨h.router.nextPost, n, pid, vec, false, none⟩], nextPost := h.router.nextPost + 1 } := by
  obtain ⟨-, h62, -, -, -, -, -, -, h7⟩ := virtWord_fields hv
  have hd := Hw.domReq_router (n := h.router.nextPost) (k := .far (pidSet pid vec)) (acc := ⟨.s, false, 0⟩)
    (by intro o; exact ReqKind.noConfusion) hm hp hc
  unfold Hw.deliverMsg
  simp only [hs, remapBad_virt hv hpid, h62, h7, Bool.false_eq_true, if_false, if_true, hd, Option.isSome_some, Option.getD_some]
  exact Hw.send_routerAsks _ rfl _

end Sys2Proof.Machine

namespace Sys2Proof.Machine

open Sys2Proof.Safety Sys2Proof.Claims

/-! ### O44 -/

/-- A request that the router sends as it takes the mesh's one message. -/
theorem routerAsks_home {s : State} {g : Hw} {rr : SMap Nat} {k : ReqKind} {pa : Word} {r : Router}
    (ha : (s.hw.meshEmptied rr).RouterAsks g k pa r) (th : SMap Nat) :
    let u : State := { s with hw := { g with throttle := th } }
    u.mem = s.mem ∧ u.hw.threads = s.hw.threads ∧ u.hw.router = r ∧
      AsksHome (.router s.hw.router.nextPost) k ⟨.s, false, 0⟩ pa (blockStop .router) s u := by
  obtain ⟨ht, hr, f, hf, hat, hdst, hp⟩ := ha
  refine ⟨rfl, ht, hr, f, hf, hat, hdst, ?_⟩
  rw [hp, Hw.meshEmptied_homePos, Hw.meshEmptied_router]

/-- A message with an entry in the cache is delivered by it (R381). -/
theorem irq_cached {port n : Nat} {rid : BitVec 16} {e : Word × Word} {f : Flit} {s : State} {P : State → Prop} (ho : s.hw.off = false)
    (hs : s.hw.portSecure port = false) (ha : Arrived s.hw f (.irq (.device port rid) n)) (hn : n < 2 ^ s.hw.regF (routerReg 0x100000) 4 0)
    (hc : sfind n s.hw.router.cache = some e)
    (hP : ∀ rr th, P { s with hw := { (s.hw.meshEmptied rr).deliverMsg (.device port rid) n e.1 e.2 with throttle := th } }) :
    Answers (.flitHop f.at_ 5) s P := by
  refine irq_takes ho ha fun rr th => ?_
  have hs' : (s.hw.meshEmptied rr).msgSecure (.device port rid) = false := hs
  have hn' : n < 2 ^ (s.hw.meshEmptied rr).regF (routerReg 0x100000) 4 0 := hn
  have hc' : sfind n (s.hw.meshEmptied rr).router.cache = some e := hc
  rw [Hw.presentMsg_inside hs' hn', hc']
  exact hP rr th

/-- A message without one has its entry looked up (R381). -/
theorem irq_uncached {port n : Nat} {rid : BitVec 16} {f : Flit} {s : State} {P : State → Prop} (ho : s.hw.off = false)
    (hs : s.hw.portSecure port = false) (ha : Arrived s.hw f (.irq (.device port rid) n)) (hn : n < 2 ^ s.hw.regF (routerReg 0x100000) 4 0)
    (hc : sfind n s.hw.router.cache = none)
    (hP : ∀ rr th, P { s with hw := { (s.hw.meshEmptied rr).lookMsg (.device port rid) n with throttle := th } }) :
    Answers (.flitHop f.at_ 5) s P := by
  refine irq_takes ho ha fun rr th => ?_
  have hs' : (s.hw.meshEmptied rr).msgSecure (.device port rid) = false := hs
  have hn' : n < 2 ^ (s.hw.meshEmptied rr).regF (routerReg 0x100000) 4 0 := hn
  have hc' : sfind n (s.hw.meshEmptied rr).router.cache = none := hc
  rw [Hw.presentMsg_inside hs' hn', hc']
  exact hP rr th

/-- An ID outside the table is dropped, and counted (R375, R381). -/
theorem irq_outside {port n : Nat} {rid : BitVec 16} {f : Flit} {s : State} (ho : s.hw.off = false) (hs : s.hw.portSecure port = false)
    (ha : Arrived s.hw f (.irq (.device port rid) n)) (hn : 2 ^ s.hw.regF (routerReg 0x100000) 4 0 ≤ n) :
    Answers (.flitHop f.at_ 5) s fun u => u.mem = s.mem ∧ u.hw.threads = s.hw.threads ∧ u.hw.router = s.hw.router ∧
      u.hw.reg (routerReg 0x100018) = s.hw.reg (routerReg 0x100018) + 1 := by
  refine irq_takes ho ha fun rr th => ?_
  obtain ⟨regs, banks, he, hreg⟩ := (s.hw.meshEmptied rr).dropMsg_frame n onesW
  rw [Hw.presentMsg_outside (h := s.hw.meshEmptied rr) (o := .device port rid) hs hn]
  rw [he] at hreg ⊢
  exact ⟨rfl, rfl, rfl, hreg⟩

/-- A message whose entry is not cached has it read at home (R381). -/
theorem irq_looks {port n : Nat} {rid : BitVec 16} {f : Flit} {s : State} (ho : s.hw.off = false) (hs : s.hw.portSecure port = false)
    (ha : Arrived s.hw f (.irq (.device port rid) n)) (hn : n < 2 ^ s.hw.regF (routerReg 0x100000) 4 0) (hc : sfind n s.hw.router.cache = none)
    (hm : s.hw.ownMem (s.hw.remapAddr false n) = true) (hp : s.hw.posts = [])
    (hcr : s.hw.hasCredit 2 8 (sliceOf (lineNo (s.hw.remapAddr false n))) = true) :
    let pa := s.hw.remapAddr false n
    let m := s.hw.router.nextPost
    Answers (.flitHop f.at_ 5) s fun u => u.mem = s.mem ∧ u.hw.threads = s.hw.threads ∧
      u.hw.router = { s.hw.router with looking := s.hw.router.looking ++ [⟨m, .device port rid, n, none⟩], nextPost := m + 1 } ∧
      AsksHome (.router m) (.read (pa.toNat % 64) 16) ⟨.s, false, 0⟩ pa (blockStop .router) s u := by
  refine irq_uncached ho hs ha hn hc fun rr th => ?_
  have hasks := Hw.lookMsg_asks (h := s.hw.meshEmptied rr) (o := .device port rid) (n := n) hs
    (by rw [Hw.meshEmptied_remapAddr, Hw.meshEmptied_ownMem]; exact hm) hp
    (by rw [Hw.meshEmptied_remapAddr, Hw.meshEmptied_hasCredit]; exact hcr)
  rw [Hw.meshEmptied_remapAddr, Hw.meshEmptied_router] at hasks
  exact routerAsks_home hasks th

/-- A message with a cached physical entry is a record in the inbox of its level (R379, R381). -/
theorem irq_phys {port n lvl vec t : Nat} {rid : BitVec 16} {f : Flit} {s : State} (ho : s.hw.off = false) (hs : s.hw.portSecure port = false)
    (ha : Arrived s.hw f (.irq (.device port rid) n)) (hl : lvl = 1 ∨ lvl = 2) (ht : t < numThreads)
    (hn : n < 2 ^ s.hw.regF (routerReg 0x100000) 4 0) (hc : sfind n s.hw.router.cache = some (w64 (physWord lvl vec), w64 t))
    (hq : (inbox s.hw t (2 * (lvl - 1))).queued = []) (hv : vec < 4096) :
    Answers (.flitHop f.at_ 5) s (Queues t (2 * (lvl - 1)) ⟨true, n, vec, 0, false⟩ s) := by
  refine irq_cached ho hs ha hn hc fun rr th => ?_
  rw [Hw.deliverMsg_phys (h := s.hw.meshEmptied rr) (o := .device port rid) hs hl hv ht, Hw.inboxPut_empty (h := s.hw.meshEmptied rr) hq]
  exact queues_of_inboxPut hq rfl fun k => rfl

/-- A message with a cached virtual entry sends the far atomic on its descriptor (R385). -/
theorem irq_virt {port n vec : Nat} {rid : BitVec 16} {pid : Word} {f : Flit} {s : State} (ho : s.hw.off = false)
    (hs : s.hw.portSecure port = false) (ha : Arrived s.hw f (.irq (.device port rid) n)) (hn : n < 2 ^ s.hw.regF (routerReg 0x100000) 4 0)
    (hv : vec < 256) (hpid : Word.fld pid 5 0 = 0) (hc : sfind n s.hw.router.cache = some (w64 (virtWord vec), pid))
    (hm : s.hw.ownMem pid = true) (hp : s.hw.posts = []) (hcr : s.hw.hasCredit 2 8 (sliceOf (lineNo pid)) = true) :
    let m := s.hw.router.nextPost
    Answers (.flitHop f.at_ 5) s fun u => u.mem = s.mem ∧ u.hw.threads = s.hw.threads ∧
      u.hw.router = { s.hw.router with posting := s.hw.router.posting ++ [⟨m, n, pid, vec, false, none⟩], nextPost := m + 1 } ∧
      AsksHome (.router m) (.far (pidSet pid vec)) ⟨.s, false, 0⟩ pid (blockStop .router) s u := by
  refine irq_cached ho hs ha hn hc fun rr th => ?_
  have hasks := Hw.deliverMsg_virt (h := s.hw.meshEmptied rr) (o := .device port rid) (n := n) hs hv hpid (by rw [Hw.meshEmptied_ownMem]; exact hm) hp
    (by rw [Hw.meshEmptied_hasCredit]; exact hcr)
  rw [Hw.meshEmptied_router] at hasks
  exact routerAsks_home hasks th

/-- The read of a message's entry that has returned is taken up where it stands (R381). -/
theorem remapEntryReadReturn_answers {o : Origin} {idx q n err : Nat} {v : Vec} {s : State} {P : State → Prop} (ho : s.hw.off = false)
    (hi : s.hw.router.looking[idx]? = some ⟨q, o, n, some (v, err)⟩)
    (hP : P { s with hw := Hw.remapRead { s.hw with router := { s.hw.router with looking := s.hw.router.looking.eraseIdx idx } } o n v err }) :
    Answers (.remapEntryReadReturn (s.hw.msgSecure o) idx) s P := by
  refine Answers.of_onHw ho rfl ?_
  dsimp only
  rw [hi]
  dsimp only
  rw [if_neg (not_not.2 rfl)]
  exact hP

/-- A new entry is cached where the cache has room. -/
theorem Hw.cacheRemap_room {h : Hw} (hc : h.router.cache.length < 4096) (k : Nat) (e : Word × Word) :
    h.cacheRemap k e = { h with router := { h.router with cache := sset k e h.router.cache } } := if_pos hc

/-- A physical entry that has been read is cached, and its message is a record in the inbox of its level. -/
theorem Hw.remapRead_phys {h : Hw} {o : Origin} {n lvl vec t : Nat} {v : Vec} (hs : h.msgSecure o = false) (hl : lvl = 1 ∨ lvl = 2)
    (ht : t < numThreads) (hq : (inbox h t (2 * (lvl - 1))).queued = []) (hv : vec < 4096) (hc : h.router.cache.length < 4096)
    (h0 : vword v 0 = w64 (physWord lvl vec)) (h1 : vword v 1 = w64 t) :
    h.remapRead o n v 0 =
      Hw.updThread { h with router := { h.router with cache := sset n (w64 (physWord lvl vec), w64 t) h.router.cache } } t fun x =>
        { x with inbox := sset (2 * (lvl - 1)) { inbox h t (2 * (lvl - 1)) with queued := [⟨true, n, vec, 0, false⟩] } x.inbox } := by
  unfold Hw.remapRead
  rw [if_neg (not_not.2 rfl), h0, h1, hs, remapKey_normal]
  dsimp only
  rw [Hw.cacheRemap_room hc, Hw.deliverMsg_phys (by cases o <;> exact hs) hl hv ht, Hw.inboxPut_empty (by exact hq)]
  rfl

/-- A message whose entry cannot be read is dropped, and counted. -/
theorem remapRead_error {o : Origin} {n err : Nat} {v : Vec} (h : Hw) (he : err ≠ 0) :
    ∃ regs banks, h.remapRead o n v err = { h with regs := regs, banks := banks } ∧
      (h.remapRead o n v err).reg (routerReg 0x100018) = h.reg (routerReg 0x100018) + 1 := by
  have hr : h.remapRead o n v err = h.dropMsg n (h.remapAddr (h.msgSecure o) n) := by
    unfold Hw.remapRead
    exact if_pos he
  rw [hr]
  exact Hw.dropMsg_frame ..

/-- Settles O44: one lemma for each end of a message at the router, and for each end of the read of its entry. -/
theorem interruptMessages : Obligations.InterruptMessages := by
  intro port lvl vec t rid id pid f s ho h n o size phys virt box entryAt open_ m hp hs hl ht
  refine ⟨?_, fun ha => ⟨irq_outside ho hs ha, fun hn hc hop => irq_looks ho hs ha hn hc hop.1 hop.2.1 hop.2.2,
    fun hn hc hq hv => irq_phys ho hs ha hl ht hn hc hq hv,
    fun hn hv hpid hc hop => irq_virt ho hs ha hn hv hpid hc hop.1 hop.2.1 hop.2.2⟩, fun idx q v err hi => ⟨?_, ?_⟩⟩
  · refine Answers.of_onHw ho rfl ?_
    dsimp only [o]
    rw [if_pos hp]
    exact ⟨rfl, Hw.send_sends rfl⟩
  · intro he hq hv hcache h0 h1
    subst he
    refine remapEntryReadReturn_answers ho hi ?_
    have hread := Hw.remapRead_phys (h := { s.hw with router := { s.hw.router with looking := s.hw.router.looking.eraseIdx idx } }) (o := o) (n := n)
      hs hl ht hq hv hcache h0 h1
    rw [hread]
    exact ⟨queues_of_inboxPut hq rfl fun k => rfl, sfind_sset_same .., rfl⟩
  · intro he
    refine remapEntryReadReturn_answers ho hi ?_
    obtain ⟨regs, banks, hd, hreg⟩ := remapRead_error (o := o) (n := n) (v := v)
      { s.hw with router := { s.hw.router with looking := s.hw.router.looking.eraseIdx idx } } he
    rw [hd] at hreg ⊢
    exact ⟨rfl, rfl, rfl, hreg⟩

end Sys2Proof.Machine

namespace Sys2Proof.Machine

open Sys2Proof.Safety Sys2Proof.Claims

/-! ### Gallery messages for this position, and their answers (R348, R357 to R362) -/

/-- A message that is in order and for this position does what its command says. -/
theorem onGal_answers {k op : Nat} {g : GMsg} {c : Instr} {s : State} {f : List Host.Cell → Hw → List Host.Cell × Hw} {P : State → Prop}
    (ho : s.hw.off = false) (hg : GalHere s.hw k g) (he : exec c s = s.onGal k op g f)
    (hP : P { s with hw := (f s.mem s.hw).2, mem := (f s.mem s.hw).1 }) : Answers c s P := by
  obtain ⟨hk8, hk14, hup, hlane, hst, hsp, hdp, htag, hown, hroom⟩ := hg
  have hport : ¬(k < 8 ∨ 14 ≤ k ∨ (!s.hw.linkUp k 0) = true) := by simp [hup]; omega
  have hfields : ¬(3 ≤ g.lane ∨ 5 ≤ g.state ∨ 16 ≤ g.spos ∨ 16 ≤ g.dpos ∨ 4096 ≤ g.tag ∨
      classEntries (galClass op) ≤ s.hw.galHeld k op g.lane) := by
    have := hroom op
    omega
  refine ⟨_, he.trans (State.onAll_run ho _), ?_⟩
  rw [if_neg hport, if_neg hfields, if_pos hown]
  exact hP

/-- The same, with what the command leaves named. -/
theorem onGal_leaves {k op : Nat} {g : GMsg} {c : Instr} {s : State} {f : List Host.Cell → Hw → List Host.Cell × Hw} {m : List Host.Cell} {h : Hw}
    {P : State → Prop} (ho : s.hw.off = false) (hg : GalHere s.hw k g) (he : exec c s = s.onGal k op g f) (hf : f s.mem s.hw = (m, h))
    (hP : P { s with hw := h, mem := m }) : Answers c s P :=
  onGal_answers ho hg he (by rw [hf]; exact hP)

/-- What Gallery routing reads: the registers below the log's, and the links. -/
def Hw.SameRoutes (h g : Hw) : Prop := (∀ a, a < logReg 0 → g.reg a = h.reg a) ∧ g.links = h.links

theorem Hw.SameRoutes.of_eq {h g : Hw} (hr : g.regs = h.regs) (hl : g.links = h.links) : h.SameRoutes g :=
  ⟨fun a _ => by unfold Hw.reg; rw [hr], hl⟩

theorem Hw.SameRoutes.node {h g : Hw} (e : h.SameRoutes g) : g.node = h.node := by
  unfold Hw.node Hw.regF
  rw [e.1 _ (by decide)]

theorem Hw.SameRoutes.ownPos {h g : Hw} (e : h.SameRoutes g) : g.ownPos = h.ownPos := by
  have hgroup : g.group = h.group := by
    unfold Hw.group Hw.regF
    refine List.filterMap_congr fun i hi => ?_
    have hlt : i < 16 := List.mem_range.1 hi
    rw [e.1 _ (by unfold chkReg logReg; omega)]
  unfold Hw.ownPos
  rw [hgroup, e.node]

theorem Hw.SameRoutes.galTo {h g : Hw} (e : h.SameRoutes g) {d k : Nat} (hd : d < 16) (ht : GalTo h d k) : GalTo g d k := by
  obtain ⟨hroute, hheld, hshare⟩ := ht
  refine ⟨?_, fun i hi => ?_, ?_⟩
  · unfold Hw.route at hroute ⊢
    rw [e.1 _ (by unfold linkReg logReg; omega)]
    exact hroute
  · unfold Hw.link
    rw [e.2]
    exact hheld i hi
  · unfold Hw.regF
    rw [e.1 _ (by decide)]
    exact hshare

/-- A record leaves the routes alone. -/
theorem Hw.incident_sameRoutes (h : Hw) (type detail0 : Nat) (addr detail : Word) (src : Nat) (sec : Bool) :
    h.SameRoutes (h.incident type detail0 addr detail src sec) := by
  refine ⟨fun a ha => Hw.incident_reg _ _ _ _ _ _ _ ha, ?_⟩
  obtain ⟨regs, banks, he⟩ := h.incident_frame type detail0 addr detail src sec
  rw [he]

/-- The answer to a message leaves for the link of its source's route (R358, R362). -/
theorem Hw.galAnswer_eq {h : Hw} {g : GMsg} {k src op st arg : Nat} {poison : Bool} {data : Vec} (ho : h.ownPos = some g.dpos)
    (ht : GalTo h g.spos k) :
    h.galAnswer src op g st arg poison data =
      h.toLink src k 0 (.gal op ⟨0, g.dpos, g.spos, g.tag, g.line, poison, st, BitVec.ofNat 17 arg, data, 0⟩) := by
  obtain ⟨hroute, hheld, hshare⟩ := ht
  have hhold : h.holdsFor g.spos = none := by
    unfold Hw.holdsFor
    rw [List.find?_eq_none]
    intro i hi
    simpa using hheld i (List.mem_range.1 hi)
  have hlink : h.shareLink k op = k := by
    have hs : Word.fld (h.reg (linkReg 8 0x3000)) 5 4 = 0 := hshare
    unfold Hw.shareLink
    dsimp only
    rw [hs]
    rfl
  unfold Hw.galAnswer Hw.galSend
  rw [ho]
  dsimp only
  rw [hhold, hroute]
  dsimp only
  rw [hlink]

/-! ### Requests of other members leave their port (R25, R229, R237, R238, R360) -/

/-- What leaves a port with a free credit, before which none waits. -/
theorem post_leaves {s : State} {p : Post} (hp : PortOpen s.hw p.cls p.snd p.dest) :
    let u : State := { s with hw := s.hw.post p }
    (u.mem = s.mem ∧ u.hw.newest = s.hw.newest ∧ u.hw.threads = s.hw.threads) ∧ Sends p.payload p.src p.stop s u := by
  dsimp only
  rw [Hw.post_sends hp.1 hp.2]
  exact ⟨⟨rfl, rfl, rfl⟩, Hw.send_sends rfl⟩

/-- A Gallery request whose line is there leaves for its slice. -/
theorem galRequest_leaves {s : State} {k mark : Nat} {g : GMsg} {kind : ReqKind} (hk : kind = .readShared ∨ kind = .readUnique ∨ kind = .upgrade)
    (hl : s.hw.lineThere (s.hw.ownLineOf g) = true) (hp : PortOpen s.hw 4 k (sliceOf (s.hw.ownLineOf g))) :
    let l := s.hw.ownLineOf g
    let u : State := { s with hw := s.hw.galRequest k g kind mark }
    (u.mem = s.mem ∧ u.hw.newest = s.hw.newest ∧ u.hw.threads = s.hw.threads) ∧
      Sends (.req (sliceOf l) ⟨kind, l, .gallery k g.spos (g.tag + 4096 * mark) g.lane, ⟨.s, false, 0⟩, false, 16, false, none⟩)
        (portStop k) (chamberStop (sliceOf l)) s u := by
  unfold Hw.galRequest
  dsimp only
  rw [hl]
  rcases hk with rfl | rfl | rfl <;> exact post_leaves hp

/-- A Gallery message for an address where nothing is is answered ERR 4. -/
theorem galRefuse_answers {s : State} {k k2 src : Nat} {g : GMsg} (ho : s.hw.ownPos = some g.dpos) (ht : GalTo s.hw g.spos k2) (hs : g.spos < 16) :
    let u : State := { s with hw := s.hw.galRefuse src k g 4 }
    (u.mem = s.mem ∧ u.hw.newest = s.hw.newest ∧ u.hw.threads = s.hw.threads) ∧ ToLink src k2 0 (.gal 0x35 (reply g false 4 0)) s u := by
  obtain ⟨regs, banks, he⟩ := s.hw.incident_frame 0x50 3 (w64 (s.hw.ownLineOf g * 64)) 0 (blockId 4 k) false
  have hr := s.hw.incident_sameRoutes 0x50 3 (w64 (s.hw.ownLineOf g * 64)) 0 (blockId 4 k) false
  have ha := Hw.galAnswer_eq (src := src) (op := 0x35) (st := 0) (arg := 4) (poison := false) (data := 0)
    (h := s.hw.incident 0x50 3 (w64 (s.hw.ownLineOf g * 64)) 0 (blockId 4 k) false) (hr.ownPos.trans ho) (hr.galTo hs ht)
  unfold Hw.galRefuse
  dsimp only
  rw [ha, he]
  exact ⟨⟨rfl, rfl, rfl⟩, Hw.send_sends rfl⟩

/-- ARG of a FAR message (R360, log 46), as a number. -/
def farArgOf (rank off op i : Nat) (four ret : Bool) : Nat :=
  rank * 2 ^ 14 + off * 256 + (if four then 128 else 0) + op * 8 + i * 2 + if ret then 1 else 0

/-- The fields of ARG are what it was made of. -/
theorem farArg_fields {arg : BitVec 17} {rank off op i : Nat} {four ret : Bool} (hr : rank < 5) (ho : off < 64) (hop : op < 11) (hi : i < 4)
    (harg : arg = BitVec.ofNat 17 (farArgOf rank off op i four ret)) :
    (arg.toNat / 128 % 2 = 1 ↔ four = true) ∧ arg.toNat / 2 % 4 = i ∧ arg.toNat / 8 % 16 = op ∧ arg.toNat / 256 % 64 = off ∧
      arg.toNat / 2 ^ 14 = rank := by
  have ha : arg.toNat = farArgOf rank off op i four ret := by
    rw [harg, BitVec.toNat_ofNat]
    refine Nat.mod_eq_of_lt ?_
    unfold farArgOf
    cases four <;> cases ret <;> norm_num <;> omega
  rw [ha]
  unfold farArgOf
  cases four <;> cases ret <;> norm_num <;> omega

/-- A far atomic of another member leaves for the slice of its line, with its operation and size (R251, R253, R360). -/
theorem far_leaves {k rank off op i : Nat} {four ret : Bool} {g : GMsg} {s : State} (ho : s.hw.off = false) (hg : GalHere s.hw k g)
    (hr : rank < 5) (hop : op ∈ [0, 1, 2, 3, 4, 5, 8, 9, 10]) (hi : i < 4) (h4 : four = true → op ∈ [0, 8, 9])
    (hal : off % (if four then 4 else 8 * 2 ^ i) = 0) (hoff : off < 64) (harg : g.arg = BitVec.ofNat 17 (farArgOf rank off op i four ret))
    (hl : s.hw.lineThere (s.hw.ownLineOf g) = true) (hp : PortOpen s.hw 4 k (sliceOf (s.hw.ownLineOf g))) :
    let l := s.hw.ownLineOf g
    let n := if four then 4 else 8 * 2 ^ i
    Answers (.far k g) s fun u => (u.mem = s.mem ∧ u.hw.newest = s.hw.newest ∧ u.hw.threads = s.hw.threads) ∧
      Sends (.req (sliceOf l) ⟨.far (farOp (w64 (l * 64 + off)) n g.data op g.exp (memTypeOf rank)), l, .gfar k g, ⟨.s, false, 0⟩, false, 16,
        false, none⟩) (portStop k) (chamberStop (sliceOf l)) s u := by
  have hop11 : op < 11 := by
    simp only [List.mem_cons, List.not_mem_nil, or_false] at hop
    omega
  obtain ⟨hfour, hsize, hopf, hofff, hrank⟩ := farArg_fields hr hoff hop11 hi harg
  have hn : (if g.arg.toNat / 128 % 2 = 1 then 4 else 8 * 2 ^ (g.arg.toNat / 2 % 4)) = if four then 4 else 8 * 2 ^ i := by
    rw [hsize]
    exact if_congr hfour rfl rfl
  have hok : ¬(op = 6 ∨ op = 7 ∨ 11 ≤ op ∨ (four = true ∧ op ≠ 0 ∧ op ≠ 8 ∧ op ≠ 9) ∨ off % (if four then 4 else 8 * 2 ^ i) ≠ 0) := by
    have h4' : four = true → op = 0 ∨ op = 8 ∨ op = 9 := fun h => by simpa using h4 h
    simp only [List.mem_cons, List.not_mem_nil, or_false] at hop
    rintro (h | h | h | ⟨h, h0, h8, h9⟩ | h)
    · omega
    · omega
    · omega
    · rcases h4' h with h | h | h
      · exact h0 h
      · exact h8 h
      · exact h9 h
    · exact h hal
  refine onGal_leaves (m := s.mem) (h := s.hw.postReq (sliceOf (s.hw.ownLineOf g)) ⟨.far (farOp (w64 (s.hw.ownLineOf g * 64 + off))
    (if four then 4 else 8 * 2 ^ i) g.data op g.exp (memTypeOf rank)), s.hw.ownLineOf g, .gfar k g, ⟨.s, false, 0⟩, false, 16, false, none⟩)
    ho hg rfl ?_ (post_leaves hp)
  refine (if_neg (by rw [hl]; decide)).trans ((if_neg ?_).trans ?_)
  · rw [hn, hopf, hofff, hfour]
    exact hok
  · rw [hn, hopf, hofff, hrank]

/-- A request for a line, whichever it is: it leaves for its slice where the line is there, and is answered ERR 4 where it is not. -/
theorem galRequest_answers {k k2 code mark : Nat} {g : GMsg} {kind : ReqKind} {c : Instr} {s : State} (ho : s.hw.off = false)
    (hg : GalHere s.hw k g) (ht : GalTo s.hw g.spos k2) (hk : kind = .readShared ∨ kind = .readUnique ∨ kind = .upgrade)
    (he : exec c s = s.onGal k code g fun m h => (m, h.galRequest k g kind mark)) :
    let l := s.hw.ownLineOf g
    let same := fun u : State => u.mem = s.mem ∧ u.hw.newest = s.hw.newest ∧ u.hw.threads = s.hw.threads
    (s.hw.lineThere l = true → PortOpen s.hw 4 k (sliceOf l) → Answers c s fun u => same u ∧
      Sends (.req (sliceOf l) ⟨kind, l, .gallery k g.spos (g.tag + 4096 * mark) g.lane, ⟨.s, false, 0⟩, false, 16, false, none⟩)
        (portStop k) (chamberStop (sliceOf l)) s u) ∧
    (s.hw.lineThere l = false → Answers c s fun u => same u ∧ ToLink (portStop k) k2 0 (.gal 0x35 (Claims.reply g false 4 0)) s u) := by
  obtain ⟨-, -, -, -, -, hsp, -, -, hown, -⟩ := id hg
  refine ⟨fun hl hopen => onGal_answers ho hg he (galRequest_leaves hk hl hopen), fun hl => onGal_answers ho hg he ?_⟩
  have hrefuse : s.hw.galRequest k g kind mark = s.hw.galRefuse (portStop k) k g 4 := by
    unfold Hw.galRequest
    dsimp only
    rw [hl]
    rfl
  rw [hrefuse]
  exact galRefuse_answers hown ht hsp

/-- Requests of other members at their port (R25, R229, R360). -/
theorem gallery_toSlices {k k2 : Nat} {g : GMsg} {s : State} (ho : s.hw.off = false) (hg : GalHere s.hw k g) (ht : GalTo s.hw g.spos k2) :
    galleryToSlices k k2 g s := by
  refine ⟨fun p hp => ?_, fun op off i rank four ret hr hop hi h4 => ?_, ?_⟩
  · simp only [List.mem_cons, List.not_mem_nil, or_false] at hp
    rcases hp with rfl | rfl | rfl | rfl
    · exact galRequest_answers (mark := 0) (kind := .readShared) ho hg ht (by simp) rfl
    · exact galRequest_answers (mark := 0) (kind := .readUnique) ho hg ht (by simp) rfl
    · exact galRequest_answers (mark := 2) (kind := .upgrade) ho hg ht (by simp) rfl
    · exact galRequest_answers (mark := 1) (kind := .readUnique) ho hg ht (by simp) rfl
  · intro n hal hoff harg hl hopen
    exact far_leaves ho hg hr hop hi h4 hal hoff harg hl hopen
  · exact ⟨fun hopen => onGal_answers ho hg rfl (post_leaves hopen), fun hopen => onGal_answers ho hg rfl (post_leaves hopen),
      fun hopen => onGal_answers ho hg rfl (post_leaves hopen), fun hopen => onGal_answers ho hg rfl (post_leaves hopen)⟩

end Sys2Proof.Machine

namespace Sys2Proof.Machine

open Sys2Proof.Safety Sys2Proof.Claims

/-! ### A snoop of another member at its slice (R229, R236) -/

/-- What a slice does to its own copies of a line leaves registers, links, messages, and the transactions and snoops that it has in hand. -/
structure Hw.SnoopFrame (s : Nat) (h g : Hw) : Prop where
  regs : g.regs = h.regs
  links : g.links = h.links
  flits : g.flits = h.flits
  txns : (g.slice s).txns = (h.slice s).txns
  snps : (g.slice s).snps = (h.slice s).snps

theorem Hw.SnoopFrame.refl (s : Nat) (h : Hw) : h.SnoopFrame s h := ⟨rfl, rfl, rfl, rfl, rfl⟩

theorem Hw.SnoopFrame.trans {s : Nat} {h g f : Hw} (a : h.SnoopFrame s g) (b : g.SnoopFrame s f) : h.SnoopFrame s f :=
  ⟨b.regs.trans a.regs, b.links.trans a.links, b.flits.trans a.flits, b.txns.trans a.txns, b.snps.trans a.snps⟩

/-- A change of the slice that keeps what it has in hand. -/
theorem Hw.SnoopFrame.updSlice {h : Hw} {s : Nat} {f : Slice → Slice} (ht : (f (h.slice s)).txns = (h.slice s).txns)
    (hs : (f (h.slice s)).snps = (h.slice s).snps) : h.SnoopFrame s (h.updSlice s f) :=
  ⟨rfl, rfl, rfl, by rw [Hw.slice_updSlice_same, ht], by rw [Hw.slice_updSlice_same, hs]⟩

theorem Hw.sfSet_snoopFrame (h : Hw) (s l : Nat) (f : Option SfForm) : h.SnoopFrame s (h.sfSet s l f) := by
  unfold Hw.sfSet
  split
  · exact .updSlice rfl rfl
  · exact .refl s h

theorem Hw.vatDrop_snoopFrame (h : Hw) (s l : Nat) : h.SnoopFrame s (h.vatDrop s l) := by
  unfold Hw.vatDrop
  split
  · exact .updSlice rfl rfl
  · exact .refl s h

theorem Hw.vatSetSt_snoopFrame (h : Hw) (s l : Nat) (st : LSt) : h.SnoopFrame s (h.vatSetSt s l st) := by
  unfold Hw.vatSetSt
  split
  · exact .updSlice rfl rfl
  · exact .refl s h

theorem Hw.forget_snoopFrame (h : Hw) (s l : Nat) : h.SnoopFrame s (h.forget l) := by
  unfold Hw.forget
  split <;> exact ⟨rfl, rfl, rfl, rfl, rfl⟩

/-- What a snoop leaves of a line that the Vat holds dirty: nothing, or its copy in O. -/
def Hw.snooped (h : Hw) (s l : Nat) (inv : Bool) : Hw :=
  let h0 := h.updSlice s fun x => { x with wbb := x.wbb.filter fun e => e.2.line != l || e.2.issued }
  if inv then ((h0.sfSet s l none).vatDrop s l).forget l else h0.vatSetSt s l .o

theorem Hw.snooped_snoopFrame (h : Hw) (s l : Nat) (inv : Bool) : h.SnoopFrame s (h.snooped s l inv) := by
  have h0 : h.SnoopFrame s (h.updSlice s fun x => { x with wbb := x.wbb.filter fun e => e.2.line != l || e.2.issued }) := .updSlice rfl rfl
  unfold Hw.snooped
  split
  · exact h0.trans ((Hw.sfSet_snoopFrame _ s l none).trans ((Hw.vatDrop_snoopFrame _ s l).trans (Hw.forget_snoopFrame _ s l)))
  · exact h0.trans (Hw.vatSetSt_snoopFrame _ s l .o)

/-- The new state of a line's way in the Vat, all else of the way as before (R222). -/
theorem Hw.vatLine_vatSetSt {h : Hw} {s l : Nat} {w : VatWay} (e : h.vatLine s l = some w) (st : LSt) :
    (h.vatSetSt s l st).vatLine s l = some { w with st := st } := by
  obtain ⟨k, hk⟩ := Hw.vatLine_isSome (h := h) (s := s) (l := l) (by rw [e]; rfl)
  obtain ⟨v, hv, hl⟩ := Slice.look_some hk
  have hvw : v = w := by
    unfold Hw.vatLine at e
    rw [hk] at e
    exact Option.some.inj (hv.symm.trans e)
  subst hvw
  have hset : h.vatSetSt s l st = h.updSlice s fun x => { x with ways := sset k { v with st := st } x.ways } := by
    unfold Hw.vatSetSt
    rw [hk]
    refine Hw.updSlice_congr ?_
    dsimp only [supd]
    rw [sget_of_sfind hv]
  rw [hset]
  unfold Hw.vatLine
  rw [Hw.slice_updSlice_same, Slice.look_sset hk (w := { v with st := st }) hl rfl]
  exact sfind_sset_same ..

@[simp] theorem Hw.vatSetSt_newest (h : Hw) (s l : Nat) (st : LSt) : (h.vatSetSt s l st).newest = h.newest := by
  unfold Hw.vatSetSt; split <;> rfl

/-- A snoop that invalidates nothing leaves the line in O in the Vat (R229). -/
theorem Hw.snooped_owned {h : Hw} {s l : Nat} {w : VatWay} (e : h.vatLine s l = some w) :
    (h.snooped s l false).newest = h.newest ∧ (h.snooped s l false).vatLine s l = some { w with st := .o } := by
  have h0 : (h.updSlice s fun x => { x with wbb := x.wbb.filter fun e => e.2.line != l || e.2.issued }).vatLine s l = some w :=
    (Hw.vatLine_updSlice rfl l).trans e
  exact ⟨Hw.vatSetSt_newest .., Hw.vatLine_vatSetSt h0 .o⟩

/-- A slice with nothing in progress goes on with nothing. -/
theorem Hw.pumpSlice_idle {h : Hw} {s : Nat} (ht : (h.slice s).txns = []) (m : List Host.Cell) : h.pumpSlice m s = h := by
  unfold Hw.pumpSlice
  rw [ht]
  rfl

/-- What a slice gives away of a line that a snoop took is on its way no more, and the snoop is not in hand. -/
def Hw.snoopDone (h : Hw) (s : Nat) (p : ProxySnoop) : Hw :=
  ((h.snooped s p.line p.inv).updSlice s fun x => { x with snps := x.snps.filter fun q => !(q.line == p.line && q.msg.tag == p.msg.tag) }).landed
    p.line

/-- A snoop that waits for no holder, of a line that the Vat holds dirty and nothing else in the slice concerns, is answered with the data
(R229, R236). -/
theorem Hw.endSnoop_dirty {m : List Host.Cell} {h : Hw} {s k2 : Nat} {p : ProxySnoop} {w : VatWay} (hv : h.vatLine s p.line = some w)
    (hw : w.st = .m) (hb : (h.slice s).wbb = []) (ht : (h.slice s).txns = []) (ho : h.ownPos = some p.msg.dpos) (hr : GalTo h p.msg.spos k2)
    (hs : p.msg.spos < 16) :
    h.endSnoop m s p =
      ((h.snoopDone s p).toLink (chamberStop s) k2 0
        (.gal 0x32 (Claims.reply p.msg (h.poisoned p.line) 0 (lineVal m h p.line)))).freeEntry 5 p.port s := by
  have hf := h.snooped_snoopFrame s p.line p.inv
  have hroutes : h.SameRoutes (h.snoopDone s p) := by
    unfold Hw.snoopDone
    obtain ⟨c, e⟩ := Hw.landed_eq ((h.snooped s p.line p.inv).updSlice s fun x =>
      { x with snps := x.snps.filter fun q => !(q.line == p.line && q.msg.tag == p.msg.tag) }) p.line
    rw [e]
    exact .of_eq hf.regs hf.links
  have ha := Hw.galAnswer_eq (src := chamberStop s) (op := 0x32) (st := 0) (arg := 0) (poison := h.poisoned p.line)
    (data := lineVal m h p.line) (hroutes.ownPos.trans ho) (hroutes.galTo hs hr)
  have he : h.wbbEntry s p.line = none := by
    unfold Hw.wbbEntry
    rw [hb]
    rfl
  have hend : h.endSnoop m s p = Hw.pumpSlice m (((h.snoopDone s p).galAnswer (chamberStop s) 0x32 p.msg 0 0 (h.poisoned p.line)
      (lineVal m h p.line)).freeEntry 5 p.port s) s := by
    unfold Hw.endSnoop
    extract_lets l v bad vst e dirty h0 h1 h2 at_ h3
    have hvst : vst = some .m := by
      change (h.vatLine s p.line).map (·.st) = some .m
      rw [hv, Option.map_some, hw]
    have hentry : e = none := he
    have hdirty : dirty = true := by
      change (p.dirty || vst == some LSt.m || vst == some LSt.o || e.any fun e => !e.issued) = true
      rw [hvst, Bool.or_assoc, Bool.or_assoc, beq_self_eq_true, Bool.true_or, Bool.or_true]
    have hone : h1 = h.snooped s p.line p.inv := by
      unfold h1 Hw.snooped
      rw [hvst]
      rfl
    have hthree : h3 = (h.snoopDone s p).galAnswer (chamberStop s) 0x32 p.msg 0 0 (h.poisoned p.line) (lineVal m h p.line) := by
      unfold h3 h2
      rw [hentry, hdirty, hone]
      rfl
    rw [hthree]
  rw [hend, ha]
  refine Hw.pumpSlice_idle ?_ m
  have htx : ((h.snoopDone s p).slice s).txns = [] := by
    unfold Hw.snoopDone
    rw [Hw.landed_slice, Hw.slice_updSlice_same]
    exact hf.txns.trans ht
  exact htx

/-- A snoop that reaches a slice where nothing is in progress, for a line that no filter entry names. -/
def newSnoop (port : Nat) (inv : Bool) (g : GMsg) (l : Nat) : ProxySnoop := ⟨port, g, inv, l, [], [], [], false⟩

/-- The slice with one more snoop in hand. -/
def Hw.withSnoop (h : Hw) (s : Nat) (p : ProxySnoop) : Hw := h.updSlice s fun x => { x with snps := x.snps ++ [p] }

/-- A snoop alone in its slice that waits for no holder ends at once. -/
theorem Hw.pumpSnoops_single {h : Hw} {s : Nat} {p : ProxySnoop} (hs : (h.slice s).stopped = false) (hp : (h.slice s).snps = [p])
    (hu : p.unsent = []) (ha : p.snoops = []) (hw : p.wbWait = []) (m : List Host.Cell) : h.pumpSnoops m s = h.endSnoop m s p := by
  have hsend : h.sendProxySnoops s p = h := by
    unfold Hw.sendProxySnoops
    rw [hu]
    rfl
  unfold Hw.pumpSnoops
  rw [hs, hp]
  simp only [Bool.false_eq_true, if_false, List.foldl_cons, List.foldl_nil, hsend, hp, List.find?_cons, beq_self_eq_true, Bool.and_self, hu, ha, hw,
    List.isEmpty_nil, if_true]

/-- A snoop of a line without holders ends at once. -/
theorem Hw.snoopIn_unheld {h : Hw} {s n : Nat} {g : GMsg} (hn : sfind g.spos h.group = some n) (hst : (h.slice s).stopped = false)
    (hb : (h.slice s).wbb = []) (hg : h.gtags = []) (hs : (h.slice s).snps = []) (hf : h.sfForm s (n * 2 ^ 42 + g.line.toNat) = none)
    (m : List Host.Cell) (port : Nat) (inv : Bool) :
    let p := newSnoop port inv g (n * 2 ^ 42 + g.line.toNat)
    h.snoopIn m s port inv g = (h.withSnoop s p).endSnoop m s p := by
  have he : h.wbbEntry s (n * 2 ^ 42 + g.line.toNat) = none := by
    unfold Hw.wbbEntry
    rw [hb]
    rfl
  intro p
  have hin : h.snoopIn m s port inv g = (h.withSnoop s p).pumpSnoops m s := by
    unfold Hw.snoopIn
    rw [hn]
    dsimp only
    rw [hst, he, hg, hf]
    rfl
  rw [hin]
  refine Hw.pumpSnoops_single ?_ ?_ rfl rfl rfl m
  · unfold Hw.withSnoop
    rw [Hw.slice_updSlice_same]
    exact hst
  · unfold Hw.withSnoop
    rw [Hw.slice_updSlice_same]
    exact congrArg (· ++ [p]) hs

/-- The snoop's answer alone is on its way, and no snoop is left in hand. -/
theorem Hw.snoopDone_alone {h : Hw} {s : Nat} {p : ProxySnoop} (hs : (h.slice s).snps = [p]) :
    (h.snoopDone s p).flits = h.flits ∧ ((h.snoopDone s p).slice s).snps = [] := by
  have hf := h.snooped_snoopFrame s p.line p.inv
  unfold Hw.snoopDone
  refine ⟨(Hw.landed_flits _ _).trans hf.flits, ?_⟩
  rw [Hw.landed_slice, Hw.slice_updSlice_same]
  dsimp only
  rw [hf.snps, hs]
  simp

theorem Hw.vatLine_landed (h : Hw) (s l k : Nat) : (h.landed k).vatLine s l = h.vatLine s l := by
  unfold Hw.vatLine
  rw [Hw.landed_slice]

/-- A snoop that invalidates nothing leaves the line in O. -/
theorem Hw.snoopDone_owned {h : Hw} {s : Nat} {p : ProxySnoop} {w : VatWay} (hi : p.inv = false) (hv : h.vatLine s p.line = some w) :
    (h.snoopDone s p).newest = h.newest ∧ ((h.snoopDone s p).vatLine s p.line).map (·.st) = some .o := by
  obtain ⟨hn, ho⟩ := Hw.snooped_owned hv
  have hkeep : ((h.snooped s p.line false).updSlice s fun x =>
      { x with snps := x.snps.filter fun q => !(q.line == p.line && q.msg.tag == p.msg.tag) }).vatLine s p.line =
        (h.snooped s p.line false).vatLine s p.line := Hw.vatLine_updSlice rfl p.line
  unfold Hw.snoopDone
  rw [hi]
  refine ⟨(Hw.landed_newest _ _).trans hn, ?_⟩
  rw [Hw.vatLine_landed, hkeep, ho]
  rfl

/-- A snoop of a line that only the Vat holds dirty, at its slice, where nothing is in progress: the answer with the data. -/
theorem Hw.snoopIn_dirty {h : Hw} {s k2 n l : Nat} {g : GMsg} {w : VatWay} (hl : l = n * 2 ^ 42 + g.line.toNat) (hn : sfind g.spos h.group = some n)
    (hst : (h.slice s).stopped = false) (hb : (h.slice s).wbb = []) (hg : h.gtags = []) (hs : (h.slice s).snps = []) (hx : (h.slice s).txns = [])
    (hf : h.sfForm s l = none) (hv : h.vatLine s l = some w) (hm : w.st = .m) (ho : h.ownPos = some g.dpos) (ht : GalTo h g.spos k2)
    (hsp : g.spos < 16) (m : List Host.Cell) (port : Nat) (inv : Bool) :
    let p := newSnoop port inv g l
    h.snoopIn m s port inv g = (((h.withSnoop s p).snoopDone s p).toLink (chamberStop s) k2 0
      (.gal 0x32 (Claims.reply g (h.poisoned l) 0 (lineVal m h l)))).freeEntry 5 port s := by
  intro p
  have hv' : (h.withSnoop s p).vatLine s l = some w := (Hw.vatLine_updSlice rfl l).trans hv
  have hpoison : (h.withSnoop s p).poisoned l = h.poisoned l := Hw.poisoned_updSlice rfl rfl (by rw [Hw.vatLine_updSlice rfl l])
  have hval : lineVal m (h.withSnoop s p) l = lineVal m h l := Hw.lineVal_updSlice rfl m l
  have hb' : ((h.withSnoop s p).slice s).wbb = [] := by
    unfold Hw.withSnoop
    rw [Hw.slice_updSlice_same]
    exact hb
  have hx' : ((h.withSnoop s p).slice s).txns = [] := by
    unfold Hw.withSnoop
    rw [Hw.slice_updSlice_same]
    exact hx
  have hr : h.SameRoutes (h.withSnoop s p) := .of_eq rfl rfl
  have hin := Hw.snoopIn_unheld hn hst hb hg hs (hl ▸ hf) m port inv
  rw [← hl] at hin
  have hend := Hw.endSnoop_dirty (m := m) (p := p) hv' hm hb' hx' (hr.ownPos.trans ho) (hr.galTo hsp ht) hsp
  have hline : p.line = l := rfl
  rw [hline, hpoison, hval] at hend
  exact hin.trans hend

/-- A message for a link is the one message of a mesh that was empty. -/
theorem Hw.toLink_alone {h : Hw} {src k j : Nat} (hf : h.flits = []) (x : LMsg) :
    ∃ q, (h.toLink src k j x).flits = [q] ∧ q.payload = .link k j x ∧ q.at_ = src := by
  refine ⟨⟨h.flitId, x.vc, src, portStop k, if src < 96 then 1 else 0, 9, 0, .link k j x⟩, ?_, rfl, rfl⟩
  unfold Hw.toLink Hw.send
  rw [hf]
  rfl

/-- A snoop of a line that only the Vat holds dirty is answered with the data (R229, R231, R236). -/
theorem gallerySnoop_answers {k k2 n l : Nat} {inv : Bool} {g : GMsg} {f : Flit} {w : VatWay} {s : State} (ho : s.hw.off = false)
    (hg : GalHere s.hw k g) (ht : GalTo s.hw g.spos k2) (hl : l = n * 2 ^ 42 + g.line.toNat) (hn : sfind g.spos s.hw.group = some n)
    (hf : s.hw.flits = [f]) (hvc : f.vc < 4) (hin : f.input < 6) (hat : f.at_ < 160) (hrun : s.hw.meshRuns = true)
    (hd : (nextMove f.at_ f.dst).1 = 5) (hp : f.payload = .galSnoop (sliceOf l) k inv g) (hnone : s.hw.sfForm (sliceOf l) l = none)
    (hv : s.hw.vatLine (sliceOf l) l = some w) (hm : w.st = .m) (hst : (s.hw.slice (sliceOf l)).stopped = false)
    (hb : (s.hw.slice (sliceOf l)).wbb = []) (hs : (s.hw.slice (sliceOf l)).snps = []) (htx : (s.hw.slice (sliceOf l)).txns = [])
    (hgt : s.hw.gtags = []) :
    Answers (.flitHop f.at_ 5) s fun u => u.mem = s.mem ∧ (u.hw.slice (sliceOf l)).snps = [] ∧
      (∃ q, u.hw.flits = [q] ∧ q.payload = .link k2 0 (.gal 0x32 (Claims.reply g (s.hw.poisoned l) 0 (lineVal s.mem s.hw l))) ∧
        q.at_ = chamberStop (sliceOf l)) ∧
      (inv = false → u.hw.newest = s.hw.newest ∧ (u.hw.vatLine (sliceOf l) l).map (·.st) = some .o) := by
  obtain ⟨-, -, -, -, -, hsp, -, -, hown, -⟩ := hg
  refine flitHop_delivers ho hf hvc hin hat hrun hd (by unfold Hw.ejectRoom; rw [hp]; rfl) (by rw [hp]; rfl) fun rr th => ?_
  have hr : s.hw.SameRoutes (s.hw.meshEmptied rr) := .of_eq rfl rfl
  have hdel : deliver f.payload (s.mem, s.hw.meshEmptied rr) = (s.mem, (s.hw.meshEmptied rr).snoopIn s.mem (sliceOf l) k inv g) := by
    rw [hp]
    rfl
  have hsn := Hw.snoopIn_dirty (h := s.hw.meshEmptied rr) hl hn hst hb hgt hs htx hnone hv hm (hr.ownPos.trans hown) (hr.galTo hsp ht) hsp s.mem k inv
  have hpoison : (s.hw.meshEmptied rr).poisoned l = s.hw.poisoned l := rfl
  have hval : lineVal s.mem (s.hw.meshEmptied rr) l = lineVal s.mem s.hw l := rfl
  rw [hpoison, hval] at hsn
  rw [hdel, hsn]
  have hsnps : (((s.hw.meshEmptied rr).withSnoop (sliceOf l) (newSnoop k inv g l)).slice (sliceOf l)).snps = [newSnoop k inv g l] := by
    unfold Hw.withSnoop
    rw [Hw.slice_updSlice_same]
    exact congrArg (· ++ [newSnoop k inv g l]) hs
  have hvat : ((s.hw.meshEmptied rr).withSnoop (sliceOf l) (newSnoop k inv g l)).vatLine (sliceOf l) l = some w := (Hw.vatLine_updSlice rfl l).trans hv
  obtain ⟨hflits, hdone⟩ := Hw.snoopDone_alone hsnps
  have howned : inv = false → _ := fun hi => Hw.snoopDone_owned (p := newSnoop k inv g l) hi hvat
  generalize Hw.snoopDone _ _ _ = d at hflits hdone howned ⊢
  generalize LMsg.gal 0x32 _ = x
  exact ⟨rfl, hdone, Hw.toLink_alone hflits x, howned⟩

end Sys2Proof.Machine

namespace Sys2Proof.Machine

open Sys2Proof.Safety Sys2Proof.Claims

/-! ### Writebacks and eviction notices of other members at their slice (R225, R231, R234) -/

/-- What a slice notes of a writeback in its directory and buffer leaves registers, links, controllers, credits, messages, the newest values,
and the transactions and writebacks that the slice has in hand. -/
structure Hw.WbFrame (s : Nat) (h g : Hw) : Prop where
  regs : g.regs = h.regs
  links : g.links = h.links
  mcs : g.mcs = h.mcs
  used : g.used = h.used
  flits : g.flits = h.flits
  newest : g.newest = h.newest
  txns : (g.slice s).txns = (h.slice s).txns
  rwbIn : (g.slice s).rwbIn = (h.slice s).rwbIn

theorem Hw.WbFrame.refl (s : Nat) (h : Hw) : h.WbFrame s h := ⟨rfl, rfl, rfl, rfl, rfl, rfl, rfl, rfl⟩

theorem Hw.WbFrame.trans {s : Nat} {h g f : Hw} (a : h.WbFrame s g) (b : g.WbFrame s f) : h.WbFrame s f :=
  ⟨b.regs.trans a.regs, b.links.trans a.links, b.mcs.trans a.mcs, b.used.trans a.used, b.flits.trans a.flits, b.newest.trans a.newest,
    b.txns.trans a.txns, b.rwbIn.trans a.rwbIn⟩

/-- A change of any slice that keeps what it has in hand. -/
theorem Hw.WbFrame.updSlice {h : Hw} {s n : Nat} {f : Slice → Slice} (ht : (f (h.slice n)).txns = (h.slice n).txns)
    (hr : (f (h.slice n)).rwbIn = (h.slice n).rwbIn) : h.WbFrame s (h.updSlice n f) := by
  by_cases hn : s = n
  · subst hn
    exact ⟨rfl, rfl, rfl, rfl, rfl, rfl, by rw [Hw.slice_updSlice_same, ht], by rw [Hw.slice_updSlice_same, hr]⟩
  · exact ⟨rfl, rfl, rfl, rfl, rfl, rfl, by rw [Hw.slice_updSlice_ne _ _ _ hn], by rw [Hw.slice_updSlice_ne _ _ _ hn]⟩

/-- Another summary of lines in memory. -/
theorem Hw.WbFrame.dirMem (s : Nat) (h : Hw) (d : SMap Nat) : h.WbFrame s { h with dirMem := d } := ⟨rfl, rfl, rfl, rfl, rfl, rfl, rfl, rfl⟩

theorem Hw.dirShare_wbFrame (h : Hw) (s l : Nat) : h.WbFrame s (h.dirShare l) := by
  unfold Hw.dirShare
  extract_lets n
  split
  · exact .updSlice rfl rfl
  · exact .dirMem s h _

theorem Hw.dirClear_wbFrame (h : Hw) (s l : Nat) : h.WbFrame s (h.dirClear l) := by
  unfold Hw.dirClear
  extract_lets n h1
  have hone : h.WbFrame s h1 := by
    unfold h1
    split
    · exact .updSlice rfl rfl
    · exact .refl s h
  exact hone.trans (.dirMem s h1 _)

theorem Hw.dirDrop_wbFrame (h : Hw) (s l pos : Nat) : h.WbFrame s (h.dirDrop l pos) := by
  unfold Hw.dirDrop
  extract_lets n
  split
  · split
    · extract_lets sh
      split
      · exact h.dirClear_wbFrame s l
      · exact .updSlice rfl rfl
    · exact .refl s h
  · exact .refl s h

/-- No transaction of the slice is there to change. -/
theorem Hw.updTxn_wbFrame {h : Hw} {s : Nat} (ht : (h.slice s).txns = []) (l : Nat) (f : Txn → Txn) : h.WbFrame s (h.updTxn s l f) := by
  unfold Hw.updTxn
  exact .updSlice (by rw [ht]; rfl) rfl

/-- The home's view once a writeback of another node has come: no older entry of the line that is still to leave, and what the directory
knows of the sender's copy. -/
def Hw.wbSeen (h : Hw) (s l : Nat) (g : GMsg) : Hw :=
  let h1 := h.updSlice s fun x => { x with wbb := x.wbb.filter fun e => e.2.line != l || e.2.issued }
  let h2 := if g.state = 3 then h1.dirShare l
    else if ((h1.slice s).dirLook l).isSome then h1.dirDrop l g.spos
    else { h1 with dirMem := if sget 0 l h1.dirMem = 3 then sset l 1 h1.dirMem else if sget 0 l h1.dirMem = 2 then sdel l h1.dirMem else h1.dirMem }
  h2.updTxn s l fun x => x.homeWb g.spos

theorem Hw.wbSeen_wbFrame {h : Hw} {s : Nat} (ht : (h.slice s).txns = []) (l : Nat) (g : GMsg) : h.WbFrame s (h.wbSeen s l g) := by
  have hfilter : h.WbFrame s (h.updSlice s fun x => { x with wbb := x.wbb.filter fun e => e.2.line != l || e.2.issued }) := .updSlice rfl rfl
  unfold Hw.wbSeen
  extract_lets h1 h2
  have hdir : h1.WbFrame s h2 := by
    unfold h2
    split
    · exact h1.dirShare_wbFrame s l
    · split
      · exact h1.dirDrop_wbFrame s l g.spos
      · exact .dirMem s h1 _
  have hseen := hfilter.trans hdir
  exact hseen.trans (Hw.updTxn_wbFrame (hseen.txns.trans ht) l _)

/-- Where a line's controller and stack are is read from registers and controllers (R316, R319). -/
theorem Hw.mcOf_congr {h g : Hw} (e : g.mcs = h.mcs) (l : Nat) : g.mcOf l = h.mcOf l := by
  unfold Hw.mcOf Hw.ddrHome Hw.included Hw.mc
  rw [e]

theorem Hw.poolDie_congr {h g : Hw} (er : g.regs = h.regs) (em : g.mcs = h.mcs) (l : Nat) : g.poolDie l = h.poolDie l := by
  unfold Hw.poolDie Hw.ddrHome Hw.included Hw.mc Hw.regF Hw.reg
  rw [er, em]

/-- Data without an entry leaves for the controller of its line where no stack serves it (R225, R319). -/
theorem Hw.downNow_noPool {h : Hw} {s l : Nat} (hp : h.poolDie l = none) (hc : h.hasCredit 10 s (h.mcOf l) = true) (v : Vec) (bad : Bool) :
    h.downNow s l v bad = some ((h.useCredit 10 s (h.mcOf l)).send vcData (chamberStop s) (mcStop (h.mcOf l) l)
      (.memWrite (h.mcOf l) s wbNoEntry l v bad)) := by
  have hdrop : ∀ g : Hw, g.regs = h.regs → g.mcs = h.mcs → g.poolDrop l = g := by
    intro g er em
    unfold Hw.poolDrop
    rw [Hw.poolDie_congr er em, hp]
  unfold Hw.downNow
  rw [hp]
  dsimp only
  rw [hc, if_pos rfl]
  exact congrArg some (hdrop _ rfl rfl)

/-- The oldest waiting writeback has been taken from its queue, and its credit is free. -/
def Hw.rwbTaken (h : Hw) (s k : Nat) (d : Bool) (g : GMsg) : Hw :=
  (h.updSlice s fun x => { x with rwbIn := x.rwbIn.erase (k, d, g) }).freeEntry 8 k s

theorem Hw.rwbTaken_slice {h : Hw} {s k : Nat} {d : Bool} {g : GMsg} (hr : (h.slice s).rwbIn = [(k, d, g)]) (ht : (h.slice s).txns = []) :
    ((h.rwbTaken s k d g).slice s).rwbIn = [] ∧ ((h.rwbTaken s k d g).slice s).txns = [] := by
  have hs : (h.rwbTaken s k d g).slice s = { h.slice s with rwbIn := (h.slice s).rwbIn.erase (k, d, g) } :=
    Hw.slice_updSlice_same h s fun x => { x with rwbIn := x.rwbIn.erase (k, d, g) }
  rw [hs]
  refine ⟨?_, ht⟩
  dsimp only
  rw [hr, List.erase_cons_head]

/-- A slice goes on with no transaction of a line of which it has none. -/
theorem Hw.advance_idle {h : Hw} {s : Nat} (ht : (h.slice s).txns = []) (m : List Host.Cell) (l : Nat) : h.advance m s l = h := by
  unfold Hw.advance Hw.txn
  rw [ht]
  rfl

/-- What a slice takes of the writeback or notice that waits alone (R225, R234). -/
theorem rwbTake_single {h : Hw} {s k : Nat} {d : Bool} {g : GMsg} (hn : s < numSlices) (hst : (h.slice s).stopped = false)
    (hr : (h.slice s).rwbIn = [(k, d, g)]) (hl : h.lineThere (h.ownLineOf g) = true) (m : List Host.Cell) :
    rwbTake s d m h =
      if !d then some (m, ((h.rwbTaken s k d g).dirDrop (h.ownLineOf g) g.spos).galAnswer (chamberStop s) 0x31 g 0 0 false 0)
      else (wbHome s (h.ownLineOf g) g m (h.rwbTaken s k d g)).map fun q =>
        (q.1, (q.2.galAnswer (chamberStop s) 0x31 g 0 0 false 0).advance q.1 s (h.ownLineOf g)) := by
  have hno : ¬(numSlices ≤ s ∨ (h.slice s).stopped = true) := by
    rw [hst]
    simp only [Bool.false_eq_true, or_false]
    omega
  have hfind : (h.slice s).rwbIn.find? (fun x => x.2.1 == d) = some (k, d, g) := by simp [hr]
  unfold rwbTake
  rw [if_neg hno, hfind]
  exact if_neg (by rw [hl]; decide)

/-- An eviction notice is acknowledged (R234). -/
theorem rwbTake_notice {h : Hw} {s k k2 l : Nat} {g : GMsg} (he : h.ownLineOf g = l) (hn : s < numSlices) (hst : (h.slice s).stopped = false)
    (hr : (h.slice s).rwbIn = [(k, false, g)]) (hl : h.lineThere l = true) (ho : h.ownPos = some g.dpos) (ht : GalTo h g.spos k2)
    (hsp : g.spos < 16) (m : List Host.Cell) :
    rwbTake s false m h = some (m, ((h.rwbTaken s k false g).dirDrop l g.spos).toLink (chamberStop s) k2 0
      (.gal 0x31 (Claims.reply g false 0 0))) := by
  have hf := (h.rwbTaken s k false g).dirDrop_wbFrame s l g.spos
  have hroutes : h.SameRoutes ((h.rwbTaken s k false g).dirDrop l g.spos) := .of_eq hf.regs hf.links
  rw [rwbTake_single hn hst hr (he.symm ▸ hl) m, he, Hw.galAnswer_eq (hroutes.ownPos.trans ho) (hroutes.galTo hsp ht)]
  rfl

/-- The line of a writeback that has left for memory, its newest value known. -/
def Hw.wbSent (h : Hw) (s l : Nat) (g : GMsg) : Hw :=
  ((h.useCredit 10 s (h.mcOf l)).send vcData (chamberStop s) (mcStop (h.mcOf l) l) (.memWrite (h.mcOf l) s wbNoEntry l g.data g.poison)).setNewest l
    g.data

/-- A writeback leaves for memory and is acknowledged (R225, R231). -/
theorem rwbTake_writeback {h : Hw} {s k k2 l : Nat} {g : GMsg} (he : h.ownLineOf g = l) (hn : s < numSlices) (hst : (h.slice s).stopped = false)
    (hr : (h.slice s).rwbIn = [(k, true, g)]) (hl : h.lineThere l = true) (hx : (h.slice s).txns = []) (hcxl : lineLocal l < 0x0C0000000000)
    (hp : h.poolDie l = none) (hc : h.hasCredit 10 s (h.mcOf l) = true) (ho : h.ownPos = some g.dpos) (ht : GalTo h g.spos k2)
    (hsp : g.spos < 16) (m : List Host.Cell) :
    rwbTake s true m h = some (m, (((h.rwbTaken s k true g).wbSeen s l g).wbSent s l g).toLink (chamberStop s) k2 0
      (.gal 0x31 (Claims.reply g false 0 0))) := by
  have htaken := Hw.rwbTaken_slice hr hx
  have hf := Hw.wbSeen_wbFrame htaken.2 l g
  have hmc : ((h.rwbTaken s k true g).wbSeen s l g).mcOf l = h.mcOf l := Hw.mcOf_congr hf.mcs l
  have hcred : ((h.rwbTaken s k true g).wbSeen s l g).hasCredit 10 s (h.mcOf l) = true := by
    unfold Hw.hasCredit at hc ⊢
    rw [hf.used]
    exact hc
  have hpool : ((h.rwbTaken s k true g).wbSeen s l g).poolDie l = none := (Hw.poolDie_congr hf.regs hf.mcs l).trans hp
  have hroutes : h.SameRoutes (((h.rwbTaken s k true g).wbSeen s l g).wbSent s l g) := .of_eq hf.regs hf.links
  have hhome : wbHome s l g m (h.rwbTaken s k true g) = some (m, ((h.rwbTaken s k true g).wbSeen s l g).wbSent s l g) := by
    have hnot : cxlLine l = false := by
      unfold cxlLine
      exact decide_eq_false (by omega)
    have hdown := Hw.downNow_noPool hpool (hmc.symm ▸ hcred) g.data g.poison
    have hcase : wbHome s l g m (h.rwbTaken s k true g) =
        (((h.rwbTaken s k true g).wbSeen s l g).downNow s l g.data g.poison).map fun h => (m, h.setNewest l g.data) := by
      unfold wbHome
      rw [hnot]
      rfl
    rw [hcase, hdown]
    rfl
  rw [rwbTake_single hn hst hr (he.symm ▸ hl) m, he, hhome, if_neg (by decide), Option.map_some,
    Hw.galAnswer_eq (hroutes.ownPos.trans ho) (hroutes.galTo hsp ht)]
  have htx (x : LMsg) : (((((h.rwbTaken s k true g).wbSeen s l g).wbSent s l g).toLink (chamberStop s) k2 0 x).slice s).txns = [] :=
    hf.txns.trans htaken.2
  have hidle := Hw.advance_idle (htx (.gal 0x31 (Claims.reply g false 0 0))) m l
  exact congrArg (fun u => some (m, u)) hidle

/-- A message for a link is on its way. -/
theorem Hw.mem_toLink (h : Hw) (src k j : Nat) (x : LMsg) :
    ∃ f, f ∈ (h.toLink src k j x).flits ∧ f.payload = .link k j x ∧ f.at_ = src ∧ f.dst = portStop k :=
  ⟨_, List.mem_append_right _ (List.mem_singleton_self _), rfl, rfl, rfl⟩

theorem sliceOf_lt (l : Nat) : sliceOf l < numSlices := Nat.mod_lt _ (by decide)

/-- A writeback at its slice (R225, R231). -/
theorem galleryWb_answers {k k2 l sl : Nat} {g : GMsg} {s : State} (ho : s.hw.off = false) (hg : GalHere s.hw k g) (ht : GalTo s.hw g.spos k2)
    (he : s.hw.ownLineOf g = l) (hsl : sl < numSlices) (hst : (s.hw.slice sl).stopped = false) (hl : s.hw.lineThere l = true)
    (hx : (s.hw.slice sl).txns = []) (hr : (s.hw.slice sl).rwbIn = [(k, true, g)])
    (hcxl : lineLocal l < 0x0C0000000000) (hp : s.hw.poolDie l = none) (hc : s.hw.hasCredit 10 sl (s.hw.mcOf l) = true) :
    Answers (.writeback sl) s fun u => u.mem = s.mem ∧ (u.hw.slice sl).rwbIn = [] ∧ sfind l u.hw.newest = some g.data ∧
      (∃ f, f ∈ u.hw.flits ∧ f.payload = .link k2 0 (.gal 0x31 (Claims.reply g false 0 0)) ∧ f.at_ = chamberStop sl ∧ f.dst = portStop k2) ∧
      ∃ f, f ∈ u.hw.flits ∧ f.payload = .memWrite (s.hw.mcOf l) sl wbNoEntry l g.data g.poison := by
  obtain ⟨-, -, -, -, -, hsp, -, -, hown, -⟩ := hg
  have hq := rwbTake_writeback he hsl hst hr hl hx hcxl hp hc hown ht hsp s.mem
  have htaken := Hw.rwbTaken_slice hr hx
  have hf := Hw.wbSeen_wbFrame htaken.2 l g
  have hmc : ((s.hw.rwbTaken sl k true g).wbSeen sl l g).mcOf l = s.hw.mcOf l := Hw.mcOf_congr hf.mcs l
  have hrwb : (((s.hw.rwbTaken sl k true g).wbSeen sl l g).slice sl).rwbIn = [] := hf.rwbIn.trans htaken.1
  refine ⟨_, State.onAll_run ho _, ?_⟩
  rw [hq, Option.getD_some, ← hmc]
  generalize Hw.wbSeen _ _ _ _ = d at hrwb ⊢
  refine ⟨rfl, hrwb, sfind_sset_same .., Hw.mem_toLink .., ?_⟩
  exact ⟨_, List.mem_append_left _ (List.mem_append_right _ (List.mem_singleton_self _)), rfl⟩

/-- An eviction notice at its slice (R234). -/
theorem galleryEvc_answers {k k2 l sl : Nat} {g : GMsg} {s : State} (ho : s.hw.off = false) (hg : GalHere s.hw k g) (ht : GalTo s.hw g.spos k2)
    (he : s.hw.ownLineOf g = l) (hsl : sl < numSlices) (hst : (s.hw.slice sl).stopped = false) (hl : s.hw.lineThere l = true)
    (hx : (s.hw.slice sl).txns = []) (hr : (s.hw.slice sl).rwbIn = [(k, false, g)]) :
    Answers (.cleanEviction sl) s fun u => u.mem = s.mem ∧ u.hw.newest = s.hw.newest ∧ (u.hw.slice sl).rwbIn = [] ∧
      ∃ f, f ∈ u.hw.flits ∧ f.payload = .link k2 0 (.gal 0x31 (Claims.reply g false 0 0)) ∧ f.at_ = chamberStop sl ∧ f.dst = portStop k2 := by
  obtain ⟨-, -, -, -, -, hsp, -, -, hown, -⟩ := hg
  have hq := rwbTake_notice he hsl hst hr hl hown ht hsp s.mem
  have htaken := Hw.rwbTaken_slice hr hx
  have hf := (s.hw.rwbTaken sl k false g).dirDrop_wbFrame sl l g.spos
  have hrwb : (((s.hw.rwbTaken sl k false g).dirDrop l g.spos).slice sl).rwbIn = [] := hf.rwbIn.trans htaken.1
  have hnew : ((s.hw.rwbTaken sl k false g).dirDrop l g.spos).newest = s.hw.newest := hf.newest
  refine ⟨_, State.onAll_run ho _, ?_⟩
  rw [hq, Option.getD_some]
  generalize Hw.dirDrop _ _ _ = d at hrwb hnew ⊢
  exact ⟨rfl, hnew, hrwb, Hw.mem_toLink ..⟩

end Sys2Proof.Machine

namespace Sys2Proof.Machine

open Sys2Proof.Safety Sys2Proof.Claims

/-! ### Maintenance of other members (R196, R215, R360, R361) -/

/-- Bytes that are stored read back. -/
theorem memGet_memPut_mem {bs : Bytes} {a i : Nat} {m : List Host.Cell} (hw : Memory.wf m = true) (hi : i < bs.length) :
    memGet (memPut a bs m) (a + i) = bs.getD i 0 := by
  induction bs generalizing a i m with
  | nil => exact absurd hi (Nat.not_lt_zero i)
  | cons b r ih =>
    cases i with
    | zero =>
      change memGet (memPut (a + 1) r (memSet a b m)) a = b
      rw [memGet_memPut_ne (.inl (Nat.lt_add_one a)), memGet_memSet_same hw]
    | succ i =>
      have hlen : i < r.length := Nat.lt_of_succ_lt_succ hi
      have hplace : a + (i + 1) = a + 1 + i := by omega
      rw [memPut, hplace, ih (Memory.wf_memSet hw) hlen]
      rfl

theorem leBytes_getD {n i : Nat} (hi : i < n) (v : Nat) : (leBytes n v).getD i 0 = BitVec.ofNat 8 (v / 256 ^ i) := by
  induction n generalizing i v with
  | zero => exact absurd hi (Nat.not_lt_zero i)
  | succ n ih =>
    cases i with
    | zero => simp [leBytes]
    | succ i =>
      have hlt : i < n := Nat.lt_of_succ_lt_succ hi
      rw [leBytes, List.getD_cons_succ, ih hlt, Nat.div_div_eq_div_mul, ← Nat.pow_succ']

theorem vbytes_getD {n i : Nat} (hi : i < n) (v : Vec) : (vbytes v 0 n).getD i 0 = vbyte v i := by
  unfold vbytes vbyte
  rw [leBytes_getD hi, Nat.pow_zero, Nat.div_one]
  apply BitVec.eq_of_toNat_eq
  have hpow : 256 ^ i = 2 ^ (8 * i) := by rw [show (256 : Nat) = 2 ^ 8 from rfl, ← Nat.pow_mul]
  rw [BitVec.toNat_ofNat, BitVec.extractLsb'_toNat, Nat.shiftRight_eq_div_pow, hpow]

/-- Memory with a line stored. -/
theorem memGet_line {m : List Host.Cell} (hw : Memory.wf m = true) (l : Nat) (v : Vec) (a : Nat) :
    memGet (memPut (lineLocal l) (vbytes v 0 64) m) a =
      if lineLocal l ≤ a ∧ a < lineLocal l + 64 then vbyte v (a - lineLocal l) else memGet m a := by
  generalize lineLocal l = b
  split
  · next ha =>
    obtain ⟨i, rfl⟩ := Nat.exists_eq_add_of_le ha.1
    have hi : i < 64 := by omega
    rw [memGet_memPut_mem hw (by rw [vbytes_length]; exact hi), vbytes_getD hi, Nat.add_sub_cancel_left]
  · next ha => exact memGet_memPut_ne (by rw [vbytes_length]; omega)

/-- An operation waits at its port as it arrives. -/
def Hw.maintWaits (h : Hw) (k op : Nat) (g : GMsg) : Hw := h.updLink k 0 fun l => { l with mnt := l.mnt ++ [(op, g)] }

/-- An operation that arrives alone and can be taken is taken at once (R361). -/
theorem maintArrive_taken {k op : Nat} {g : GMsg} {m : List Host.Cell} {h : Hw} {r : List Host.Cell × Hw} (hm : (h.link k 0).mnt = [])
    (hr : maintStart op g (m, h.maintWaits k op g) = some r) :
    maintArrive k op g (m, h) = (r.1, r.2.updLink k 0 fun l => { l with mnt := l.mnt.tail }) := by
  have hq : ((h.maintWaits k op g).link k 0).mnt = [(op, g)] := by
    have hl : (h.maintWaits k op g).link k 0 = { h.link k 0 with mnt := (h.link k 0).mnt ++ [(op, g)] } := sget_sset_same ..
    rw [hl, hm]
    rfl
  change maintRetry (m, h.maintWaits k op g) k = _
  unfold maintRetry
  dsimp only
  rw [hq]
  dsimp only [List.foldl_cons, List.foldl_nil]
  rw [hr]
  rfl

/-- What a map with one change of every entry holds. -/
theorem sget_map {α : Type} {d : α} {f : α → α} (k : Nat) (m : SMap α) :
    sget d k (m.map fun p => (p.1, f p.2)) = f (sget d k m) ∨ sget d k (m.map fun p => (p.1, f p.2)) = d := by
  induction m with
  | nil => exact .inr rfl
  | cons p r ih =>
    obtain ⟨j, v⟩ := p
    rw [List.map_cons, sget, sget]
    split
    · exact .inl rfl
    · exact ih

/-- A TLBI of everything that M issues hits every entry (R196). -/
theorem Tlbi.hits_all {q : Tlbi} (hf : q.fn = 6) (hl : q.lvl = .m) (e : TlbEntry) : q.hits e = true := by
  unfold Tlbi.hits
  rw [hf, hl]
  rfl

/-- It leaves no core an entry. -/
theorem Hw.tlbiRemove_all {q : Tlbi} (hf : q.fn = 6) (hl : q.lvl = .m) (h : Hw) (c : Nat) :
    ((h.tlbiRemove q).core c).tlb = [] ∧ ((h.tlbiRemove q).core c).itlb = [] ∧ ((h.tlbiRemove q).core c).dtlb = [] := by
  rcases sget_map (d := Core.reset) (f := fun x : Core => { x with
        itlb := x.itlb.filter fun e => !q.hits e
        dtlb := x.dtlb.filter fun e => !q.hits e
        tlb := x.tlb.filter fun e => !q.hits e.2
        wcache := x.wcache.filter fun e => !q.hitsWc e.2
        walkers := x.walkers.map fun w => (w.1, { w.2 with discard := true }) }) c h.cores with hc | hc
  · have he : (h.tlbiRemove q).core c = _ := hc
    rw [he]
    simp [Tlbi.hits_all hf hl]
  · have he : (h.tlbiRemove q).core c = Core.reset := hc
    rw [he]
    exact ⟨rfl, rfl, rfl⟩

/-- What a TLBI of another member says (R360). -/
def galleryTlbiOf (g : GMsg) : Tlbi :=
  ⟨g.arg.toNat % 8, vword g.data 0, vword g.data 1, match g.arg.toNat / 16 % 4 with | 0 => .u | 1 => .s | 2 => .h | _ => .m,
    decide (g.arg.toNat / 8 % 2 = 1), (vword g.data 2).toNat, true, []⟩

theorem maintFull_none {h : Hw} (hm : h.maint = []) (g : GMsg) : h.maintFull g = false := by
  unfold Hw.maintFull
  rw [hm]
  rfl

/-- A TLBI that the unit has room for is taken (R361). -/
theorem maintStart_tlbi {h : Hw} (hm : h.maint = []) (g : GMsg) (m : List Host.Cell) :
    maintStart 0x38 g (m, h) = some (m, (h.tlbiRemove (galleryTlbiOf g)).maintTake g h.inFlight) := by
  unfold maintStart
  rw [maintFull_none hm]
  rfl

/-- A TLBI of another member is taken (R196, R360). -/
theorem galleryTlbi_answers {k : Nat} {g : GMsg} {s : State} (ho : s.hw.off = false) (hg : GalHere s.hw k g) (hm : s.hw.maint = [])
    (hn : (s.hw.link k 0).mnt = []) :
    Answers (.galleryTlbi k g) s fun u => u.mem = s.mem ∧ u.hw.newest = s.hw.newest ∧ (∃ w, u.hw.maint = [(g, w)]) ∧
      (g.arg.toNat = 6 + 8 * 1 + 16 * 3 → ∀ c, (u.hw.core c).tlb = [] ∧ (u.hw.core c).itlb = [] ∧ (u.hw.core c).dtlb = []) := by
  have htaken := maintArrive_taken hn (maintStart_tlbi (h := s.hw.maintWaits k 0x38 g) hm g s.mem)
  refine onGal_leaves ho hg rfl htaken ⟨rfl, rfl, ⟨_, congrArg (· ++ [_]) hm⟩, fun ha c => ?_⟩
  refine Hw.tlbiRemove_all ?_ ?_ (s.hw.maintWaits k 0x38 g) c
  · unfold galleryTlbiOf
    dsimp only
    rw [ha]
  · unfold galleryTlbiOf
    dsimp only
    rw [ha]
    rfl

/-! ### A CMO of another member to the point of coherence (R215, R217) -/

/-- What a clean does to copies leaves registers and the maintenance unit alone. -/
structure Hw.CleanFrame (h g : Hw) : Prop where
  regs : g.regs = h.regs
  maint : g.maint = h.maint

theorem Hw.CleanFrame.refl (h : Hw) : h.CleanFrame h := ⟨rfl, rfl⟩

theorem Hw.CleanFrame.trans {h g f : Hw} (a : h.CleanFrame g) (b : g.CleanFrame f) : h.CleanFrame f :=
  ⟨b.regs.trans a.regs, b.maint.trans a.maint⟩

/-- A fold whose steps leave them alone does. -/
theorem Hw.CleanFrame.fold {β : Type} {f : Hw → β → Hw} (hf : ∀ (h : Hw) b, h.CleanFrame (f h b)) (xs : List β) (h : Hw) :
    h.CleanFrame (xs.foldl f h) := by
  induction xs generalizing h with
  | nil => exact .refl h
  | cons x xs ih => exact (hf h x).trans (ih _)

/-- A loop whose rounds leave them alone does. -/
theorem Hw.CleanFrame.loop {f : Nat → Hw → Hw} (hf : ∀ i (h : Hw), h.CleanFrame (f i h)) (lo n : Nat) (h : Hw) : h.CleanFrame (forN lo n f h) :=
  forN_invariant (P := h.CleanFrame) (fun i _ ha => ha.trans (hf i _)) n (.refl h)

theorem Hw.setL2_cleanFrame (h : Hw) (c l : Nat) (f : CLine → CLine) : h.CleanFrame (h.setL2 c l f) := by
  unfold Hw.setL2
  split <;> exact ⟨rfl, rfl⟩

theorem Hw.CleanFrame.setL2 {h g : Hw} (e : h.CleanFrame g) (c l : Nat) (f : CLine → CLine) : h.CleanFrame (g.setL2 c l f) :=
  e.trans (g.setL2_cleanFrame c l f)

theorem Hw.setL1d_cleanFrame (h : Hw) (c l : Nat) (st : LSt) : h.CleanFrame (h.setL1d c l st) := by
  unfold Hw.setL1d
  split <;> exact ⟨rfl, rfl⟩

theorem Hw.l1Wb_cleanFrame (h : Hw) (c l : Nat) : h.CleanFrame (h.l1Wb c l) := by
  unfold Hw.l1Wb
  split
  · refine .setL2 ?_ _ _ _
    exact ⟨rfl, rfl⟩
  · exact .refl h

theorem Hw.l1dClean_cleanFrame (h : Hw) (c l : Nat) : h.CleanFrame (h.l1dClean c l) := by
  unfold Hw.l1dClean
  split
  · split
    · refine .setL2 ?_ _ _ _
      exact ⟨(h.setL1d_cleanFrame c l .e).regs, (h.setL1d_cleanFrame c l .e).maint⟩
    · exact .refl h
  · exact .refl h

theorem Hw.l1dShare_cleanFrame (h : Hw) (c l : Nat) : h.CleanFrame (h.l1dShare c l) := by
  unfold Hw.l1dShare
  split
  · split
    · refine .setL2 ?_ _ _ _
      exact ⟨(h.setL1d_cleanFrame c l .s).regs, (h.setL1d_cleanFrame c l .s).maint⟩
    · exact h.setL1d_cleanFrame c l .s
  · exact .refl h

theorem Hw.vatSetSt_cleanFrame (h : Hw) (s l : Nat) (st : LSt) : h.CleanFrame (h.vatSetSt s l st) := by
  unfold Hw.vatSetSt
  split <;> exact ⟨rfl, rfl⟩

theorem Hw.landed_cleanFrame (h : Hw) (l : Nat) : h.CleanFrame (h.landed l) := by
  obtain ⟨c, e⟩ := h.landed_eq l
  rw [e]
  exact ⟨rfl, rfl⟩

/-- A Pool copy that goes touches a controller alone. -/
theorem Hw.poolDrop_eq (h : Hw) (l : Nat) : ∃ mcs, h.poolDrop l = { h with mcs := mcs } := by
  unfold Hw.poolDrop
  split
  · exact ⟨h.mcs, rfl⟩
  · extract_lets q
    split
    · split
      · exact ⟨_, rfl⟩
      · exact ⟨h.mcs, rfl⟩
    · exact ⟨h.mcs, rfl⟩

/-- A clean to the point of coherence of a line of this node writes its newest value to memory, which then is the newest (R215). -/
theorem cmoHome_clean {m : List Host.Cell} {h : Hw} {l : Nat} (hl : h.localLine l = true) :
    (cmoHome 0 l (m, h)).1 = memPut (lineLocal l) (vbytes (lineVal m h l) 0 64) m ∧ h.CleanFrame (cmoHome 0 l (m, h)).2 ∧
      sfind l (cmoHome 0 l (m, h)).2.newest = none := by
  obtain ⟨mcs, hpool⟩ := h.poolDrop_eq l
  generalize hq : cmoHome 0 l (m, h) = q
  unfold cmoHome at hq
  extract_lets s h0 dna hs v clean dropWbb kept mem home h1 h2 h3 h4 at hq
  have hdna : h.CleanFrame dna := by
    have hregs : dna.regs = (h.poolDrop l).regs := rfl
    have hmaint : dna.maint = (h.poolDrop l).maint := rfl
    rw [hpool] at hregs hmaint
    exact ⟨hregs, hmaint⟩
  have hlocal : dna.localLine l = true := (Hw.localLine_congr hdna.regs l).trans hl
  have hval : v = lineVal m h l := by
    have hv : v = lineVal m (h.poolDrop l) l := rfl
    rw [hv, hpool]
    rfl
  have hkept : ¬kept := by
    unfold kept
    rw [hlocal]
    decide
  have hmem : mem = memPut (lineLocal l) (vbytes (lineVal m h l) 0 64) m := by
    rw [← hval]
    exact if_neg hkept
  have hhome : h.CleanFrame home := by
    unfold home
    rw [if_neg hkept]
    exact hdna.trans ⟨rfl, rfl⟩
  rw [if_pos rfl] at hq
  have hone : h.CleanFrame h1 := by
    refine hhome.trans (.fold (fun h c => ?_) _ _)
    have hback : h.CleanFrame (forN 0 4 (fun i h => (h.l1Wb (4 * c + i) l).l1dClean (4 * c + i) l) h) :=
      .loop (fun i h => (h.l1Wb_cleanFrame (4 * c + i) l).trans (Hw.l1dClean_cleanFrame ..)) ..
    extract_lets g1 g2
    have hg2 : h.CleanFrame g2 := hback.setL2 ..
    split
    · exact hg2.trans (.loop (fun i h => Hw.l1dShare_cleanFrame ..) ..)
    · exact hg2
  have htwo : h.CleanFrame h2 := by
    unfold h2
    split
    · exact hone.trans (Hw.vatSetSt_cleanFrame ..)
    · exact hone
  rw [if_pos ((Hw.localLine_congr htwo.regs l).trans hl)] at hq
  subst hq
  have hentry : h2.CleanFrame (dropWbb h2) := ⟨rfl, rfl⟩
  have hdrop : h.CleanFrame ((dropWbb h2).landed l) := (htwo.trans hentry).trans (Hw.landed_cleanFrame ..)
  exact ⟨hmem, ⟨hdrop.regs, hdrop.maint⟩, sfind_sdel_same ..⟩

/-- Nothing of a line of this node has to leave for a home elsewhere. -/
theorem cmoNode_clean {m : List Host.Cell} {h : Hw} {l : Nat} (hh : h.cmoHeld l = false) (hl : h.localLine l = true) :
    cmoNode 0 l (m, h) = some (cmoHome 0 l (m, h)) := by
  have hhome : h.homePos l = none := by
    unfold Hw.homePos
    rw [if_pos hl]
  unfold cmoNode
  dsimp only
  rw [if_neg (by rw [hh]; decide), hhome, ite_self]

/-- A CMO that cleans a line of this node is taken where the unit has room (R361). -/
theorem maintStart_cmop {m : List Host.Cell} {h : Hw} {l : Nat} {g : GMsg} (hm : h.maint = []) (ha : g.arg.toNat % 4 = 0)
    (he : (vword g.data 0).toNat = l) (hh : h.cmoHeld l = false) (hl : h.localLine l = true) :
    maintStart 0x39 g (m, h) = some ((cmoHome 0 l (m, h)).1, (cmoHome 0 l (m, h)).2.maintTake g []) := by
  unfold maintStart
  rw [maintFull_none hm, ha, he, cmoNode_clean hh hl]
  rfl

/-- A CMO that cleans a line of this node is taken, and memory has the line's newest value (R215, R360). -/
theorem galleryCmop_answers {k l : Nat} {g : GMsg} {s : State} (ho : s.hw.off = false) (hg : GalHere s.hw k g) (hm : s.hw.maint = [])
    (hn : (s.hw.link k 0).mnt = []) (ha : g.arg.toNat % 4 = 0) (hw : Memory.wf s.mem = true) (he : (vword g.data 0).toNat = l)
    (hh : s.hw.cmoHeld l = false) (hl : s.hw.localLine l = true) :
    Answers (.cmop k g) s fun u => u.hw.maint = [(g, [])] ∧ sfind l u.hw.newest = none ∧
      ∀ a, memGet u.mem a = if lineLocal l ≤ a ∧ a < lineLocal l + 64 then vbyte (lineVal s.mem s.hw l) (a - lineLocal l)
        else memGet s.mem a := by
  obtain ⟨hmem, hframe, hnew⟩ := cmoHome_clean (m := s.mem) (h := s.hw.maintWaits k 0x39 g) hl
  have hstart := maintStart_cmop (m := s.mem) (h := s.hw.maintWaits k 0x39 g) hm ha he hh hl
  have htaken := maintArrive_taken hn hstart
  have hval : lineVal s.mem (s.hw.maintWaits k 0x39 g) l = lineVal s.mem s.hw l := rfl
  rw [hval] at hmem
  generalize cmoHome 0 l (s.mem, s.hw.maintWaits k 0x39 g) = q at hmem hframe hnew htaken
  refine onGal_leaves ho hg rfl htaken ⟨?_, hnew, fun a => ?_⟩
  · exact congrArg (· ++ [(g, [])]) (hframe.maint.trans hm)
  · dsimp only
    rw [hmem, memGet_line hw]

/-- Settles O39: at the port every request is in order and for this position, so that what it does there is posted or answered; at the slice
nothing else is in progress, so that a snoop, a writeback or a notice runs to its end at once; maintenance finds its unit empty. -/
theorem galleryRequests : Obligations.GalleryRequests := by
  intro k k2 g s ho hg ht _ _ _
  refine ⟨gallery_toSlices ho hg ht, ?_, ?_, ?_, ?_⟩
  · intro n inv f w hn _ hf hvc hin hat hrun hd l hp hnone hv hm hst hb hs hx hgt
    exact gallerySnoop_answers ho hg ht rfl hn hf hvc hin hat hrun hd hp hnone hv hm hst hb hs hx hgt
  · intro hst hl hx _
    exact ⟨fun hr hcxl hp hc => galleryWb_answers ho hg ht rfl (sliceOf_lt _) hst hl hx hr hcxl hp hc,
      fun hr => galleryEvc_answers ho hg ht rfl (sliceOf_lt _) hst hl hx hr⟩
  · exact fun hm hn => galleryTlbi_answers ho hg hm hn
  · intro hm hn ha hw l hh hl
    exact galleryCmop_answers ho hg hm hn ha hw rfl hh hl

end Sys2Proof.Machine

namespace Sys2Proof.Machine

open Sys2Proof.Safety Sys2Proof.Claims

/-! ### What an instruction that completes leaves of its thread (R57, R90, R109) -/

/-- The end test and the retirement count leave the general registers, the other registers and all but two control registers alone. -/
theorem Arch.done_seq (a : Arch) : (a.done .seq).g = a.g ∧ (a.done .seq).pc = pcAfter a ∧ (a.done .seq).crAt 1 = countAfter a ∧
    KeepsRest a (a.done .seq) := by
  obtain ⟨-, hpc, hcount, hrest⟩ := a.done_wg 0 0
  exact ⟨(a.setCr 0x011 (a.crAt 0x011 + 1)).endTest_keeps.1, hpc, hcount, hrest⟩

/-- A control register that the end test does not read leaves the next pc as it is. -/
theorem pcAfter_setCr (a : Arch) {k : Nat} (hk : 3 < k) (w : Word) : pcAfter (a.setCr k w) = pcAfter a := by
  unfold pcAfter
  rw [Arch.setCr_crAt_ne a (by omega), Arch.setCr_crAt_ne a (by omega), Arch.setCr_crAt_ne a (by omega), Arch.setCr_pc]

/-- A thread whose solo instruction completes: fetch goes on at the new pc (R105, R109). -/
def Thread.doneSolo (x : Thread) (n : Next) : Thread := { x.done n with f := (x.done n).f.discard (x.a.done n) (x.a.done n).pc }

theorem Hw.watch_updThread (h : Hw) (on : Bool) (w t : Nat) (f : Thread → Thread) :
    (h.watch on w).updThread t f = (h.updThread t f).watch on w := rfl

/-- Only what a change makes of the thread as it stands matters. -/
theorem Hw.updThread_congr {h : Hw} {t : Nat} {f g : Thread → Thread} (e : f (h.thread t) = g (h.thread t)) : h.updThread t f = h.updThread t g := by
  unfold Hw.updThread supd
  exact congrArg (fun x => { h with threads := sset t x h.threads }) e

theorem Hw.completeSolo_eq (h : Hw) (t : Nat) (n : Next) : ∃ on w, h.completeSolo t n = (h.updThread t fun x => x.doneSolo n).watch on w := by
  obtain ⟨on, w, e⟩ := h.complete_eq t n
  refine ⟨on, w, ?_⟩
  unfold Hw.completeSolo Hw.updFront
  dsimp only
  rw [h.complete_arch t n, e, Hw.watch_updThread, Hw.updThread_updThread]
  exact congrArg (·.watch on w) (Hw.updThread_congr rfl)

theorem Hw.completeSolo_thread (h : Hw) (t : Nat) (n : Next) : (h.completeSolo t n).thread t = (h.thread t).doneSolo n := by
  obtain ⟨on, w, e⟩ := h.completeSolo_eq t n
  rw [e, Hw.watch_thread, Hw.thread_updThread_same]

@[simp] theorem Hw.completeSolo_arch (h : Hw) (t : Nat) (n : Next) : ((h.completeSolo t n).thread t).a = (h.thread t).a.done n := by
  rw [Hw.completeSolo_thread]; rfl

/-! ### One thread changes -/

theorem onlyThread_updThread (t : Nat) (s : State) (f : Thread → Thread) : OnlyThread t s { s with hw := s.hw.updThread t f } :=
  ⟨rfl, rfl, _, s.hw.swdtOn, s.hw.swdt, rfl⟩

theorem onlyThread_watch {t : Nat} {s : State} {g : Hw} (h : OnlyThread t s { s with hw := g }) (on : Bool) (w : Nat) :
    OnlyThread t s { s with hw := g.watch on w } := by
  obtain ⟨-, -, x, _, _, e⟩ := h
  exact ⟨rfl, rfl, x, on, w, congrArg (fun k : Hw => k.watch on w) e⟩

/-- A change of one thread that follows another of it. -/
theorem onlyThread_then {t : Nat} {s : State} {g : Hw} (h : OnlyThread t s { s with hw := g }) (f : Thread → Thread) :
    OnlyThread t s { s with hw := g.updThread t f } := by
  obtain ⟨-, -, x, on, w, e⟩ := h
  refine ⟨rfl, rfl, f (g.thread t), on, w, ?_⟩
  dsimp only at e ⊢
  subst e
  simp [Hw.updThread, supd, sset_sset, Hw.thread]

/-- An instruction completes that changed nothing but its thread: every change of that thread would leave the others alone. -/
theorem onlyThread_complete {t : Nat} {s : State} {g : Hw} (h : ∀ f, OnlyThread t s { s with hw := g.updThread t f }) (n : Next) :
    OnlyThread t s { s with hw := g.complete t n } := by
  obtain ⟨on, w, e⟩ := g.complete_eq t n
  rw [e]
  exact onlyThread_watch (h _) on w

theorem onlyThread_completeSolo {t : Nat} {s : State} {g : Hw} (h : ∀ f, OnlyThread t s { s with hw := g.updThread t f }) (n : Next) :
    OnlyThread t s { s with hw := g.completeSolo t n } := by
  obtain ⟨on, w, e⟩ := g.completeSolo_eq t n
  rw [e]
  exact onlyThread_watch (h _) on w

/-! ### Exceptions: what the entry into a level leaves (R157, R158) -/

/-- Numbers below 2^64 laid one above the other: each reads back. -/
theorem pack_digit (b : Nat) (hb : 0 < b) (es : List Nat) (i : Nat) :
    es.foldr (fun e n => e % b + b * n) 0 / b ^ i % b = es.getD i 0 % b := by
  induction es generalizing i with
  | nil => simp
  | cons e r ih =>
    have hlt : e % b < b := Nat.mod_lt _ hb
    cases i with
    | zero => simp [Nat.add_mul_mod_self_left]
    | succ i =>
      rw [List.foldr_cons, List.getD_cons_succ, ← ih, Nat.pow_succ', ← Nat.div_div_eq_div_mul, Nat.add_mul_div_left _ _ hb,
        Nat.div_eq_of_lt hlt, Nat.zero_add]

theorem pack_lt (b : Nat) (hb : 0 < b) (es : List Nat) : es.foldr (fun e n => e % b + b * n) 0 < b ^ es.length := by
  induction es with
  | nil => simp
  | cons e r ih =>
    have hlt : e % b < b := Nat.mod_lt _ hb
    rw [List.foldr_cons, List.length_cons, Nat.pow_succ']
    calc e % b + b * r.foldr (fun e n => e % b + b * n) 0 < b + b * r.foldr (fun e n => e % b + b * n) 0 := by omega
      _ = b * (r.foldr (fun e n => e % b + b * n) 0 + 1) := by ring
      _ ≤ b * b ^ r.length := Nat.mul_le_mul_left _ ih

/-- An element of packed elements, where they fit a register (R69). -/
theorem elem_packElems {w : Nat} {es : List Nat} (hfit : w * es.length ≤ 512) (j : Nat) : elem (packElems w es) w j = es.getD j 0 % 2 ^ w := by
  have hlt : es.foldr (fun e n => e % 2 ^ w + 2 ^ w * n) 0 < 2 ^ 512 := calc
    _ < (2 ^ w) ^ es.length := pack_lt _ (Nat.two_pow_pos w) es
    _ = 2 ^ (w * es.length) := (Nat.pow_mul 2 w es.length).symm
    _ ≤ 2 ^ 512 := Nat.pow_le_pow_right Nat.two_pos hfit
  unfold elem packElems
  rw [BitVec.toNat_ofNat, Nat.mod_eq_of_lt hlt, Nat.pow_mul]
  exact pack_digit _ (Nat.two_pow_pos w) es j

theorem lineOf_eq_packElems (ws : List Word) : lineOf ws = packElems 64 (ws.map (·.toNat)) := by
  have hmod (w : Word) : w.toNat % 2 ^ 64 = w.toNat := Nat.mod_eq_of_lt w.isLt
  unfold lineOf packElems
  rw [List.foldr_map]
  simp only [hmod]

/-- A doubleword of a line made from eight. -/
theorem vword_lineOf {ws : List Word} (hl : ws.length ≤ 8) {i : Nat} (hi : i < ws.length) : vword (lineOf ws) i = ws[i] := by
  have he := elem_packElems (w := 64) (es := ws.map (·.toNat)) (by rw [List.length_map]; omega) i
  rw [List.getD_eq_getElem _ _ (by rwa [List.length_map]), List.getElem_map, ← lineOf_eq_packElems] at he
  apply BitVec.eq_of_toNat_eq
  unfold vword
  rw [BitVec.extractLsb'_toNat, Nat.shiftRight_eq_div_pow]
  exact he.trans (Nat.mod_eq_of_lt ws[i].isLt)

end Sys2Proof.Machine

namespace Sys2Proof.Machine

open Sys2Proof.Safety Sys2Proof.Claims

/-- A clear of the predictors leaves every thread's registers and back alone (R147). -/
theorem Hw.clearPred_thread (h : Hw) (t k : Nat) : ∃ f, (h.clearPred t).thread k = { h.thread k with f := f } := by
  unfold Hw.clearPred Hw.updFront
  by_cases hk : k = t
  · subst hk
    rw [Hw.thread_updThread_same]
    exact ⟨_, rfl⟩
  · rw [Hw.thread_updThread_ne _ _ _ hk]
    exact ⟨(h.thread k).f, rfl⟩

theorem Hw.clearPred_other (h : Hw) {t k : Nat} (hk : k ≠ t) : (h.clearPred t).thread k = h.thread k :=
  Hw.thread_updThread_ne _ _ _ hk

/-- The pending context comes into force; of the registers and the back nothing else changes (R91). -/
theorem Hw.applyCtx_thread (h : Hw) (t : Nat) :
    ∃ c f, (h.applyCtx t).thread t = { h.thread t with a := { (h.thread t).a with ctx := c }, f := f } := by
  unfold Hw.applyCtx
  dsimp only
  split
  · obtain ⟨f, e⟩ := Hw.clearPred_thread ((h.updArch t fun a => { a with ctx := _ }).updFront t Front.empty) t t
    rw [e]
    simp only [Hw.updFront, Hw.updArch, Hw.thread_updThread_same]
    exact ⟨_, _, rfl⟩
  · simp only [Hw.updArch, Hw.thread_updThread_same]
    exact ⟨_, _, rfl⟩

theorem Hw.applyCtx_other (h : Hw) {t k : Nat} (hk : k ≠ t) : (h.applyCtx t).thread k = h.thread k := by
  unfold Hw.applyCtx
  dsimp only
  split
  · rw [Hw.clearPred_other _ hk]
    unfold Hw.updFront Hw.updArch
    rw [Hw.thread_updThread_ne _ _ _ hk, Hw.thread_updThread_ne _ _ _ hk]
  · exact Hw.thread_updThread_ne _ _ _ hk

/-- The registers as an entry into level x leaves them (R158). -/
def Arch.entered (a : Arch) (x : Level) (entry : Word) : Arch :=
  { a with
    level := x, secure := entryWorld x a.secure, pc := entry &&& ~~~3
    cr := sset 5 0 (sset 1 0 (sset (lvlKey x (entryWorld x a.secure) 0)
      (Word.setFld (Word.setFld (a.crAt (lvlKey x (entryWorld x a.secure) 0)) 10 9 (Level.num a.level)) 1 1 0) a.cr)) }

theorem Hw.entryState_thread (h : Hw) (t : Nat) (x : Level) (entry : Word) :
    ((h.entryState t x entry).thread t).a = (h.thread t).a.entered x entry ∧ ((h.entryState t x entry).thread t).b.sb = (h.thread t).b.sb := by
  unfold Hw.entryState
  dsimp only
  split
  · obtain ⟨f, e⟩ := Hw.clearPred_thread (h.updThread t fun y => { y with
      a := (h.thread t).a.entered x entry
      f := y.f.discard ((h.thread t).a.entered x entry) ((h.thread t).a.entered x entry).pc
      b := { y.b with replay := none, walkEnds := [], ext := [], fext := [], solo := none }
      run := .running }) t t
    rw [Hw.thread_updThread_same] at e
    exact ⟨congrArg Thread.a e, congrArg (·.b.sb) e⟩
  · rw [Hw.thread_updThread_same]
    exact ⟨rfl, rfl⟩

theorem Hw.entryState_other (h : Hw) {t k : Nat} (hk : k ≠ t) (x : Level) (entry : Word) : (h.entryState t x entry).thread k = h.thread k := by
  unfold Hw.entryState
  dsimp only
  split
  · exact (Hw.clearPred_other _ hk).trans (Hw.thread_updThread_ne _ _ _ hk)
  · exact Hw.thread_updThread_ne _ _ _ hk

/-- The registers of a level stand from CR 0x400 on (R90). -/
theorem lvlKey_ge (x : Level) (w : Bool) (o : Nat) : 0x400 ≤ lvlKey x w o := by
  cases x <;> cases w <;> simp only [lvlKey, sKey, Bool.false_eq_true, if_true, if_false] <;> omega

theorem lvlKey_inj (x : Level) (w : Bool) {o p : Nat} (h : o ≠ p) : lvlKey x w o ≠ lvlKey x w p := by
  cases x <;> cases w <;> simp [lvlKey, sKey, h]

/-- Of the control registers an entry writes STATUS of the level, LOOP_COUNT and GEODE_ID only. -/
theorem Arch.entered_crAt (a : Arch) (x : Level) (entry : Word) {k : Nat} (h5 : k ≠ 5) (h1 : k ≠ 1)
    (h0 : k ≠ lvlKey x (entryWorld x a.secure) 0) : (a.entered x entry).crAt k = a.crAt k := by
  unfold Arch.crAt Arch.entered
  dsimp only
  rw [sget_sset_ne _ h5, sget_sset_ne _ h1, sget_sset_ne _ h0]

theorem Arch.entered_status (a : Arch) (x : Level) (entry : Word) :
    let k := lvlKey x (entryWorld x a.secure) 0
    (a.entered x entry).crAt k = Word.setFld (Word.setFld (a.crAt k) 10 9 (Level.num a.level)) 1 1 0 := by
  have hk := lvlKey_ge x (entryWorld x a.secure) 0
  unfold Arch.crAt Arch.entered
  dsimp only
  rw [sget_sset_ne _ (by omega), sget_sset_ne _ (by omega), sget_sset_same]
  rfl

theorem Arch.entered_loop (a : Arch) (x : Level) (entry : Word) : (a.entered x entry).crAt 1 = 0 := by
  unfold Arch.crAt Arch.entered
  dsimp only
  rw [sget_sset_ne _ (by decide), sget_sset_same]

theorem Arch.entered_geode (a : Arch) (x : Level) (entry : Word) : (a.entered x entry).geode = 0 := by
  unfold Arch.geode Arch.crAt Arch.entered
  dsimp only
  rw [sget_sset_same]
  rfl

/-- Hardware after an entry whose checks have passed: the frame in the store buffer, XSP, and the registers entered. -/
def Hw.pushed (h : Hw) (t : Nat) (x : Level) (c : Cause) (pa : Word) (mt : MemType) (entry : Word) : Hw :=
  let a := (h.thread t).a
  let acc : Acc := ⟨x, entryWorld x a.secure, 0⟩
  let push := fullEntry h t pa mt (lineOf (frameWords h t a x c.code c.sub 0 c.faddr c.epc (a.crAt 1, a.crAt 2, a.crAt 3))) .push acc
  ((h.updBack t fun b => { b with sb := b.sb ++ [push] }).updArch t
    fun a => a.setCr (lvlKey x acc.secure 2) (((h.thread t).a.crAt (lvlKey x acc.secure 2)) - 64)).entryState t x entry

/-- Outside every geode an entry has nothing to add (R407). -/
theorem Hw.geodeEntry_outside {h : Hw} {t : Nat} (hg : (h.thread t).a.geode = 0) (m : List Host.Cell) (faddr epc : Word) :
    h.geodeEntry m t faddr epc = .inr ⟨epc, faddr, ((h.thread t).a.crAt 1, (h.thread t).a.crAt 2, (h.thread t).a.crAt 3), [], id⟩ :=
  if_pos hg

/-- An entry whose checks pass, outside every geode, takes effect at once (R158, R165). -/
theorem Hw.enterLvl_open {t fuel : Nat} {x : Level} {c : Cause} {s : State} {pa entry : Word} {mt : MemType} (ho : EntryOpen t x c s pa mt entry) :
    Hw.enterLvl s.mem t (fuel + 1) s.hw x c.code c.sub 0 c.faddr c.epc = ((s.hw.applyCtx t).pushed t x c pa mt entry, .cause) := by
  obtain ⟨hg, ⟨tg, hpush⟩, hread, hroom, hvst⟩ := ho
  have hfree : ¬((true && (decide (16 ≤ ((s.hw.applyCtx t).thread t).b.sb.length) || !((s.hw.applyCtx t).thread t).b.vstWait.isEmpty)) = true) := by
    rw [hvst]
    simp [hroom]
  rw [Hw.enterLvl]
  simp only [hpush, hread, Hw.geodeEntry_outside hg, List.isEmpty_nil, if_neg hfree, if_true, id_eq]
  rfl

theorem Hw.pushed_thread (h : Hw) (t : Nat) (x : Level) (c : Cause) (pa : Word) (mt : MemType) (entry : Word) :
    let a := (h.thread t).a
    let w := entryWorld x a.secure
    ((h.pushed t x c pa mt entry).thread t).a = (a.setCr (lvlKey x w 2) (a.crAt (lvlKey x w 2) - 64)).entered x entry ∧
      ((h.pushed t x c pa mt entry).thread t).b.sb = (h.thread t).b.sb ++
        [fullEntry h t pa mt (lineOf (frameWords h t a x c.code c.sub 0 c.faddr c.epc (a.crAt 1, a.crAt 2, a.crAt 3))) .push ⟨x, w, 0⟩] := by
  obtain ⟨ha, hb⟩ := Hw.entryState_thread ((h.updBack t fun b => { b with sb := b.sb ++
    [fullEntry h t pa mt (lineOf (frameWords h t (h.thread t).a x c.code c.sub 0 c.faddr c.epc
      ((h.thread t).a.crAt 1, (h.thread t).a.crAt 2, (h.thread t).a.crAt 3))) .push ⟨x, entryWorld x (h.thread t).a.secure, 0⟩] }).updArch t
    fun a => a.setCr (lvlKey x (entryWorld x (h.thread t).a.secure) 2) ((h.thread t).a.crAt (lvlKey x (entryWorld x (h.thread t).a.secure) 2) - 64))
    t x entry
  simp only [Hw.updArch, Hw.updBack, Hw.thread_updThread_same] at ha hb
  exact ⟨ha, hb⟩

theorem Hw.pushed_other (h : Hw) {t k : Nat} (hk : k ≠ t) (x : Level) (c : Cause) (pa : Word) (mt : MemType) (entry : Word) :
    (h.pushed t x c pa mt entry).thread k = h.thread k := by
  unfold Hw.pushed Hw.updArch Hw.updBack
  dsimp only
  rw [Hw.entryState_other _ hk, Hw.thread_updThread_ne _ _ _ hk, Hw.thread_updThread_ne _ _ _ hk]

/-- The frame of a cause outside every geode, word by word (R157). -/
theorem frameWords_eq (h : Hw) (t : Nat) {a : Arch} (hg : a.geode = 0) (x : Level) {code sub : Nat} (hc : code < 64) (hs : sub < 2 ^ 16)
    (faddr epc l1 l2 l3 : Word) : ∃ last, frameWords h t a x code sub 0 faddr epc (l1, l2, l3) = [epc,
      w64 (b2n a.secure * 2 ^ 11 + Level.num a.level * 2 ^ 9 + b2n (Word.bit (a.crAt (lvlKey x (entryWorld x a.secure) 0)) 1) * 2),
      w64 (b2n (decide (32 ≤ code ∧ code ≤ 35)) * 2 ^ 63 + sub * 2 ^ 32 + code), faddr, l1, l2, l3, last] := by
  refine ⟨w64 (h.node * 2 ^ 48 + (if !a.secure && (x == .h || x == .m) then (a.crAt 0x804).toNat else 0) * 2 ^ 32 + t), ?_⟩
  unfold frameWords
  dsimp only
  rw [hg, Nat.mod_eq_of_lt hc, Nat.mod_eq_of_lt hs]
  simp


/-- The registers with XSP of the level moved down, entered. -/
theorem Arch.entered_keeps (a : Arch) (x : Level) (entry : Word) : let w := entryWorld x a.secure
    let b := (a.setCr (lvlKey x w 2) (a.crAt (lvlKey x w 2) - 64)).entered x entry
    b.crAt (lvlKey x w 2) = a.crAt (lvlKey x w 2) - 64 ∧
      b.crAt (lvlKey x w 0) = Word.setFld (Word.setFld (a.crAt (lvlKey x w 0)) 10 9 (Level.num a.level)) 1 1 0 ∧
      ∀ k, k < 0x400 → k ≠ 1 → k ≠ 5 → b.crAt k = a.crAt k := by
  intro w b
  have h20 : lvlKey x w 2 ≠ lvlKey x w 0 := lvlKey_inj x w (by decide)
  have h2 := lvlKey_ge x w 2
  have h0 := lvlKey_ge x w 0
  refine ⟨?_, ?_, fun k hk h1 h5 => ?_⟩
  · exact (Arch.entered_crAt (a.setCr _ _) x entry (by omega) (by omega) h20).trans (Arch.setCr_crAt_same ..)
  · refine (Arch.entered_status (a.setCr _ _) x entry).trans ?_
    rw [Arch.setCr_secure, Arch.setCr_crAt_ne _ h20.symm, Arch.setCr_level]
  · exact (Arch.entered_crAt (a.setCr _ _) x entry h5 h1 (show k ≠ lvlKey x w 0 by omega)).trans (Arch.setCr_crAt_ne _ (by omega) _)

/-- The words of a frame read back (R157). -/
theorem vword_frame (w0 w1 w2 w3 w4 w5 w6 w7 : Word) : let v := lineOf [w0, w1, w2, w3, w4, w5, w6, w7]
    vword v 0 = w0 ∧ vword v 1 = w1 ∧ vword v 2 = w2 ∧ vword v 3 = w3 ∧ vword v 4 = w4 ∧ vword v 5 = w5 ∧ vword v 6 = w6 := by
  have hw (i : Nat) (hi : i < 8) : vword (lineOf [w0, w1, w2, w3, w4, w5, w6, w7]) i = [w0, w1, w2, w3, w4, w5, w6, w7][i] :=
    vword_lineOf (le_refl 8) hi
  exact ⟨hw 0 (by decide), hw 1 (by decide), hw 2 (by decide), hw 3 (by decide), hw 4 (by decide), hw 5 (by decide), hw 6 (by decide)⟩

/-- What an entry whose checks pass leaves (R157, R158). -/
theorem Hw.pushed_enters {t : Nat} {x : Level} {c : Cause} {s : State} {pa entry : Word} {mt : MemType} (hc : c.code < 64) (hs : c.sub < 2 ^ 16)
    (hg : ((s.hw.applyCtx t).thread t).a.geode = 0) : Enters t x c pa entry s { s with hw := (s.hw.applyCtx t).pushed t x c pa mt entry } := by
  obtain ⟨ctx, f, ht⟩ := s.hw.applyCtx_thread t
  have hsb : ((s.hw.applyCtx t).thread t).b.sb = (s.hw.thread t).b.sb := by rw [ht]
  have hothers (k : Nat) (hk : k ≠ t) : ((s.hw.applyCtx t).pushed t x c pa mt entry).thread k = s.hw.thread k :=
    (Hw.pushed_other _ hk ..).trans (Hw.applyCtx_other _ hk)
  clear ht
  unfold Enters OthersKeep
  dsimp only [-BitVec.reduceNot]
  generalize s.hw.applyCtx t = h at *
  obtain ⟨ha, hb⟩ := h.pushed_thread t x c pa mt entry
  generalize h.pushed t x c pa mt entry = g at *
  generalize (h.thread t).a = a at *
  obtain ⟨last, hf⟩ := frameWords_eq h t hg x hc hs c.faddr c.epc (a.crAt 1) (a.crAt 2) (a.crAt 3)
  obtain ⟨hsp, hst, hcr⟩ := a.entered_keeps x entry
  rw [hf, hsb] at hb
  rw [ha, hb]
  obtain ⟨h0, h1, h2, h3, h4, h5, h6⟩ := vword_frame c.epc (w64 (b2n a.secure * 2 ^ 11 + Level.num a.level * 2 ^ 9 +
    b2n (Word.bit (a.crAt (lvlKey x (entryWorld x a.secure) 0)) 1) * 2)) (w64 (b2n (decide (32 ≤ c.code ∧ c.code ≤ 35)) * 2 ^ 63 + c.sub * 2 ^ 32 + c.code))
    c.faddr (a.crAt 1) (a.crAt 2) (a.crAt 3) last
  have hvcsr := hcr 0 (by decide) (by decide) (by decide)
  have hgeode := Arch.entered_geode (a.setCr (lvlKey x (entryWorld x a.secure) 2) (a.crAt (lvlKey x (entryWorld x a.secure) 2) - 64)) x entry
  have hloop := Arch.entered_loop (a.setCr (lvlKey x (entryWorld x a.secure) 2) (a.crAt (lvlKey x (entryWorld x a.secure) 2) - 64)) x entry
  cases x <;> exact ⟨rfl, hothers, rfl, rfl, rfl, hgeode, hloop, hsp, hst, rfl, rfl, rfl, hvcsr, _, rfl, rfl, rfl, h0, h1, h2, h3, h4, h5, h6⟩

end Sys2Proof.Machine

namespace Sys2Proof.Machine

open Sys2Proof.Safety Sys2Proof.Claims

/-- An exception whose entry's checks pass is entered at its target (R156, R158). -/
theorem Hw.raise_enters {t : Nat} {lvl x : Level} {c : Cause} {s : State} {pa entry : Word} {mt : MemType} (hx : (s.hw.thread t).a.target lvl = x)
    (hc : c.code < 64) (hs : c.sub < 2 ^ 16) (ho : EntryOpen t x c s pa mt entry) :
    Enters t x c pa entry s { s with hw := s.hw.raise s.mem t lvl c.code c.sub c.faddr c.epc } := by
  have he := Hw.pushed_enters (mt := mt) (entry := entry) (pa := pa) (x := x) hc hs ho.1
  unfold Hw.raise
  rw [hx, Hw.enterLvl_open ho]
  exact he

/-- An exception of S is taken at S, or at the level of a thread above it (R152, R156). -/
theorem Arch.target_s (a : Arch) : a.target .s = sStar a := by
  unfold Arch.target sStar
  cases a.level <;> rfl

/-- An illegal instruction is entered at S or above (R156). -/
theorem Hw.illegal_enters {t : Nat} {s : State} {pa entry : Word} {mt : MemType}
    (ho : EntryOpen t (sStar (s.hw.thread t).a) ⟨0, 0, 0, (s.hw.thread t).a.pc⟩ s pa mt entry) :
    Enters t (sStar (s.hw.thread t).a) ⟨0, 0, 0, (s.hw.thread t).a.pc⟩ pa entry s { s with hw := s.hw.illegal s.mem t } :=
  Hw.raise_enters (Arch.target_s _) (Nat.zero_lt_succ _) (Nat.two_pow_pos _) ho

/-- Of the control registers below the levels' an entry writes LOOP_COUNT and GEODE_ID only. -/
theorem Hw.pushed_crAt (h : Hw) (t : Nat) (x : Level) (c : Cause) (pa : Word) (mt : MemType) (entry : Word) {k : Nat} (hk : k < 0x400) (h1 : k ≠ 1)
    (h5 : k ≠ 5) : (((h.applyCtx t).pushed t x c pa mt entry).thread t).a.crAt k = (h.thread t).a.crAt k := by
  obtain ⟨ctx, f, ht⟩ := h.applyCtx_thread t
  obtain ⟨ha, -⟩ := (h.applyCtx t).pushed_thread t x c pa mt entry
  obtain ⟨-, -, hcr⟩ := ((h.applyCtx t).thread t).a.entered_keeps x entry
  rw [ha, hcr k hk h1 h5, ht]
  rfl

/-! ### WAIT, LTOL and what is held at RD (R92, R101, R109) -/

/-- A thread that is ready runs (R106). -/
theorem Hw.run_of_ready {h : Hw} {t : Nat} {srcs : List Dest} {c : Cls} (hr : h.ready t srcs c = true) : (h.thread t).run = .running := by
  unfold Hw.ready Hw.issues at hr
  simp only [Bool.and_eq_true, decide_eq_true_eq] at hr
  tauto

/-- A WAIT that is neither illegal nor trapped passes the pc on and stops the thread where nothing is pending (R101; log 131). -/
theorem wait_stops {t : Nat} {s : State} (ho : s.hw.off = false) (hr : s.hw.ready t [] .solo = true) (hu : (s.hw.thread t).a.level ≠ .u)
    (hn : ¬((s.hw.thread t).a.level = .s ∧ (s.hw.thread t).a.secure = false ∧ ((s.hw.thread t).a.crAt 0x807).getLsbD 2 = true)) :
    Answers (.wait t) s fun u => OnlyThread t s u ∧ KeepsRest (s.hw.thread t).a (u.hw.thread t).a ∧
      (u.hw.thread t).a.pc = pcAfter (s.hw.thread t).a ∧
      (u.hw.thread t).run = if s.hw.pendingInts t = [] then .waiting (s.hw.thread t).a.level (s.hw.thread t).a.secure else .running := by
  have hone := onlyThread_completeSolo (onlyThread_updThread t s) .seq
  obtain ⟨-, hpc, -, hkeeps⟩ := (s.hw.thread t).a.done_seq
  have hn' : ¬((s.hw.thread t).a.level = .s ∧ (!(s.hw.thread t).a.secure) = true ∧ Word.bit ((s.hw.thread t).a.crAt 0x807) 2 = true) := by
    rwa [Bool.not_eq_true']
  refine Answers.of_onHw ho rfl ?_
  dsimp only
  rw [if_neg (by rw [hr]; decide), if_neg hu, if_neg hn']
  by_cases hp : s.hw.pendingInts t = []
  · rw [if_pos hp, if_pos (by rw [hp]; rfl), Hw.thread_updThread_same]
    exact ⟨onlyThread_then hone _, by rwa [Hw.completeSolo_arch], by rwa [Hw.completeSolo_arch], rfl⟩
  · rw [if_neg hp, if_neg (by rwa [List.isEmpty_iff])]
    exact ⟨hone, by rwa [Hw.completeSolo_arch], by rwa [Hw.completeSolo_arch], by rw [Hw.completeSolo_thread]; exact Hw.run_of_ready hr⟩

/-- WTRAP sends a WAIT at normal-world S to H (R92, R156). -/
theorem wait_traps {t : Nat} {s : State} {pa entry : Word} {mt : MemType} (ho : s.hw.off = false) (hr : s.hw.ready t [] .solo = true)
    (htrap : (s.hw.thread t).a.level = .s ∧ (s.hw.thread t).a.secure = false ∧ ((s.hw.thread t).a.crAt 0x807).getLsbD 2 = true)
    (he : EntryOpen t .h ⟨16, 0, 0, (s.hw.thread t).a.pc⟩ s pa mt entry) :
    Answers (.wait t) s (Enters t .h ⟨16, 0, 0, (s.hw.thread t).a.pc⟩ pa entry s) := by
  obtain ⟨hl, hsec, hbit⟩ := htrap
  have htarget : (s.hw.thread t).a.target .h = .h := by simp [Arch.target, hl, hsec, Level.num]
  refine Answers.of_onHw ho rfl ?_
  dsimp only
  rw [if_neg (by rw [hr]; decide), if_neg (by rw [hl]; decide), if_pos ⟨hl, by rw [hsec]; rfl, hbit⟩]
  exact Hw.raise_enters htarget (by decide : 16 < 64) (Nat.two_pow_pos _) he

/-- LTOL writes its register with the low half of g[ra] (R92). -/
theorem ltol_writes {t : Nat} {ra : Reg} {s : State} (ho : s.hw.off = false) (hr : s.hw.ready t [] .solo = true) :
    Answers (.ltol t ra) s fun u => OnlyThread t s u ∧ KeepsBut (fun k => k = 1 ∨ k = 4 ∨ k = 0x011) (s.hw.thread t).a (u.hw.thread t).a ∧
      (u.hw.thread t).a.crAt 4 = w64 (((s.hw.thread t).a.rg ra).toNat % 2 ^ 32) ∧ (u.hw.thread t).a.pc = pcAfter (s.hw.thread t).a := by
  have hone := onlyThread_completeSolo (onlyThread_then (onlyThread_updThread t s
    fun x => { x with a := x.a.setCr 4 (w64 ((x.a.rg ra).toNat % 2 ^ 32)) })) .seq
  refine Answers.of_onHw ho rfl ?_
  dsimp only
  rw [if_neg (by rw [hr]; decide), Hw.completeSolo_arch]
  unfold Hw.updArch
  rw [Hw.thread_updThread_same]
  dsimp only
  generalize w64 (((s.hw.thread t).a.rg ra).toNat % 2 ^ 32) = w
  obtain ⟨hg, hpc, -, hv, hm, hlvl, hsec, -, hcr, -⟩ := ((s.hw.thread t).a.setCr 4 w).done_seq
  refine ⟨hone, ⟨hg, hv, hm, hlvl, hsec, fun k hk => ?_⟩, (hcr 4 (by decide) (by decide)).trans (Arch.setCr_crAt_same ..),
    hpc.trans (pcAfter_setCr _ (by decide) _)⟩
  simp only [not_or] at hk
  exact (hcr k hk.1 hk.2.2).trans (Arch.setCr_crAt_ne _ hk.2.1 _)

/-- Which interrupts a thread can take does not depend on whether it runs (R154). -/
theorem Hw.takable_run (h : Hw) (t : Nat) (r : Run) : (h.updThread t fun x => { x with run := r }).takable t = h.takable t := by
  unfold Hw.takable Hw.pendingInts Hw.boxPending Hw.claimed Hw.virtPending Hw.regF
  simp only [Hw.thread_updThread_same, Hw.updThread_reg, Hw.updThread_time]
  rfl

/-- A waiting thread goes on when an interrupt is pending that it does not take (R101). -/
theorem waitResume_runs {t : Nat} {lvl : Level} {sec : Bool} {s : State} (ho : s.hw.off = false) (hrun : (s.hw.thread t).run = .waiting lvl sec)
    (hp : s.hw.pendingInts t ≠ []) (hup : s.hw.threadUp t = true) (ht : s.hw.takable t = []) :
    Answers (.waitResume t) s fun u => OnlyThread t s u ∧ (u.hw.thread t).a = (s.hw.thread t).a ∧ (u.hw.thread t).run = .running := by
  have hgo : ¬((s.hw.pendingInts t).isEmpty || !s.hw.threadUp t) = true := by simp [hup, hp]
  refine Answers.of_onHw ho rfl ?_
  dsimp only
  rw [hrun]
  dsimp only
  rw [if_neg hgo, if_pos (by rw [Hw.takable_run, ht]; rfl), Hw.thread_updThread_same]
  exact ⟨onlyThread_updThread t s _, rfl, rfl⟩

/-- A solo instruction that completes with nothing written (R62, R109). -/
theorem integerDone_of_completeSolo {t : Nat} {s : State} {g : Hw} (hg : ∀ f, OnlyThread t s { s with hw := g.updThread t f })
    (ha : (g.thread t).a = (s.hw.thread t).a) : IntegerDone t 0 0 s { s with hw := g.completeSolo t .seq } := by
  have hdone := (s.hw.thread t).a.done_wg 0 0
  refine ⟨onlyThread_completeSolo hg .seq, ?_⟩
  dsimp only
  rw [Hw.completeSolo_arch, ha]
  exact hdone

/-- A held fence whose condition holds completes (R62, R109). -/
theorem soloHoldRelease_fence {t : Nat} {pred succ : BitVec 4} {s : State} (ho : s.hw.off = false)
    (hsolo : (s.hw.thread t).b.solo = some (.fence t pred succ)) (hup : s.hw.threadUp t = true)
    (hdone : succ = 0 ∨ s.hw.fenceDone t pred = true) :
    Answers (.soloHoldRelease t) s fun u => IntegerDone t 0 0 s u ∧ (u.hw.thread t).b.solo = none := by
  have hok : s.hw.fenceOk t pred succ = true := by simpa [Hw.fenceOk] using hdone
  refine Answers.of_onHw ho rfl ?_
  dsimp only
  rw [hsolo]
  dsimp only
  rw [if_neg (by rw [hup]; decide)]
  unfold Hw.soloGo
  rw [if_pos hok]
  refine ⟨integerDone_of_completeSolo (onlyThread_then (onlyThread_updThread t s _)) ?_, ?_⟩
  · unfold Hw.updBack
    rw [Hw.thread_updThread_same]
  · unfold Hw.updBack
    rw [Hw.completeSolo_thread, Hw.thread_updThread_same]
    rfl

/-- Settles O10: a clause each for WAIT, its trap, LTOL, WAIT_RESUME and a held fence. -/
theorem waitsAndHeldSolos : Obligations.WaitsAndHeldSolos := by
  intro t ra s ho
  refine ⟨fun hr => ⟨wait_stops ho hr, fun htrap _ _ _ => wait_traps ho hr htrap, ltol_writes ho hr⟩, ?_, ?_⟩
  · exact fun _ _ hrun hp hup ht => waitResume_runs ho hrun hp hup ht
  · exact fun _ _ hsolo hup hdone => soloHoldRelease_fence ho hsolo hup hdone

end Sys2Proof.Machine

namespace Sys2Proof.Machine

open Sys2Proof.Safety Sys2Proof.Claims

/-! ### Calls, unassigned encodings and interrupts (R92, R107, R154, R156) -/

/-- The retirement count, raised after an entry, leaves what the entry left (R90, R158). -/
theorem enters_retire {t : Nat} {x : Level} {c : Cause} {pa entry : Word} {s : State} {g : Hw} (h : Enters t x c pa entry s { s with hw := g }) :
    Enters t x c pa entry s { s with hw := g.updArch t Arch.retire } := by
  have hkey {k : Nat} (hk : k ≠ 0x011) : (g.thread t).a.retire.crAt k = (g.thread t).a.crAt k := Arch.setCr_crAt_ne _ hk _
  have hlvl (w : Bool) (o : Nat) : lvlKey x w o ≠ 0x011 := by have := lvlKey_ge x w o; omega
  unfold Enters OthersKeep at h ⊢
  dsimp only [-BitVec.reduceNot] at h ⊢
  unfold Hw.updArch
  rw [Hw.thread_updThread_same]
  dsimp only [-BitVec.reduceNot]
  rw [hkey (by decide : 1 ≠ 0x011), hkey (hlvl _ 2), hkey (hlvl _ 0), hkey (by decide : 0 ≠ 0x011)]
  obtain ⟨hmem, hothers, hl, hsec, hpc, hgeode, hrest⟩ := h
  exact ⟨hmem, fun k hk => (Hw.thread_updThread_ne _ _ _ hk).trans (hothers k hk), hl, hsec, hpc,
    (congrArg BitVec.toNat (hkey (by decide : 5 ≠ 0x011))).trans hgeode, hrest⟩

/-- A call whose level allows it is entered at its target and counted (R90, R92). -/
theorem Hw.call_enters {t : Nat} {lvl x : Level} {code : Nat} {s : State} {pa entry : Word} {mt : MemType} (hr : s.hw.ready t [] .solo = true)
    (hx : (s.hw.thread t).a.target lvl = x) (hc : code < 64) (ho : EntryOpen t x ⟨code, 0, 0, (s.hw.thread t).a.pc + 4⟩ s pa mt entry) :
    let u : State := { s with hw := s.hw.call s.mem t true lvl code }
    Enters t x ⟨code, 0, 0, (s.hw.thread t).a.pc + 4⟩ pa entry s u ∧ (u.hw.thread t).a.crAt 0x011 = (s.hw.thread t).a.crAt 0x011 + 1 := by
  have hcall : s.hw.call s.mem t true lvl code =
      ((s.hw.applyCtx t).pushed t x ⟨code, 0, 0, (s.hw.thread t).a.pc + 4⟩ pa mt entry).updArch t Arch.retire := by
    unfold Hw.call
    rw [if_neg (by rw [hr]; decide), if_neg (by decide)]
    have hopen := Hw.enterLvl_open (fuel := 2) ho
    dsimp only at hopen ⊢
    rw [hx, hopen]
    exact if_neg Took.noConfusion
  rw [hcall]
  refine ⟨enters_retire (Hw.pushed_enters hc (Nat.two_pow_pos _) ho.1), ?_⟩
  unfold Hw.updArch Arch.retire
  dsimp only
  rw [Hw.thread_updThread_same]
  dsimp only
  rw [Arch.setCr_crAt_same, Hw.pushed_crAt _ _ _ _ _ _ _ (by decide) (by decide) (by decide)]

/-- Each call at the levels that may make it (R92, R156). -/
theorem call_answers {t : Nat} {s : State} (ho : s.hw.off = false) (hr : s.hw.ready t [] .solo = true) :
    ∀ p ∈ callRows, p.2.1 (s.hw.thread t).a → ∀ pa mt entry, EntryOpen t p.2.2.1 ⟨p.2.2.2, 0, 0, (s.hw.thread t).a.pc + 4⟩ s pa mt entry →
      Answers (p.1 t) s fun u => Enters t p.2.2.1 ⟨p.2.2.2, 0, 0, (s.hw.thread t).a.pc + 4⟩ pa entry s u ∧
        (u.hw.thread t).a.crAt 0x011 = (s.hw.thread t).a.crAt 0x011 + 1 := by
  unfold callRows
  simp only [List.forall_mem_cons, List.not_mem_nil, false_implies, implies_true, and_true]
  refine ⟨fun hl pa mt entry he => ?_, fun hl pa mt entry he => ?_, fun hl pa mt entry he => ?_⟩
  · have hx : (s.hw.thread t).a.target .s = .s := by rw [Arch.target_s, sStar, hl]
    refine Answers.of_onHw ho rfl ?_
    rw [decide_eq_true hl]
    exact Hw.call_enters hr hx (by decide) he
  · have hx : (s.hw.thread t).a.target .h = .h := by simp [Arch.target, hl.1, hl.2, Level.num]
    refine Answers.of_onHw ho rfl ?_
    rw [decide_eq_true hl.1, hl.2]
    exact Hw.call_enters hr hx (by decide) he
  · have hx : (s.hw.thread t).a.target .m = .m := by rcases hl with hl | hl <;> simp [Arch.target, hl, Level.num]
    refine Answers.of_onHw ho rfl ?_
    rw [decide_eq_true hl]
    exact Hw.call_enters hr hx (by decide) he

/-- A word that no instruction assigns is an illegal instruction (R107, R152). -/
theorem illegalInstruction_enters {t : Nat} {w : BitVec 32} {s : State} {pa entry : Word} {mt : MemType} (ho : s.hw.off = false)
    (hr : s.hw.ready t [] .solo = true) (hw : insnDecode t w = none)
    (he : EntryOpen t (sStar (s.hw.thread t).a) ⟨0, 0, 0, (s.hw.thread t).a.pc⟩ s pa mt entry) :
    Answers (.illegalInstruction t w) s (Enters t (sStar (s.hw.thread t).a) ⟨0, 0, 0, (s.hw.thread t).a.pc⟩ pa entry s) := by
  refine Answers.of_onHw ho rfl ?_
  rw [if_neg (by rw [hw, hr]; decide)]
  exact Hw.illegal_enters he

/-- A timer interrupt is entered at the thread's issue boundary, with nothing consumed (R154, R158). -/
theorem exceptionEntry_timer {t : Nat} {x : Level} {sec : Bool} {s : State} {pa entry : Word} {mt : MemType} (ho : s.hw.off = false)
    (ht : (s.hw.takable t).head? = some (x, sec, 33)) (hn : t < numThreads) (htl : (s.hw.thread t).b.tlbi = none)
    (hso : (s.hw.thread t).b.solo = none) (hup : s.hw.threadUp t = true) (hrun : (s.hw.thread t).run = .running)
    (he : EntryOpen t x ⟨33, 0, 0, (s.hw.thread t).a.pc⟩ s pa mt entry) :
    Answers (.exceptionEntry t) s (Enters t x ⟨33, 0, 0, (s.hw.thread t).a.pc⟩ pa entry s) := by
  obtain ⟨r, hr⟩ : ∃ r, s.hw.takable t = (x, sec, 33) :: r := by
    cases hk : s.hw.takable t with
    | nil => rw [hk] at ht; exact absurd ht (by simp)
    | cons p r => rw [hk] at ht; exact ⟨r, by rw [Option.some.inj ht]⟩
  have hopen := Hw.enterLvl_open (fuel := 2) he
  have henters := Hw.pushed_enters (c := ⟨33, 0, 0, (s.hw.thread t).a.pc⟩) (x := x) (pa := pa) (mt := mt) (entry := entry) (by decide : 33 < 64)
    (Nat.two_pow_pos 16) he.1
  dsimp only at hopen
  have htake : s.hw.takeInterrupt s.mem t = (s.hw.applyCtx t).pushed t x ⟨33, 0, 0, (s.hw.thread t).a.pc⟩ pa mt entry := by
    unfold Hw.takeInterrupt
    rw [hr]
    dsimp only
    rw [show s.hw.intSub t x sec 33 = (0, 0) from rfl, hopen]
    exact if_pos rfl
  refine Answers.of_onHw ho rfl ?_
  dsimp only
  rw [if_neg (by simp [hrun, hup, htl, hso, Nat.not_le.2 hn]), if_pos (by rw [hr]; rfl), htake]
  exact henters

/-- Settles O12: the calls, the unassigned encodings, and the timer interrupt at an issue boundary. -/
theorem callsAndExceptionEntry : Obligations.CallsAndExceptionEntry := by
  intro t s ho
  refine ⟨fun hr => ⟨call_answers ho hr, fun w hw pa mt entry he => illegalInstruction_enters ho hr hw he⟩, ?_⟩
  exact fun x sec ht hn htl hso hup hrun pa mt entry he => exceptionEntry_timer ho ht hn htl hso hup hrun he

end Sys2Proof.Machine

namespace Sys2Proof.Machine

open Sys2Proof.Safety Sys2Proof.Claims

/-! ### Long operations as they issue (R71, R110, R113, R114) -/

/-- What the back of a thread is once a long operation has issued. -/
def Back.withLong (b : Back) (o : LongOp) : Back :=
  { b with
    longs := b.longs ++ [{ o with id := b.fresh }]
    nextId := b.fresh + 1
    owed := (if o.dest = .none then [] else [(o.dest, b.fresh)]) ++ b.owed.filter fun p => p.1 != o.dest || o.dest == .none }

theorem Hw.addLong_eq (h : Hw) (t : Nat) (o : LongOp) : h.addLong t o = h.updThread t fun x => { x with b := x.b.withLong o } := rfl

theorem LongOp.id_lt_foldl (l : List LongOp) (k : Nat) :
    k ≤ l.foldl (fun n o => max n (o.id + 1)) k ∧ ∀ q ∈ l, q.id < l.foldl (fun n o => max n (o.id + 1)) k := by
  induction l generalizing k with
  | nil => exact ⟨le_refl k, fun _ hq => absurd hq List.not_mem_nil⟩
  | cons o r ih =>
    obtain ⟨hk, hr⟩ := ih (max k (o.id + 1))
    simp only [List.foldl_cons]
    refine ⟨(le_max_left _ _).trans hk, fun q hq => ?_⟩
    rcases List.mem_cons.1 hq with rfl | hq
    · exact (le_max_right k (q.id + 1)).trans hk
    · exact hr q hq

/-- The number of a new long operation is no other one's. -/
theorem Back.id_ne_fresh {b : Back} {q : LongOp} (hq : q ∈ b.longs) : q.id ≠ b.fresh :=
  Nat.ne_of_lt ((LongOp.id_lt_foldl b.longs b.nextId).2 q hq)

/-- A new long operation owns its destination (R114). -/
theorem Back.withLong_owed (b : Back) {o : LongOp} (hd : o.dest ≠ .none) : (o.dest, b.fresh) ∈ (b.withLong o).owed := by
  unfold Back.withLong
  simp [hd]

/-- A long operation with a known result issues as its instruction completes (R71, R110). -/
theorem issued_addLong {t : Nat} {s : State} {o : LongOp} {P : LongOp → Prop} (hr : o.ready = true) (hP : ∀ id, P { o with id := id }) :
    Issued t o.dest o.kind s P { s with hw := (s.hw.addLong t o).complete t .seq } := by
  obtain ⟨hg, hpc, -, hrest⟩ := (s.hw.thread t).a.done_seq
  unfold Issued
  refine ⟨onlyThread_complete (onlyThread_then (onlyThread_updThread t s _)) .seq, ?_⟩
  dsimp only
  rw [Hw.complete_thread, Hw.addLong_eq, Hw.thread_updThread_same]
  exact ⟨hg, hpc, hrest, _, rfl, rfl, rfl, hr, fun q hq => Back.id_ne_fresh hq, fun hd => Back.withLong_owed _ hd, hP _⟩

/-! ### Vector operations: readiness, reserved forms, the disabled unit (R70 to R72) -/

/-- The model's tests for m0 and the statements' agree. -/
theorem mask_eq_zero (mk : BitVec 3) : mk = 0 ↔ mk.toNat = 0 := ⟨fun h => by rw [h]; rfl, fun h => BitVec.eq_of_toNat_eq h⟩

theorem srcD_eq (vd : Reg) (mk : BitVec 3) : srcD vd mk = underMask vd mk := if_congr (mask_eq_zero mk) rfl rfl

theorem srcM_eq (mk : BitVec 3) : srcM mk = maskSrc mk := if_congr (mask_eq_zero mk) rfl rfl

/-- A vector operation that is ready, assigned and enabled issues with its result and flags (R71). -/
theorem vecOp_answers {i : Instr} {t : Nat} {k : LongKind} {cls : Cls} {srcs srcs' : List Dest} {dest : Dest} {reserved fl : Bool}
    {f : Arch → Vec × BitVec 5} {s : State} {P : LongOp → Prop} (he : exec i s = s.onHw fun m h => h.vecOp m t k cls srcs' dest reserved fl f)
    (ho : VecOpen t srcs cls s) (hs : srcs' = srcs) (hres : reserved = false)
    (hP : ∀ id, P { LongOp.known k dest (f (s.hw.thread t).a).1 with id := id, flags := (f (s.hw.thread t).a).2, setsFlags := fl }) :
    Answers i s (Issued t dest k s P) := by
  obtain ⟨hoff, hready, hen⟩ := ho
  subst hs hres
  refine Answers.of_onHw hoff he ?_
  unfold Hw.vecOp
  rw [if_neg (by rw [hready]; decide)]
  dsimp only
  rw [if_neg (by decide), hen]
  exact issued_addLong (o := { LongOp.known k dest (f (s.hw.thread t).a).1 with flags := (f (s.hw.thread t).a).2, setsFlags := fl }) rfl hP

/-- The level that the vector-disabled exception is taken at (R72, R156). -/
theorem vecDisabled_target {a : Arch} {x : Level} (h : disabledAt a = some x) : ∃ y, a.vecDisabled = some y ∧ a.target y = x := by
  unfold disabledAt at h
  unfold Arch.vecDisabled sKey Arch.target Word.bit
  cases hl : a.level <;> cases hsec : a.secure <;> cases hh : (a.crAt 0x800).getLsbD 3 <;> simp_all [Level.num]
  all_goals
    obtain ⟨hs, rfl⟩ := h
    simp_all

/-- A vector operation that a disabled unit meets (R72). -/
theorem vecOp_disabled {i : Instr} {t : Nat} {k : LongKind} {cls : Cls} {srcs srcs' : List Dest} {dest : Dest} {fl : Bool}
    {f : Arch → Vec × BitVec 5} {s : State} {x : Level} {pa entry : Word} {mt : MemType}
    (he : exec i s = s.onHw fun m h => h.vecOp m t k cls srcs' dest false fl f) (hoff : s.hw.off = false) (hready : s.hw.ready t srcs cls = true)
    (hs : srcs' = srcs) (hx : disabledAt (s.hw.thread t).a = some x) (ho : EntryOpen t x ⟨10, 0, 0, (s.hw.thread t).a.pc⟩ s pa mt entry) :
    Answers i s (Enters t x ⟨10, 0, 0, (s.hw.thread t).a.pc⟩ pa entry s) := by
  obtain ⟨y, hy, htarget⟩ := vecDisabled_target hx
  subst hs
  refine Answers.of_onHw hoff he ?_
  unfold Hw.vecOp
  rw [if_neg (by rw [hready]; decide)]
  dsimp only
  rw [if_neg (by decide), hy]
  exact Hw.raise_enters htarget (by decide : 10 < 64) (Nat.two_pow_pos _) ho

/-! ### Elements and flags under a mask (R69, R70, R87) -/

theorem ewBits_count (ew : BitVec 2) : 512 / ewBits ew = ewCount ew := by revert ew; decide

theorem ewBits_mul_count (ew : BitVec 2) : ewBits ew * ewCount ew = 512 := by revert ew; decide

theorem ewBits_pos (ew : BitVec 2) : 0 < ewBits ew := by revert ew; decide

theorem elem_lt (v : Vec) (w j : Nat) : elem v w j < 2 ^ w := Nat.mod_lt _ (Nat.two_pow_pos w)

theorem zipIdx_map_range {α : Type} (n : Nat) (g : Nat → α) : ((List.range n).map g).zipIdx = (List.range n).map fun j => (g j, j) := by
  apply List.ext_getElem <;> simp

/-- Results under a mask (R70). -/
theorem elements_predicate {w n : Nat} {mask : Word} {old : Vec} {g f : Nat → Nat} (hfit : w * n ≤ 512) (hgf : ∀ j, g j % 2 ^ w = f j % 2 ^ w) :
    Elements w n mask old (predicate w mask old ((List.range n).map g)) f := by
  intro j hj
  unfold predicate
  rw [zipIdx_map_range, List.map_map, elem_packElems (by rwa [List.length_map, List.length_range]), List.getD_eq_getElem _ _ (by simpa using hj)]
  simp only [List.getElem_map, List.getElem_range, Function.comp_apply]
  by_cases hm : active mask j = true
  · rw [if_pos hm, if_pos (show mask.getLsbD j = true from hm)]
    exact hgf j
  · rw [if_neg hm, if_neg (show ¬mask.getLsbD j = true from hm)]
    exact Nat.mod_eq_of_lt (elem_lt old w j)

/-- Flags gathered from active elements (R87). -/
theorem foldl_flags (mask : Word) (l : List (FRes × Nat)) (f0 : BitVec 5) (i : Nat) :
    (l.foldl (fun f p => if active mask p.2 then f ||| p.1.2 else f) f0).getLsbD i = true ↔
      f0.getLsbD i = true ∨ ∃ p ∈ l, mask.getLsbD p.2 = true ∧ p.1.2.getLsbD i = true := by
  induction l generalizing f0 with
  | nil => simp
  | cons p r ih =>
    rw [List.foldl_cons, ih]
    by_cases hp : mask.getLsbD p.2 = true
    · simp [active, hp, or_assoc]
    · simp [active, hp]

theorem flagsOf_predicateF {w n : Nat} {mask : Word} {old : Vec} {r : Nat → FRes} {o : LongOp} (hs : o.setsFlags = true)
    (hf : o.flags = (predicateF w mask old ((List.range n).map r)).2) : FlagsOf n mask o fun j => (r j).2 := by
  refine ⟨hs, fun i _ => ?_⟩
  rw [hf]
  unfold predicateF
  rw [zipIdx_map_range, foldl_flags]
  simp

theorem elements_predicateF {w n : Nat} {mask : Word} {old : Vec} {r : Nat → FRes} {f : Nat → Nat} (hfit : w * n ≤ 512)
    (hrf : ∀ j, (r j).1 % 2 ^ w = f j % 2 ^ w) : Elements w n mask old (predicateF w mask old ((List.range n).map r)).1 f := by
  unfold predicateF
  rw [List.map_map]
  exact elements_predicate hfit hrf

/-- An element of the second operand is a number of the width (R73). -/
theorem operandB_lt (a : Arch) (vb : Reg) (sc : Bool) (w j : Nat) : operandB a vb sc w j < 2 ^ w := by
  unfold operandB
  split
  · exact Nat.mod_lt _ (Nat.two_pow_pos w)
  · exact elem_lt _ w j

/-! ### Numbers of a width (R74) -/

theorem toS_of_lt {w n : Nat} (h : n < 2 ^ w) : toS w n = if n < 2 ^ (w - 1) then (n : Int) else (n : Int) - (2 ^ w : Nat) := by
  unfold toS
  rw [Nat.mod_eq_of_lt h]

theorem toS_inj {w a b : Nat} (ha : a < 2 ^ w) (hb : b < 2 ^ w) (h : toS w a = toS w b) : a = b := by
  rw [toS_of_lt ha, toS_of_lt hb] at h
  split at h <;> split at h <;> omega

theorem ofS_of_lt {w n : Nat} (h : n < 2 ^ w) : ofS w (n : Int) = n := by
  unfold ofS
  rw [← Int.natCast_emod, Int.toNat_natCast, Nat.mod_eq_of_lt h]

theorem ofS_natCast (w n : Nat) : ofS w (n : Int) = n % 2 ^ w := by
  unfold ofS
  rw [← Int.natCast_emod, Int.toNat_natCast]

theorem ofS_add_pow (w : Nat) (i : Int) : ofS w (i + (2 ^ w : Nat)) = ofS w i := by
  unfold ofS
  rw [Int.add_emod_right]

/-- A difference of two numbers of a width. -/
theorem ofS_sub {w a b : Nat} (hb : b < 2 ^ w) : ofS w ((a : Int) - b) = (a + 2 ^ w - b) % 2 ^ w := by
  have e : (a : Int) - b + (2 ^ w : Nat) = ((a + 2 ^ w - b : Nat) : Int) := by omega
  rw [← ofS_add_pow, e, ofS_natCast]

/-- The signed minimum and maximum, whichever of two equal numbers they take. -/
theorem minSw_eq {w a b : Nat} (ha : a < 2 ^ w) (hb : b < 2 ^ w) : minSw w a b = if toS w a ≤ toS w b then a else b := by
  unfold minSw
  rcases lt_trichotomy (toS w a) (toS w b) with h | h | h
  · rw [if_pos h, if_pos h.le]
  · rw [toS_inj ha hb h, ite_self, ite_self]
  · rw [if_neg h.not_gt, if_neg h.not_ge]

theorem maxSw_eq {w a b : Nat} (ha : a < 2 ^ w) (hb : b < 2 ^ w) : maxSw w a b = if toS w a ≤ toS w b then b else a := by
  unfold maxSw
  rcases lt_trichotomy (toS w a) (toS w b) with h | h | h
  · rw [if_pos h, if_pos h.le]
  · rw [toS_inj ha hb h, ite_self, ite_self]
  · rw [if_neg h.not_gt, if_neg h.not_ge]

theorem two_pow_pred {w : Nat} (hw : 0 < w) : 2 ^ w = 2 * 2 ^ (w - 1) := by
  rw [← Nat.pow_succ', Nat.succ_eq_add_one, Nat.sub_add_cancel hw]

/-- A signed sum or difference brought into the range of the width. -/
theorem clampS_eq {w : Nat} (hw : 0 < w) (i : Int) : clampS w i = ofS w (max (-2 ^ (w - 1)) (min (2 ^ (w - 1) - 1) i)) := by
  have h2 := two_pow_pred hw
  have hpos := Nat.two_pow_pos (w - 1)
  have hcast : (2 : Int) ^ (w - 1) = ((2 ^ (w - 1) : Nat) : Int) := by push_cast; rfl
  unfold clampS
  rw [hcast]
  by_cases hlo : i < -(2 ^ (w - 1) : Nat)
  · have e : max (-((2 ^ (w - 1) : Nat) : Int)) (min (((2 ^ (w - 1) : Nat) : Int) - 1) i) + (2 ^ w : Nat) = ((2 ^ (w - 1) : Nat) : Int) := by omega
    rw [if_pos hlo, ← ofS_add_pow, e, ofS_of_lt (by omega)]
  · rw [if_neg hlo]
    by_cases hhi : ((2 ^ (w - 1) : Nat) : Int) ≤ i
    · have e : max (-((2 ^ (w - 1) : Nat) : Int)) (min (((2 ^ (w - 1) : Nat) : Int) - 1) i) = ((2 ^ (w - 1) - 1 : Nat) : Int) := by omega
      rw [if_pos hhi, e, ofS_of_lt (by omega)]
    · have e : max (-((2 ^ (w - 1) : Nat) : Int)) (min (((2 ^ (w - 1) : Nat) : Int) - 1) i) = i := by omega
      rw [if_neg hhi, e]

/-! ### The integer operations (R74) -/

/-- The instruction runs element operation f, which agrees with g on numbers of the width, modulo 2^w. -/
def VintRuns (c : Nat → Reg → Reg → Reg → BitVec 3 → BitVec 2 → Bool → Instr) (g f : Nat → Nat → Nat → Nat) : Prop :=
  (∀ t vd va vb mk ew sc s, exec (c t vd va vb mk ew sc) s = vint t vd va vb mk ew sc f s) ∧
    ∀ w a b, 0 < w → a < 2 ^ w → b < 2 ^ w → f w a b % 2 ^ w = g w a b % 2 ^ w

theorem vintRuns_self {c : Nat → Reg → Reg → Reg → BitVec 3 → BitVec 2 → Bool → Instr} {g : Nat → Nat → Nat → Nat}
    (h : ∀ t vd va vb mk ew sc s, exec (c t vd va vb mk ew sc) s = vint t vd va vb mk ew sc g s) : ∃ f, VintRuns c g f :=
  ⟨g, h, fun _ _ _ _ _ _ => rfl⟩

/-- Each integer operation of the table runs the element operation that it names. -/
theorem vintRows_runs : ∀ p ∈ vintRows, ∃ f, VintRuns p.1 p.2 f := by
  unfold vintRows
  simp only [List.cons_append, List.nil_append, List.forall_mem_cons, List.not_mem_nil, false_implies, implies_true, and_true]
  refine ⟨vintRuns_self fun _ _ _ _ _ _ _ _ => rfl, ⟨fun w a b => a + 2 ^ w - b, fun _ _ _ _ _ _ _ _ => rfl, ?vsub⟩,
    vintRuns_self fun _ _ _ _ _ _ _ _ => rfl, vintRuns_self fun _ _ _ _ _ _ _ _ => rfl, vintRuns_self fun _ _ _ _ _ _ _ _ => rfl,
    vintRuns_self fun _ _ _ _ _ _ _ _ => rfl, vintRuns_self fun _ _ _ _ _ _ _ _ => rfl, vintRuns_self fun _ _ _ _ _ _ _ _ => rfl,
    ⟨minSw, fun _ _ _ _ _ _ _ _ => rfl, ?vmin⟩, ⟨maxSw, fun _ _ _ _ _ _ _ _ => rfl, ?vmax⟩,
    ⟨fun _ a b => min a b, fun _ _ _ _ _ _ _ _ => rfl, ?vminu⟩, ⟨fun _ a b => max a b, fun _ _ _ _ _ _ _ _ => rfl, ?vmaxu⟩,
    vintRuns_self fun _ _ _ _ _ _ _ _ => rfl, vintRuns_self fun _ _ _ _ _ _ _ _ => rfl, vintRuns_self fun _ _ _ _ _ _ _ _ => rfl,
    ⟨fun w a b => clampS w (toS w a + toS w b), fun _ _ _ _ _ _ _ _ => rfl, ?vsadd⟩,
    ⟨fun w a b => clampS w (toS w a - toS w b), fun _ _ _ _ _ _ _ _ => rfl, ?vssub⟩,
    ⟨fun w a b => min (a + b) (2 ^ w - 1), fun _ _ _ _ _ _ _ _ => rfl, ?vusadd⟩, vintRuns_self fun _ _ _ _ _ _ _ _ => rfl⟩
  case vsub => exact fun w a b _ _ hb => (Nat.mod_mod _ _).symm.trans (congrArg (· % 2 ^ w) (ofS_sub hb).symm)
  case vmin => exact fun w a b _ ha hb => congrArg (· % 2 ^ w) (minSw_eq ha hb)
  case vmax => exact fun w a b _ ha hb => congrArg (· % 2 ^ w) (maxSw_eq ha hb)
  case vminu => exact fun w a b _ _ _ => congrArg (· % 2 ^ w) (min_def a b)
  case vmaxu => exact fun w a b _ _ _ => congrArg (· % 2 ^ w) (max_def a b)
  case vsadd => exact fun w a b hw _ _ => congrArg (· % 2 ^ w) (clampS_eq hw _)
  case vssub => exact fun w a b hw _ _ => congrArg (· % 2 ^ w) (clampS_eq hw _)
  case vusadd => exact fun w a b _ _ _ => congrArg (· % 2 ^ w) (min_comm _ _)

/-- Settles O14: the element results of the integer operations, and the vector-disabled exception. -/
theorem vectorIntegerResults : Obligations.VectorIntegerResults := by
  intro t vd va vb mk ew sc s
  refine ⟨fun ho p hp => ?_, fun x hx hoff hready pa mt entry he p hp => ?_⟩
  · obtain ⟨f, hexec, hf⟩ := vintRows_runs p hp
    refine vecOp_answers (hexec ..) ho (by rw [srcD_eq]; rfl) rfl fun id => ⟨rfl, ?_⟩
    rw [ewBits_count]
    exact elements_predicateF (ewBits_mul_count ew).le fun j => hf _ _ _ (ewBits_pos ew) (elem_lt ..) (operandB_lt ..)
  · obtain ⟨f, hexec, -⟩ := vintRows_runs p hp
    exact vecOp_disabled (hexec ..) hoff hready (by rw [srcD_eq]; rfl) hx he

end Sys2Proof.Machine

namespace Sys2Proof.Machine

open Sys2Proof.Safety Sys2Proof.Claims

/-! ### Floating-point operations and conversions of one width (R75, R76, R79) -/

/-- The long operation that carries results and flags under a mask does what the statements ask of it (R70, R87). -/
theorem predicateF_float {w n : Nat} {mask : Word} {old : Vec} {r : Nat → FRes} {k : LongKind} {d : Dest} (hfit : w * n ≤ 512) (id : Nat) :
    let o : LongOp := { LongOp.known k d (predicateF w mask old ((List.range n).map r)).1 with
      id := id, flags := (predicateF w mask old ((List.range n).map r)).2, setsFlags := true }
    Elements w n mask old o.val (fun j => (r j).1) ∧ FlagsOf n mask o fun j => (r j).2 :=
  ⟨elements_predicateF hfit fun _ => rfl, flagsOf_predicateF (w := w) (old := old) rfl rfl⟩

theorem elems_map {α : Type} (ew : BitVec 2) (v : Vec) (f : Nat → α) :
    (elems v (ewBits ew)).map f = (List.range (ewCount ew)).map fun j => f (elem v (ewBits ew) j) := by
  unfold elems
  rw [ewBits_count, List.map_map]
  rfl

/-- An assigned operation of two operands with flags (R73, R75). -/
theorem vec2_answers {i : Instr} {t : Nat} {vd va vb : Reg} {mk : BitVec 3} {ew : BitVec 2} {sc : Bool} {k : LongKind} {cls : Cls}
    {f : Nat → Nat → Nat → Nat → FRes} {s : State} (hew : ew ≠ 0) (he : exec i s = vec2 t vd va vb mk ew sc (decide (ew = 0)) true k cls f s)
    (ho : VecOpen t ([.v va.toNat, srcB vb sc] ++ underMask vd mk) cls s) :
    let a := (s.hw.thread t).a
    let w := ewBits ew
    Answers i s (Issued t (.v vd.toNat) k s fun o =>
      let r := fun j => f (Word.fld (a.crAt 0) 7 6) w (elem (a.rv va) w j) (operandB a vb sc w j)
      Elements w (512 / w) (a.rm mk.toNat) (a.rv vd) o.val (fun j => (r j).1) ∧ FlagsOf (512 / w) (a.rm mk.toNat) o (fun j => (r j).2)) := by
  refine vecOp_answers he ho (by rw [srcD_eq]; rfl) (decide_eq_false hew) fun id => ?_
  rw [ewBits_count]
  exact predicateF_float (ewBits_mul_count ew).le id

/-- An assigned operation of one operand with flags (R75, R79). -/
theorem vec1_answers {i : Instr} {t : Nat} {vd va : Reg} {mk : BitVec 3} {ew : BitVec 2} {k : LongKind} {cls : Cls} {f : Nat → Nat → Nat → FRes}
    {s : State} (hew : ew ≠ 0) (he : exec i s = vec1 t vd va mk ew (decide (ew = 0)) true k cls f s)
    (ho : VecOpen t ([.v va.toNat] ++ underMask vd mk) cls s) :
    let a := (s.hw.thread t).a
    let w := ewBits ew
    Answers i s (Issued t (.v vd.toNat) k s fun o =>
      let r := fun j => f (Word.fld (a.crAt 0) 7 6) w (elem (a.rv va) w j)
      Elements w (512 / w) (a.rm mk.toNat) (a.rv vd) o.val (fun j => (r j).1) ∧ FlagsOf (512 / w) (a.rm mk.toNat) o (fun j => (r j).2)) := by
  refine vecOp_answers he ho (by rw [srcD_eq]) (decide_eq_false hew) fun id => ?_
  dsimp only
  rw [ewBits_count, elems_map]
  exact predicateF_float (ewBits_mul_count ew).le id

/-- An assigned fused operation (R76). -/
theorem vfma_answers {i : Instr} {t : Nat} {vd va vb : Reg} {mk : BitVec 3} {ew : BitVec 2} {np nd : Bool} {s : State} (hew : ew ≠ 0)
    (he : exec i s = vfma t vd va vb mk ew np nd s) (ho : VecOpen t ([.v vd.toNat, .v va.toNat, .v vb.toNat] ++ maskSrc mk) .long s) :
    let a := (s.hw.thread t).a
    let w := ewBits ew
    Answers i s (Issued t (.v vd.toNat) .vec s fun o =>
      let r := fun j => (fmtOf w).fma (Word.fld (a.crAt 0) 7 6) np nd (elem (a.rv va) w j) (elem (a.rv vb) w j) (elem (a.rv vd) w j)
      Elements w (512 / w) (a.rm mk.toNat) (a.rv vd) o.val (fun j => (r j).1) ∧ FlagsOf (512 / w) (a.rm mk.toNat) o (fun j => (r j).2)) := by
  refine vecOp_answers he ho (by rw [srcM_eq]) (decide_eq_false hew) fun id => ?_
  rw [ewBits_count]
  exact predicateF_float (ewBits_mul_count ew).le id

/-- An assigned operation of one operand without flags that agrees with g on numbers of the width (R75). -/
theorem vec1_moves {i : Instr} {t : Nat} {vd va : Reg} {mk : BitVec 3} {ew : BitVec 2} {f g : Nat → Nat → Nat} {s : State} (hew : ew ≠ 0)
    (he : exec i s = vec1 t vd va mk ew (decide (ew = 0)) false .vec .long (fun _ w a => (f w a, 0)) s)
    (hfg : ∀ w a, 0 < w → a < 2 ^ w → f w a % 2 ^ w = g w a % 2 ^ w) (ho : VecOpen t ([.v va.toNat] ++ underMask vd mk) .long s) :
    let a := (s.hw.thread t).a
    let w := ewBits ew
    Answers i s (Issued t (.v vd.toNat) .vec s fun o =>
      o.setsFlags = false ∧ Elements w (512 / w) (a.rm mk.toNat) (a.rv vd) o.val fun j => g w (elem (a.rv va) w j)) := by
  refine vecOp_answers he ho (by rw [srcD_eq]) (decide_eq_false hew) fun id => ⟨rfl, ?_⟩
  dsimp only
  rw [ewBits_count, elems_map]
  exact elements_predicateF (ewBits_mul_count ew).le fun j => hfg _ _ (ewBits_pos ew) (elem_lt ..)

/-- A bit above a number's: added or put in by exclusive or. -/
theorem two_pow_add_eq_xor {k b : Nat} (h : b < 2 ^ k) : 2 ^ k + b = 2 ^ k ^^^ b := by
  apply Nat.eq_of_testBit_eq
  intro j
  have e := Nat.testBit_two_pow_mul_add (2 ^ 0) h j
  rw [Nat.pow_zero, Nat.mul_one, ← Nat.pow_zero 2, Nat.testBit_two_pow] at e
  rw [e, Nat.testBit_xor, Nat.testBit_two_pow]
  by_cases hj : j < k
  · rw [if_pos hj, decide_eq_false hj.ne', Bool.false_xor]
  · have hb : b.testBit j = false := Nat.testBit_lt_two_pow (h.trans_le (Nat.pow_le_pow_right Nat.two_pos (not_lt.1 hj)))
    rw [if_neg hj, hb, Bool.xor_false, decide_eq_decide]
    omega

/-- The sign bit inverted. -/
theorem xor_signBit {w a : Nat} (hw : 0 < w) (ha : a < 2 ^ w) :
    a ^^^ 2 ^ (w - 1) = if a < 2 ^ (w - 1) then a + 2 ^ (w - 1) else a - 2 ^ (w - 1) := by
  have h2 := two_pow_pred hw
  split
  case isTrue h => rw [Nat.xor_comm, ← two_pow_add_eq_xor h, Nat.add_comm]
  case isFalse h =>
    have hlt : a - 2 ^ (w - 1) < 2 ^ (w - 1) := by omega
    have e : a = 2 ^ (w - 1) ^^^ (a - 2 ^ (w - 1)) := by rw [← two_pow_add_eq_xor hlt]; omega
    calc a ^^^ 2 ^ (w - 1) = 2 ^ (w - 1) ^^^ (a - 2 ^ (w - 1)) ^^^ 2 ^ (w - 1) := congrArg (· ^^^ 2 ^ (w - 1)) e
      _ = a - 2 ^ (w - 1) := by rw [Nat.xor_comm (2 ^ (w - 1)), Nat.xor_assoc, Nat.xor_self, Nat.xor_zero]

/-- The sign bit of a number of a width. -/
theorem signBit_lt {w b : Nat} (hw : 0 < w) (hb : b < 2 ^ w) : b / 2 ^ (w - 1) % 2 = b / 2 ^ (w - 1) :=
  Nat.mod_eq_of_lt (Nat.div_lt_of_lt_mul (by rw [Nat.mul_comm, ← two_pow_pred hw]; exact hb))

/-- Operations of two operands with flags (R75). -/
theorem vfltRows_answer {t : Nat} {vd va vb : Reg} {mk : BitVec 3} {ew : BitVec 2} {sc : Bool} {s : State} (hew : ew ≠ 0) :
    let a := (s.hw.thread t).a
    let w := ewBits ew
    ∀ p ∈ vfltRows, VecOpen t ([.v va.toNat, srcB vb sc] ++ underMask vd mk) p.2.2.1 s →
      Answers (p.1 t vd va vb mk ew sc) s (Issued t (.v vd.toNat) p.2.1 s fun o =>
        let f := fun j => p.2.2.2 (fmtOf w) (Word.fld (a.crAt 0) 7 6) (elem (a.rv va) w j) (operandB a vb sc w j)
        Elements w (512 / w) (a.rm mk.toNat) (a.rv vd) o.val (fun j => (f j).1) ∧ FlagsOf (512 / w) (a.rm mk.toNat) o (fun j => (f j).2)) := by
  unfold vfltRows
  simp only [List.forall_mem_cons, List.not_mem_nil, false_implies, implies_true, and_true]
  exact ⟨vec2_answers (f := fun rm w => (fmtOf w).add rm) hew rfl, vec2_answers (f := fun rm w => (fmtOf w).sub rm) hew rfl,
    vec2_answers (f := fun rm w => (fmtOf w).mul rm) hew rfl, vec2_answers (f := fun rm w => (fmtOf w).div rm) hew rfl,
    vec2_answers (f := fun _ w => (fmtOf w).minMax false) hew rfl, vec2_answers (f := fun _ w => (fmtOf w).minMax true) hew rfl⟩

/-- Operations of one operand with flags (R75, R79). -/
theorem vunRows_answer {t : Nat} {vd va : Reg} {mk : BitVec 3} {ew : BitVec 2} {s : State} (hew : ew ≠ 0) :
    let a := (s.hw.thread t).a
    let w := ewBits ew
    ∀ p ∈ vunRows, VecOpen t ([.v va.toNat] ++ underMask vd mk) p.2.2.1 s →
      Answers (p.1 t vd va mk ew) s (Issued t (.v vd.toNat) p.2.1 s fun o =>
        let f := fun j => p.2.2.2 w (Word.fld (a.crAt 0) 7 6) (elem (a.rv va) w j)
        Elements w (512 / w) (a.rm mk.toNat) (a.rv vd) o.val (fun j => (f j).1) ∧ FlagsOf (512 / w) (a.rm mk.toNat) o (fun j => (f j).2)) := by
  have hcast (n : Nat) : ((2 ^ n : Nat) : Int) = 2 ^ n := by push_cast; rfl
  have hI (s : State) : exec (.vcvtIF t vd va mk ew) s = vec1 t vd va mk ew (decide (ew = 0)) true .vec .long (fun rm w x =>
      (ofS w ((fmtOf w).toInt rm (-2 ^ (w - 1)) (2 ^ (w - 1) - 1) x).1, ((fmtOf w).toInt rm (-2 ^ (w - 1)) (2 ^ (w - 1) - 1) x).2)) s := by
    simp only [← hcast]
    rfl
  have hU (s : State) : exec (.vcvtUF t vd va mk ew) s = vec1 t vd va mk ew (decide (ew = 0)) true .vec .long (fun rm w x =>
      (ofS w ((fmtOf w).toInt rm 0 (2 ^ w - 1) x).1, ((fmtOf w).toInt rm 0 (2 ^ w - 1) x).2)) s := by
    simp only [← hcast]
    rfl
  unfold vunRows
  simp only [List.forall_mem_cons, List.not_mem_nil, false_implies, implies_true, and_true]
  exact ⟨vec1_answers (f := fun rm w => (fmtOf w).sqrt rm) hew rfl, vec1_answers (f := fun rm w a => (fmtOf w).ofInt rm (toS w a)) hew rfl,
    vec1_answers (f := fun rm w a => (fmtOf w).ofInt rm a) hew rfl, vec1_answers hew (hI s), vec1_answers hew (hU s)⟩

/-- The fused operations (R76). -/
theorem vfmaRows_answer {t : Nat} {vd va vb : Reg} {mk : BitVec 3} {ew : BitVec 2} {s : State} (hew : ew ≠ 0) :
    let a := (s.hw.thread t).a
    let w := ewBits ew
    ∀ p ∈ vfmaRows, VecOpen t ([.v vd.toNat, .v va.toNat, .v vb.toNat] ++ maskSrc mk) .long s →
      Answers (p.1 t vd va vb mk ew) s (Issued t (.v vd.toNat) .vec s fun o =>
        let f := fun j => (fmtOf w).fma (Word.fld (a.crAt 0) 7 6) p.2.1 p.2.2 (elem (a.rv va) w j) (elem (a.rv vb) w j) (elem (a.rv vd) w j)
        Elements w (512 / w) (a.rm mk.toNat) (a.rv vd) o.val (fun j => (f j).1) ∧ FlagsOf (512 / w) (a.rm mk.toNat) o (fun j => (f j).2)) := by
  unfold vfmaRows
  simp only [List.forall_mem_cons, List.not_mem_nil, false_implies, implies_true, and_true]
  exact ⟨vfma_answers hew rfl, vfma_answers hew rfl, vfma_answers hew rfl, vfma_answers hew rfl⟩

/-- Settles O15, table by table. -/
theorem vectorFloatResults : Obligations.VectorFloatResults := by
  intro t vd va vb mk ew sc s hew
  refine ⟨vfltRows_answer hew, vunRows_answer hew, vfmaRows_answer hew, ?signs, ?sgnj⟩
  case signs =>
    unfold signRows
    simp only [List.forall_mem_cons, List.not_mem_nil, false_implies, implies_true, and_true]
    exact ⟨vec1_moves (f := fun w a => a % 2 ^ (w - 1)) hew rfl fun _ _ _ _ => rfl,
      vec1_moves (f := fun w a => a ^^^ 2 ^ (w - 1)) hew rfl fun w a hw ha => congrArg (· % 2 ^ w) (xor_signBit hw ha)⟩
  case sgnj =>
    intro ho
    refine vecOp_answers rfl ho (by rw [srcD_eq]; rfl) (decide_eq_false hew) fun id => ⟨rfl, ?_⟩
    rw [ewBits_count]
    refine elements_predicateF (ewBits_mul_count ew).le fun j => congrArg (· % 2 ^ ewBits ew) ?_
    dsimp only
    rw [← signBit_lt (ewBits_pos ew) (operandB_lt _ vb sc _ j)]
    rfl

end Sys2Proof.Machine

namespace Sys2Proof.Machine

open Sys2Proof.Safety Sys2Proof.Claims

/-! ### Reductions: the active elements and the register written (R77) -/

theorem filterMap_id_ite {α β : Type} (p : α → Bool) (f : α → β) (l : List α) :
    (l.map fun j => if p j then some (f j) else none).filterMap id = (l.filter p).map f := by
  induction l with
  | nil => rfl
  | cons j r ih => cases h : p j <;> simpa [h] using ih

/-- The active elements as the reductions take them: an inactive one is absent. -/
def activeOpts (v : Vec) (w : Nat) (mask : Word) : List (Option Nat) :=
  (elems v w).zipIdx.map fun p => if active mask p.2 then some p.1 else none

theorem activeOpts_length (v : Vec) (w : Nat) (mask : Word) : (activeOpts v w mask).length = 512 / w := by simp [activeOpts, elems]

theorem activeOpts_filterMap (v : Vec) (w : Nat) (mask : Word) : (activeOpts v w mask).filterMap id = activeList v w mask := by
  unfold activeOpts elems activeList
  rw [zipIdx_map_range, List.map_map]
  exact filterMap_id_ite (active mask) (elem v w) _

theorem activeList_lt {v : Vec} {w : Nat} {mask : Word} : ∀ x ∈ activeList v w mask, x < 2 ^ w := by
  intro x hx
  obtain ⟨j, -, rfl⟩ := List.mem_map.1 hx
  exact elem_lt v w j

/-- One element alone in a register. -/
theorem packElems_single {w r : Nat} (hr : r < 2 ^ w) : packElems w [r] = BitVec.ofNat 512 r := by
  unfold packElems
  rw [List.foldr_cons, List.foldr_nil, Nat.mod_eq_of_lt hr, Nat.mul_zero, Nat.add_zero]

/-- An assigned reduction writes what the active elements come to (R77). -/
theorem vred_answers {i : Instr} {t : Nat} {vd va : Reg} {mk : BitVec 3} {ew : BitVec 2} {reserved fl : Bool}
    {f : Nat → Nat → List (Option Nat) → FRes} {s : State} {r : FRes} {P : LongOp → Prop} (he : exec i s = vred t vd va mk ew reserved fl f s)
    (ho : VecOpen t ([.v va.toNat] ++ maskSrc mk) .long s) (hres : reserved = false)
    (hf : let a := (s.hw.thread t).a
      f (Word.fld (a.crAt 0) 7 6) (ewBits ew) (activeOpts (a.rv va) (ewBits ew) (a.rm mk.toNat)) = r) (hr : r.1 < 2 ^ ewBits ew)
    (hP : ∀ o : LongOp, o.setsFlags = fl → o.flags = r.2 → o.val = BitVec.ofNat 512 r.1 → P o) :
    Answers i s (Issued t (.v vd.toNat) .vec s P) := by
  refine vecOp_answers he ho (by rw [srcM_eq]) hres fun id => hP _ rfl (congrArg Prod.snd hf) ?_
  exact (congrArg (fun q : FRes => packElems (ewBits ew) [q.1]) hf).trans (packElems_single hr)

/-! ### The integer reductions (R77) -/

/-- Two folds that agree within a bound that the first keeps. -/
theorem foldl_eq_of_lt {b : Nat} {f g : Nat → Nat → Nat} (hfg : ∀ x y, x < b → y < b → f x y = g x y ∧ g x y < b) :
    ∀ (xs : List Nat) (n : Nat), n < b → (∀ x ∈ xs, x < b) → xs.foldl f n = xs.foldl g n ∧ xs.foldl g n < b := by
  intro xs
  induction xs with
  | nil => exact fun n hn _ => ⟨rfl, hn⟩
  | cons x r ih =>
    intro n hn hxs
    obtain ⟨he, hlt⟩ := hfg n x hn (hxs x List.mem_cons_self)
    rw [List.foldl_cons, List.foldl_cons, he]
    exact ih _ hlt fun y hy => hxs y (List.mem_cons_of_mem x hy)

/-- The instruction folds f from n, which agrees with g on numbers of the width; neither leaves the width. -/
def VredRuns (c : Nat → Reg → Reg → BitVec 3 → BitVec 2 → Instr) (n : Nat → Nat) (g f : Nat → Nat → Nat → Nat) : Prop :=
  (∀ t vd va mk ew s, exec (c t vd va mk ew) s = vredI t vd va mk ew n f s) ∧
    ∀ w, 0 < w → n w < 2 ^ w ∧ ∀ a b, a < 2 ^ w → b < 2 ^ w → f w a b = g w a b ∧ g w a b < 2 ^ w

theorem ite_lt {p : Prop} [Decidable p] {a b n : Nat} (ha : a < n) (hb : b < n) : (if p then a else b) < n := by
  split <;> assumption

/-- Each integer reduction of the table folds the step that it names. -/
theorem vredRows_runs : ∀ p ∈ vredRows, ∃ f, VredRuns p.1 p.2.1 p.2.2 f := by
  have hpos (w : Nat) : 0 < 2 ^ w := Nat.two_pow_pos w
  have hhalf (w : Nat) (hw : 0 < w) : 2 ^ (w - 1) < 2 ^ w := Nat.pow_lt_pow_right (by decide) (by omega)
  unfold vredRows
  simp only [List.forall_mem_cons, List.not_mem_nil, false_implies, implies_true, and_true]
  refine ⟨⟨fun w a b => (a + b) % 2 ^ w, fun _ _ _ _ _ _ => rfl, fun w _ => ⟨hpos w, fun a b _ _ => ⟨rfl, Nat.mod_lt _ (hpos w)⟩⟩⟩,
    ⟨minSw, fun _ _ _ _ _ _ => rfl, fun w hw => ⟨(Nat.sub_le _ _).trans_lt (hhalf w hw), fun a b ha hb => ⟨minSw_eq ha hb, ite_lt ha hb⟩⟩⟩,
    ⟨maxSw, fun _ _ _ _ _ _ => rfl, fun w hw => ⟨hhalf w hw, fun a b ha hb => ⟨maxSw_eq ha hb, ite_lt hb ha⟩⟩⟩,
    ⟨fun _ a b => min a b, fun _ _ _ _ _ _ => rfl, fun w _ => ⟨Nat.sub_lt (hpos w) Nat.one_pos, fun a b ha hb => ⟨min_def a b, ite_lt ha hb⟩⟩⟩,
    ⟨fun _ a b => max a b, fun _ _ _ _ _ _ => rfl, fun w _ => ⟨hpos w, fun a b ha hb => ⟨max_def a b, ite_lt hb ha⟩⟩⟩,
    ⟨fun _ a b => a &&& b, fun _ _ _ _ _ _ => rfl, fun w _ => ⟨Nat.sub_lt (hpos w) Nat.one_pos, fun a b _ hb => ⟨rfl, Nat.and_lt_two_pow a hb⟩⟩⟩,
    ⟨fun _ a b => a ||| b, fun _ _ _ _ _ _ => rfl, fun w _ => ⟨hpos w, fun a b ha hb => ⟨rfl, Nat.or_lt_two_pow ha hb⟩⟩⟩,
    ⟨fun _ a b => a ^^^ b, fun _ _ _ _ _ _ => rfl, fun w _ => ⟨hpos w, fun a b ha hb => ⟨rfl, Nat.xor_lt_two_pow ha hb⟩⟩⟩⟩

/-- The integer reductions (R77). -/
theorem vredRows_answer {t : Nat} {vd va : Reg} {mk : BitVec 3} {ew : BitVec 2} {s : State} (ho : VecOpen t ([.v va.toNat] ++ maskSrc mk) .long s) :
    let a := (s.hw.thread t).a
    let xs := activeList (a.rv va) (ewBits ew) (a.rm mk.toNat)
    ∀ p ∈ vredRows, Answers (p.1 t vd va mk ew) s (Issued t (.v vd.toNat) .vec s fun o =>
      o.setsFlags = false ∧ o.val = BitVec.ofNat 512 (xs.foldl (p.2.2 (ewBits ew)) (p.2.1 (ewBits ew)))) := by
  intro a xs p hp
  obtain ⟨f, hexec, hruns⟩ := vredRows_runs p hp
  obtain ⟨hstart, hstep⟩ := hruns (ewBits ew) (ewBits_pos ew)
  obtain ⟨he, hlt⟩ := foldl_eq_of_lt hstep xs _ hstart activeList_lt
  refine vred_answers (hexec ..) ho rfl (r := (xs.foldl (p.2.2 (ewBits ew)) (p.2.1 (ewBits ew)), 0)) ?_ hlt fun o hs _ hv => ⟨hs, hv⟩
  dsimp only
  rw [activeOpts_filterMap, ← he]

/-! ### Floating-point results (R85, R86) -/

/-- A datum of the format that is no NaN but the canonical one (R86). -/
def Fmt.Canonical (t : Fmt) (r : Nat) : Prop := r < 2 ^ t.w ∧ ((t.decode r).isNan = true → r = t.qnan)

/-- One of the three formats (R85). -/
def Fmt.Known (t : Fmt) : Prop := t = .half ∨ t = .single ∨ t = .double

theorem fmtOf_known (w : Nat) : (fmtOf w).Known := by
  unfold fmtOf Fmt.Known
  split
  · exact .inl rfl
  · split
    · exact .inr (.inl rfl)
    · exact .inr (.inr rfl)

theorem fmtOf_w {ew : BitVec 2} (h : ew ≠ 0) : (fmtOf (ewBits ew)).w = ewBits ew := by revert ew; decide

theorem Fmt.canonical_qnan {t : Fmt} (h : t.Known) : t.Canonical t.qnan :=
  ⟨by rcases h with rfl | rfl | rfl <;> decide, fun _ => rfl⟩

theorem Fmt.canonical_zero {t : Fmt} (h : t.Known) (s : Bool) : t.Canonical (t.zero s) := by
  unfold Fmt.Canonical
  rcases h with rfl | rfl | rfl <;> cases s <;> decide

theorem Fmt.canonical_inf {t : Fmt} (h : t.Known) (s : Bool) : t.Canonical (t.inf s) := by
  unfold Fmt.Canonical
  rcases h with rfl | rfl | rfl <;> cases s <;> decide

theorem Fmt.canonical_maxFin {t : Fmt} (h : t.Known) (s : Bool) : t.Canonical (t.maxFin s) := by
  unfold Fmt.Canonical
  rcases h with rfl | rfl | rfl <;> cases s <;> decide

/-- A sign over an exponent and fraction below an infinity's. -/
theorem Fmt.canonical_finite (t : Fmt) (s : Bool) {bits : Nat} (hb : bits < (2 ^ t.e - 1) * 2 ^ t.f) : t.Canonical (t.zero s + bits) := by
  have hf := Nat.two_pow_pos t.f
  have hpow : 2 ^ (t.e + t.f) = 2 ^ t.f * 2 ^ t.e := by rw [Nat.pow_add, Nat.mul_comm]
  have hexp : bits / 2 ^ t.f < 2 ^ t.e - 1 := Nat.div_lt_of_lt_mul (by rwa [Nat.mul_comm])
  have hzero : t.zero s = 2 ^ t.f * (2 ^ t.e * b2n s) := by
    unfold Fmt.zero
    cases s
    · simp [b2n]
    · simpa [b2n] using hpow
  have hdiv : (t.zero s + bits) / 2 ^ t.f % 2 ^ t.e = bits / 2 ^ t.f := by
    rw [hzero, Nat.mul_add_div hf, Nat.mul_add_mod, Nat.mod_eq_of_lt (hexp.trans_le (Nat.sub_le _ _))]
  refine ⟨?_, fun hnan => ?_⟩
  · have hw : 2 ^ t.w = 2 * 2 ^ (t.e + t.f) := by unfold Fmt.w; rw [Nat.add_assoc, Nat.pow_add, Nat.pow_one]
    have hlow : bits < 2 ^ (t.e + t.f) := hb.trans_le (by rw [Nat.pow_add]; exact Nat.mul_le_mul_right _ (Nat.sub_le _ _))
    rw [hw]
    unfold Fmt.zero
    split <;> omega
  · unfold Fmt.decode at hnan
    dsimp only at hnan
    rw [hdiv, if_neg hexp.ne] at hnan
    split at hnan <;> exact absurd hnan Bool.false_ne_true

theorem Fmt.canonical_round {t : Fmt} (h : t.Known) (rm : Nat) (s : Bool) (m : Nat) (e : Int) (sticky : Bool) :
    t.Canonical (t.round rm s m e sticky).1 := by
  unfold Fmt.round
  split
  · exact Fmt.canonical_zero h s
  · dsimp only
    split
    · dsimp only
      split
      · exact Fmt.canonical_maxFin h s
      · exact Fmt.canonical_inf h s
    case isFalse hb => exact t.canonical_finite s (not_le.1 hb)

theorem Fmt.canonical_addFp {t : Fmt} (h : t.Known) (rm : Nat) (a b : Fp) : t.Canonical (t.addFp rm a b).1 := by
  unfold Fmt.addFp
  split
  · split
    · exact Fmt.canonical_inf h _
    · exact Fmt.canonical_qnan h
  · exact Fmt.canonical_inf h _
  · exact Fmt.canonical_inf h _
  · unfold Fmt.addFin
    dsimp only
    split
    · exact Fmt.canonical_zero h _
    · exact Fmt.canonical_round h ..
  · exact Fmt.canonical_qnan h

/-- What is no NaN raises no NV of its own (R86). -/
theorem sigFlag_of_not_nan {x y : Fp} (hx : x.isNan = false) (hy : y.isNan = false) : sigFlag [x, y] = 0 := by
  cases x <;> cases y <;> simp_all [Fp.isNan, sigFlag, Fp.isSig]

/-- A sum is canonical, and its flags hold what signalling operands set (R86). -/
theorem Fmt.add_canonical {t : Fmt} (h : t.Known) (rm a b : Nat) :
    t.Canonical (t.add rm a b).1 ∧ (t.add rm a b).2 ||| sigFlag [t.decode a, t.decode b] = (t.add rm a b).2 := by
  unfold Fmt.add
  dsimp only
  split
  case isTrue => exact ⟨Fmt.canonical_qnan h, BitVec.or_self⟩
  case isFalse hn =>
    rw [Bool.or_eq_true, not_or, Bool.not_eq_true, Bool.not_eq_true] at hn
    exact ⟨Fmt.canonical_addFp h .., by rw [sigFlag_of_not_nan hn.1 hn.2]; exact BitVec.or_zero⟩

theorem Fmt.canonical_ite {t : Fmt} {p : Prop} [Decidable p] {a b : Nat} (ha : t.Canonical a) (hb : t.Canonical b) :
    t.Canonical (if p then a else b) := by
  split <;> assumption

theorem Fmt.minMax_canonical {t : Fmt} (h : t.Known) (isMax : Bool) {a b : Nat} (ha : a < 2 ^ t.w) (hb : b < 2 ^ t.w) :
    t.Canonical (t.minMax isMax a b).1 ∧ (t.minMax isMax a b).2 = sigFlag [t.decode a, t.decode b] := by
  have hnum {n : Nat} (hn : n < 2 ^ t.w) (hnan : ¬(t.decode n).isNan = true) : t.Canonical n := ⟨hn, fun e => absurd e hnan⟩
  unfold Fmt.minMax
  dsimp only
  split
  case isTrue => exact ⟨Fmt.canonical_qnan h, rfl⟩
  case isFalse hboth =>
    split
    case isTrue hx => exact ⟨hnum hb fun hy => hboth (by rw [hx, hy]; rfl), rfl⟩
    case isFalse hx =>
      split
      case isTrue => exact ⟨hnum ha hx, rfl⟩
      case isFalse hy =>
        exact ⟨Fmt.canonical_ite (hnum ha hx) (hnum hb hy), rfl⟩

/-- A reduction of two elements by one operation with a canonical result. -/
theorem canonRed_of_canonical {t : Fmt} {xs : List Nat} {r : FRes} (hr : t.Canonical r.1) (hf : r.2 ||| sigFlag (xs.map t.decode) = r.2) :
    canonRed t xs r = r := by
  unfold canonRed
  rw [hf]
  split
  case isTrue hn => rw [← hr.2 hn]
  case isFalse => rfl

/-! ### The sums and extrema of two elements (R77) -/

theorem fredSeq_two {t : Fmt} (h : t.Known) (rm x y : Nat) : fredSeq t rm [x, y] = t.add rm x y := by
  obtain ⟨hc, hf⟩ := Fmt.add_canonical h rm x y
  change canonRed t [x, y] ((t.add rm x y).1, 0 ||| (t.add rm x y).2) = _
  rw [show (0 : BitVec 5) = 0#5 from rfl, BitVec.zero_or]
  exact canonRed_of_canonical hc hf

theorem fredMin_two {t : Fmt} (h : t.Known) (isMax : Bool) {x y : Nat} (hx : x < 2 ^ t.w) (hy : y < 2 ^ t.w) :
    fredMin t isMax [x, y] = t.minMax isMax x y := by
  obtain ⟨hc, hf⟩ := Fmt.minMax_canonical h isMax hx hy
  change canonRed t [x, y] ((t.minMax isMax x y).1, 0 ||| (t.minMax isMax x y).2) = _
  rw [show (0 : BitVec 5) = 0#5 from rfl, BitVec.zero_or]
  exact canonRed_of_canonical hc (by rw [hf]; exact BitVec.or_self)

/-- Two members of the tree added. -/
def treeAdd (t : Fmt) (rm : Nat) (x y : FRes) : FRes := ((t.add rm x.1 y.1).1, x.2 ||| y.2 ||| (t.add rm x.1 y.1).2)

/-- What two members of a level come to: an absent one passes the other up. -/
def treeJoin (t : Fmt) (rm : Nat) : Option FRes → Option FRes → Option FRes
  | some x, some y => some (treeAdd t rm x y)
  | some x, none => some x
  | none, y => y

theorem treeLevel_pair (t : Fmt) (rm : Nat) (a b : Option FRes) (r : List (Option FRes)) :
    treeLevel t rm (a :: b :: r) = treeJoin t rm a b :: treeLevel t rm r := by
  cases a <;> cases b <;> rfl

theorem treeLevel_short (t : Fmt) (rm : Nat) {l : List (Option FRes)} (hl : l.length ≤ 1) : treeLevel t rm l = l := by
  match l with
  | [] => rfl
  | [none] => rfl
  | [some _] => rfl

theorem treeLevel_length (t : Fmt) (rm : Nat) : ∀ l : List (Option FRes), (treeLevel t rm l).length = (l.length + 1) / 2
  | [] => rfl
  | [a] => by rw [treeLevel_short t rm (l := [a]) (le_refl 1)]; simp
  | a :: b :: r => by
    rw [treeLevel_pair, List.length_cons, treeLevel_length t rm r]
    simp only [List.length_cons]
    omega

/-- The members of a level are those of the one below: none, one, or two, which are passed up or added. -/
def TreeUp (t : Fmt) (rm : Nat) (l k : List FRes) : Prop :=
  (l = [] → k = []) ∧ (∀ x, l = [x] → k = [x]) ∧ ∀ x y, l = [x, y] → k = [x, y] ∨ k = [treeAdd t rm x y]

theorem treeUp_refl (t : Fmt) (rm : Nat) (l : List FRes) : TreeUp t rm l l := ⟨id, fun _ => id, fun _ _ => .inl⟩

theorem treeUp_cons {t : Fmt} {rm : Nat} {l k : List FRes} (h : TreeUp t rm l k) (p : FRes) : TreeUp t rm (p :: l) (p :: k) := by
  obtain ⟨h0, h1, -⟩ := h
  refine ⟨fun e => absurd e (List.cons_ne_nil p l), fun x e => ?_, fun x y e => .inl ?_⟩
  · obtain ⟨rfl, rfl⟩ := List.cons.inj e
    rw [h0 rfl]
  · obtain ⟨rfl, rfl⟩ := List.cons.inj e
    rw [h1 y rfl]

theorem treeUp_add {t : Fmt} {rm : Nat} {l k : List FRes} (h : TreeUp t rm l k) (p q : FRes) : TreeUp t rm (p :: q :: l) (treeAdd t rm p q :: k) := by
  refine ⟨fun e => absurd e (List.cons_ne_nil p _), fun x e => absurd (List.cons.inj e).2 (List.cons_ne_nil q l), fun x y e => .inr ?_⟩
  obtain ⟨rfl, rfl, hl⟩ : p = x ∧ q = y ∧ l = [] := by simpa using e
  rw [h.1 hl]

theorem treeLevel_up (t : Fmt) (rm : Nat) : ∀ l : List (Option FRes), TreeUp t rm (l.filterMap id) ((treeLevel t rm l).filterMap id)
  | [] => treeUp_refl t rm _
  | [a] => by rw [treeLevel_short t rm (le_refl 1)]; exact treeUp_refl t rm _
  | none :: none :: r => by rw [treeLevel_pair]; exact treeLevel_up t rm r
  | none :: some q :: r => by rw [treeLevel_pair]; exact treeUp_cons (treeLevel_up t rm r) q
  | some p :: none :: r => by rw [treeLevel_pair]; exact treeUp_cons (treeLevel_up t rm r) p
  | some p :: some q :: r => by rw [treeLevel_pair]; exact treeUp_add (treeLevel_up t rm r) p q

/-- A member of the tree without flags. -/
def treeLeaf (x : Nat) : FRes := (x, 0)

/-- The levels of the tree: the list halves each time. -/
theorem forN_treeLevel_length (t : Fmt) (rm : Nat) {l : List (Option FRes)} (hl : l.length ≤ 64) :
    (forN 0 6 (fun _ l => treeLevel t rm l) l).length ≤ 1 := by
  simp only [forN, treeLevel_length]
  omega

theorem forN_treeLevel_none (t : Fmt) (rm : Nat) {l : List (Option FRes)} (hl : l.filterMap id = []) :
    (forN 0 6 (fun _ l => treeLevel t rm l) l).filterMap id = [] :=
  forN_invariant (P := fun l : List (Option FRes) => l.filterMap id = []) (fun _ l h => (treeLevel_up t rm l).1 h) 6 hl

theorem forN_treeLevel_two (t : Fmt) (rm : Nat) {l : List (Option FRes)} {x y : FRes} (hl : l.filterMap id = [x, y]) :
    let k := (forN 0 6 (fun _ l => treeLevel t rm l) l).filterMap id
    k = [x, y] ∨ k = [treeAdd t rm x y] := by
  refine forN_invariant (P := fun l : List (Option FRes) => l.filterMap id = [x, y] ∨ l.filterMap id = [treeAdd t rm x y]) (fun _ l h => ?_) 6 (.inl hl)
  obtain ⟨-, h1, h2⟩ := treeLevel_up t rm l
  exact h.elim (h2 x y) fun h => .inr (h1 _ h)

theorem filterMap_leaves (xs : List (Option Nat)) :
    (xs.map fun x => x.map fun n => ((n, 0) : FRes)).filterMap id = (xs.filterMap id).map treeLeaf := by
  induction xs with
  | nil => rfl
  | cons x r ih => cases x <;> simpa [treeLeaf] using ih

theorem fredTree_none (t : Fmt) (rm : Nat) {xs : List (Option Nat)} (hx : xs.filterMap id = []) : fredTree t rm xs = (0, 0) := by
  have h := forN_treeLevel_none t rm (l := xs.map fun x => x.map fun n => ((n, 0) : FRes)) (by rw [filterMap_leaves, hx]; rfl)
  unfold fredTree
  split
  case h_1 r _ he => rw [he] at h; exact absurd h (List.cons_ne_nil r _)
  case h_2 => rfl

/-- At most one place, and a member: the member stands in it. -/
theorem eq_of_filterMap_short {l : List (Option FRes)} (hl : l.length ≤ 1) {r : FRes} {rs : List FRes} (h : l.filterMap id = r :: rs) :
    l = [some r] ∧ rs = [] := by
  match l with
  | [] => exact absurd h (List.cons_ne_nil r rs).symm
  | [none] => exact absurd h (List.cons_ne_nil r rs).symm
  | [some q] => simp_all

theorem treeAdd_leaves {t : Fmt} (rm x y : Nat) : treeAdd t rm (treeLeaf x) (treeLeaf y) = t.add rm x y := by simp [treeAdd, treeLeaf]

theorem fredTree_two {t : Fmt} (hk : t.Known) (rm : Nat) {xs : List (Option Nat)} (hlen : xs.length ≤ 64) {x y : Nat}
    (hx : xs.filterMap id = [x, y]) : fredTree t rm xs = t.add rm x y := by
  have h := forN_treeLevel_two t rm (l := xs.map fun x => x.map fun n => ((n, 0) : FRes)) (by rw [filterMap_leaves, hx]; rfl)
  have hone := forN_treeLevel_length t rm (l := xs.map fun x => x.map fun n => ((n, 0) : FRes)) (by rwa [List.length_map])
  obtain ⟨hc, hf⟩ := Fmt.add_canonical hk rm x y
  have htop := (h.resolve_left fun h => List.cons_ne_nil _ _ (eq_of_filterMap_short hone h).2)
  rw [treeAdd_leaves] at htop
  unfold fredTree
  rw [(eq_of_filterMap_short hone htop).1, hx]
  exact canonRed_of_canonical hc hf

/-! ### The floating-point reductions (R77) -/

section
variable {t : Nat} {vd va : Reg} {mk : BitVec 3} {ew : BitVec 2} {s : State}

/-- An assigned floating-point reduction of the active elements xs. -/
theorem vfred_answers {i : Instr} {f : Nat → Nat → List (Option Nat) → FRes} {r : FRes} (hew : ew ≠ 0)
    (ho : VecOpen t ([.v va.toNat] ++ maskSrc mk) .long s) (he : exec i s = vred t vd va mk ew (decide (ew = 0)) true f s)
    (hf : let a := (s.hw.thread t).a
      f (Word.fld (a.crAt 0) 7 6) (ewBits ew) (activeOpts (a.rv va) (ewBits ew) (a.rm mk.toNat)) = r)
    (hr : (fmtOf (ewBits ew)).Canonical r.1 ∨ r.1 = 0) :
    Answers i s (Issued t (.v vd.toNat) .vec s fun o => o.setsFlags = true ∧ o.flags = r.2 ∧ o.val = BitVec.ofNat 512 r.1) := by
  refine vred_answers he ho (decide_eq_false hew) hf ?_ fun o hs hfl hv => ⟨hs, hfl, hv⟩
  rcases hr with hr | hr
  · rw [← fmtOf_w hew]
    exact hr.1
  · rw [hr]
    exact Nat.two_pow_pos _

/-- No active element (R77). -/
theorem vfredRows_answer (hew : ew ≠ 0) (ho : VecOpen t ([.v va.toNat] ++ maskSrc mk) .long s)
    (hx : activeList ((s.hw.thread t).a.rv va) (ewBits ew) ((s.hw.thread t).a.rm mk.toNat) = []) :
    ∀ p ∈ vfredRows, Answers (p.1 t vd va mk ew) s (Issued t (.v vd.toNat) .vec s fun o =>
      o.setsFlags = true ∧ o.flags = 0 ∧ o.val = BitVec.ofNat 512 (p.2 (ewBits ew))) := by
  have hq := Fmt.canonical_qnan (fmtOf_known (ewBits ew))
  rw [← activeOpts_filterMap] at hx
  unfold vfredRows
  simp only [List.forall_mem_cons, List.not_mem_nil, false_implies, implies_true, and_true]
  exact ⟨vfred_answers (f := fun rm w xs => fredSeq (fmtOf w) rm (xs.filterMap id)) (r := (0, 0)) hew ho rfl
      (congrArg (fredSeq _ _) hx) (.inr rfl),
    vfred_answers (f := fun rm w xs => fredTree (fmtOf w) rm xs) (r := (0, 0)) hew ho rfl
      (fredTree_none _ _ hx) (.inr rfl),
    vfred_answers (f := fun _ w xs => fredMin (fmtOf w) false (xs.filterMap id)) (r := ((fmtOf (ewBits ew)).qnan, 0)) hew ho rfl
      (congrArg (fredMin _ _) hx) (.inl hq),
    vfred_answers (f := fun _ w xs => fredMin (fmtOf w) true (xs.filterMap id)) (r := ((fmtOf (ewBits ew)).qnan, 0)) hew ho rfl
      (congrArg (fredMin _ _) hx) (.inl hq)⟩

/-- Two active elements added once, in either order of the sums (R77). -/
theorem vfredSums_answer (hew : ew ≠ 0) (ho : VecOpen t ([.v va.toNat] ++ maskSrc mk) .long s) {x y : Nat}
    (hx : activeList ((s.hw.thread t).a.rv va) (ewBits ew) ((s.hw.thread t).a.rm mk.toNat) = [x, y]) :
    let r := (fmtOf (ewBits ew)).add (Word.fld ((s.hw.thread t).a.crAt 0) 7 6) x y
    ∀ c ∈ ([.vfredadd, .vfredaddt] : List (Nat → Reg → Reg → BitVec 3 → BitVec 2 → Instr)),
      Answers (c t vd va mk ew) s (Issued t (.v vd.toNat) .vec s fun o =>
        o.setsFlags = true ∧ o.flags = r.2 ∧ o.val = BitVec.ofNat 512 r.1) := by
  have hk := fmtOf_known (ewBits ew)
  have hlen : (activeOpts ((s.hw.thread t).a.rv va) (ewBits ew) ((s.hw.thread t).a.rm mk.toNat)).length ≤ 64 := by
    rw [activeOpts_length, ewBits_count]
    exact Nat.div_le_self _ _
  rw [← activeOpts_filterMap] at hx
  simp only [List.forall_mem_cons, List.not_mem_nil, false_implies, implies_true, and_true]
  exact ⟨vfred_answers (f := fun rm w xs => fredSeq (fmtOf w) rm (xs.filterMap id)) hew ho rfl
      ((congrArg (fredSeq _ _) hx).trans (fredSeq_two hk _ x y)) (.inl (Fmt.add_canonical hk _ x y).1),
    vfred_answers (f := fun rm w xs => fredTree (fmtOf w) rm xs) hew ho rfl
      (fredTree_two hk _ hlen hx) (.inl (Fmt.add_canonical hk _ x y).1)⟩

/-- The lesser or greater of two active elements (R77). -/
theorem vfredExtrema_answer (hew : ew ≠ 0) (ho : VecOpen t ([.v va.toNat] ++ maskSrc mk) .long s) {x y : Nat}
    (hx : activeList ((s.hw.thread t).a.rv va) (ewBits ew) ((s.hw.thread t).a.rm mk.toNat) = [x, y]) :
    ∀ p ∈ ([(.vfredmin, false), (.vfredmax, true)] : List ((Nat → Reg → Reg → BitVec 3 → BitVec 2 → Instr) × Bool)),
      Answers (p.1 t vd va mk ew) s (Issued t (.v vd.toNat) .vec s fun o =>
        o.setsFlags = true ∧ o.flags = ((fmtOf (ewBits ew)).minMax p.2 x y).2 ∧
          o.val = BitVec.ofNat 512 ((fmtOf (ewBits ew)).minMax p.2 x y).1) := by
  have hk := fmtOf_known (ewBits ew)
  have hlt : ∀ z ∈ [x, y], z < 2 ^ (fmtOf (ewBits ew)).w := by
    rw [← hx, fmtOf_w hew]
    exact activeList_lt
  have hxlt := hlt x List.mem_cons_self
  have hylt := hlt y (List.mem_cons_of_mem x List.mem_cons_self)
  rw [← activeOpts_filterMap] at hx
  simp only [List.forall_mem_cons, List.not_mem_nil, false_implies, implies_true, and_true]
  exact ⟨vfred_answers (f := fun _ w xs => fredMin (fmtOf w) false (xs.filterMap id)) hew ho rfl
      ((congrArg (fredMin _ _) hx).trans (fredMin_two hk _ hxlt hylt)) (.inl (Fmt.minMax_canonical hk _ hxlt hylt).1),
    vfred_answers (f := fun _ w xs => fredMin (fmtOf w) true (xs.filterMap id)) hew ho rfl
      ((congrArg (fredMin _ _) hx).trans (fredMin_two hk _ hxlt hylt)) (.inl (Fmt.minMax_canonical hk _ hxlt hylt).1)⟩

end

/-- Settles O16: the integer reductions by folding, the floating-point ones of none and of two elements. -/
theorem vectorReductions : Obligations.VectorReductions := by
  intro t vd va mk ew s
  exact fun ho => ⟨vredRows_answer ho, fun hew hx => vfredRows_answer hew ho hx, fun hew _ _ hx => vfredSums_answer hew ho hx,
    fun hew _ _ hx => vfredExtrema_answer hew ho hx⟩

end Sys2Proof.Machine

namespace Sys2Proof.Machine

open Sys2Proof.Safety Sys2Proof.Claims

/-! ### Permutes, changes of width and moves (R78, R79) -/

/-- A vector operation without flags whose elements stand under the mask (R70). -/
theorem vecOp_elements {i : Instr} {t : Nat} {vd : Reg} {mk : BitVec 3} {ew : BitVec 2} {srcs srcs' : List Dest} {g : Arch → Nat → Nat}
    {f : Nat → Nat} {s : State} (ho : VecOpen t srcs .long s)
    (he : exec i s = s.onHw fun m h => h.vecOp m t .vec .long srcs' (.v vd.toNat) false false fun a =>
      (predicate (ewBits ew) (a.rm mk.toNat) (a.rv vd) ((List.range (ewCount ew)).map (g a)), 0)) (hs : srcs' = srcs)
    (hf : ∀ j, g (s.hw.thread t).a j % 2 ^ ewBits ew = f j % 2 ^ ewBits ew) :
    Answers i s (Issued t (.v vd.toNat) .vec s fun o =>
      Elements (ewBits ew) (512 / ewBits ew) ((s.hw.thread t).a.rm mk.toNat) ((s.hw.thread t).a.rv vd) o.val f) := by
  refine vecOp_answers he ho hs rfl fun id => ?_
  rw [ewBits_count]
  exact elements_predicate (ewBits_mul_count ew).le hf

/-- An element of an odd place, by the pair that it closes. -/
theorem ite_odd {a b : Nat → Nat} (k j : Nat) :
    (if j % 2 = 0 then a (j / 2 + k) else b (j / 2 + k)) = if j % 2 = 0 then a (j / 2 + k) else b ((j - 1) / 2 + k) := by
  split
  · rfl
  · rw [show j / 2 = (j - 1) / 2 by omega]

theorem permRows_answer {t : Nat} {vd va vb : Reg} {mk : BitVec 3} {ew : BitVec 2} {s : State}
    (ho : VecOpen t ([.v va.toNat, .v vb.toNat] ++ underMask vd mk) .long s) :
    let a := (s.hw.thread t).a
    let w := ewBits ew
    ∀ p ∈ permRows, Answers (p.1 t vd va vb mk ew) s (Issued t (.v vd.toNat) .vec s fun o =>
      Elements w (512 / w) (a.rm mk.toNat) (a.rv vd) o.val (p.2 (512 / w) (elem (a.rv va) w) (elem (a.rv vb) w))) := by
  have hs : ([.v va.toNat, .v vb.toNat] ++ srcD vd mk : List Dest) = [.v va.toNat, .v vb.toNat] ++ underMask vd mk := by rw [srcD_eq]
  unfold permRows
  simp only [List.forall_mem_cons, List.not_mem_nil, false_implies, implies_true, and_true]
  refine ⟨vecOp_elements ho rfl hs fun j => ?perm, vecOp_elements ho rfl hs fun j => ?ziplo, vecOp_elements ho rfl hs fun j => ?ziphi⟩
  case perm => rw [ewBits_count]
  case ziplo => exact congrArg (· % 2 ^ ewBits ew) (ite_odd 0 j)
  case ziphi =>
    rw [ewBits_count]
    exact congrArg (· % 2 ^ ewBits ew) (ite_odd _ j)

theorem slideRows_answer {t : Nat} {vd va vb : Reg} {mk : BitVec 3} {ew : BitVec 2} {s : State}
    (ho : VecOpen t ([.v va.toNat, destG vb] ++ underMask vd mk) .long s) :
    let a := (s.hw.thread t).a
    let w := ewBits ew
    ∀ p ∈ slideRows, Answers (p.1 t vd va vb mk ew) s (Issued t (.v vd.toNat) .vec s fun o =>
      Elements w (512 / w) (a.rm mk.toNat) (a.rv vd) o.val (p.2 (512 / w) (elem (a.rv va) w) (a.rg vb).toNat)) := by
  have hs : ([.v va.toNat, destG vb] ++ srcD vd mk : List Dest) = [.v va.toNat, destG vb] ++ underMask vd mk := by rw [srcD_eq]
  unfold slideRows
  simp only [List.forall_mem_cons, List.not_mem_nil, false_implies, implies_true, and_true]
  exact ⟨vecOp_elements ho rfl hs fun j => by rw [ewBits_count], vecOp_elements ho rfl hs fun _ => rfl⟩

/-- The elements of a register written whole. -/
theorem elem_packElems_lt {ew : BitVec 2} {es : List Nat} (hlen : es.length ≤ ewCount ew) (hlt : ∀ x ∈ es, x < 2 ^ ewBits ew) (j : Nat) :
    elem (packElems (ewBits ew) es) (ewBits ew) j = es.getD j 0 := by
  have hfit : ewBits ew * es.length ≤ 512 := (Nat.mul_le_mul_left _ hlen).trans (ewBits_mul_count ew).le
  rw [elem_packElems hfit]
  apply Nat.mod_eq_of_lt
  rw [List.getD_eq_getElem?_getD]
  cases h : es[j]? with
  | none => exact Nat.two_pow_pos _
  | some x => exact hlt x (List.mem_of_getElem? h)

theorem compress_eq (v : Vec) (w : Nat) (mask : Word) : ((elems v w).zipIdx.filter fun p => active mask p.2).map (·.1) = activeList v w mask := by
  unfold elems activeList
  rw [zipIdx_map_range, List.filter_map, List.map_map]
  rfl

theorem activeList_length (v : Vec) (ew : BitVec 2) (mask : Word) : (activeList v (ewBits ew) mask).length ≤ ewCount ew := by
  unfold activeList
  rw [List.length_map, ewBits_count]
  exact (List.length_filter_le _ _).trans (List.length_range).le

/-- The bits set below a place, counted (R78). -/
theorem popN_eq (j v : Nat) : popN j v = ((List.range j).filter v.testBit).length := by
  induction j generalizing v with
  | zero => rfl
  | succ j ih =>
    have htail : (v.testBit ∘ Nat.succ) = (v / 2).testBit := funext fun i => Nat.testBit_succ v i
    rw [popN, ih, List.range_succ_eq_map, List.filter_cons, List.filter_map, htail, Nat.testBit_zero]
    split <;> rename_i h <;> simp at h <;> simp [h, Nat.add_comm]

/-- A vector operation without flags that writes its register whole. -/
theorem vecOp_whole {i : Instr} {t : Nat} {vd : Reg} {ew : BitVec 2} {srcs srcs' : List Dest} {g : Arch → List Nat} {f : Nat → Nat} {s : State}
    (ho : VecOpen t srcs .long s) (he : exec i s = s.onHw fun m h => h.vecOp m t .vec .long srcs' (.v vd.toNat) false false fun a =>
      (packElems (ewBits ew) (g a), 0)) (hs : srcs' = srcs) (hlen : (g (s.hw.thread t).a).length ≤ ewCount ew)
    (hlt : ∀ x ∈ g (s.hw.thread t).a, x < 2 ^ ewBits ew) (hf : ∀ j, j < ewCount ew → (g (s.hw.thread t).a).getD j 0 = f j) :
    Answers i s (Issued t (.v vd.toNat) .vec s fun o => ∀ j, j < 512 / ewBits ew → elem o.val (ewBits ew) j = f j) := by
  refine vecOp_answers he ho hs rfl fun id => ?_
  rw [ewBits_count]
  exact fun j hj => (elem_packElems_lt hlen hlt j).trans (hf j hj)

theorem getD_map_range (n : Nat) (g : Nat → Nat) {j : Nat} (hj : j < n) : ((List.range n).map g).getD j 0 = g j := by
  rw [List.getD_eq_getElem _ _ (by simpa using hj)]
  simp

theorem vcompress_answer {t : Nat} {vd va : Reg} {mk : BitVec 3} {ew : BitVec 2} {s : State} (ho : VecOpen t ([.v va.toNat] ++ maskSrc mk) .long s) :
    let a := (s.hw.thread t).a
    let xs := activeList (a.rv va) (ewBits ew) (a.rm mk.toNat)
    Answers (.vcompress t vd va mk ew) s (Issued t (.v vd.toNat) .vec s fun o =>
      ∀ j, j < 512 / ewBits ew → elem o.val (ewBits ew) j = xs.getD j 0) := by
  have he : exec (.vcompress t vd va mk ew) s = s.onHw fun m h => h.vecOp m t .vec .long ([.v va.toNat] ++ srcM mk) (.v vd.toNat) false false fun a =>
    (packElems (ewBits ew) (((elems (a.rv va) (ewBits ew)).zipIdx.filter fun p => active (a.rm mk.toNat) p.2).map (·.1)), 0) := rfl
  simp only [compress_eq] at he
  exact vecOp_whole ho he (by rw [srcM_eq]) (activeList_length _ ew _) activeList_lt fun _ _ => rfl

theorem vexpand_answer {t : Nat} {vd va : Reg} {mk : BitVec 3} {ew : BitVec 2} {s : State} (ho : VecOpen t ([.v va.toNat] ++ maskSrc mk) .long s) :
    let a := (s.hw.thread t).a
    let mask := a.rm mk.toNat
    Answers (.vexpand t vd va mk ew) s (Issued t (.v vd.toNat) .vec s fun o => ∀ j, j < 512 / ewBits ew →
      elem o.val (ewBits ew) j =
        if mask.getLsbD j then elem (a.rv va) (ewBits ew) ((List.range j).filter fun i => mask.getLsbD i).length else 0) := by
  refine vecOp_whole (ew := ew) (g := fun a => (List.range (ewCount ew)).map fun j =>
    if active (a.rm mk.toNat) j then elem (a.rv va) (ewBits ew) (popN j (a.rm mk.toNat).toNat) else 0) ho rfl (by rw [srcM_eq]) ?_ ?_ fun j hj => ?_
  · simp
  · intro x hx
    obtain ⟨j, -, rfl⟩ := List.mem_map.1 hx
    exact ite_lt (elem_lt ..) (Nat.two_pow_pos _)
  · rw [getD_map_range _ _ hj, popN_eq]
    rfl

/-- Elements whose width and number differ from the operand's, with the flags where the operation brings them (R79). -/
theorem widthChange_holds {w n : Nat} {mask : Word} {old : Vec} {r : Nat → FRes} {fl : Bool} {k : LongKind} {d : Dest} (hfit : w * n ≤ 512) (id : Nat) :
    let o : LongOp := { LongOp.known k d (predicateF w mask old ((List.range n).map r)).1 with
      id := id, flags := (predicateF w mask old ((List.range n).map r)).2, setsFlags := fl }
    Elements w n mask old o.val (fun j => (r j).1) ∧ if fl then FlagsOf n mask o (fun j => (r j).2) else o.setsFlags = false := by
  refine ⟨elements_predicateF hfit fun _ => rfl, ?_⟩
  cases fl
  · exact rfl
  · exact flagsOf_predicateF (w := w) (old := old) rfl rfl

theorem widened_fit (ew : BitVec 2) : 2 * ewBits ew * (ewCount ew / 2) ≤ 512 := by revert ew; decide

theorem narrowed_fit (ew : BitVec 2) : ewBits ew / 2 * ewCount ew ≤ 256 := by revert ew; decide

theorem vwiden_answers {i : Instr} {t : Nat} {vd va : Reg} {mk : BitVec 3} {ew : BitVec 2} {reserved fl : Bool} {f : Nat → Nat → FRes} {s : State}
    (ho : VecOpen t ([.v va.toNat] ++ underMask vd mk) .long s) (he : exec i s = vwiden t vd va mk ew reserved fl f s) (hres : reserved = false) :
    let a := (s.hw.thread t).a
    let w := ewBits ew
    Answers i s (Issued t (.v vd.toNat) .vec s fun o =>
      Elements (2 * w) (512 / w / 2) (a.rm mk.toNat) (a.rv vd) o.val (fun j => (f w (elem (a.rv va) w j)).1) ∧
        if fl then FlagsOf (512 / w / 2) (a.rm mk.toNat) o (fun j => (f w (elem (a.rv va) w j)).2) else o.setsFlags = false) := by
  refine vecOp_answers he ho (by rw [srcD_eq]) hres fun id => ?_
  rw [ewBits_count]
  exact widthChange_holds (widened_fit ew) id

/-- The register above packed elements is zero. -/
theorem packElems_lt {w n : Nat} {es : List Nat} (hlen : w * es.length ≤ n) : (packElems w es).toNat < 2 ^ n := by
  unfold packElems
  rw [BitVec.toNat_ofNat]
  calc _ ≤ es.foldr (fun e n => e % 2 ^ w + 2 ^ w * n) 0 := Nat.mod_le _ _
    _ < (2 ^ w) ^ es.length := pack_lt _ (Nat.two_pow_pos w) es
    _ = 2 ^ (w * es.length) := (Nat.pow_mul 2 w es.length).symm
    _ ≤ 2 ^ n := Nat.pow_le_pow_right Nat.two_pos hlen

theorem vnarrow_answers {i : Instr} {t : Nat} {vd va : Reg} {mk : BitVec 3} {ew : BitVec 2} {reserved fl : Bool} {f : Nat → Nat → Nat → FRes}
    {s : State} (ho : VecOpen t ([.v va.toNat] ++ underMask vd mk) .long s) (he : exec i s = vnarrow t vd va mk ew reserved fl f s)
    (hres : reserved = false) :
    let a := (s.hw.thread t).a
    let w := ewBits ew
    let r := fun j => f (Word.fld (a.crAt 0) 7 6) w (elem (a.rv va) w j)
    Answers i s (Issued t (.v vd.toNat) .vec s fun o =>
      Elements (w / 2) (512 / w) (a.rm mk.toNat) (a.rv vd) o.val (fun j => (r j).1) ∧ o.val.toNat < 2 ^ 256 ∧
        if fl then FlagsOf (512 / w) (a.rm mk.toNat) o (fun j => (r j).2) else o.setsFlags = false) := by
  refine vecOp_answers he ho (by rw [srcD_eq]) hres fun id => ?_
  dsimp only
  rw [ewBits_count, elems_map]
  obtain ⟨hel, hfl⟩ := widthChange_holds ((narrowed_fit ew).trans (by decide)) id
  refine ⟨hel, packElems_lt ?_, hfl⟩
  simpa using narrowed_fit ew

/-- The forms that double the width (R79). -/
theorem widenRows_answer {t : Nat} {vd va : Reg} {mk : BitVec 3} {ew : BitVec 2} {s : State}
    (ho : VecOpen t ([.v va.toNat] ++ underMask vd mk) .long s) :
    let a := (s.hw.thread t).a
    let w := ewBits ew
    ∀ p ∈ widenRows, p.2.1 ew.toNat → Answers (p.1 t vd va mk ew) s (Issued t (.v vd.toNat) .vec s fun o =>
      Elements (2 * w) (512 / w / 2) (a.rm mk.toNat) (a.rv vd) o.val (fun j => (p.2.2.2 w (elem (a.rv va) w j)).1) ∧
        if p.2.2.1 then FlagsOf (512 / w / 2) (a.rm mk.toNat) o (fun j => (p.2.2.2 w (elem (a.rv va) w j)).2) else o.setsFlags = false) := by
  have h12 : ew.toNat = 1 ∨ ew.toNat = 2 → decide (ew = 0 ∨ ew = 3) = false := by revert ew; decide
  have h3 : ew.toNat < 3 → decide (ew = 3) = false := by revert ew; decide
  exact List.forall_mem_cons.2 ⟨fun h => vwiden_answers (f := fun w => (fmtOf w).convert (fmtOf (2 * w)) 0) ho rfl (h12 h),
    List.forall_mem_cons.2 ⟨fun h => vwiden_answers (f := fun w x => (ofS (2 * w) (toS w x), 0)) ho rfl (h3 h),
      List.forall_mem_cons.2 ⟨fun h => vwiden_answers (f := fun _ x => (x, 0)) ho rfl (h3 h), fun _ hp => absurd hp List.not_mem_nil⟩⟩⟩

/-- The forms that halve it (R79). -/
theorem narrowRows_answer {t : Nat} {vd va : Reg} {mk : BitVec 3} {ew : BitVec 2} {s : State}
    (ho : VecOpen t ([.v va.toNat] ++ underMask vd mk) .long s) :
    let a := (s.hw.thread t).a
    let w := ewBits ew
    let rm := Word.fld (a.crAt 0) 7 6
    ∀ p ∈ narrowRows, p.2.1 ew.toNat → Answers (p.1 t vd va mk ew) s (Issued t (.v vd.toNat) .vec s fun o =>
      Elements (w / 2) (512 / w) (a.rm mk.toNat) (a.rv vd) o.val (fun j => (p.2.2.2 rm w (elem (a.rv va) w j)).1) ∧ o.val.toNat < 2 ^ 256 ∧
        if p.2.2.1 then FlagsOf (512 / w) (a.rm mk.toNat) o (fun j => (p.2.2.2 rm w (elem (a.rv va) w j)).2) else o.setsFlags = false) := by
  have h1 : 1 ≤ ew.toNat → decide (ew = 0) = false := by revert ew; decide
  exact List.forall_mem_cons.2
    ⟨fun h => vnarrow_answers (f := fun rm w => (fmtOf w).convert (fmtOf (w / 2)) rm) ho rfl (decide_eq_false (not_lt.2 h)),
      List.forall_mem_cons.2 ⟨fun h => vnarrow_answers (f := fun _ w x => (x % 2 ^ (w / 2), 0)) ho rfl (h1 h), fun _ hp => absurd hp List.not_mem_nil⟩⟩

/-- A general register copied to the elements (R79). -/
theorem vmvVg_answer {t : Nat} {vd ra : Reg} {mk : BitVec 3} {ew : BitVec 2} {s : State} (ho : VecOpen t ([destG ra] ++ underMask vd mk) .long s) :
    Answers (.vmvVg t vd ra mk ew) s (Issued t (.v vd.toNat) .vec s fun o =>
      Elements (ewBits ew) (512 / ewBits ew) ((s.hw.thread t).a.rm mk.toNat) ((s.hw.thread t).a.rv vd) o.val
        fun _ => ((s.hw.thread t).a.rg ra).toNat) := by
  refine vecOp_answers rfl ho (by rw [srcD_eq]) rfl fun id => ?_
  have hrep (n x : Nat) : List.replicate n x = (List.range n).map fun _ => x := by rw [List.map_const', List.length_range]
  dsimp only
  rw [ewBits_count, hrep]
  exact elements_predicate (ewBits_mul_count ew).le fun _ => Nat.mod_mod _ _

/-- An element copied to a general register (R79). -/
theorem vmvGv_answer {t : Nat} {rd va rb : Reg} {ew : BitVec 2} {s : State} (ho : VecOpen t [.v va.toNat, destG rb] .long s) :
    Answers (.vmvGv t rd va rb ew) s (Issued t (destG rd) .vec s fun o =>
      o.val = BitVec.ofNat 512 (elem ((s.hw.thread t).a.rv va) (ewBits ew) (((s.hw.thread t).a.rg rb).toNat % (512 / ewBits ew)))) := by
  refine vecOp_answers rfl ho rfl rfl fun id => ?_
  rw [ewBits_count]
  rfl

/-- One element replaced (R79). -/
theorem vins_answer {t : Nat} {vd ra rb : Reg} {ew : BitVec 2} {s : State} (ho : VecOpen t [.v vd.toNat, destG ra, destG rb] .long s) :
    let a := (s.hw.thread t).a
    let w := ewBits ew
    Answers (.vins t vd ra rb ew) s (Issued t (.v vd.toNat) .vec s fun o => ∀ j, j < 512 / w →
      elem o.val w j = if j = (a.rg rb).toNat % (512 / w) then (a.rg ra).toNat % 2 ^ w else elem (a.rv vd) w j) := by
  refine vecOp_whole (ew := ew) (g := fun a => (elems (a.rv vd) (ewBits ew)).set ((a.rg rb).toNat % ewCount ew) ((a.rg ra).toNat % 2 ^ ewBits ew))
    ho rfl rfl ?_ ?_ fun j hj => ?_
  · simp [elems, ewBits_count]
  · intro x hx
    rcases List.mem_or_eq_of_mem_set hx with hx | rfl
    · obtain ⟨j, -, rfl⟩ := List.mem_map.1 hx
      exact elem_lt ..
    · exact Nat.mod_lt _ (Nat.two_pow_pos _)
  · have hlen : j < (elems ((s.hw.thread t).a.rv vd) (ewBits ew)).length := by simpa [elems, ewBits_count] using hj
    rw [ewBits_count, List.getD_eq_getElem _ _ (by rwa [List.length_set]), List.getElem_set]
    exact if_congr eq_comm rfl (by simp [elems])

/-- Settles O17, table by table and move by move. -/
theorem vectorPermutesAndMoves : Obligations.VectorPermutesAndMoves := by
  intro t vd va vb mk ew s
  exact ⟨permRows_answer, slideRows_answer, fun ho => ⟨vcompress_answer ho, vexpand_answer ho⟩,
    fun ho => ⟨widenRows_answer ho, narrowRows_answer ho⟩, vmvVg_answer, vmvGv_answer, vins_answer⟩

end Sys2Proof.Machine

namespace Sys2Proof.Machine

open Sys2Proof.Safety Sys2Proof.Claims

/-! ### Requests that a long operation awaits (R95, R110, R305) -/

/-- A request has left, and the long operation that awaits its answer issues as the instruction completes. -/
theorem awaits_sends {t : Nat} {s : State} {g : Hw} {k : LongKind} {d : Dest} {acc : Acc} {p : Payload} {src dst : Nat}
    (hth : g.threads = (s.hw.addLong t (LongOp.awaits k d acc)).threads) (hs : Sends p src dst s { s with hw := g }) :
    let u : State := { s with hw := g.complete t .seq }
    AwaitsAnswer t d k (s.hw.nextLong t) s u ∧ Sends p src dst s u := by
  obtain ⟨hg, hpc, -, hrest⟩ := (s.hw.thread t).a.done_seq
  have hthread (n : Nat) : g.thread n = (s.hw.addLong t (LongOp.awaits k d acc)).thread n := by unfold Hw.thread; rw [hth]
  have hflits : (g.complete t .seq).flits = g.flits := by
    obtain ⟨on, w, e⟩ := g.complete_eq t .seq
    rw [e]
    rfl
  unfold AwaitsAnswer Sends
  dsimp only
  rw [Hw.complete_thread, hthread, Hw.addLong_eq, Hw.thread_updThread_same, hflits]
  refine ⟨⟨rfl, fun n hn => ?_, hg, hpc, hrest, fun q hq => Back.id_ne_fresh hq, fun hd => Back.withLong_owed _ hd, _, rfl, rfl, rfl, rfl, rfl⟩, hs⟩
  exact (Hw.complete_other _ hn _).trans ((hthread n).trans (Hw.thread_updThread_ne _ _ _ hn))

/-- A request to the admission controller (R305). -/
theorem admSend_asks {t : Nat} {s : State} {h : Hw} (rd : Reg) (op : Nat) (handle : Word) (ws : List Word) (hth : h.threads = s.hw.threads)
    (hfl : h.flits = s.hw.flits) :
    let u : State := { s with hw := h.admSend t rd op handle ws }
    AwaitsAnswer t (destG rd) .adm (s.hw.nextLong t) s u ∧
      Sends (.adm ⟨t, s.hw.nextLong t, op, handle, ws⟩) (chamberStop (t / 16)) (blockStop .admission) s u := by
  have hthread : h.thread t = s.hw.thread t := by unfold Hw.thread; rw [hth]
  unfold Hw.admSend Hw.nextLong
  rw [hthread]
  refine awaits_sends (acc := (s.hw.thread t).acc) ?_ (Hw.send_sends hfl)
  unfold Hw.addLong Hw.updBack Hw.updThread
  rw [Hw.send_threads, hth]

/-- A request of an INST instruction to its queue slice, for which the chamber has a credit (R248, R390). -/
theorem instSend_asks {t : Nat} {s : State} {h : Hw} (rd : Reg) (k : LongKind) (op i : Nat) (opnd : Word) (bytes : Option (List Word))
    (hth : h.threads = s.hw.threads) (hfl : h.flits = s.hw.flits) (hc : h.hasCredit 0 (t / 16) (i / 8) = true) :
    let x := s.hw.thread t
    let u : State := { s with hw := h.instSend t rd k op i opnd bytes }
    AwaitsAnswer t (destG rd) k (s.hw.nextLong t) s u ∧
      Sends (.instReq (i / 8) ⟨t, s.hw.nextLong t, op, i, opnd, bytes, x.acc, !(x.a.crAt 0xC04).getLsbD 1, ⟨x.acc, x.a.ctx⟩⟩)
        (chamberStop (t / 16)) (chamberStop (i / 8)) s u := by
  have hthread : h.thread t = s.hw.thread t := by unfold Hw.thread; rw [hth]
  unfold Hw.instSend Hw.nextLong
  rw [hthread]
  dsimp only
  rw [if_neg (by rw [hc]; decide)]
  refine awaits_sends (acc := (s.hw.thread t).acc) ?_ (Hw.send_sends (h := h.useCredit 0 (t / 16) (i / 8)) hfl)
  unfold Hw.addLong Hw.updBack Hw.updThread
  rw [Hw.send_threads, ← hth]
  rfl

/-! ### Descriptors (R59, R68, R94) -/

theorem leNat_leBytes (n v : Nat) : leNat (leBytes n v) = v % 256 ^ n := by
  induction n generalizing v with
  | zero => rw [Nat.pow_zero, Nat.mod_one]; rfl
  | succ n ih =>
    have e : v % 256 ^ (n + 1) = v % 256 + 256 * (v / 256 % 256 ^ n) := by rw [Nat.pow_succ', Nat.mod_mul]
    rw [leBytes, leNat, ih, BitVec.toNat_ofNat, e]

/-- The bytes of a vector as a number (R8). -/
theorem leNat_vbytes (v : Vec) (off n : Nat) : leNat (vbytes v off n) = v.toNat / 2 ^ (8 * off) % 2 ^ (8 * n) := by
  have h8 (k : Nat) : 256 ^ k = 2 ^ (8 * k) := by rw [Nat.pow_mul]
  unfold vbytes
  rw [leNat_leBytes, h8, h8]

/-- A vector with bytes stored, bit by bit: theirs where they stand, its own elsewhere. -/
theorem vput_getLsbD (v : Vec) {off : Nat} {bs : Bytes} (hfit : off + bs.length ≤ 64) (i : Nat) :
    (vput v off bs).getLsbD i = if 8 * off ≤ i ∧ i < 8 * (off + bs.length) then (leNat bs).testBit (i - 8 * off) else v.getLsbD i := by
  have h8 (k : Nat) : 256 ^ k = 2 ^ (8 * k) := by rw [Nat.pow_mul]
  unfold vput
  dsimp only
  rw [BitVec.getLsbD_or, BitVec.getLsbD_and, BitVec.getLsbD_and, BitVec.getLsbD_not, BitVec.getLsbD_ofNat, BitVec.getLsbD_ofNat, h8, h8,
    testBit_ones, Nat.testBit_mul_two_pow, Nat.mul_add]
  by_cases hin : 8 * off ≤ i ∧ i < 8 * off + 8 * bs.length
  · have hlt : i < 512 := by omega
    simp [hin, hlt]
  · rw [if_neg hin]
    by_cases hlt : i < 512
    · have hb : (decide (8 * off ≤ i) && decide (i < 8 * off + 8 * bs.length)) = false := by simpa using hin
      simp [hlt, hb]
    · rw [decide_eq_false hlt, BitVec.getLsbD_of_ge _ _ (not_lt.1 hlt)]
      rfl

/-- A line read byte by byte and put together again. -/
theorem vput_vbytes (v : Vec) : vput 0 0 (vbytes v 0 64) = v := by
  apply BitVec.eq_of_getLsbD_eq
  intro i hi
  rw [vput_getLsbD 0 (by rw [vbytes_length]), vbytes_length, leNat_vbytes, if_pos (by omega), Nat.testBit_mod_two_pow, decide_eq_true (by omega)]
  simp [BitVec.getLsbD]

/-- Cached memory whose line the core's L1D holds is read there, with the thread's own buffered stores (R59, R201). -/
theorem Hw.blockRead_held {m : List Host.Cell} {h : Hw} {t : Nat} {mt : MemType} {tg : Target} {pa : Word} {n : Nat} (hmem : IsMemory tg)
    (hmt : mt = .wb ∨ mt = .wt) (hext : (h.thread t).b.ext = []) (hout : (h.thread t).b.outOn (lineNo pa) = false)
    (hheld : HeldL1d (coreOf t) (lineNo pa) (h.thread t).acc h) :
    h.blockRead m t false (h.thread t).acc mt tg pa n = .got 0 (vbytes (ownLine m h t pa) (pa.toNat % 64) n) := by
  obtain ⟨hen, l, hl, hadm, hbad⟩ := hheld
  obtain ⟨hreg, hrem, hmmio⟩ := hmem
  have hrank : mt.rank < 2 := by rcases hmt with rfl | rfl <;> decide
  have hnone : (h.thread t).extOf false = [] := hext
  unfold Hw.blockRead
  dsimp only
  rw [hnone, List.find?_nil]
  dsimp only
  rw [hout]
  cases tg with
  | mmio k => exact absurd rfl (hmmio k)
  | reg => exact absurd rfl hreg
  | remote => exact absurd rfl hrem
  | _ => simp [hrank, hen, hl, hadm, hbad]

/-- The descriptor of an instruction, where its checks pass and the core's L1D holds its line (R94). -/
theorem descRead_described {t : Nat} {va : Word} {s : State} {ws : List Word} (h : Described t va s ws) :
    ∃ v, s.hw.descRead s.mem t va = .ok v ∧ vwords v = ws := by
  obtain ⟨pa, mt, tg, hx, hmem, hmt, hal, hext, hout, hheld, rfl⟩ := h
  refine ⟨ownLine s.mem s.hw t pa, ?_, rfl⟩
  unfold Hw.descRead
  rw [hx]
  dsimp only
  rw [Hw.blockRead_held hmem hmt hext hout hheld, hal]
  dsimp only
  rw [if_pos rfl, vput_vbytes]

/-! ### The instructions of H and above (R94, R97) -/

theorem upper_iff (a : Arch) : (a.level = .h ∨ a.level = .m) ↔ ¬Level.num a.level < 2 := by cases a.level <;> simp [Level.num]

/-- Below H an instruction of H is illegal, an exception that S takes (R88, R156). -/
theorem illegal_below {t : Nat} {s : State} {pa entry : Word} {mt : MemType} (hl : Level.num (s.hw.thread t).a.level < 2)
    (ho : EntryOpen t .s ⟨0, 0, 0, (s.hw.thread t).a.pc⟩ s pa mt entry) :
    Enters t .s ⟨0, 0, 0, (s.hw.thread t).a.pc⟩ pa entry s { s with hw := s.hw.illegal s.mem t } := by
  have hs : sStar (s.hw.thread t).a = .s := by
    unfold sStar
    cases hlev : (s.hw.thread t).a.level <;> simp [hlev, Level.num] at hl ⊢
  rw [← hs] at ho ⊢
  exact Hw.illegal_enters ho

section
variable {t : Nat} {rd ra rb : Reg} {s : State}

/-- QREL and QQUERY send a handle (R94). -/
theorem handleOp_asks {c : Instr} {op : Nat} (ho : s.hw.off = false) (hr : s.hw.ready t [destG ra] .memLong = true)
    (hl : ¬Level.num (s.hw.thread t).a.level < 2) (he : exec c s = s.onHw fun m h => h.handleOp m t rd ra op) :
    Answers c s fun u => ∃ id, AwaitsAnswer t (destG rd) .adm id s u ∧
      Sends (.adm ⟨t, id, op, (s.hw.thread t).a.rg ra, []⟩) (chamberStop (t / 16)) (blockStop .admission) s u := by
  refine Answers.of_onHw ho he ⟨s.hw.nextLong t, ?_⟩
  unfold Hw.handleOp
  rw [if_neg (by rw [hr]; decide), if_neg hl]
  exact admSend_asks rd op _ [] rfl rfl

/-- QRESV sends the descriptor's words (R94). -/
theorem qresv_asks {ws : List Word} (ho : s.hw.off = false) (hr : s.hw.ready t [destG ra] .memLong = true)
    (hl : ¬Level.num (s.hw.thread t).a.level < 2) (hal : ((s.hw.thread t).a.rg ra).toNat % 64 = 0) (hd : Described t ((s.hw.thread t).a.rg ra) s ws) :
    Answers (.qresv t rd ra) s fun u => ∃ id, AwaitsAnswer t (destG rd) .adm id s u ∧
      Sends (.adm ⟨t, id, 0, 0, ws⟩) (chamberStop (t / 16)) (blockStop .admission) s u := by
  obtain ⟨v, hv, rfl⟩ := descRead_described hd
  refine Answers.of_onHw ho rfl ⟨s.hw.nextLong t, ?_⟩
  dsimp only
  rw [if_neg (by rw [hr]; decide), if_neg hl, if_neg (by rw [hal]; decide), hv]
  exact admSend_asks (h := s.hw.tick) rd 0 0 (vwords v) rfl rfl

/-- Below H the requests to the admission controller are illegal (R94). -/
theorem admission_illegal (ho : s.hw.off = false) (hr : s.hw.ready t [destG ra] .memLong = true) (hl : Level.num (s.hw.thread t).a.level < 2) :
    ∀ c ∈ ([.qresv, .qrel, .qquery] : List (Nat → Reg → Reg → Instr)), ∀ pa mt entry, EntryOpen t .s ⟨0, 0, 0, (s.hw.thread t).a.pc⟩ s pa mt entry →
      Answers (c t rd ra) s (Enters t .s ⟨0, 0, 0, (s.hw.thread t).a.pc⟩ pa entry s) := by
  have hready : ¬(!s.hw.ready t [destG ra] .memLong) = true := by rw [hr]; decide
  simp only [List.forall_mem_cons, List.not_mem_nil, false_implies, implies_true, and_true]
  refine ⟨fun pa mt entry he => Answers.of_onHw ho rfl ?_, fun pa mt entry he => Answers.of_onHw ho rfl ?_,
    fun pa mt entry he => Answers.of_onHw ho rfl ?_⟩
  · dsimp only
    rw [if_neg hready, if_pos hl]
    exact illegal_below hl he
  · unfold Hw.handleOp
    rw [if_neg hready, if_pos hl]
    exact illegal_below hl he
  · unfold Hw.handleOp
    rw [if_neg hready, if_pos hl]
    exact illegal_below hl he

/-- Field 8:0 of a register (R96). -/
theorem instance_fld (w : Word) : Word.fld w 8 0 = w.toNat % 512 := by simp [Word.fld, Machine.fld]

/-- Each INST instruction that sends an operand runs its operation (R97). -/
theorem instRows_exec (t : Nat) (rd ra rb : Reg) (s : State) :
    ∀ p ∈ instRows, exec (p.1 t rd ra rb) s = s.onHw fun m h => h.instOp m t rd ra rb p.2 := by
  unfold instRows
  simp only [List.forall_mem_cons, List.not_mem_nil, false_implies, implies_true, and_true]
  exact ⟨rfl, rfl, rfl, rfl⟩

theorem instOp_asks {c : Instr} {op : Nat} (ho : s.hw.off = false) (hr : s.hw.ready t [destG ra, destG rb] .memLong = true)
    (hc : s.hw.hasCredit 0 (t / 16) (((s.hw.thread t).a.rg ra).toNat % 512 / 8) = true) (hl : ¬Level.num (s.hw.thread t).a.level < 2)
    (he : exec c s = s.onHw fun m h => h.instOp m t rd ra rb op) :
    let x := s.hw.thread t
    let i := (x.a.rg ra).toNat % 512
    Answers c s fun u => ∃ id, AwaitsAnswer t (destG rd) .inst id s u ∧
      Sends (.instReq (i / 8) ⟨t, id, op, i, x.a.rg rb, none, x.acc, !(x.a.crAt 0xC04).getLsbD 1, ⟨x.acc, x.a.ctx⟩⟩) (chamberStop (t / 16))
        (chamberStop (i / 8)) s u := by
  refine Answers.of_onHw ho he ⟨s.hw.nextLong t, ?_⟩
  unfold Hw.instOp
  rw [if_neg (by rw [hr]; decide)]
  dsimp only
  rw [if_neg hl, instance_fld]
  exact instSend_asks rd .inst op _ _ none rfl rfl hc

theorem instOp_illegal {c : Instr} {op : Nat} {pa entry : Word} {mt : MemType} (ho : s.hw.off = false)
    (hr : s.hw.ready t [destG ra, destG rb] .memLong = true) (hl : Level.num (s.hw.thread t).a.level < 2)
    (he : exec c s = s.onHw fun m h => h.instOp m t rd ra rb op) (hopen : EntryOpen t .s ⟨0, 0, 0, (s.hw.thread t).a.pc⟩ s pa mt entry) :
    Answers c s (Enters t .s ⟨0, 0, 0, (s.hw.thread t).a.pc⟩ pa entry s) := by
  refine Answers.of_onHw ho he ?_
  unfold Hw.instOp
  rw [if_neg (by rw [hr]; decide)]
  dsimp only
  rw [if_pos hl]
  exact illegal_below hl hopen

/-- CHURN.POST and INST.BIND send the descriptor's words (R96, R97). -/
theorem churnPost_asks {ws : List Word} (ho : s.hw.off = false) (hr : s.hw.ready t [destG ra, destG rb] .memLong = true)
    (hc : s.hw.hasCredit 0 (t / 16) (((s.hw.thread t).a.rg ra).toNat % 512 / 8) = true) (hal : ((s.hw.thread t).a.rg rb).toNat % 64 = 0)
    (hd : Described t ((s.hw.thread t).a.rg rb) s ws) :
    let x := s.hw.thread t
    let i := (x.a.rg ra).toNat % 512
    Answers (.churnPost t rd ra rb) s fun u => ∃ id, AwaitsAnswer t (destG rd) .churn id s u ∧
      Sends (.instReq (i / 8) ⟨t, id, 5, i, 0, some ws, x.acc, !(x.a.crAt 0xC04).getLsbD 1, ⟨x.acc, x.a.ctx⟩⟩) (chamberStop (t / 16))
        (chamberStop (i / 8)) s u := by
  obtain ⟨v, hv, rfl⟩ := descRead_described hd
  refine Answers.of_onHw ho rfl ⟨s.hw.nextLong t, ?_⟩
  dsimp only
  rw [if_neg (by rw [hr]; decide), if_neg (by rw [hal]; decide), hv, instance_fld]
  exact instSend_asks (h := s.hw.tick) rd .churn 5 _ 0 (some (vwords v)) rfl rfl hc

theorem instBind_asks {ws : List Word} (ho : s.hw.off = false) (hr : s.hw.ready t [destG ra, destG rb] .memLong = true)
    (hc : s.hw.hasCredit 0 (t / 16) (((s.hw.thread t).a.rg ra).toNat % 512 / 8) = true) (hl : ¬Level.num (s.hw.thread t).a.level < 2)
    (hal : ((s.hw.thread t).a.rg rb).toNat % 64 = 0) (hd : Described t ((s.hw.thread t).a.rg rb) s ws) :
    let x := s.hw.thread t
    let i := (x.a.rg ra).toNat % 512
    Answers (.instBind t rd ra rb) s fun u => ∃ id, AwaitsAnswer t (destG rd) .inst id s u ∧
      Sends (.instReq (i / 8) ⟨t, id, 3, i, 0, some ws, x.acc, !(x.a.crAt 0xC04).getLsbD 1, ⟨x.acc, x.a.ctx⟩⟩) (chamberStop (t / 16))
        (chamberStop (i / 8)) s u := by
  obtain ⟨v, hv, rfl⟩ := descRead_described hd
  refine Answers.of_onHw ho rfl ⟨s.hw.nextLong t, ?_⟩
  dsimp only
  rw [if_neg (by rw [hr]; decide), if_neg hl, if_neg (by rw [hal]; decide), hv, instance_fld]
  exact instSend_asks (h := s.hw.tick) rd .inst 3 _ 0 (some (vwords v)) rfl rfl hc

end

/-- Settles O24: the requests of H and above, the posts, and what is illegal below H. -/
theorem engineRequests : Obligations.EngineRequests := by
  intro t rd ra rb s ho
  have hlow (h : ¬((s.hw.thread t).a.level = .h ∨ (s.hw.thread t).a.level = .m)) : Level.num (s.hw.thread t).a.level < 2 :=
    not_not.1 fun hn => h ((upper_iff _).2 hn)
  refine ⟨fun hr => ⟨fun hu => ?_, fun hu hal ws hd => qresv_asks ho hr ((upper_iff _).1 hu) hal hd, fun hu => admission_illegal ho hr (hlow hu)⟩,
    fun hr => ⟨fun hc => ⟨fun hu p hp => instOp_asks ho hr hc ((upper_iff _).1 hu) (instRows_exec t rd ra rb s p hp), fun hal ws hd =>
      ⟨churnPost_asks ho hr hc hal hd, fun hu => instBind_asks ho hr hc ((upper_iff _).1 hu) hal hd⟩⟩,
      fun hu p hp pa mt entry he => instOp_illegal ho hr (hlow hu) (instRows_exec t rd ra rb s p hp) he⟩⟩
  simp only [List.forall_mem_cons, List.not_mem_nil, false_implies, implies_true, and_true]
  exact ⟨handleOp_asks ho hr ((upper_iff _).1 hu) rfl, handleOp_asks ho hr ((upper_iff _).1 hu) rfl⟩

end Sys2Proof.Machine

namespace Sys2Proof.Machine

open Sys2Proof.Safety Sys2Proof.Claims

/-! ### TLB invalidation (R100, R109, R196) -/

/-- A TLBI at or above its level is held with its scope (R100). -/
theorem tlbiOp_holds {t : Nat} {ra rb : Reg} {fn lvl : Nat} {c : Instr} {s : State} (ho : s.hw.off = false) (hr : s.hw.ready t [] .solo = true)
    (hl : lvl ≤ Level.num (s.hw.thread t).a.level) (he : exec c s = s.onHw fun m h => h.tlbiOp m t ra rb fn lvl) :
    let a := (s.hw.thread t).a
    Answers c s fun u => OnlyThread t s u ∧ (u.hw.thread t).a = a ∧ (u.hw.thread t).b.tlbi = some ⟨fn, a.rg ra, a.rg rb, a.level,
      if a.level = .m then !(a.crAt 0xC04).getLsbD 1 else if a.level = .h then false else a.secure, (a.crAt 0x804).toNat, false, []⟩ := by
  refine Answers.of_onHw ho he ?_
  unfold Hw.tlbiOp
  rw [if_neg (by rw [hr]; decide)]
  dsimp only
  rw [if_neg (by omega)]
  refine ⟨onlyThread_updThread t s _, ?_, ?_⟩
  · unfold Hw.updBack
    rw [Hw.thread_updThread_same]
  · unfold Hw.updBack
    rw [Hw.thread_updThread_same]
    cases (s.hw.thread t).a.level <;> rfl

/-- Below its level a TLBI is illegal (R100, R156). -/
theorem tlbiOp_illegal {t : Nat} {ra rb : Reg} {fn lvl : Nat} {c : Instr} {s : State} {pa entry : Word} {mt : MemType} (ho : s.hw.off = false)
    (hr : s.hw.ready t [] .solo = true) (hl : Level.num (s.hw.thread t).a.level < lvl) (he : exec c s = s.onHw fun m h => h.tlbiOp m t ra rb fn lvl)
    (hopen : EntryOpen t (sStar (s.hw.thread t).a) ⟨0, 0, 0, (s.hw.thread t).a.pc⟩ s pa mt entry) :
    Answers c s (Enters t (sStar (s.hw.thread t).a) ⟨0, 0, 0, (s.hw.thread t).a.pc⟩ pa entry s) := by
  refine Answers.of_onHw ho he ?_
  unfold Hw.tlbiOp
  rw [if_neg (by rw [hr]; decide)]
  dsimp only
  rw [if_pos hl]
  exact Hw.illegal_enters hopen

/-- Each TLBI runs its function at its level (R100). -/
theorem tlbiRows_exec (t : Nat) (ra rb : Reg) (s : State) :
    ∀ p ∈ tlbiRows, exec (p.1 t ra rb) s = s.onHw fun m h => h.tlbiOp m t ra rb p.2.1 p.2.2 := by
  unfold tlbiRows
  simp only [List.forall_mem_cons, List.not_mem_nil, false_implies, implies_true, and_true]
  exact ⟨rfl, rfl, rfl, rfl, rfl, rfl, rfl⟩

/-- The entries that a TLBI removes, function by function (R196). -/
theorem Tlbi.hits_iff {q : Tlbi} (hq : q.fn < 7) (e : TlbEntry) : q.hits e = true ↔ Matches q e := by
  have hb : Word.fld q.b 15 0 = q.b.toNat % 2 ^ 16 := by simp [Word.fld, Machine.fld]
  unfold Tlbi.hits Matches
  rw [hb]
  obtain ⟨fn, a, b, lvl, secure, vmid, removed, wait⟩ := q
  dsimp only at hq ⊢
  interval_cases fn <;> simp [and_assoc]

/-- A map of entries whose default is a fixed point of the change. -/
theorem sget_map_fixed {α : Type} {d : α} {f : α → α} (hd : f d = d) (k : Nat) (m : SMap α) :
    sget d k (m.map fun p => (p.1, f p.2)) = f (sget d k m) := by
  induction m with
  | nil => exact hd.symm
  | cons p r ih =>
    obtain ⟨j, v⟩ := p
    rw [List.map_cons, sget, sget]
    split
    · rfl
    · exact ih

/-- What a TLBI leaves of a core. -/
def Core.afterTlbi (c : Core) (q : Tlbi) : Core :=
  { c with
    itlb := c.itlb.filter fun e => !q.hits e
    dtlb := c.dtlb.filter fun e => !q.hits e
    tlb := c.tlb.filter fun e => !q.hits e.2
    wcache := c.wcache.filter fun e => !q.hitsWc e.2
    walkers := c.walkers.map fun w => (w.1, { w.2 with discard := true }) }

theorem Hw.tlbiRemove_core (h : Hw) (q : Tlbi) (c : Nat) : (h.tlbiRemove q).core c = (h.core c).afterTlbi q :=
  sget_map_fixed (f := fun x : Core => x.afterTlbi q) rfl c h.cores

theorem Hw.tlbiRemove_thread (h : Hw) (q : Tlbi) (t : Nat) :
    (h.tlbiRemove q).thread t = { h.thread t with b := { (h.thread t).b with walkEnds := [] } } :=
  sget_map_fixed (f := fun x : Thread => { x with b := { x.b with walkEnds := [] } }) rfl t h.threads

/-- No walk was in flight: none is to be discarded (R196). -/
theorem Hw.tlbiRemove_discarding {h : Hw} (q : Tlbi) (hc : ∀ c ∈ h.cores, c.2.walkers = []) (hs : ∀ x ∈ h.slices, x.2.walkers = []) :
    (h.tlbiRemove q).discarding = false := by
  unfold Hw.discarding Hw.tlbiRemove
  simp only [List.any_map, Bool.or_eq_false_iff, List.any_eq_false]
  exact ⟨fun c h => by simp [hc c h], fun x h => by simp [hs x h]⟩

/-- Nothing is in flight where no thread has anything and no engine runs (R196). -/
theorem Hw.inFlight_nil {h : Hw} (ht : ∀ x ∈ h.threads, (∀ o ∈ x.2.b.longs, o.ready = true) ∧ x.2.b.sb = [] ∧ x.2.b.vstWait = [] ∧
      x.2.b.outs = [] ∧ x.2.b.ext = [] ∧ x.2.b.fext = []) (hs : ∀ x ∈ h.slices, x.2.ctxs = []) : h.inFlight = [] := by
  unfold Hw.inFlight
  rw [List.append_eq_nil_iff, List.filterMap_eq_nil_iff, List.flatMap_eq_nil_iff]
  refine ⟨fun x hx => ?_, fun x hx => by rw [hs x hx]; rfl⟩
  obtain ⟨hl, hsb, hv, ho, he, hf⟩ := ht x hx
  dsimp only
  rw [hsb, hv, ho, he, hf, if_pos]
  simpa using hl

/-- A filter by what a TLBI does not hit. -/
theorem Tlbi.mem_filter {α : Type} {q : Tlbi} (hq : q.fn < 7) (f : α → TlbEntry) (x : α) (l : List α) :
    x ∈ l.filter (fun y => !q.hits (f y)) ↔ x ∈ l ∧ ¬Matches q (f x) := by
  rw [List.mem_filter, Bool.not_eq_true', ← Bool.not_eq_true, Tlbi.hits_iff hq]

/-- Hardware once a TLBI that awaits nothing has removed its entries and is no longer held. -/
def Hw.tlbiDone (h : Hw) (t : Nat) (q : Tlbi) : Hw :=
  ((h.tlbiRemove q).updBack t fun b => { b with tlbi := some { q with removed := true, wait := [] } }).updBack t fun b => { b with tlbi := none }

/-- TLBI_COMPLETE where nothing is awaited: the entries go and the TLBI completes in one step (R196). -/
theorem tlbiComplete_exec {t : Nat} {q : Tlbi} {s : State} (ho : s.hw.off = false) (hq : (s.hw.thread t).b.tlbi = some q) (hrem : q.removed = false)
    (hst : s.hw.storesDone t = true) (hoth : s.hw.others = []) (hgt : ∀ p ∈ s.hw.gtags, p.2.who ≠ .tlbi t) (hin : s.hw.inFlight = [])
    (hdis : (s.hw.tlbiRemove q).discarding = false) :
    exec (.tlbiComplete t) s = .next { s with hw := (s.hw.tlbiDone t q).completeSolo t .seq } := by
  have htags : ((s.hw.tlbiRemove q).gtags.any fun p => p.2.who == .tlbi t) = false := by
    rw [List.any_eq_false]
    exact fun p hp => by simpa using hgt p hp
  refine (State.onHw_run ho _).trans ?_
  dsimp only
  rw [hq]
  dsimp only
  rw [if_neg (by rw [hrem]; decide), if_neg (by rw [hst]; decide), hoth, hin]
  unfold Hw.askAll Hw.updBack
  rw [List.foldl_nil, Option.getD_some, Hw.thread_updThread_same]
  dsimp only
  rw [if_pos]
  · rfl
  · have hdis' := hdis
    unfold Hw.discarding at hdis' ⊢
    simp only [Hw.updThread]
    rw [hdis', htags]
    rfl

/-- What stays of the thread, and which entries stay in the cores, once a TLBI that awaits nothing completes (R196). -/
theorem tlbiDone_leaves {t : Nat} {q : Tlbi} {h : Hw} :
    let u := (h.tlbiDone t q).completeSolo t .seq
    (u.thread t).b.tlbi = none ∧ (u.thread t).a = (h.thread t).a.done .seq ∧ ∀ c, u.core c = (h.core c).afterTlbi q := by
  have hcores (c : Nat) : ((h.tlbiDone t q).completeSolo t .seq).core c = (h.tlbiRemove q).core c := by
    obtain ⟨on, w, e⟩ := (h.tlbiDone t q).completeSolo_eq t .seq
    rw [e]
    rfl
  intro u
  refine ⟨?_, ?_, fun c => (hcores c).trans (h.tlbiRemove_core q c)⟩
  · rw [Hw.completeSolo_thread]
    unfold Hw.tlbiDone Hw.updBack
    rw [Hw.thread_updThread_same]
    rfl
  · rw [Hw.completeSolo_arch]
    unfold Hw.tlbiDone Hw.updBack
    rw [Hw.thread_updThread_same, Hw.thread_updThread_same, Hw.tlbiRemove_thread]

/-- Settles O23: the hold of a TLBI, its illegal uses, and its completion where nothing is awaited. -/
theorem tlbInvalidation : Obligations.TlbInvalidation := by
  intro t ra rb s ho
  refine ⟨fun hr p hp => ⟨fun hl => tlbiOp_holds ho hr hl (tlbiRows_exec t ra rb s p hp),
    fun hl pa mt entry he => tlbiOp_illegal ho hr hl (tlbiRows_exec t ra rb s p hp) he⟩, ?_⟩
  intro q hq hfn hrem hst hoth hgt hw hth hsl
  have hexec := tlbiComplete_exec ho hq hrem hst hoth hgt (Hw.inFlight_nil hth fun x hx => (hsl x hx).1)
    (Hw.tlbiRemove_discarding q hw fun x hx => (hsl x hx).2)
  obtain ⟨hnone, ha, hcore⟩ := tlbiDone_leaves (t := t) (q := q) (h := s.hw)
  obtain ⟨hg, hpc, -, hrest⟩ := (s.hw.thread t).a.done_seq
  refine ⟨_, hexec, rfl, hnone, ?_, ?_, ?_, fun c e => ?_⟩
  · rw [ha]
    exact hpc
  · rw [ha]
    exact hrest
  · rw [ha]
    exact hg
  · rw [hcore c]
    exact ⟨Tlbi.mem_filter hfn id e _, Tlbi.mem_filter hfn id e _, fun k => Tlbi.mem_filter hfn Prod.snd (k, e) _⟩

end Sys2Proof.Machine

namespace Sys2Proof.Machine

open Sys2Proof.Safety Sys2Proof.Claims

/-! ### Cache maintenance (R98, R99, R214, R215) -/

/-- An instruction that completes with nothing written (R57, R90). -/
theorem integerDone_of_complete {t : Nat} {s : State} {g : Hw} (hg : ∀ f, OnlyThread t s { s with hw := g.updThread t f })
    (ha : (g.thread t).a = (s.hw.thread t).a) : IntegerDone t 0 0 s { s with hw := g.complete t .seq } := by
  have hdone := (s.hw.thread t).a.done_wg 0 0
  refine ⟨onlyThread_complete hg .seq, ?_⟩
  dsimp only
  rw [Hw.complete_arch, ha]
  exact hdone

/-- A CMO that takes its entry completes (R214). -/
theorem cmoQueued_of_put {t : Nat} {s : State} (pa : Word) (mt : MemType) (tg : Option Target) (op : Nat) (sw : Bool) (target : Nat) (v : Word) :
    CmoQueued t pa mt tg op sw target v s { s with hw := (s.hw.updBack t fun b => { b with
      sb := b.sb ++ [⟨lineNo pa, pa, mt, 0, 0, false, .cmo op sw target v, (s.hw.thread t).acc, tg, b.fresh⟩] }).complete t .seq } := by
  refine ⟨integerDone_of_complete (onlyThread_then (onlyThread_updThread t s _)) ?_, ?_⟩
  · unfold Hw.updBack
    rw [Hw.thread_updThread_same]
  · dsimp only
    unfold Hw.updBack
    rw [Hw.complete_thread, Hw.thread_updThread_same]
    rfl

section
variable {t : Nat} {ra : Reg} {op : Nat} {target : BitVec 2} {s : State}

theorem target_ne_three (h : target ≠ 3) : target.toNat ≠ 3 := fun e => h (BitVec.eq_of_toNat_eq e)

/-- A CMO by set and way at M (R99). -/
theorem cmo_setWay {c : Instr} (ho : s.hw.off = false) (hr : s.hw.ready t [destG ra] .mem = true) (hroom : (s.hw.thread t).b.sb.length < 16)
    (ht : target ≠ 3) (hm : (s.hw.thread t).a.level = .m) (he : exec c s = s.onHw fun m h => h.cmo m t ra op true target.toNat) :
    Answers c s (CmoQueued t 0 .wb none op true target.toNat ((s.hw.thread t).a.rg ra) s) := by
  have hfree : ¬(s.hw.thread t).b.sbFree = 0 := by unfold Back.sbFree; omega
  refine Answers.of_onHw ho he ?_
  unfold Hw.cmo
  rw [if_neg (by rw [hr]; decide)]
  dsimp only
  rw [if_neg (target_ne_three ht), if_pos rfl, if_pos hm, if_neg hfree]
  exact cmoQueued_of_put ..

/-- Target 3, and a CMO by set and way below M, are illegal (R98, R99, R156). -/
theorem cmo_illegal {c : Instr} {sw : Bool} {pa entry : Word} {mt : MemType} (ho : s.hw.off = false)
    (hr : s.hw.ready t [destG ra] .mem = true) (hbad : target = 3 ∨ (sw = true ∧ (s.hw.thread t).a.level ≠ .m))
    (he : exec c s = s.onHw fun m h => h.cmo m t ra op sw target.toNat)
    (hopen : EntryOpen t (sStar (s.hw.thread t).a) ⟨0, 0, 0, (s.hw.thread t).a.pc⟩ s pa mt entry) :
    Answers c s (Enters t (sStar (s.hw.thread t).a) ⟨0, 0, 0, (s.hw.thread t).a.pc⟩ pa entry s) := by
  refine Answers.of_onHw ho he ?_
  unfold Hw.cmo
  rw [if_neg (by rw [hr]; decide)]
  dsimp only
  by_cases ht : target.toNat = 3
  · rw [if_pos ht]
    exact Hw.illegal_enters hopen
  · obtain ⟨rfl, hm⟩ := hbad.resolve_left fun e => ht (by rw [e]; rfl)
    rw [if_neg ht, if_pos rfl, if_neg hm]
    exact Hw.illegal_enters hopen

/-- A CMO by address whose check passes; an invalidate that U executes is a clean-and-invalidate (R98, R216). -/
theorem cmo_byAddress {c : Instr} {op' : Nat} {pa : Word} {mt : MemType} {tg : Target} (ho : s.hw.off = false) (hr : s.hw.ready t [destG ra] .mem = true)
    (hroom : (s.hw.thread t).b.sb.length < 16) (ht : target ≠ 3)
    (hx : x2One s.mem s.hw t ⟨.cmo, 4, true, true, false, false⟩ ((s.hw.thread t).a.rg ra &&& ~~~63) 64 0 = .ok [⟨pa, mt, tg, 64, 0⟩])
    (hop : op ≠ 1 ∧ op' = op ∨ op = 1 ∧ (s.hw.thread t).a.level = .u ∧ op' = 2)
    (he : exec c s = s.onHw fun m h => h.cmo m t ra op false target.toNat) :
    Answers c s (CmoQueued t pa mt (some tg) op' false target.toNat ((s.hw.thread t).a.rg ra) s) := by
  have hfree : ¬(s.hw.thread t).b.sbFree = 0 := by unfold Back.sbFree; omega
  have hop' (p : Prop) [Decidable p] : (if op = 1 ∧ ((s.hw.thread t).a.level = .u ∨ p) then 2 else op) = op' := by
    rcases hop with ⟨h1, rfl⟩ | ⟨h1, hu, rfl⟩
    · rw [if_neg fun h => h1 h.1]
    · rw [if_pos ⟨h1, .inl hu⟩]
  refine Answers.of_onHw ho he ?_
  unfold Hw.cmo
  rw [if_neg (by rw [hr]; decide)]
  dsimp only [-BitVec.reduceNot]
  rw [if_neg (target_ne_three ht), if_neg Bool.false_ne_true, hx]
  dsimp only [-BitVec.reduceNot]
  rw [if_neg hfree, hop']
  exact cmoQueued_of_put ..

/-- Each CMO runs its operation (R98). -/
theorem cmoRows_exec (t : Nat) (ra : Reg) (sw : Bool) (target : BitVec 2) (s : State) :
    ∀ p ∈ cmoRows, exec (p.1 t ra sw target) s = s.onHw fun m h => h.cmo m t ra p.2 sw target.toNat := by
  unfold cmoRows
  simp only [List.forall_mem_cons, List.not_mem_nil, false_implies, implies_true, and_true]
  exact ⟨rfl, rfl, rfl⟩

end

/-- What an L2 line is told changes chambers only (R200). -/
theorem Hw.setL2_keeps (h : Hw) (c line : Nat) (f : CLine → CLine) :
    (h.setL2 c line f).newest = h.newest ∧ (h.setL2 c line f).threads = h.threads ∧ (h.setL2 c line f).cores = h.cores := by
  unfold Hw.setL2
  split <;> exact ⟨rfl, rfl, rfl⟩

/-- A core's L1D copy goes: its place is empty; newest values and threads stay (R200, R201). -/
theorem Hw.l1dDrop_leaves {h : Hw} {core line k : Nat} (hk : h.l1dKey core line = some k) :
    (h.l1dDrop core line).newest = h.newest ∧ (h.l1dDrop core line).threads = h.threads ∧
      sfind k ((h.l1dDrop core line).core core).l1d.lines = none := by
  unfold Hw.l1dDrop
  rw [hk]
  cases hl : h.l1dLine core line with
  | none =>
    refine ⟨rfl, rfl, ?_⟩
    unfold Hw.l1dLine at hl
    rwa [hk] at hl
  | some l =>
    dsimp only
    obtain ⟨hn, ht, hc⟩ := Hw.setL2_keeps ({ h.updL1d core (fun c => c.drop k) with under := sdel line h.under }) (chamberOf core) line fun x =>
      { x with pres := presSet x.pres (core % 4) false, st := if l.st = .m then .m else x.st, bad := if l.st = .m then l.bad else x.bad }
    refine ⟨hn, ht, ?_⟩
    unfold Hw.core
    rw [hc]
    unfold Hw.updL1d Hw.updCore
    dsimp only
    rw [sget_supd_same]
    exact sfind_sdel_same _ _

/-- A clean-and-invalidate of L1D at the head of the store buffer drains (R214, R215). -/
theorem drain_cleanInvalidate {t : Nat} {e : SbEntry} {arg : Word} {k : Nat} {s : State} (ho : s.hw.off = false)
    (hh : (s.hw.thread t).b.sb.head? = some e) (hkind : e.kind = .cmo 2 false 0 arg) (hmt : e.mtype = .wb)
    (htg : ∃ tg, e.tg = some tg ∧ tg ≠ .reg) (hturn : s.hw.drainTurn t = true) (hout : (s.hw.thread t).b.outOn e.line = false)
    (hpend : (s.hw.thread t).b.pendingOn e.ord e.line (BitVec.allOnes 64) = false) (hwb : e.line ∉ (s.hw.core (coreOf t)).wbuf)
    (hk : s.hw.l1dKey (coreOf t) e.line = some k) :
    Answers (.storeBufferDrain t 0) s fun u => u.mem = s.mem ∧ u.hw.newest = s.hw.newest ∧ Popped t s u ∧
      sfind k (u.hw.core (coreOf t)).l1d.lines = none := by
  obtain ⟨tg, htg, hreg⟩ := htg
  obtain ⟨r, hsb⟩ : ∃ r, (s.hw.thread t).b.sb = e :: r := by
    cases hb : (s.hw.thread t).b.sb with
    | nil => rw [hb] at hh; exact absurd hh (by simp)
    | cons x r => rw [hb] at hh; exact ⟨r, by rw [Option.some.inj hh]⟩
  have hdev : ¬(e.mtype.device || e.tg == some .reg || e.tg.isNone) = true := by
    rw [hmt, htg]
    simpa using ⟨rfl, hreg⟩
  have hmarked : (s.hw.updCore (coreOf t) fun x => { x with dmiss := markDna e.line x.dmiss }).l1dKey (coreOf t) e.line = some k := by
    unfold Hw.l1dKey at hk ⊢
    rw [Hw.core_updCore_same]
    exact hk
  obtain ⟨hn, hth, hgone⟩ := Hw.l1dDrop_leaves hmarked
  have hdrain : s.hw.drainCmo s.mem t e =
      ((s.hw.updCore (coreOf t) fun x => { x with dmiss := markDna e.line x.dmiss }).l1dDrop (coreOf t) e.line).sbPop t := by
    unfold Hw.drainCmo
    rw [hkind]
    dsimp only
    rw [if_neg Bool.false_ne_true, if_neg hdev, hpend, hout, if_neg (by decide), if_pos (by decide), if_neg (by simpa using hwb)]
    rfl
  refine Answers.of_onHw ho rfl ?_
  dsimp only
  rw [hsb]
  dsimp only
  rw [if_neg (by rw [hturn]; decide), hkind]
  dsimp only
  rw [hdrain]
  generalize ((s.hw.updCore (coreOf t) fun x => { x with dmiss := markDna e.line x.dmiss }).l1dDrop (coreOf t) e.line) = g at *
  have hthread (n : Nat) : g.thread n = s.hw.thread n := congrArg (sget Thread.reset n) hth
  have hpop : ((g.sbPop t).thread t).b.sb = (s.hw.thread t).b.sb.tail ∧ ((g.sbPop t).thread t).a = (s.hw.thread t).a := by
    unfold Hw.sbPop Hw.updBack
    rw [Hw.thread_updThread_same, hthread]
    exact ⟨rfl, rfl⟩
  refine ⟨rfl, hn, ⟨?_, ?_, fun n hne => ?_⟩, ?_⟩
  · exact hpop.1
  · exact hpop.2
  · change (g.sbPop t).thread n = _
    unfold Hw.sbPop Hw.updBack
    exact (Hw.thread_updThread_ne _ _ _ hne).trans (hthread n)
  · rw [Hw.core_updCore_same]
    exact hgone

/-- Settles O22: the queueing of CMOs, their illegal forms, and the drain of a clean-and-invalidate at L1D. -/
theorem cacheMaintenance : Obligations.CacheMaintenance := by
  intro t ra sw target s ho
  refine ⟨fun hr hroom => ⟨fun ht hm p hp => cmo_setWay ho hr hroom ht hm (cmoRows_exec t ra true target s p hp),
    fun hbad p hp pa mt entry he => cmo_illegal ho hr hbad (cmoRows_exec t ra sw target s p hp) he, fun pa mt tg ht hx => ⟨?_, ?_, fun hu => ?_⟩⟩, ?_⟩
  · exact cmo_byAddress ho hr hroom ht hx (.inl ⟨by decide, rfl⟩) rfl
  · exact cmo_byAddress ho hr hroom ht hx (.inl ⟨by decide, rfl⟩) rfl
  · exact cmo_byAddress ho hr hroom ht hx (.inr ⟨rfl, hu, rfl⟩) rfl
  · exact fun e arg k hh hkind hmt htg hturn hout hpend hwb hk => drain_cleanInvalidate ho hh hkind hmt htg hturn hout hpend hwb hk

end Sys2Proof.Machine

namespace Sys2Proof.Machine

open Sys2Proof.Safety Sys2Proof.Claims

/-! ### Physical addresses of accesses that pass X2 (R45, R68, R187) -/

/-- A page keeps the low twelve bits of an address (R187). -/
theorem TlbEntry.pa_mod (e : TlbEntry) (va : Word) : (e.pa va).toNat % 4096 = va.toNat % 4096 := by
  unfold TlbEntry.pa w64
  dsimp only
  rw [BitVec.toNat_ofNat, Nat.mod_mod_of_dvd _ (by norm_num : 4096 ∣ 2 ^ 64), Nat.add_mod, Nat.mul_left_comm, Nat.mul_mod_right, Nat.zero_add, Nat.mod_mod,
    Nat.mod_mod_of_dvd _ (Nat.dvd_mul_right 4096 _)]

/-- Translation keeps the low twelve bits (R187). -/
theorem Hw.xlate_mod {m : List Host.Cell} {h : Hw} {t : Nat} {fetch : Bool} {r : Regime} {acc : Access} {va pa : Word} {mt : MemType}
    {e : Option TlbEntry} (hx : h.xlate m t fetch r acc va = .ok pa mt e) : pa.toNat % 4096 = va.toNat % 4096 := by
  unfold Hw.xlate at hx
  split at hx
  · cases hx
    rfl
  · dsimp only at hx
    split at hx
    · split at hx
      · cases hx
      · cases hx
        exact TlbEntry.pa_mod _ va
    · split at hx
      · cases hx
      · cases hx
        exact TlbEntry.pa_mod _ va
      · cases hx

/-- The checks of step 4 of R68 leave a piece at its address. -/
theorem x2Decode_pa {h : Hw} {w : Want} {va pa : Word} {mt : MemType} {len off : Nat} {q : Piece}
    (hx : x2Decode h w va pa mt len off = .ok [q]) : q.pa = pa := by
  unfold x2Decode at hx
  dsimp only at hx
  split_ifs at hx
  · cases hx
    rfl
  · cases hd : decodeX2 h pa mt w.size w.plain va with
    | error f =>
      rw [hd] at hx
      cases hx
    | ok r =>
      rw [hd] at hx
      dsimp only at hx
      split_ifs at hx
      cases hx
      rfl

/-- A piece that passes X2 keeps the low twelve bits of its address. -/
theorem x2One_mod {m : List Host.Cell} {h : Hw} {t : Nat} {w : Want} {va : Word} {len off : Nat} {q : Piece}
    (hx : x2One m h t w va len off = .ok [q]) : q.pa.toNat % 4096 = va.toNat % 4096 := by
  unfold x2One at hx
  split at hx
  case h_1 => cases hx
  case h_2 => cases hx
  case h_3 hxl => rw [x2Decode_pa hx, Hw.xlate_mod hxl]

/-! ### Bits of elements and of bytes -/

theorem elem_testBit (v : Vec) (w j i : Nat) : (elem v w j).testBit i = (decide (i < w) && v.getLsbD (w * j + i)) := by
  unfold elem
  rw [Nat.testBit_mod_two_pow, Nat.testBit_div_two_pow, Nat.add_comm]
  rfl

/-- Elements read off bits: each bit of a register is a source's where its element is active (R70). -/
theorem elements_of_bits {w n : Nat} {mask : Word} {old v : Vec} {src : Nat → Bool} {f : Nat → Nat} (hw : 0 < w) (hfit : w * n ≤ 512)
    (hv : ∀ b, b < 512 → v.getLsbD b = if mask.getLsbD (b / w) then src b else old.getLsbD b)
    (hsrc : ∀ j i, j < n → mask.getLsbD j = true → i < w → src (w * j + i) = (f j).testBit i) : Elements w n mask old v f := by
  intro j hj
  apply Nat.eq_of_testBit_eq
  intro i
  by_cases hi : i < w
  · have hb : w * j + i < 512 := calc w * j + i < w * j + w := by omega
      _ = w * (j + 1) := by ring
      _ ≤ w * n := Nat.mul_le_mul_left w hj
      _ ≤ 512 := hfit
    have hdiv : (w * j + i) / w = j := by rw [Nat.mul_add_div hw, Nat.div_eq_of_lt hi, Nat.add_zero]
    rw [elem_testBit, decide_eq_true hi, Bool.true_and, hv _ hb, hdiv]
    by_cases hm : mask.getLsbD j = true
    · rw [if_pos hm, if_pos hm, hsrc j i hj hm hi, Nat.testBit_mod_two_pow, decide_eq_true hi, Bool.true_and]
    · rw [if_neg hm, if_neg hm, elem_testBit, decide_eq_true hi, Bool.true_and]
  · have hhigh {x : Nat} (hx : x < 2 ^ w) : x.testBit i = false :=
      Nat.testBit_lt_two_pow (hx.trans_le (Nat.pow_le_pow_right Nat.two_pos (not_lt.1 hi)))
    rw [elem_testBit, decide_eq_false hi, Bool.false_and]
    split
    · exact (hhigh (Nat.mod_lt _ (Nat.two_pow_pos w))).symm
    · exact (hhigh (elem_lt old w j)).symm

/-! ### The bytes of a mask (R70, R83) -/

/-- A run covers a byte. -/
def Covers (r : Nat × Nat) (x : Nat) : Prop := r.1 ≤ x ∧ x < r.1 + r.2

theorem covers_succ (o l x : Nat) : Covers (o, l + 1) x ↔ Covers (o, l) x ∨ x = o + l := by
  unfold Covers
  dsimp only
  omega

/-- The runs below an active byte and that byte: the last run grows, or a new one begins. -/
def growRuns (l : List (Nat × Nat)) (n : Nat) : List (Nat × Nat) :=
  match l.getLast? with
  | some (o, k) => if o + k = n then l.dropLast ++ [(o, k + 1)] else l ++ [(n, 1)]
  | none => [(n, 1)]

theorem activeRuns_succ (ew : Nat) (mask : Word) (lo n : Nat) : activeRuns ew mask lo (n + 1) =
    if active mask ((lo + n) / ew) then growRuns (activeRuns ew mask lo n) n else activeRuns ew mask lo n := rfl

/-- Runs that end by n, and what they cover. -/
def RunsCover (l : List (Nat × Nat)) (n : Nat) (P : Nat → Prop) : Prop :=
  (∀ r ∈ l, r.1 + r.2 ≤ n) ∧ ∀ x, (∃ r ∈ l, Covers r x) ↔ P x

theorem runsCover_append {l : List (Nat × Nat)} {n : Nat} {P : Nat → Prop} (h : RunsCover l n P) :
    RunsCover (l ++ [(n, 1)]) (n + 1) fun x => P x ∨ x = n := by
  refine ⟨fun r hr => ?_, fun x => ?_⟩
  · rcases List.mem_append.1 hr with hr | hr
    · exact (h.1 r hr).trans (Nat.le_succ n)
    · rw [List.mem_singleton.1 hr]
  · have hone : Covers (n, 1) x ↔ x = n := by unfold Covers; dsimp only; omega
    dsimp only
    rw [← h.2 x, ← hone]
    simp [or_and_right, exists_or]

theorem runsCover_grow {l : List (Nat × Nat)} {n : Nat} {P : Nat → Prop} (h : RunsCover l n P) :
    RunsCover (growRuns l n) (n + 1) fun x => P x ∨ x = n := by
  unfold growRuns
  rcases List.eq_nil_or_concat l with rfl | ⟨k, ⟨o, j⟩, rfl⟩
  · exact runsCover_append h
  · rw [List.concat_eq_append, List.getLast?_concat, List.dropLast_concat]
    rw [List.concat_eq_append] at h
    dsimp only
    by_cases he : o + j = n
    · rw [if_pos he]
      refine ⟨fun r hr => ?_, fun x => ?_⟩
      · rcases List.mem_append.1 hr with hr | hr
        · exact (h.1 r (List.mem_append_left _ hr)).trans (Nat.le_succ n)
        · rw [List.mem_singleton.1 hr]
          dsimp only
          omega
      · dsimp only
        rw [← h.2 x, ← he]
        simp [covers_succ, or_and_right, exists_or, or_assoc]
    · rw [if_neg he]
      exact runsCover_append h

/-- The runs below a byte cover the active bytes below it, and no others (R83). -/
theorem activeRuns_cover (ew : Nat) (mask : Word) (lo n : Nat) :
    RunsCover (activeRuns ew mask lo n) n fun x => x < n ∧ active mask ((lo + x) / ew) = true := by
  induction n with
  | zero => exact ⟨fun r hr => absurd hr List.not_mem_nil, fun x => by simp [activeRuns]⟩
  | succ n ih =>
    have hstep (x : Nat) (ha : active mask ((lo + n) / ew) = true) :
        (x < n ∧ active mask ((lo + x) / ew) = true) ∨ x = n ↔ x < n + 1 ∧ active mask ((lo + x) / ew) = true := by
      constructor
      · rintro (⟨hx, hax⟩ | rfl)
        · exact ⟨hx.trans (Nat.lt_succ_self n), hax⟩
        · exact ⟨Nat.lt_succ_self x, ha⟩
      · rintro ⟨hx, hax⟩
        exact (Nat.lt_succ_iff_lt_or_eq.1 hx).imp (fun h => ⟨h, hax⟩) id
    rw [activeRuns_succ]
    by_cases ha : active mask ((lo + n) / ew) = true
    · rw [if_pos ha]
      obtain ⟨hle, hcov⟩ := runsCover_grow ih
      exact ⟨hle, fun x => (hcov x).trans (hstep x ha)⟩
    · rw [if_neg ha]
      refine ⟨fun r hr => (ih.1 r hr).trans (Nat.le_succ n), fun x => (ih.2 x).trans ⟨fun ⟨hx, hax⟩ => ⟨hx.trans (Nat.lt_succ_self n), hax⟩, ?_⟩⟩
      rintro ⟨hx, hax⟩
      exact ⟨lt_of_le_of_ne (Nat.lt_succ_iff.1 hx) fun e => ha (e ▸ hax), hax⟩

/-- Stores of bytes one after another that all come from one source: a stored bit is the source's (R8). -/
theorem foldl_vput_getLsbD {α : Type} {off : α → Nat} {bs : α → Bytes} {src : Nat → Bool} {ps : List α}
    (hfit : ∀ p ∈ ps, off p + (bs p).length ≤ 64)
    (hsrc : ∀ p ∈ ps, ∀ b, 8 * off p ≤ b → b < 8 * (off p + (bs p).length) → (leNat (bs p)).testBit (b - 8 * off p) = src b) (v : Vec) (b : Nat) :
    ((∃ p ∈ ps, 8 * off p ≤ b ∧ b < 8 * (off p + (bs p).length)) → (ps.foldl (fun v p => vput v (off p) (bs p)) v).getLsbD b = src b) ∧
      ((¬∃ p ∈ ps, 8 * off p ≤ b ∧ b < 8 * (off p + (bs p).length)) → (ps.foldl (fun v p => vput v (off p) (bs p)) v).getLsbD b = v.getLsbD b) := by
  induction ps generalizing v with
  | nil => exact ⟨fun ⟨p, hp, _⟩ => absurd hp List.not_mem_nil, fun _ => rfl⟩
  | cons p r ih =>
    obtain ⟨ihin, ihout⟩ := ih (fun q hq => hfit q (List.mem_cons_of_mem p hq)) (fun q hq => hsrc q (List.mem_cons_of_mem p hq)) (vput v (off p) (bs p))
    have hput := vput_getLsbD v (hfit p List.mem_cons_self) b
    rw [List.foldl_cons]
    by_cases hr : ∃ q ∈ r, 8 * off q ≤ b ∧ b < 8 * (off q + (bs q).length)
    · refine ⟨fun _ => ihin hr, fun hn => absurd ?_ hn⟩
      obtain ⟨q, hq, hb⟩ := hr
      exact ⟨q, List.mem_cons_of_mem p hq, hb⟩
    · rw [ihout hr, hput]
      by_cases hp : 8 * off p ≤ b ∧ b < 8 * (off p + (bs p).length)
      · rw [if_pos hp]
        exact ⟨fun _ => hsrc p List.mem_cons_self b hp.1 hp.2, fun hn => absurd ⟨p, List.mem_cons_self, hp⟩ hn⟩
      · rw [if_neg hp]
        refine ⟨fun ⟨q, hq, hb⟩ => ?_, fun _ => rfl⟩
        rcases List.mem_cons.1 hq with rfl | hq
        · exact absurd hb hp
        · exact absurd ⟨q, hq, hb⟩ hr

end Sys2Proof.Machine

namespace Sys2Proof.Machine

open Sys2Proof.Safety Sys2Proof.Claims

/-! ### Vector loads whose lines L1D holds (R81 to R84, R122) -/

/-- The bytes that a part asks for, as they are newest. -/
def partBytes (s : State) (p : Part) : Bytes := newestBytes s p.pa p.len

/-- A part of a load that L1D serves: write-back memory in a line that no older access concerns and that the core holds (R61, R122, R201). -/
def PartHits (t : Nat) (s : State) (p : Part) : Prop :=
  let line := lineNo p.pa
  p.mt = .wb ∧ IsMemory p.tg ∧ (∀ e ∈ (s.hw.thread t).b.sb, e.line ≠ line) ∧ line ∉ (s.hw.core (coreOf t)).wbuf ∧
    LineFree t line (maskOf (p.pa.toNat % 64) p.len) s.hw ∧ HeldL1d (coreOf t) line (s.hw.thread t).acc s.hw

/-- A vector load that is ready once all its parts are there, and reads no error. -/
structure LongOp.Loading (x : LongOp) : Prop where
  kind : x.kind = .vload
  good : x.bad = false
  ready : x.parts.all (·.done) = true → x.ready = true

theorem LongOp.finish_loading {x : LongOp} (hk : x.kind = .vload) (hb : x.bad = false) :
    x.finish.Loading ∧ x.finish.parts = x.parts ∧ x.finish.val = x.val ∧ x.finish.id = x.id ∧ x.finish.dest = x.dest ∧ x.finish.acc = x.acc ∧
      x.finish.amo = x.amo := by
  have hl : ¬x.kind = .load := by rw [hk]; decide
  have hnb : ¬x.bad = true := by rw [hb]; decide
  unfold LongOp.finish
  by_cases hd : x.parts.all (·.done) = true
  · rw [if_pos hd, if_neg hnb, if_neg hl]
    exact ⟨⟨hk, hb, fun _ => rfl⟩, rfl, rfl, rfl, rfl, rfl, rfl⟩
  · rw [if_neg hd]
    exact ⟨⟨hk, hb, fun h => absurd h hd⟩, rfl, rfl, rfl, rfl, rfl, rfl⟩

/-- An operation with the bytes of a part. -/
def LongOp.withPart (x : LongOp) (i : Nat) (bs : Bytes) : LongOp :=
  match x.parts[i]? with
  | some p => { x with val := vput x.val p.off (bs.take p.len), parts := x.parts.set i { p with done := true } }.finish
  | none => x

theorem LongOp.withPart_loading {x : LongOp} (hx : x.Loading) {pre r : List Part} {p : Part} (hp : x.parts = pre ++ p :: r) {bs : Bytes}
    (hbs : bs.length = p.len) : let y := x.withPart pre.length bs
    y.Loading ∧ y.parts = (pre ++ [{ p with done := true }]) ++ r ∧ y.val = vput x.val p.off bs ∧ y.id = x.id ∧ y.dest = x.dest := by
  have hget : x.parts[pre.length]? = some p := by rw [hp]; simp
  have hset : x.parts.set pre.length { p with done := true } = (pre ++ [{ p with done := true }]) ++ r := by rw [hp]; simp
  have htake : bs.take p.len = bs := List.take_of_length_le hbs.le
  unfold LongOp.withPart
  rw [hget]
  dsimp only
  rw [htake, hset]
  obtain ⟨hl, hps, hv, hid, hd, -⟩ := LongOp.finish_loading
    (x := { x with val := vput x.val p.off bs, parts := (pre ++ [{ p with done := true }]) ++ r }) hx.kind hx.good
  exact ⟨hl, hps, hv, hid, hd⟩

/-- Hardware while operation x, the newest of thread t, is looked up in L1D: of the state before it nothing has changed but the thread's
operations, which end in x, and the trees of the caches. -/
structure Looking (t : Nat) (s : State) (o x : LongOp) (g : Hw) : Prop where
  rest : ∃ T C, g = { s.hw with threads := T, cores := C }
  others : ∀ k, k ≠ t → g.thread k = s.hw.thread k
  own : g.thread t = { (s.hw.thread t) with b := { ((s.hw.thread t).b.withLong o) with longs := (s.hw.thread t).b.longs ++ [x] } }
  caches : ∀ c, (g.core c).wbuf = (s.hw.core c).wbuf ∧ (g.core c).l1d.en = (s.hw.core c).l1d.en ∧ (g.core c).l1d.lines = (s.hw.core c).l1d.lines

section
variable {t : Nat} {s : State} {o x : LongOp} {g : Hw}

theorem looking_start (t : Nat) (s : State) (o : LongOp) : Looking t s o { o with id := s.hw.nextLong t } (s.hw.addLong t o) := by
  refine ⟨⟨_, _, rfl⟩, fun k hk => Hw.thread_updThread_ne _ _ _ hk, ?_, fun c => ⟨rfl, rfl, rfl⟩⟩
  rw [Hw.addLong_eq, Hw.thread_updThread_same]
  rfl

/-- A demand hit changes a tree only (R203). -/
theorem looking_touch (h : Looking t s o x g) (core line : Nat) : Looking t s o x (g.touchL1d core line) := by
  unfold Hw.touchL1d
  split
  · rename_i k _
    obtain ⟨⟨T, C, rfl⟩, hoth, hthread, hcore⟩ := h
    refine ⟨⟨_, _, rfl⟩, hoth, hthread, fun c => ?_⟩
    by_cases hc : c = core
    · subst hc
      unfold Hw.updL1d
      rw [Hw.core_updCore_same]
      exact hcore c
    · unfold Hw.updL1d
      rw [Hw.core_updCore_ne _ _ _ hc]
      exact hcore c
  · exact h

/-- The newest operation of a thread changed. -/
theorem Back.map_newest (b : Back) {x : LongOp} (hid : x.id = b.fresh) (f : LongOp → LongOp) :
    (b.longs ++ [x]).map (fun q => if q.id = b.fresh then f q else q) = b.longs ++ [f x] := by
  have hold : b.longs.map (fun q => if q.id = b.fresh then f q else q) = b.longs.map id :=
    List.map_congr_left fun q hq => if_neg (Back.id_ne_fresh hq)
  rw [List.map_append, hold, List.map_id, List.map_singleton, if_pos hid]

/-- A part gets its bytes (R110). -/
theorem looking_put (h : Looking t s o x g) (hid : x.id = s.hw.nextLong t) (i : Nat) (bs : Bytes) :
    Looking t s o (x.withPart i bs) (g.putPart t (s.hw.nextLong t) i bs) := by
  obtain ⟨⟨T, C, hg⟩, hoth, hthread, hcore⟩ := h
  refine ⟨⟨(g.putPart t (s.hw.nextLong t) i bs).threads, C, ?_⟩, fun k hk => (Hw.thread_updThread_ne _ _ _ hk).trans (hoth k hk), ?_, hcore⟩
  · rw [hg]
    rfl
  · unfold Hw.putPart Hw.updLong Hw.updBack Hw.nextLong
    rw [Hw.thread_updThread_same, hthread]
    dsimp only
    rw [Back.map_newest _ hid]
    rfl

theorem looking_lineVal (h : Looking t s o x g) (l : Nat) : lineVal s.mem g l = lineVal s.mem s.hw l := by
  obtain ⟨⟨T, C, rfl⟩, -⟩ := h
  rfl

theorem looking_l1dLine (h : Looking t s o x g) (core line : Nat) : g.l1dLine core line = s.hw.l1dLine core line := by
  obtain ⟨-, -, hlines⟩ := h.caches core
  unfold Hw.l1dLine Hw.l1dKey Cache.look
  rw [hlines]

/-- Without an entry of the line in the store buffer nothing is forwarded (R122). -/
theorem forward_none {sb : List SbEntry} {id : Nat} {pa : Word} {len : Nat} {device : Bool} (h : ∀ e ∈ sb, e.line ≠ lineNo pa) :
    forward sb id pa len device = .none := by
  have hold : (sb.filter fun e => e.line == lineNo pa && decide (e.ord ≤ id)) = [] := by
    rw [List.filter_eq_nil_iff]
    intro e he
    simp [h e he]
  unfold forward
  dsimp only
  rw [hold]
  rfl

/-- A part that hits is served (R122, R205). -/
theorem looking_loadPart (h : Looking t s o x g) (hid : x.id = s.hw.nextLong t) {y : LongOp} (hacc : y.acc = (s.hw.thread t).acc) {p : Part}
    (hp : PartHits t s p) (i : Nat) : g.loadPart s.mem t (s.hw.nextLong t) i y p =
      ((g.touchL1d (coreOf t) (lineNo p.pa)).putPart t (s.hw.nextLong t) i (partBytes s p), none) := by
  obtain ⟨hmt, ⟨hreg, hrem, hmmio⟩, hsb, hwb, ⟨hout, hpend, hfar⟩, hen, l, hl, hadm, hbad⟩ := hp
  obtain ⟨hwbuf, hen', -⟩ := h.caches (coreOf t)
  have hline := looking_l1dLine h (coreOf t) (lineNo p.pa)
  have hval := looking_lineVal h (lineNo p.pa)
  have hthread := h.own
  have hforward : forward (g.thread t).b.sb (s.hw.nextLong t) p.pa p.len p.mt.device = .none := by
    rw [hthread]
    exact forward_none hsb
  have hout' : (g.thread t).b.outOn (lineNo p.pa) = false := by rw [hthread]; exact hout
  have hpend' : (g.thread t).b.pendingOn (s.hw.nextLong t) (lineNo p.pa) (maskOf (p.pa.toNat % 64) p.len) = false := by
    rw [hthread]
    unfold Back.pendingOn at hpend ⊢
    rw [List.any_append, hpend]
    simp [hid]
  have hfar' : ((g.thread t).b.longs.any fun q => decide (q.id < s.hw.nextLong t) && q.kind == .farAtomic && !q.ready &&
      q.parts.any fun r => lineNo r.pa == lineNo p.pa) = false := by
    rw [hthread]
    dsimp only
    rw [List.any_append, Bool.or_eq_false_iff, List.any_eq_false]
    refine ⟨fun q hq hc => ?_, by simp [hid]⟩
    simp only [Bool.and_eq_true, beq_iff_eq, Bool.not_eq_true', List.any_eq_true] at hc
    obtain ⟨⟨⟨-, hk⟩, hr⟩, r, hr', he⟩ := hc
    exact hfar q hq hk hr r hr' he
  have hwb' : ¬(s.hw.core (coreOf t)).wbuf.contains (lineNo p.pa) = true := by simpa using hwb
  unfold Hw.loadPart
  dsimp only
  rw [hforward, hpend', hfar', hout', hmt, hwbuf, hen', hen, hline, hl, hval, hacc]
  dsimp only
  rw [if_neg (by simp [MemType.rank, MemType.device])]
  cases htg : p.tg with
  | mmio k => exact absurd htg (hmmio k)
  | reg => exact absurd htg hreg
  | remote => exact absurd htg hrem
  | _ =>
    dsimp only
    rw [if_neg (by decide), if_neg (by simp [MemType.rank]), if_neg hwb', if_pos (by decide)]
    dsimp only
    rw [if_neg (by simp [hadm]), if_neg (by simp [hbad])]
    rfl

end

end Sys2Proof.Machine

namespace Sys2Proof.Machine

open Sys2Proof.Safety Sys2Proof.Claims

/-! ### The parts of a vector load, one after another (R123, R127) -/

theorem partBytes_length (s : State) (p : Part) : (partBytes s p).length = p.len := vbytes_length _ _ _

/-- A register once the parts of a load have their bytes. -/
def loadedInto (s : State) (old : Vec) (ps : List Part) : Vec := ps.foldl (fun v p => vput v p.off (partBytes s p)) old

/-- How the lookup of operation o goes on at a part. -/
def Hw.lookPart (m : List Host.Cell) (t id : Nat) (o : LongOp) (s : Hw × Option (Bool × Nat)) (ip : Nat × Part) : Hw × Option (Bool × Nat) :=
  if s.2.isSome || ip.2.done then s
  else
    let r := match o.amo with
      | some a => Hw.amoPart m s.1 t id o a ip.2
      | none => Hw.loadPart m s.1 t id ip.1 o ip.2
    (r.1, r.2.map fun row3 => (row3, ip.1))

/-- Where the lookup of an operation ends: it parks at the first part that does (R123). -/
def Hw.lookEnd (t id : Nat) (r : Hw × Option (Bool × Nat)) : Hw :=
  match r.2 with
  | some (row3, i) => r.1.updBack t fun b => { b with parked := some ⟨id, row3, i⟩ }
  | none => r.1

theorem Hw.lookup_eq {m : List Host.Cell} {h : Hw} {t id : Nat} {o : LongOp} (ho : h.longOf t id = some o) :
    h.lookup m t id 0 = Hw.lookEnd t id ((o.parts.zipIdx.map fun p => (p.2, p.1)).foldl (Hw.lookPart m t id o) (h, none)) := by
  unfold Hw.lookup
  rw [ho]
  rfl

section
variable {t : Nat} {s : State} {o x y : LongOp} {g : Hw}

/-- Parts that hit are served one after another. -/
theorem looking_parts (hamo : y.amo = none) (hacc : y.acc = (s.hw.thread t).acc) {pre r : List Part} (h : Looking t s o x g)
    (hid : x.id = s.hw.nextLong t) (hl : x.Loading) (hps : x.parts = pre ++ r) (hpre : ∀ p ∈ pre, p.done = true)
    (hr : ∀ p ∈ r, PartHits t s p ∧ p.done = false) :
    ∃ g' z, ((r.zipIdx pre.length).map fun p => (p.2, p.1)).foldl (Hw.lookPart s.mem t (s.hw.nextLong t) y) (g, none) = (g', none) ∧
      Looking t s o z g' ∧ z.Loading ∧ z.id = x.id ∧ z.dest = x.dest ∧ z.ready = true ∧ z.val = loadedInto s x.val r := by
  induction r generalizing pre x g with
  | nil =>
    refine ⟨g, x, rfl, h, hl, rfl, rfl, hl.ready ?_, rfl⟩
    rw [hps, List.append_nil, List.all_eq_true]
    exact hpre
  | cons p r ih =>
    obtain ⟨hp, hpd⟩ := hr p List.mem_cons_self
    have hlook : Hw.lookPart s.mem t (s.hw.nextLong t) y (g, none) (pre.length, p) =
        ((g.touchL1d (coreOf t) (lineNo p.pa)).putPart t (s.hw.nextLong t) pre.length (partBytes s p), none) := by
      unfold Hw.lookPart
      rw [if_neg (by simp [hpd]), hamo]
      dsimp only
      rw [looking_loadPart h hid hacc hp]
      rfl
    obtain ⟨hl', hps', hv', hid', hd'⟩ := LongOp.withPart_loading hl hps (partBytes_length s p)
    obtain ⟨g', z, hg', hz, hzl, hzid, hzd, hzr, hzv⟩ := ih (looking_put (looking_touch h (coreOf t) (lineNo p.pa)) hid pre.length (partBytes s p))
      (hid'.trans hid) hl' hps' (fun q hq => (List.mem_append.1 hq).elim (hpre q) fun hq => by rw [List.mem_singleton.1 hq])
      (fun q hq => hr q (List.mem_cons_of_mem p hq))
    rw [List.length_append, List.length_singleton] at hg'
    refine ⟨g', z, ?_, hz, hzl, hzid.trans hid', hzd.trans hd', hzr, hzv.trans ?_⟩
    · rw [List.zipIdx_cons, List.map_cons, List.foldl_cons, hlook, hg']
    · rw [hv']
      rfl

theorem looking_longOf (h : Looking t s o x g) (hid : x.id = s.hw.nextLong t) : g.longOf t (s.hw.nextLong t) = some x := by
  have hold : (s.hw.thread t).b.longs.find? (fun q => q.id == s.hw.nextLong t) = none :=
    List.find?_eq_none.2 fun q hq => by simpa [Hw.nextLong] using Back.id_ne_fresh hq
  unfold Hw.longOf
  rw [h.own]
  dsimp only
  rw [List.find?_append, hold, List.find?_singleton, if_pos (by simpa using hid)]
  rfl

end

/-- A vector load is done but for its write-back, with this value; memory and newest values stay (R81, R110). -/
def VecRead (t : Nat) (vd : Reg) (val : Vec) (s u : State) : Prop :=
  let a := (s.hw.thread t).a
  let b := (u.hw.thread t).a
  u.mem = s.mem ∧ u.hw.newest = s.hw.newest ∧ OthersKeep t s u ∧ b.g = a.g ∧ b.pc = pcAfter a ∧ KeepsRest a b ∧
    ∃ o, (u.hw.thread t).b.longs = (s.hw.thread t).b.longs ++ [o] ∧ o.kind = .vload ∧ o.dest = .v vd.toNat ∧ o.ready = true ∧
      (Dest.v vd.toNat, o.id) ∈ (u.hw.thread t).b.owed ∧ o.val = val

theorem vecLoaded_of_read {t w n : Nat} {vd : Reg} {mask : Word} {pa : Nat → Word} {val : Vec} {s u : State} (h : VecRead t vd val s u)
    (he : Elements w n mask ((s.hw.thread t).a.rv vd) val fun j => leNat (newestBytes s (pa j) (w / 8))) : VecLoaded t vd w n mask pa s u := by
  obtain ⟨hmem, hnew, hoth, hg, hpc, hrest, o, hlongs, hk, hd, hr, howed, rfl⟩ := h
  exact ⟨hmem, hnew, hoth, hg, hpc, hrest, o, hlongs, hk, hd, hr, howed, he⟩

/-- A load whose parts are all there completes. -/
theorem vecRead_complete {t : Nat} {vd : Reg} {s : State} {o x : LongOp} {g : Hw} (h : Looking t s o x g) (hk : x.kind = .vload)
    (hid : x.id = s.hw.nextLong t) (hd : x.dest = .v vd.toNat) (hod : o.dest = .v vd.toNat) (hr : x.ready = true) :
    VecRead t vd x.val s { s with hw := g.complete t .seq } := by
  obtain ⟨⟨T, C, hg⟩, hoth, hthread, -⟩ := h
  obtain ⟨hdg, hpc, -, hrest⟩ := (s.hw.thread t).a.done_seq
  obtain ⟨on, w, hc⟩ := g.complete_eq t .seq
  have hx := g.complete_thread t .seq
  unfold VecRead
  refine ⟨rfl, ?_, fun k hk => (g.complete_other hk .seq).trans (hoth k hk), ?_⟩
  · dsimp only
    rw [hc, hg]
    rfl
  · dsimp only
    rw [hx, hthread]
    refine ⟨hdg, hpc, hrest, x, rfl, hk, hd, hr, ?_, rfl⟩
    have howed := Back.withLong_owed (s.hw.thread t).b (o := o) (by rw [hod]; exact Dest.noConfusion)
    rw [hod] at howed
    rw [hid]
    exact howed

/-- A vector load as it issues, with no part looked up. -/
def vectorLoad (vd : Reg) (old : Vec) (ps : List Part) (acc : Acc) : LongOp :=
  { LongOp.known .vload (.v vd.toNat) old with ready := false, parts := ps, acc := acc }

/-- The parts of a vector load, run by run (R83). -/
def loadParts (cs : List (VPiece × Piece)) : List Part :=
  cs.flatMap fun p => p.1.runs.map fun r => ⟨p.2.pa + w64 r.1, p.2.mt, r.2, p.1.off + r.1, false, p.2.tg⟩

/-- A vector load whose pieces pass and whose parts hit (R81 to R84). -/
theorem vecLoad_read {t : Nat} {vd : Reg} {srcs : List Dest} {mk : BitVec 3} {devOk : Bool} {ps : List VPiece} {cs : List (VPiece × Piece)}
    {s : State} (hready : s.hw.ready t (srcs ++ underMask vd mk) .memLong = true) (hen : (s.hw.thread t).a.vecDisabled = none)
    (hc : vecCheck s.mem s.hw t .load devOk ps = (.ok [], cs)) (hwb : ∀ c ∈ cs, c.2.mt = .wb) (hhit : ∀ p ∈ loadParts cs, PartHits t s p) :
    VecRead t vd (loadedInto s ((s.hw.thread t).a.rv vd) (loadParts cs)) s { s with hw := s.hw.vecLoad s.mem t vd srcs mk false devOk ps } := by
  obtain ⟨hl, hps, hv, -, hd, hacc, hamo⟩ :=
    LongOp.finish_loading (x := vectorLoad vd ((s.hw.thread t).a.rv vd) (loadParts cs) (s.hw.thread t).acc) rfl rfl
  set o := (vectorLoad vd ((s.hw.thread t).a.rv vd) (loadParts cs) (s.hw.thread t).acc).finish with ho
  have hdone : ∀ p ∈ loadParts cs, p.done = false := by
    intro p hp
    obtain ⟨c, -, hp⟩ := List.mem_flatMap.1 hp
    obtain ⟨r, -, rfl⟩ := List.mem_map.1 hp
    rfl
  have hstart := looking_start t s o
  obtain ⟨g, z, hg, hz, hzl, hzid, hzd, hzr, hzv⟩ := looking_parts (y := { o with id := s.hw.nextLong t }) hamo hacc (pre := []) hstart rfl ⟨hl.kind, hl.good, hl.ready⟩
    hps (fun _ hq => absurd hq List.not_mem_nil) fun p hp => ⟨hhit p hp, hdone p hp⟩
  have hlook : (s.hw.addLong t o).lookup s.mem t (s.hw.nextLong t) 0 = g := by
    rw [Hw.lookup_eq (looking_longOf hstart rfl)]
    dsimp only
    rw [hps]
    exact congrArg (Hw.lookEnd t _) hg
  have hwait : (cs.any fun p => (s.hw.thread t).b.deviceWaits p.2.mt) = false := by
    rw [List.any_eq_false]
    intro c hc
    rw [hwb c hc]
    exact Bool.false_ne_true
  have hstep : s.hw.vecLoad s.mem t vd srcs mk false devOk ps = g.complete t .seq := by
    unfold Hw.vecLoad
    rw [srcD_eq, if_neg (by rw [hready]; decide)]
    dsimp only
    rw [if_neg (by decide), hen]
    dsimp only
    rw [hc]
    dsimp only
    rw [if_neg (by rw [hwait]; decide)]
    exact congrArg (fun h : Hw => h.complete t .seq) hlook
  rw [hstep]
  have hval : z.val = loadedInto s ((s.hw.thread t).a.rv vd) (loadParts cs) := hzv.trans (congrArg (loadedInto s · (loadParts cs)) hv)
  rw [← hval]
  exact vecRead_complete hz hzl.kind hzid (hzd.trans hd) hd hzr

end Sys2Proof.Machine

namespace Sys2Proof.Machine

open Sys2Proof.Safety Sys2Proof.Claims

/-! ### The pieces of vector accesses (R81 to R83) -/

theorem ewBytes_eq (ew : BitVec 2) : ewBits ew / 8 = ewBytes ew := Nat.mul_div_cancel_left _ (by decide)

theorem ewCount_mul_bytes (ew : BitVec 2) : ewCount ew * ewBytes ew = 64 := by revert ew; decide

theorem ewBytes_pos (ew : BitVec 2) : 0 < ewBytes ew := Nat.two_pow_pos _

/-- Elements of one width fill a line. -/
structure Fills (k n : Nat) : Prop where
  pos : 0 < k
  eq : n * k = 64

theorem Fills.of_ew (ew : BitVec 2) : Fills (ewBytes ew) (ewCount ew) := ⟨ewBytes_pos ew, ewCount_mul_bytes ew⟩

theorem Fills.elem_le {k n j : Nat} (h : Fills k n) (hj : j < n) : j * k + k ≤ 64 := calc
  j * k + k = (j + 1) * k := by ring
  _ ≤ n * k := Nat.mul_le_mul_right k hj
  _ = 64 := h.eq

/-- An aligned element stays in its line. -/
theorem Fills.fits {k n a : Nat} (h : Fills k n) (ha : a % k = 0) : a % 64 + k ≤ 64 := by
  obtain ⟨q, hq⟩ : k ∣ a % 64 := (Nat.dvd_mod_iff ⟨n, by rw [Nat.mul_comm, h.eq]⟩).2 (Nat.dvd_of_mod_eq_zero ha)
  have hlt : k * q < k * n := by
    rw [← hq, Nat.mul_comm k n, h.eq]
    exact Nat.mod_lt _ (by decide)
  have hj := h.elem_le (Nat.lt_of_mul_lt_mul_left hlt)
  rwa [Nat.mul_comm q k, ← hq] at hj

/-- The active elements. -/
def activeElems (n : Nat) (mask : Word) : List Nat := (List.range n).filter (active mask)

theorem mem_activeElems {n : Nat} {mask : Word} {j : Nat} : j ∈ activeElems n mask ↔ j < n ∧ mask.getLsbD j = true := by
  unfold activeElems active
  rw [List.mem_filter, List.mem_range]

/-- An aligned element of k bytes as a piece. -/
def elemPiece (addr : Nat → Word) (k j : Nat) : VPiece := ⟨addr j, k, j * k, false, [(0, k)]⟩

/-- Aligned elements are pieces of their own (R81, R82). -/
theorem piecesEl_eq {addr : Nat → Word} {k n : Nat} {mask : Word} (h : ∀ j, j < n → mask.getLsbD j = true → (addr j).toNat % k = 0) :
    piecesEl addr k n mask = (activeElems n mask).map (elemPiece addr k) := by
  refine List.map_congr_left fun j hj => ?_
  obtain ⟨hn, hm⟩ := mem_activeElems.1 hj
  unfold elemPiece
  rw [h j hn hm]
  rfl

/-- An aligned broadcast element stays in one line (R81). -/
theorem piecesB_eq {va : Word} {k n : Nat} {mask : Word} (hf : Fills k n) (h : ∀ j, j < n → mask.getLsbD j = true → va.toNat % k = 0) :
    piecesB va k n mask = (activeElems n mask).map (elemPiece (fun _ => va) k) := by
  rw [List.map_eq_flatMap]
  refine List.flatMap_congr fun j hj => ?_
  obtain ⟨hn, hm⟩ := mem_activeElems.1 hj
  unfold halves elemPiece
  dsimp only
  rw [if_pos (hf.fits (h j hn hm))]
  rfl

/-- Where every piece passes, the check hands on all of them in order (R83). -/
theorem vecCheck_map {m : List Host.Cell} {h : Hw} {t : Nat} {acc : Access} {devOk : Bool} {f : Nat → VPiece} {q : Nat → Piece} {l : List Nat}
    (hq : ∀ j ∈ l, (f j).bad = false ∧ x2One m h t ⟨acc, (f j).len, false, devOk, false, false⟩ (f j).va (f j).len (f j).off = .ok [q j]) :
    vecCheck m h t acc devOk (l.map f) = (.ok [], l.map fun j => (f j, q j)) := by
  induction l with
  | nil => rfl
  | cons j r ih =>
    obtain ⟨hb, hx⟩ := hq j List.mem_cons_self
    rw [List.map_cons, List.map_cons]
    unfold vecCheck
    rw [hb, Bool.or_false, hx]
    dsimp only
    rw [if_neg (by decide), ih fun i hi => hq i (List.mem_cons_of_mem j hi)]

/-- The pieces of elements that pass. -/
theorem vecCheck_elems {m : List Host.Cell} {h : Hw} {t : Nat} {acc : Access} {addr pa : Nat → Word} {k n : Nat} {mask : Word}
    {P : Target → Prop} (hx : ∀ j, j < n → mask.getLsbD j = true →
      ∃ tg, x2One m h t ⟨acc, k, false, false, false, false⟩ (addr j) k (j * k) = .ok [⟨pa j, .wb, tg, k, j * k⟩] ∧ P tg) :
    ∃ tg : Nat → Target, (∀ j ∈ activeElems n mask, P (tg j)) ∧ vecCheck m h t acc false ((activeElems n mask).map (elemPiece addr k)) =
      (.ok [], (activeElems n mask).map fun j => (elemPiece addr k j, ⟨pa j, .wb, tg j, k, j * k⟩)) := by
  have htg (j : Nat) : ∃ tg, j ∈ activeElems n mask →
      x2One m h t ⟨acc, k, false, false, false, false⟩ (addr j) k (j * k) = .ok [⟨pa j, .wb, tg, k, j * k⟩] ∧ P tg := by
    by_cases hj : j ∈ activeElems n mask
    · obtain ⟨tg, h⟩ := hx j (mem_activeElems.1 hj).1 (mem_activeElems.1 hj).2
      exact ⟨tg, fun _ => h⟩
    · exact ⟨.ddr, fun h => absurd h hj⟩
  choose tg htg using htg
  exact ⟨tg, fun j hj => (htg j hj).2, vecCheck_map (q := fun j => ⟨pa j, .wb, tg j, k, j * k⟩) fun j hj => ⟨rfl, (htg j hj).1⟩⟩

/-! ### The value that a vector load reads (R81 to R83) -/

theorem add_w64_zero (a : Word) : a + w64 0 = a := BitVec.add_zero a

/-- The part of an aligned element. -/
def elemPart (pa : Nat → Word) (tg : Nat → Target) (k j : Nat) : Part := ⟨pa j, .wb, k, j * k, false, tg j⟩

theorem loadParts_elems (addr pa : Nat → Word) (tg : Nat → Target) (k : Nat) (l : List Nat) :
    loadParts (l.map fun j => (elemPiece addr k j, ⟨pa j, .wb, tg j, k, j * k⟩)) = l.map (elemPart pa tg k) := by
  unfold loadParts
  rw [List.flatMap_map, List.map_eq_flatMap]
  refine List.flatMap_congr fun j _ => ?_
  unfold elemPiece elemPart
  dsimp only
  rw [List.map_singleton, add_w64_zero]
  rfl

/-- A register once some of its bytes were loaded from a source: which bits are whose. -/
theorem loadedInto_getLsbD {s : State} {ps : List Part} {src : Nat → Bool} {b : Nat} {c : Prop} [Decidable c] (hfit : ∀ p ∈ ps, p.off + p.len ≤ 64)
    (hsrc : ∀ p ∈ ps, ∀ b, 8 * p.off ≤ b → b < 8 * (p.off + p.len) → (leNat (partBytes s p)).testBit (b - 8 * p.off) = src b)
    (hc : (∃ p ∈ ps, 8 * p.off ≤ b ∧ b < 8 * (p.off + p.len)) ↔ c) (old : Vec) :
    (loadedInto s old ps).getLsbD b = if c then src b else old.getLsbD b := by
  have hf := foldl_vput_getLsbD (off := Part.off) (bs := partBytes s) (src := src) (ps := ps)
  simp only [partBytes_length] at hf
  obtain ⟨hin, hout⟩ := hf hfit hsrc old b
  split
  · exact hin (hc.2 ‹_›)
  · exact hout (mt hc.1 ‹_›)

/-- Bit b of a register lies in element b / (8 k). -/
theorem elem_bit_iff {k j b : Nat} (hk : 0 < k) : (8 * (j * k) ≤ b ∧ b < 8 * (j * k + k)) ↔ j = b / (8 * k) := by
  rw [eq_comm, Nat.div_eq_iff (by omega), show j * (8 * k) = 8 * (j * k) by ring]
  omega

/-- Where bit b of a register comes from when elements of k bytes are loaded. -/
def elemSource (s : State) (pa : Nat → Word) (k b : Nat) : Bool := (leNat (newestBytes s (pa (b / (8 * k))) k)).testBit (b % (8 * k))

theorem elements_loaded_elems {k n : Nat} (hf : Fills k n) (s : State) (mask : Word) (old : Vec) (pa : Nat → Word) (tg : Nat → Target) :
    Elements (8 * k) n mask old (loadedInto s old ((activeElems n mask).map (elemPart pa tg k))) fun j => leNat (newestBytes s (pa j) k) := by
  have hw : 0 < 8 * k := Nat.mul_pos (by decide) hf.pos
  refine elements_of_bits (src := elemSource s pa k) hw
    (by have := hf.eq; rw [Nat.mul_assoc, Nat.mul_comm k n, this]) (fun b hb => ?_) fun j i _ _ hi => ?_
  · refine loadedInto_getLsbD (src := elemSource s pa k) (c := mask.getLsbD (b / (8 * k)) = true) ?_ ?_ ?_ old
    · intro p hp
      obtain ⟨j, hj, rfl⟩ := List.mem_map.1 hp
      exact hf.elem_le (mem_activeElems.1 hj).1
    · intro p hp b h1 h2
      obtain ⟨j, hj, rfl⟩ := List.mem_map.1 hp
      have hjb := (elem_bit_iff hf.pos).1 ⟨h1, h2⟩
      have hmod : b - 8 * (j * k) = b % (8 * k) := by
        rw [Nat.mod_eq_sub, ← hjb]
        ring_nf
      unfold elemPart partBytes elemSource
      dsimp only
      rw [hmod, ← hjb]
    · have hn : b / (8 * k) < n := by
        rw [Nat.div_lt_iff_lt_mul hw]
        have := hf.eq
        calc b < 8 * (n * k) := by omega
          _ = n * (8 * k) := by ring
      constructor
      · rintro ⟨p, hp, hb⟩
        obtain ⟨j, hj, rfl⟩ := List.mem_map.1 hp
        exact (elem_bit_iff hf.pos).1 hb ▸ (mem_activeElems.1 hj).2
      · exact fun h => ⟨_, List.mem_map_of_mem (mem_activeElems.2 ⟨hn, h⟩), (elem_bit_iff hf.pos).2 rfl⟩
  · unfold elemSource
    rw [Nat.mul_add_div hw, Nat.div_eq_of_lt hi, Nat.add_zero, Nat.mul_add_mod, Nat.mod_eq_of_lt hi]

end Sys2Proof.Machine

namespace Sys2Proof.Machine

open Sys2Proof.Safety Sys2Proof.Claims

/-! ### Loads of elements at addresses of their own (R81, R82) -/

/-- A vector load of aligned elements that L1D serves. -/
theorem vecLoaded_elems {t : Nat} {vd : Reg} {srcs : List Dest} {mk : BitVec 3} {ew : BitVec 2} {addr pa : Nat → Word} {s : State} {ps : List VPiece}
    (hready : s.hw.ready t (srcs ++ underMask vd mk) .memLong = true) (hen : (s.hw.thread t).a.vecDisabled = none)
    (hps : ps = (activeElems (ewCount ew) ((s.hw.thread t).a.rm mk.toNat)).map (elemPiece addr (ewBytes ew)))
    (hhit : ∀ j, j < ewCount ew → ((s.hw.thread t).a.rm mk.toNat).getLsbD j = true →
      ElementHits t ⟨.load, ewBytes ew, false, false, false, false⟩ (addr j) (ewBytes ew) (j * ewBytes ew) s (pa j)) :
    VecLoaded t vd (ewBits ew) (512 / ewBits ew) ((s.hw.thread t).a.rm mk.toNat) pa s
      { s with hw := s.hw.vecLoad s.mem t vd srcs mk false false ps } := by
  obtain ⟨tg, hmem, hc⟩ := vecCheck_elems (pa := pa) fun j hj hm => (hhit j hj hm).1
  rw [ewBits_count]
  subst hps
  refine vecLoaded_of_read (vecLoad_read hready hen hc (fun c hc => ?_) fun p hp => ?_) ?_
  · obtain ⟨j, -, rfl⟩ := List.mem_map.1 hc
    rfl
  · rw [loadParts_elems] at hp
    obtain ⟨j, hj, rfl⟩ := List.mem_map.1 hp
    obtain ⟨-, hrest⟩ := hhit j (mem_activeElems.1 hj).1 (mem_activeElems.1 hj).2
    exact ⟨rfl, hmem j hj, hrest⟩
  · rw [loadParts_elems, ewBytes_eq]
    exact elements_loaded_elems (Fills.of_ew ew) s _ _ pa tg

theorem vecLoaded_piecesEl {t : Nat} {vd : Reg} {srcs : List Dest} {mk : BitVec 3} {ew : BitVec 2} {addr pa : Nat → Word} {s : State}
    (hready : s.hw.ready t (srcs ++ underMask vd mk) .memLong = true) (hen : (s.hw.thread t).a.vecDisabled = none)
    (hhit : ∀ j, j < ewCount ew → ((s.hw.thread t).a.rm mk.toNat).getLsbD j = true → (addr j).toNat % ewBytes ew = 0 ∧
      ElementHits t ⟨.load, ewBytes ew, false, false, false, false⟩ (addr j) (ewBytes ew) (j * ewBytes ew) s (pa j)) :
    VecLoaded t vd (ewBits ew) (512 / ewBits ew) ((s.hw.thread t).a.rm mk.toNat) pa s
      { s with hw := s.hw.vecLoad s.mem t vd srcs mk false false (piecesEl addr (ewBytes ew) (ewCount ew) ((s.hw.thread t).a.rm mk.toNat)) } :=
  vecLoaded_elems hready hen (piecesEl_eq fun j hj hm => (hhit j hj hm).1) fun j hj hm => (hhit j hj hm).2

/-- An index scaled in 64 bits (R82). -/
theorem gatherAddr_eq (a : Arch) (base : Word) (vi : Reg) (ew sc : BitVec 2) (j : Nat) :
    gatherAddr a base vi ew sc j = base + BitVec.ofInt 64 (toS (ewBits ew) (elem (a.rv vi) (ewBits ew) j) * 2 ^ sc.toNat) := by
  have hpow : BitVec.ofInt 64 (2 ^ sc.toNat) = BitVec.twoPow 64 sc.toNat := by revert sc; decide
  unfold gatherAddr
  rw [BitVec.shiftLeft_eq_mul_twoPow, BitVec.ofInt_mul, hpow]

/-! ### A load of a whole aligned line (R81, R83) -/

theorem growRuns_pos {l : List (Nat × Nat)} (h : ∀ r ∈ l, 0 < r.2) (n : Nat) : ∀ r ∈ growRuns l n, 0 < r.2 := by
  have hsnoc {l' : List (Nat × Nat)} (h' : ∀ r ∈ l', 0 < r.2) (o k : Nat) : ∀ r ∈ l' ++ [(o, k + 1)], 0 < r.2 := by
    intro r hr
    rcases List.mem_append.1 hr with hr | hr
    · exact h' r hr
    · rw [List.mem_singleton.1 hr]
      exact Nat.succ_pos k
  unfold growRuns
  split
  · split
    · exact hsnoc (fun r hr => h r (List.mem_of_mem_dropLast hr)) _ _
    · exact hsnoc h n 0
  · exact hsnoc (l' := []) (fun r hr => absurd hr List.not_mem_nil) n 0

theorem activeRuns_pos {k : Nat} {mask : Word} {lo n : Nat} : ∀ r ∈ activeRuns k mask lo n, 0 < r.2 := by
  induction n with
  | zero => exact fun r hr => absurd hr List.not_mem_nil
  | succ n ih =>
    rw [activeRuns_succ]
    split
    · exact growRuns_pos ih n
    · exact ih

/-- An offset within an aligned line. -/
theorem add_offset {pa : Word} {o : Nat} (hal : pa.toNat % 64 = 0) (ho : o < 64) : (pa + w64 o).toNat = pa.toNat + o := by
  unfold w64
  rw [BitVec.toNat_add, BitVec.toNat_ofNat]
  have := pa.isLt
  omega

theorem lineNo_offset {pa : Word} {o : Nat} (hal : pa.toNat % 64 = 0) (ho : o < 64) : lineNo (pa + w64 o) = lineNo pa := by
  unfold lineNo
  rw [add_offset hal ho]
  omega

theorem mod_offset {pa : Word} {o : Nat} (hal : pa.toNat % 64 = 0) (ho : o < 64) : (pa + w64 o).toNat % 64 = o := by
  rw [add_offset hal ho]
  omega

/-- The newest bytes within an aligned line are bits of its newest value. -/
theorem newestBytes_testBit {pa : Word} {o n i : Nat} (s : State) (hal : pa.toNat % 64 = 0) (ho : o < 64) (hi : i < 8 * n) :
    (leNat (newestBytes s (pa + w64 o) n)).testBit i = (lineVal s.mem s.hw (lineNo pa)).getLsbD (8 * o + i) := by
  unfold newestBytes
  rw [lineNo_offset hal ho, mod_offset hal ho, leNat_vbytes, Nat.testBit_mod_two_pow, Nat.testBit_div_two_pow, decide_eq_true hi, Bool.true_and,
    Nat.add_comm]
  rfl

/-- The pieces of an access of a whole aligned line: the line, if it holds an active byte (R83). -/
theorem piecesVL_eq {va : Word} (hal : va.toNat % 64 = 0) (k : Nat) (mask : Word) :
    piecesVL va k mask = if (activeRuns k mask 0 64).isEmpty then [] else [⟨va, 64, 0, false, activeRuns k mask 0 64⟩] := by
  unfold piecesVL halves
  dsimp only
  rw [hal, if_pos (by decide), List.map_singleton, List.filter_singleton]
  cases (activeRuns k mask 0 64).isEmpty <;> rfl

/-- What the check of a whole aligned line hands on. -/
def linePieces (va pa : Word) (tg : Target) (runs : List (Nat × Nat)) : List (VPiece × Piece) :=
  if runs.isEmpty then [] else [(⟨va, 64, 0, false, runs⟩, ⟨pa, .wb, tg, 64, 0⟩)]

theorem vecCheck_line {m : List Host.Cell} {h : Hw} {t : Nat} {acc : Access} {devOk : Bool} {va pa : Word} {tg : Target} {k : Nat} {mask : Word}
    (hal : va.toNat % 64 = 0) (hx : x2One m h t ⟨acc, 64, false, devOk, false, false⟩ va 64 0 = .ok [⟨pa, .wb, tg, 64, 0⟩]) :
    vecCheck m h t acc devOk (piecesVL va k mask) = (.ok [], linePieces va pa tg (activeRuns k mask 0 64)) := by
  rw [piecesVL_eq hal]
  unfold linePieces
  split
  · rfl
  · exact vecCheck_map (l := [0]) (f := fun _ => ⟨va, 64, 0, false, activeRuns k mask 0 64⟩) (q := fun _ => ⟨pa, .wb, tg, 64, 0⟩) fun _ _ => ⟨rfl, hx⟩

/-- The part of a run of a line. -/
def runPart (pa : Word) (tg : Target) (r : Nat × Nat) : Part := ⟨pa + w64 r.1, .wb, r.2, r.1, false, tg⟩

theorem loadParts_line (va pa : Word) (tg : Target) (runs : List (Nat × Nat)) :
    loadParts (linePieces va pa tg runs) = runs.map (runPart pa tg) := by
  unfold loadParts linePieces
  cases runs with
  | nil => rfl
  | cons r rs =>
    rw [if_neg (by simp), List.flatMap_singleton]
    refine List.map_congr_left fun q _ => ?_
    unfold runPart
    dsimp only
    rw [Nat.zero_add]

/-- A line of which no byte is under way has none of any bytes under way (R61 row 1). -/
theorem LineFree.of_whole {t line : Nat} {h : Hw} (hl : LineFree t line (maskOf 0 64) h) (mask : BitVec 64) : LineFree t line mask h := by
  obtain ⟨hout, hpend, hfar⟩ := hl
  refine ⟨hout, ?_, hfar⟩
  rw [maskOf_all] at hpend
  unfold Back.pendingOn at hpend ⊢
  rw [List.any_eq_false] at hpend ⊢
  intro q hq hc
  refine hpend q hq ?_
  simp only [Bool.and_eq_true, List.any_eq_true] at hc ⊢
  obtain ⟨hlt, p, hp, hdone, hm⟩ := hc
  refine ⟨hlt, p, hp, hdone, ?_⟩
  simp only [bne_iff_ne, ne_eq, BitVec.and_allOnes] at hm ⊢
  exact fun h0 => hm (by rw [h0]; exact BitVec.zero_and)

theorem elements_loaded_line {k n : Nat} (hf : Fills k n) (s : State) (mask : Word) (old : Vec) {pa : Word} (tg : Target) (hal : pa.toNat % 64 = 0) :
    Elements (8 * k) n mask old (loadedInto s old ((activeRuns k mask 0 64).map (runPart pa tg)))
      fun j => leNat (newestBytes s (pa + w64 (j * k)) k) := by
  have hw : 0 < 8 * k := Nat.mul_pos (by decide) hf.pos
  obtain ⟨hle, hcov⟩ := activeRuns_cover k mask 0 64
  have hlt {r : Nat × Nat} (hr : r ∈ activeRuns k mask 0 64) : r.1 < 64 := by
    have := hle r hr
    have := activeRuns_pos r hr
    omega
  refine elements_of_bits (src := fun b => (lineVal s.mem s.hw (lineNo pa)).getLsbD b) hw
    (by have := hf.eq; rw [Nat.mul_assoc, Nat.mul_comm k n, this]) (fun b hb => ?_) fun j i hj _ hi => ?_
  · refine loadedInto_getLsbD (src := fun b => (lineVal s.mem s.hw (lineNo pa)).getLsbD b) (c := mask.getLsbD (b / (8 * k)) = true) ?_ ?_ ?_ old
    · intro p hp
      obtain ⟨r, hr, rfl⟩ := List.mem_map.1 hp
      exact hle r hr
    · intro p hp b h1 h2
      obtain ⟨r, hr, rfl⟩ := List.mem_map.1 hp
      unfold runPart at h1 h2 ⊢
      unfold partBytes
      dsimp only at h1 h2 ⊢
      rw [newestBytes_testBit s hal (hlt hr) (by omega), Nat.add_sub_cancel' h1]
    · have hiff := hcov (b / 8)
      dsimp only at hiff
      rw [Nat.zero_add, Nat.div_div_eq_div_mul] at hiff
      refine Iff.trans ?_ (hiff.trans ⟨And.right, fun h => ⟨by omega, h⟩⟩)
      have hbyte (r : Nat × Nat) : (8 * r.1 ≤ b ∧ b < 8 * (r.1 + r.2)) ↔ Covers r (b / 8) := by
        unfold Covers
        omega
      constructor
      · rintro ⟨p, hp, hb⟩
        obtain ⟨r, hr, rfl⟩ := List.mem_map.1 hp
        exact ⟨r, hr, (hbyte r).1 hb⟩
      · exact fun ⟨r, hr, hb⟩ => ⟨_, List.mem_map_of_mem hr, (hbyte r).2 hb⟩
  · have h1 := hf.elem_le hj
    have h2 := hf.pos
    rw [newestBytes_testBit s hal (by omega) hi, ← Nat.mul_assoc, Nat.mul_right_comm 8 j k, Nat.mul_comm (8 * k) j, Nat.mul_comm j (8 * k)]

/-- A vector load of a whole aligned line that L1D serves. -/
theorem vecLoaded_line {t : Nat} {vd : Reg} {srcs : List Dest} {mk : BitVec 3} {ew : BitVec 2} {va : Word} {pa : Nat → Word} {devOk : Bool} {s : State}
    (hready : s.hw.ready t (srcs ++ underMask vd mk) .memLong = true) (hen : (s.hw.thread t).a.vecDisabled = none) (hal : va.toNat % 64 = 0)
    (hpa : ∀ j, pa j = pa 0 + w64 (j * ewBytes ew)) (hhit : ElementHits t ⟨.load, 64, false, devOk, false, false⟩ va 64 0 s (pa 0)) :
    VecLoaded t vd (ewBits ew) (512 / ewBits ew) ((s.hw.thread t).a.rm mk.toNat) pa s
      { s with hw := s.hw.vecLoad s.mem t vd srcs mk false devOk (piecesVL va (ewBytes ew) ((s.hw.thread t).a.rm mk.toNat)) } := by
  obtain ⟨⟨tg, hx, hmem⟩, hsb, hwb, hfree, hheld⟩ := hhit
  have hpal : (pa 0).toNat % 64 = 0 := by
    have := x2One_mod hx
    dsimp only at this
    omega
  rw [ewBits_count]
  refine vecLoaded_of_read (vecLoad_read hready hen (vecCheck_line hal hx) (fun c hc => ?_) fun p hp => ?_) ?_
  · unfold linePieces at hc
    split at hc
    · exact absurd hc List.not_mem_nil
    · rw [List.mem_singleton.1 hc]
  · rw [loadParts_line] at hp
    obtain ⟨r, hr, rfl⟩ := List.mem_map.1 hp
    have hlt : r.1 < 64 := by
      have := (activeRuns_cover _ _ _ _).1 r hr
      have := activeRuns_pos r hr
      omega
    unfold PartHits runPart
    dsimp only
    rw [lineNo_offset hpal hlt]
    rw [hpal] at hfree
    exact ⟨rfl, hmem, hsb, hwb, LineFree.of_whole hfree _, hheld⟩
  · rw [loadParts_line, ewBytes_eq]
    intro j hj
    dsimp only
    rw [hpa j]
    exact elements_loaded_line (Fills.of_ew ew) s _ _ tg hpal j hj

end Sys2Proof.Machine

namespace Sys2Proof.Machine

open Sys2Proof.Safety Sys2Proof.Claims

/-! ### Bytes of registers (R8, R69) -/

theorem vbyte_getLsbD (v : Vec) (p b : Nat) : (vbyte v p).getLsbD b = (decide (b < 8) && v.getLsbD (8 * p + b)) := BitVec.getLsbD_extractLsb' ..

theorem vbyte_vmerge (old new : Vec) (mask : BitVec 64) {p : Nat} (hp : p < 64) :
    vbyte (vmerge old new mask) p = if mask.getLsbD p then vbyte new p else vbyte old p := by
  apply BitVec.eq_of_getLsbD_eq
  intro b hb
  have hm : (BitVec.ofNat 512 (byteMask 64 mask.toNat)).getLsbD (8 * p + b) = mask.getLsbD p := by
    rw [BitVec.getLsbD_ofNat, byteMask_testBit, decide_eq_true (by omega), Bool.true_and, Bool.true_and,
      Nat.mul_add_div (by decide), Nat.div_eq_of_lt hb]
    rfl
  rw [apply_ite (fun x : Byte => x.getLsbD b), vbyte_getLsbD, vbyte_getLsbD, vbyte_getLsbD]
  unfold vmerge
  dsimp only
  rw [BitVec.getLsbD_or, BitVec.getLsbD_and, BitVec.getLsbD_and, BitVec.getLsbD_not, hm, decide_eq_true hb, decide_eq_true (by omega)]
  cases mask.getLsbD p <;> simp

theorem maskOf_getLsbD (o n p : Nat) : (maskOf o n).getLsbD p = (decide (p < 64) && (decide (o ≤ p) && decide (p < o + n))) := by
  unfold maskOf
  rw [BitVec.getLsbD_ofNat, testBit_ones]

/-- A byte of bytes that were taken from a register. -/
theorem vbyte_vput_vbytes (src : Vec) {o so n p : Nat} (hfit : o + n ≤ 64) (h1 : o ≤ p) (h2 : p < o + n) :
    vbyte (vput 0 o (vbytes src so n)) p = vbyte src (so + (p - o)) := by
  apply BitVec.eq_of_getLsbD_eq
  intro b hb
  rw [vbyte_getLsbD, vbyte_getLsbD, vput_getLsbD 0 (by rwa [vbytes_length]), vbytes_length, if_pos (by omega), leNat_vbytes, Nat.testBit_mod_two_pow,
    Nat.testBit_div_two_pow, decide_eq_true (by omega : 8 * p + b - 8 * o < 8 * n), Bool.true_and,
    show 8 * p + b - 8 * o + 8 * so = 8 * (so + (p - o)) + b by omega]
  rfl

/-- A byte of an element is a byte of its register. -/
theorem vbyte_elem (src : Vec) {k i : Nat} (j : Nat) (hi : i < k) : (vbyte src (j * k + i)).toNat = elem src (8 * k) j / 256 ^ i % 256 := by
  apply Nat.eq_of_testBit_eq
  intro b
  have hpow : 256 ^ i = 2 ^ (8 * i) := by rw [Nat.pow_mul]
  rw [hpow, show (256 : Nat) = 2 ^ 8 from rfl, Nat.testBit_mod_two_pow, Nat.testBit_div_two_pow, elem_testBit]
  change (vbyte src (j * k + i)).getLsbD b = _
  rw [vbyte_getLsbD, show 8 * (j * k + i) + b = 8 * k * j + (b + 8 * i) by ring]
  by_cases hb : b < 8
  · rw [decide_eq_true (by omega : b + 8 * i < 8 * k), Bool.true_and]
  · rw [decide_eq_false hb, Bool.false_and, Bool.false_and]

/-! ### Entries of the store buffer (R119, R509) -/

/-- An entry holds the byte at an address. -/
def SbEntry.Touches (e : SbEntry) (a : Nat) : Prop := e.line = a / 64 ∧ e.mask.getLsbD (a % 64) = true

/-- An entry holds a value for the byte at an address. -/
def SbEntry.Has (e : SbEntry) (a : Nat) (v : Byte) : Prop := e.Touches a ∧ vbyte e.data (a % 64) = v

/-- An entry with the bytes of a later one over its own. -/
def SbEntry.joined (e n : SbEntry) : SbEntry :=
  { e with data := vmerge e.data n.data n.mask, mask := e.mask ||| n.mask, pa := if n.pa.toNat < e.pa.toNat then n.pa else e.pa }

section
variable {e n : SbEntry} {a : Nat} {v : Byte}

theorem SbEntry.joined_touches (hl : n.line = e.line) : (e.joined n).Touches a ↔ e.Touches a ∨ n.Touches a := by
  unfold SbEntry.Touches SbEntry.joined
  dsimp only
  rw [hl, BitVec.getLsbD_or, Bool.or_eq_true, and_or_left]

theorem SbEntry.joined_byte (e n : SbEntry) (a : Nat) :
    vbyte (e.joined n).data (a % 64) = if n.mask.getLsbD (a % 64) then vbyte n.data (a % 64) else vbyte e.data (a % 64) :=
  vbyte_vmerge _ _ _ (Nat.mod_lt _ (by decide))

/-- The later bytes win. -/
theorem SbEntry.joined_has_new (hl : n.line = e.line) (h : n.Has a v) : (e.joined n).Has a v :=
  ⟨(joined_touches hl).2 (.inr h.1), by rw [joined_byte, if_pos h.1.2]; exact h.2⟩

/-- The earlier bytes stay where there is no later one. -/
theorem SbEntry.joined_has_old (hl : n.line = e.line) (h : e.Has a v) (hn : ¬n.Touches a) : (e.joined n).Has a v :=
  ⟨(joined_touches hl).2 (.inl h.1), by rw [joined_byte, if_neg fun hm => hn ⟨hl.trans h.1.1, hm⟩]; exact h.2⟩

end

/-- Entries with one more: one of its line takes its bytes, or it stands last (R509). -/
def mergeEntry (es : List SbEntry) (n : SbEntry) : List SbEntry :=
  if n.mtype = .wb ∧ (es.any fun e => e.line == n.line && e.mtype == .wb) then
    es.map fun e => if e.line = n.line ∧ e.mtype = .wb then e.joined n else e
  else es ++ [n]

/-- Entries of write-back memory. -/
def AllWb (es : List SbEntry) : Prop := ∀ e ∈ es, e.mtype = .wb

theorem AllWb.cons_iff {e : SbEntry} {es : List SbEntry} : AllWb (e :: es) ↔ e.mtype = .wb ∧ AllWb es := List.forall_mem_cons

section
variable {es : List SbEntry} {n : SbEntry}

/-- Whose bytes the entries hold once one more came: its own, or theirs where they are of another line or have its bytes over them. -/
theorem mergeEntry_cases (hes : AllWb es) (hn : n.mtype = .wb) :
    (∃ e ∈ es, e.line = n.line) ∧ mergeEntry es n = es.map (fun e => if e.line = n.line then e.joined n else e) ∨
      (∀ e ∈ es, e.line ≠ n.line) ∧ mergeEntry es n = es ++ [n] := by
  unfold mergeEntry
  by_cases h : ∃ e ∈ es, e.line = n.line
  · left
    obtain ⟨e, he, hl⟩ := h
    refine ⟨⟨e, he, hl⟩, ?_⟩
    rw [if_pos ⟨hn, List.any_eq_true.2 ⟨e, he, by simp [hl, hes e he]⟩⟩]
    exact List.map_congr_left fun x hx => if_congr (and_iff_left (hes x hx)) rfl rfl
  · right
    refine ⟨fun e he hl => h ⟨e, he, hl⟩, if_neg fun hc => ?_⟩
    obtain ⟨e, he, hl⟩ := List.any_eq_true.1 hc.2
    rw [Bool.and_eq_true, beq_iff_eq] at hl
    exact h ⟨e, he, hl.1⟩

theorem mergeEntry_wb (hes : AllWb es) (hn : n.mtype = .wb) : AllWb (mergeEntry es n) := by
  rcases mergeEntry_cases hes hn with ⟨-, h⟩ | ⟨-, h⟩
  · rw [h]
    intro x hx
    obtain ⟨e, he, rfl⟩ := List.mem_map.1 hx
    rw [apply_ite SbEntry.mtype]
    exact (ite_self _).trans (hes e he)
  · rw [h]
    intro x hx
    rcases List.mem_append.1 hx with hx | hx
    · exact hes x hx
    · rw [List.mem_singleton.1 hx, hn]

theorem mergeEntry_has_new (hes : AllWb es) (hn : n.mtype = .wb) {a : Nat} {v : Byte} (hv : n.Has a v) : ∃ e ∈ mergeEntry es n, e.Has a v := by
  rcases mergeEntry_cases hes hn with ⟨⟨e, he, hl⟩, h⟩ | ⟨-, h⟩
  · refine ⟨e.joined n, ?_, SbEntry.joined_has_new hl.symm hv⟩
    rw [h]
    exact List.mem_map.2 ⟨e, he, if_pos hl⟩
  · exact ⟨n, by rw [h]; exact List.mem_append_right _ (List.mem_singleton_self n), hv⟩

theorem mergeEntry_has_old (hes : AllWb es) (hn : n.mtype = .wb) {a : Nat} {v : Byte} (hv : ∃ e ∈ es, e.Has a v) (ha : ¬n.Touches a) :
    ∃ e ∈ mergeEntry es n, e.Has a v := by
  obtain ⟨e, he, hv⟩ := hv
  rcases mergeEntry_cases hes hn with ⟨-, h⟩ | ⟨-, h⟩
  · refine ⟨_, by rw [h]; exact List.mem_map_of_mem he, ?_⟩
    split
    · exact SbEntry.joined_has_old (Eq.symm ‹_›) hv ha
    · exact hv
  · exact ⟨e, by rw [h]; exact List.mem_append_left _ he, hv⟩

theorem mergeEntry_touches (hes : AllWb es) (hn : n.mtype = .wb) {a : Nat} (h : ∃ e ∈ mergeEntry es n, e.Touches a) :
    n.Touches a ∨ ∃ e ∈ es, e.Touches a := by
  obtain ⟨x, hx, ha⟩ := h
  rcases mergeEntry_cases hes hn with ⟨-, h⟩ | ⟨-, h⟩
  · rw [h] at hx
    obtain ⟨e, he, rfl⟩ := List.mem_map.1 hx
    split at ha
    · exact ((SbEntry.joined_touches (Eq.symm ‹_›)).1 ha).symm.imp_right fun h => ⟨e, he, h⟩
    · exact .inr ⟨e, he, ha⟩
  · rw [h] at hx
    rcases List.mem_append.1 hx with hx | hx
    · exact .inr ⟨x, hx, ha⟩
    · exact .inl (List.mem_singleton.1 hx ▸ ha)

end

section
variable {es ns : List SbEntry}

theorem mergeAll_wb (hes : AllWb es) (hns : AllWb ns) : AllWb (ns.foldl mergeEntry es) := by
  induction ns generalizing es with
  | nil => exact hes
  | cons n r ih =>
    obtain ⟨hn, hr⟩ := AllWb.cons_iff.1 hns
    exact ih (mergeEntry_wb hes hn) hr

theorem mergeAll_has (hes : AllWb es) (hns : AllWb ns) {a : Nat} {v : Byte} (hv : ∃ e ∈ es, e.Has a v) (ha : ∀ n ∈ ns, ¬n.Touches a) :
    ∃ e ∈ ns.foldl mergeEntry es, e.Has a v := by
  induction ns generalizing es with
  | nil => exact hv
  | cons n r ih =>
    obtain ⟨hn, hr⟩ := AllWb.cons_iff.1 hns
    exact ih (mergeEntry_wb hes hn) hr (mergeEntry_has_old hes hn hv (ha n List.mem_cons_self)) fun m hm => ha m (List.mem_cons_of_mem n hm)

/-- The last entry with a byte gives it its value. -/
theorem mergeAll_last {pre post : List SbEntry} {n : SbEntry} (hns : AllWb (pre ++ n :: post)) {a : Nat} {v : Byte} (hv : n.Has a v)
    (ha : ∀ m ∈ post, ¬m.Touches a) : ∃ e ∈ (pre ++ n :: post).foldl mergeEntry [], e.Has a v := by
  have hpre := mergeAll_wb (es := []) (fun _ h => absurd h List.not_mem_nil) fun m hm => hns m (List.mem_append_left _ hm)
  obtain ⟨hn, hpost⟩ := AllWb.cons_iff.1 fun m hm => hns m (List.mem_append_right pre hm)
  rw [List.foldl_append, List.foldl_cons]
  exact mergeAll_has (mergeEntry_wb hpre hn) hpost (mergeEntry_has_new hpre hn hv) ha

/-- Entries hold no byte but those of the entries that came. -/
theorem mergeAll_touches (hes : AllWb es) (hns : AllWb ns) {a : Nat} (h : ∃ e ∈ ns.foldl mergeEntry es, e.Touches a) :
    (∃ n ∈ ns, n.Touches a) ∨ ∃ e ∈ es, e.Touches a := by
  induction ns generalizing es with
  | nil => exact .inr h
  | cons n r ih =>
    obtain ⟨hn, hr⟩ := AllWb.cons_iff.1 hns
    rcases ih (mergeEntry_wb hes hn) hr h with ⟨m, hm, ha⟩ | h
    · exact .inl ⟨m, List.mem_cons_of_mem n hm, ha⟩
    · exact (mergeEntry_touches hes hn h).imp_left fun h => ⟨n, List.mem_cons_self, h⟩

end

section
variable {e : SbEntry} {ns : List SbEntry}

/-- Entries of one line joined hold the bytes of each. -/
theorem joinAll_touches (hl : ∀ n ∈ ns, n.line = e.line) (a : Nat) :
    (ns.foldl SbEntry.joined e).Touches a ↔ ∃ n ∈ e :: ns, n.Touches a := by
  induction ns generalizing e with
  | nil => exact ⟨fun h => ⟨e, List.mem_cons_self, h⟩, fun ⟨n, hn, h⟩ => List.mem_singleton.1 hn ▸ h⟩
  | cons n r ih =>
    obtain ⟨hn, hr⟩ := List.forall_mem_cons.1 hl
    rw [List.foldl_cons, ih (e := e.joined n) hr]
    simp only [List.exists_mem_cons_iff, SbEntry.joined_touches hn, or_assoc]

/-- Entries that take their bytes from one source hold the source's. -/
theorem joinAll_has {F : Nat → Byte} (hl : ∀ n ∈ ns, n.line = e.line) (hF : ∀ n ∈ e :: ns, ∀ a, n.Touches a → n.Has a (F a)) {a : Nat}
    (ha : (ns.foldl SbEntry.joined e).Touches a) : (ns.foldl SbEntry.joined e).Has a (F a) := by
  induction ns generalizing e with
  | nil => exact hF e List.mem_cons_self a ha
  | cons n r ih =>
    obtain ⟨hn, hr⟩ := List.forall_mem_cons.1 hl
    obtain ⟨he, hF'⟩ := List.forall_mem_cons.1 hF
    obtain ⟨hFn, hFr⟩ := List.forall_mem_cons.1 hF'
    refine ih (e := e.joined n) hr (List.forall_mem_cons.2 ⟨fun a ha => ?_, hFr⟩) ha
    by_cases hna : n.Touches a
    · exact SbEntry.joined_has_new hn (hFn a hna)
    · exact SbEntry.joined_has_old hn (he a (((SbEntry.joined_touches hn).1 ha).resolve_right hna)) hna

end

/-- An entry of write-back memory with n bytes of a register from byte so on. -/
def bytesEntry (src : Vec) (k : SbKind) (acc : Acc) (ord : Nat) (pa : Word) (tg : Target) (so n : Nat) : SbEntry :=
  mkEntry pa .wb (vbytes src so n) false k acc tg ord

section
variable {src : Vec} {k : SbKind} {acc : Acc} {ord : Nat} {pa : Word} {tg : Target} {so n : Nat}

theorem bytesEntry_touches (hfit : pa.toNat % 64 + n ≤ 64) (a : Nat) :
    (bytesEntry src k acc ord pa tg so n).Touches a ↔ pa.toNat ≤ a ∧ a < pa.toNat + n := by
  unfold SbEntry.Touches bytesEntry mkEntry lineNo
  dsimp only
  rw [vbytes_length, maskOf_getLsbD]
  simp only [Bool.and_eq_true, decide_eq_true_eq]
  omega

theorem bytesEntry_has (hfit : pa.toNat % 64 + n ≤ 64) {a : Nat} (ha : (bytesEntry src k acc ord pa tg so n).Touches a) :
    (bytesEntry src k acc ord pa tg so n).Has a (vbyte src (so + (a - pa.toNat))) := by
  refine ⟨ha, ?_⟩
  obtain ⟨h1, h2⟩ := (bytesEntry_touches hfit a).1 ha
  unfold bytesEntry mkEntry
  dsimp only
  rw [vbyte_vput_vbytes src hfit (by omega) (by omega), show a % 64 - pa.toNat % 64 = a - pa.toNat by omega]

end

end Sys2Proof.Machine

namespace Sys2Proof.Machine

open Sys2Proof.Safety Sys2Proof.Claims

/-! ### Where the bytes of vector stores stand (R81 to R83, R119, R509) -/

/-- The entries hold each active element's bytes, the highest element's where several have one, and no other byte. -/
def Placed (k n : Nat) (mask : Word) (src : Vec) (pa : Nat → Word) (es : List SbEntry) : Prop :=
  let act := fun j => j < n ∧ mask.getLsbD j = true
  let at_ := fun j i => (pa j).toNat + i
  (∀ j i, act j → i < k → (∀ m, act m → j < m → ∀ l, l < k → at_ m l ≠ at_ j i) →
    ∃ e ∈ es, e.Has (at_ j i) (vbyte src (j * k + i))) ∧
  ∀ a, (∃ e ∈ es, e.Touches a) → ∃ j i, act j ∧ i < k ∧ at_ j i = a

/-- The entry of an aligned element. -/
def elemEntry (src : Vec) (kd : SbKind) (acc : Acc) (ord : Nat) (pa : Nat → Word) (tg : Nat → Target) (k j : Nat) : SbEntry :=
  bytesEntry src kd acc ord (pa j) (tg j) (j * k) k

/-- Elements at addresses of their own, one after another. -/
theorem placed_elems {k n : Nat} (hf : Fills k n) {mask : Word} {src : Vec} {kd : SbKind} {acc : Acc} {ord : Nat} {pa : Nat → Word}
    {tg : Nat → Target} (hal : ∀ j ∈ activeElems n mask, (pa j).toNat % k = 0) :
    Placed k n mask src pa (((activeElems n mask).map (elemEntry src kd acc ord pa tg k)).foldl mergeEntry []) := by
  have hwb (l : List Nat) : AllWb (l.map (elemEntry src kd acc ord pa tg k)) := by
    intro e he
    obtain ⟨j, -, rfl⟩ := List.mem_map.1 he
    rfl
  have htouch {j : Nat} (hj : j ∈ activeElems n mask) (a : Nat) :
      (elemEntry src kd acc ord pa tg k j).Touches a ↔ (pa j).toNat ≤ a ∧ a < (pa j).toNat + k := bytesEntry_touches (hf.fits (hal j hj)) a
  refine ⟨fun j i hj hi hlast => ?_, fun a ha => ?_⟩
  · have hmem := mem_activeElems.2 hj
    obtain ⟨pre, post, hsplit⟩ := List.append_of_mem hmem
    have hsorted : (activeElems n mask).Pairwise (· < ·) := List.Pairwise.filter _ List.pairwise_lt_range
    have hhas : (elemEntry src kd acc ord pa tg k j).Has ((pa j).toNat + i) (vbyte src (j * k + i)) := by
      have h := bytesEntry_has (src := src) (k := kd) (acc := acc) (ord := ord) (tg := tg j) (so := j * k) (hf.fits (hal j hmem))
        ((htouch hmem _).2 ⟨Nat.le_add_right _ i, by omega⟩)
      rwa [Nat.add_sub_cancel_left] at h
    rw [hsplit, List.map_append, List.map_cons]
    refine mergeAll_last ?_ hhas fun e he hc => ?_
    · have h := hwb (pre ++ j :: post)
      rwa [List.map_append, List.map_cons] at h
    · obtain ⟨m, hm, rfl⟩ := List.mem_map.1 he
      have hmmem : m ∈ activeElems n mask := by
        rw [hsplit]
        exact List.mem_append_right _ (List.mem_cons_of_mem j hm)
      have hlt : j < m := by
        rw [hsplit] at hsorted
        exact (List.pairwise_cons.1 (List.pairwise_append.1 hsorted).2.1).1 m hm
      obtain ⟨h1, h2⟩ := (htouch hmmem _).1 hc
      dsimp only at h1 h2
      exact hlast m (mem_activeElems.1 hmmem) hlt ((pa j).toNat + i - (pa m).toNat) (by omega) (by dsimp only; omega)
  · rcases mergeAll_touches (fun _ h => absurd h List.not_mem_nil) (hwb _) ha with ⟨e, he, ha⟩ | ⟨e, he, -⟩
    · obtain ⟨j, hj, rfl⟩ := List.mem_map.1 he
      obtain ⟨h1, h2⟩ := (htouch hj a).1 ha
      exact ⟨j, a - (pa j).toNat, mem_activeElems.1 hj, by omega, by dsimp only; omega⟩
    · exact absurd he List.not_mem_nil

/-- The entry of a run of a line. -/
def runEntry (src : Vec) (kd : SbKind) (acc : Acc) (ord : Nat) (pa : Word) (tg : Target) (r : Nat × Nat) : SbEntry :=
  bytesEntry src kd acc ord (pa + w64 r.1) tg r.1 r.2

/-- The entries of the runs of a line: one with all their bytes, if there is a run. -/
def joinRuns (ns : List SbEntry) : List SbEntry :=
  match ns with
  | e :: r => [r.foldl SbEntry.joined e]
  | [] => []

theorem joinRuns_spec {ns : List SbEntry} {line : Nat} {F : Nat → Byte} (hl : ∀ e ∈ ns, e.line = line)
    (hF : ∀ e ∈ ns, ∀ a, e.Touches a → e.Has a (F a)) (a : Nat) :
    ((∃ e ∈ joinRuns ns, e.Touches a) ↔ ∃ e ∈ ns, e.Touches a) ∧ ((∃ e ∈ ns, e.Touches a) → ∃ e ∈ joinRuns ns, e.Has a (F a)) := by
  cases ns with
  | nil => exact ⟨Iff.rfl, fun ⟨e, he, _⟩ => absurd he List.not_mem_nil⟩
  | cons e r =>
    obtain ⟨he, hr⟩ := List.forall_mem_cons.1 hl
    have hline : ∀ n ∈ r, n.line = e.line := fun n hn => (hr n hn).trans he.symm
    have htouch := joinAll_touches hline a
    unfold joinRuns
    refine ⟨⟨fun ⟨x, hx, h⟩ => htouch.1 (List.mem_singleton.1 hx ▸ h), fun h => ⟨_, List.mem_singleton_self _, htouch.2 h⟩⟩, fun h => ?_⟩
    exact ⟨_, List.mem_singleton_self _, joinAll_has hline hF (htouch.2 h)⟩

/-- The active bytes of an aligned line. -/
theorem placed_line {k n : Nat} (hf : Fills k n) {mask : Word} {src : Vec} {kd : SbKind} {acc : Acc} {ord : Nat} {pa : Nat → Word} {tg : Target}
    (hal : (pa 0).toNat % 64 = 0) (hpa : ∀ j, pa j = pa 0 + w64 (j * k)) :
    Placed k n mask src pa (joinRuns ((activeRuns k mask 0 64).map (runEntry src kd acc ord (pa 0) tg))) := by
  obtain ⟨hle, hcov⟩ := activeRuns_cover k mask 0 64
  have hlt {r : Nat × Nat} (hr : r ∈ activeRuns k mask 0 64) : r.1 < 64 := by
    have := hle r hr
    have := activeRuns_pos r hr
    omega
  have hfit {r : Nat × Nat} (hr : r ∈ activeRuns k mask 0 64) : (pa 0 + w64 r.1).toNat % 64 + r.2 ≤ 64 := by
    rw [mod_offset hal (hlt hr)]
    exact hle r hr
  have htouch {r : Nat × Nat} (hr : r ∈ activeRuns k mask 0 64) (a : Nat) :
      (runEntry src kd acc ord (pa 0) tg r).Touches a ↔ (pa 0).toNat ≤ a ∧ Covers r (a - (pa 0).toNat) := by
    unfold runEntry Covers
    rw [bytesEntry_touches (hfit hr), add_offset hal (hlt hr)]
    omega
  have hspec := joinRuns_spec (ns := (activeRuns k mask 0 64).map (runEntry src kd acc ord (pa 0) tg)) (line := lineNo (pa 0))
    (F := fun a => vbyte src (a - (pa 0).toNat))
    (fun e he => by
      obtain ⟨r, hr, rfl⟩ := List.mem_map.1 he
      exact lineNo_offset hal (hlt hr))
    (fun e he a ha => by
      obtain ⟨r, hr, rfl⟩ := List.mem_map.1 he
      have h := bytesEntry_has (hfit hr) ha
      have hge := (htouch hr a).1 ha
      unfold Covers at hge
      rwa [add_offset hal (hlt hr), show r.1 + (a - ((pa 0).toNat + r.1)) = a - (pa 0).toNat by omega] at h)
  have hruns (a : Nat) : (∃ e ∈ (activeRuns k mask 0 64).map (runEntry src kd acc ord (pa 0) tg), e.Touches a) ↔
      (pa 0).toNat ≤ a ∧ a - (pa 0).toNat < 64 ∧ mask.getLsbD ((a - (pa 0).toNat) / k) = true := by
    have h := hcov (a - (pa 0).toNat)
    dsimp only at h
    rw [Nat.zero_add] at h
    unfold active at h
    rw [← h]
    constructor
    · rintro ⟨e, he, ha⟩
      obtain ⟨r, hr, rfl⟩ := List.mem_map.1 he
      obtain ⟨hge, hc⟩ := (htouch hr a).1 ha
      exact ⟨hge, r, hr, hc⟩
    · exact fun ⟨hge, r, hr, hc⟩ => ⟨_, List.mem_map_of_mem hr, (htouch hr a).2 ⟨hge, hc⟩⟩
  have hat {j : Nat} (hj : j < n) : (pa j).toNat = (pa 0).toNat + j * k := by
    have := hf.elem_le hj
    have := hf.pos
    rw [hpa j]
    exact add_offset hal (by omega)
  refine ⟨fun j i hj hi _ => ?_, fun a ha => ?_⟩
  · dsimp only
    have hdiff : (pa j).toNat + i - (pa 0).toNat = j * k + i := by rw [hat hj.1]; omega
    have h := (hspec ((pa j).toNat + i)).2 ((hruns _).2 ⟨by rw [hat hj.1]; omega, ?_⟩)
    · rwa [hdiff] at h
    · have := hf.elem_le hj.1
      rw [hdiff]
      refine ⟨by omega, ?_⟩
      rw [Nat.mul_comm, Nat.mul_add_div hf.pos, Nat.div_eq_of_lt hi, Nat.add_zero]
      exact hj.2
  · obtain ⟨hge, hlt, hm⟩ := (hruns a).1 ((hspec a).1.1 ha)
    have hj : (a - (pa 0).toNat) / k < n := by
      rw [Nat.div_lt_iff_lt_mul hf.pos, hf.eq]
      exact hlt
    refine ⟨(a - (pa 0).toNat) / k, (a - (pa 0).toNat) % k, ⟨hj, hm⟩, Nat.mod_lt _ hf.pos, ?_⟩
    dsimp only
    rw [hat hj]
    have := Nat.div_add_mod' (a - (pa 0).toNat) k
    omega

end Sys2Proof.Machine

namespace Sys2Proof.Machine

open Sys2Proof.Safety Sys2Proof.Claims

/-! ### Vector stores as they issue (R81 to R84, R509) -/

/-- The entry or entries of a piece of a vector store: those of its runs, joined. -/
def pieceEntries (src : Vec) (k : SbKind) (acc : Acc) (ord : Nat) (p : VPiece × Piece) : List SbEntry :=
  joinRuns (p.1.runs.map fun r => mkEntry (p.2.pa + w64 r.1) p.2.mt (vbytes src (p.1.off + r.1) r.2) false k acc p.2.tg ord)

theorem vecEntries_eq (src : Vec) (k : SbKind) (acc : Acc) (ord : Nat) (cs : List (VPiece × Piece)) :
    vecEntries src k acc ord cs = (cs.flatMap (pieceEntries src k acc ord)).foldl mergeEntry [] := rfl

theorem vecEntries_elems (src : Vec) (kd : SbKind) (acc : Acc) (ord : Nat) (addr pa : Nat → Word) (tg : Nat → Target) (k : Nat) (l : List Nat) :
    vecEntries src kd acc ord (l.map fun j => (elemPiece addr k j, ⟨pa j, .wb, tg j, k, j * k⟩)) =
      (l.map (elemEntry src kd acc ord pa tg k)).foldl mergeEntry [] := by
  rw [vecEntries_eq, List.flatMap_map, List.map_eq_flatMap]
  congr 1
  refine List.flatMap_congr fun j _ => ?_
  unfold pieceEntries elemPiece elemEntry bytesEntry
  dsimp only
  rw [List.map_singleton, add_w64_zero, Nat.add_zero]
  rfl

theorem mergeEntry_nil (n : SbEntry) : mergeEntry [] n = [n] := if_neg fun h => Bool.false_ne_true h.2

theorem vecEntries_line (src : Vec) (kd : SbKind) (acc : Acc) (ord : Nat) (va pa : Word) (tg : Target) (runs : List (Nat × Nat)) :
    vecEntries src kd acc ord (linePieces va pa tg runs) = joinRuns (runs.map (runEntry src kd acc ord pa tg)) := by
  rw [vecEntries_eq]
  unfold linePieces
  cases runs with
  | nil => rfl
  | cons r rs =>
    have hruns : pieceEntries src kd acc ord (⟨va, 64, 0, false, r :: rs⟩, ⟨pa, .wb, tg, 64, 0⟩) =
        joinRuns ((r :: rs).map (runEntry src kd acc ord pa tg)) := by
      unfold pieceEntries runEntry bytesEntry
      dsimp only
      simp only [Nat.zero_add]
    rw [if_neg (by simp), List.flatMap_singleton, hruns]
    exact mergeEntry_nil _

/-- A vector store's entries stand behind those of the store buffer; it has completed (R509). -/
def VecPushed (t : Nat) (es : List SbEntry) (s u : State) : Prop :=
  let a := (s.hw.thread t).a
  let b := (u.hw.thread t).a
  OnlyThread t s u ∧ b.g = a.g ∧ b.pc = pcAfter a ∧ KeepsRest a b ∧
    (u.hw.thread t).b.sb ++ (u.hw.thread t).b.vstWait = (s.hw.thread t).b.sb ++ es

theorem vecBuffered_of_pushed {t : Nat} {ew : BitVec 2} {mask : Word} {src : Vec} {pa : Nat → Word} {es : List SbEntry} {s u : State}
    (h : VecPushed t es s u) (hp : Placed (ewBytes ew) (ewCount ew) mask src pa es) :
    VecBuffered t (ewBits ew) (512 / ewBits ew) mask src pa s u := by
  obtain ⟨honly, hg, hpc, hrest, hsb⟩ := h
  obtain ⟨hhas, htouch⟩ := hp
  unfold VecBuffered
  rw [ewBits_count, ewBytes_eq]
  refine ⟨honly, hg, hpc, hrest, es, hsb, fun j i hj hi hlast => ?_, fun e he p hp hm => ?_⟩
  · obtain ⟨e, he, ⟨hline, hmask⟩, hbyte⟩ := hhas j i hj hi hlast
    exact ⟨e, he, hline, hmask, (congrArg BitVec.toNat hbyte).trans (vbyte_elem src j hi)⟩
  · refine htouch (64 * e.line + p) ⟨e, he, ?_, ?_⟩
    · omega
    · rwa [Nat.mul_add_mod, Nat.mod_eq_of_lt hp]

/-- A vector store whose pieces pass as write-back memory (R83, R509). -/
theorem vecStore_pushed {t : Nat} {vs : Reg} {srcs : List Dest} {mk : BitVec 3} {devOk : Bool} {kd : SbKind} {ps : List VPiece}
    {cs : List (VPiece × Piece)} {s : State} (hready : s.hw.ready t ([Dest.v vs.toNat] ++ srcs ++ maskSrc mk) .memLong = true)
    (hen : (s.hw.thread t).a.vecDisabled = none) (hroom : (s.hw.thread t).b.sb.length ≤ 14)
    (hc : vecCheck s.mem s.hw t .store devOk ps = (.ok [], cs)) (hwb : ∀ c ∈ cs, c.2.mt = .wb) :
    VecPushed t (vecEntries ((s.hw.thread t).a.rv vs) kd (s.hw.thread t).acc (s.hw.thread t).b.fresh cs) s
      { s with hw := s.hw.vecStore s.mem t vs srcs mk false devOk kd ps } := by
  have hfree : ¬(s.hw.thread t).b.sbFree < 2 := by
    unfold Back.sbFree
    omega
  have hwait : (cs.any fun p => (s.hw.thread t).b.deviceWaits p.2.mt) = false := by
    rw [List.any_eq_false]
    intro c hc
    rw [hwb c hc]
    exact Bool.false_ne_true
  unfold Hw.vecStore
  rw [srcM_eq, if_neg (by rw [hready, decide_eq_false hfree]; decide)]
  dsimp only
  rw [if_neg (by decide), hen]
  dsimp only
  rw [hc]
  dsimp only
  rw [if_neg (by rw [hwait]; decide)]
  obtain ⟨hg, hpc, -, hrest⟩ := (s.hw.thread t).a.done_seq
  unfold VecPushed Hw.updBack
  refine ⟨onlyThread_complete (onlyThread_then (onlyThread_updThread t s _)) .seq, ?_⟩
  dsimp only
  rw [Hw.complete_thread, Hw.thread_updThread_same]
  refine ⟨hg, hpc, hrest, ?_⟩
  unfold Thread.done
  dsimp only
  rw [List.append_assoc, List.take_append_drop]

/-- A vector store of aligned elements. -/
theorem vecBuffered_elems {t : Nat} {vs : Reg} {srcs : List Dest} {mk : BitVec 3} {ew : BitVec 2} {addr pa : Nat → Word} {kd : SbKind} {s : State}
    (hready : s.hw.ready t ([Dest.v vs.toNat] ++ srcs ++ maskSrc mk) .memLong = true) (hen : (s.hw.thread t).a.vecDisabled = none)
    (hroom : (s.hw.thread t).b.sb.length ≤ 14)
    (hst : ∀ j, j < ewCount ew → ((s.hw.thread t).a.rm mk.toNat).getLsbD j = true → (addr j).toNat % ewBytes ew = 0 ∧
      ∃ tg, x2One s.mem s.hw t ⟨.store, ewBytes ew, false, false, false, false⟩ (addr j) (ewBytes ew) (j * ewBytes ew) =
        .ok [⟨pa j, .wb, tg, ewBytes ew, j * ewBytes ew⟩]) :
    VecBuffered t (ewBits ew) (512 / ewBits ew) ((s.hw.thread t).a.rm mk.toNat) ((s.hw.thread t).a.rv vs) pa s
      { s with hw := s.hw.vecStore s.mem t vs srcs mk false false kd (piecesEl addr (ewBytes ew) (ewCount ew) ((s.hw.thread t).a.rm mk.toNat)) } := by
  rw [piecesEl_eq fun j hj hm => (hst j hj hm).1]
  have hdvd : ewBytes ew ∣ 4096 := ⟨ewCount ew * 64, by rw [← Nat.mul_assoc, Nat.mul_comm (ewBytes ew), ewCount_mul_bytes]⟩
  have hal : ∀ j ∈ activeElems (ewCount ew) ((s.hw.thread t).a.rm mk.toNat), (pa j).toNat % ewBytes ew = 0 := by
    intro j hj
    obtain ⟨hn, hm⟩ := mem_activeElems.1 hj
    obtain ⟨h0, tg, hx⟩ := hst j hn hm
    have h := x2One_mod hx
    dsimp only at h
    rw [← Nat.mod_mod_of_dvd _ hdvd, h, Nat.mod_mod_of_dvd _ hdvd, h0]
  obtain ⟨tg, -, hc⟩ := vecCheck_elems (pa := pa) (P := fun _ => True) fun j hj hm => (hst j hj hm).2.imp fun _ h => ⟨h, trivial⟩
  refine vecBuffered_of_pushed (vecStore_pushed hready hen hroom hc fun c hc => ?_) ?_
  · obtain ⟨j, -, rfl⟩ := List.mem_map.1 hc
    rfl
  · rw [vecEntries_elems]
    exact placed_elems (Fills.of_ew ew) hal

/-- A vector store of a whole aligned line. -/
theorem vecBuffered_line {t : Nat} {vs : Reg} {srcs : List Dest} {mk : BitVec 3} {ew : BitVec 2} {va : Word} {pa : Nat → Word} {devOk : Bool}
    {kd : SbKind} {tg : Target} {s : State} (hready : s.hw.ready t ([Dest.v vs.toNat] ++ srcs ++ maskSrc mk) .memLong = true)
    (hen : (s.hw.thread t).a.vecDisabled = none) (hroom : (s.hw.thread t).b.sb.length ≤ 14) (hal : va.toNat % 64 = 0)
    (hpa : ∀ j, pa j = pa 0 + w64 (j * ewBytes ew))
    (hx : x2One s.mem s.hw t ⟨.store, 64, false, devOk, false, false⟩ va 64 0 = .ok [⟨pa 0, .wb, tg, 64, 0⟩]) :
    VecBuffered t (ewBits ew) (512 / ewBits ew) ((s.hw.thread t).a.rm mk.toNat) ((s.hw.thread t).a.rv vs) pa s
      { s with hw := s.hw.vecStore s.mem t vs srcs mk false devOk kd (piecesVL va (ewBytes ew) ((s.hw.thread t).a.rm mk.toNat)) } := by
  have hpal : (pa 0).toNat % 64 = 0 := by
    have := x2One_mod hx
    dsimp only at this
    omega
  refine vecBuffered_of_pushed (vecStore_pushed hready hen hroom (vecCheck_line hal hx) fun c hc => ?_) ?_
  · unfold linePieces at hc
    split at hc
    · exact absurd hc List.not_mem_nil
    · rw [List.mem_singleton.1 hc]
  · rw [vecEntries_line]
    exact placed_line (Fills.of_ew ew) hpal hpa

/-! ### The instructions -/

/-- Whether a whole aligned line may lie in Device memory (R84). -/
theorem vecDevOk_aligned {va : Word} (hal : va.toNat % 64 = 0) (mk : BitVec 3) : vecDevOk va mk true = decide (mk.toNat = 0) := by
  unfold vecDevOk
  rw [Bool.true_and, decide_eq_true hal, Bool.and_true]
  exact decide_eq_decide.2 (mask_eq_zero mk)

/-- Settles O19: a load is the fold of its parts' newest bytes, a store the join of its runs' entries, each read off byte by byte. -/
theorem vectorMemory : Obligations.VectorMemory := by
  unfold Obligations.VectorMemory
  intro t v ra rb mk ew sc s pa hoff
  dsimp only
  rw [ewBytes_eq]
  refine ⟨fun hal hpa => ⟨fun ho hhit => ?_, fun ho hroom tg hx => ?_⟩, fun ho h => ?_, fun ho h => ?_, fun ho hroom h => ?_,
    fun hew ho h => ?_, fun hew ho hroom h => ?_⟩
  · rw [← vecDevOk_aligned hal mk] at hhit
    exact Answers.of_onHw hoff rfl (vecLoaded_line ho.1 ho.2 hal hpa hhit)
  · rw [← vecDevOk_aligned hal mk] at hx
    exact Answers.of_onHw hoff rfl (vecBuffered_line ho.1 ho.2 hroom hal hpa hx)
  all_goals rw [ewBits_count] at h
  · have hps := piecesB_eq (Fills.of_ew ew) fun j hj hm => (h j hj hm).1
    exact Answers.of_onHw hoff rfl (vecLoaded_elems ho.1 ho.2 hps fun j hj hm => (h j hj hm).2)
  · exact Answers.of_onHw hoff rfl (vecLoaded_piecesEl ho.1 ho.2 h)
  · exact Answers.of_onHw hoff rfl (vecBuffered_elems ho.1 ho.2 hroom h)
  · refine Answers.of_onHw hoff rfl ?_
    dsimp only
    rw [decide_eq_false (Nat.not_lt.2 hew)]
    simp only [← gatherAddr_eq] at h
    exact vecLoaded_piecesEl ho.1 ho.2 h
  · refine Answers.of_onHw hoff rfl ?_
    dsimp only
    rw [decide_eq_false (Nat.not_lt.2 hew)]
    simp only [← gatherAddr_eq] at h
    exact vecBuffered_elems ho.1 ho.2 hroom h

end Sys2Proof.Machine
